-- ==== Sys2Proof/Word.lean ====
section
/-!
DEFINITION. The word types of the NZV-512 and their plainest arithmetic (00_scope R3: bit 0 is the least
significant bit, everything is little-endian).
-/
namespace Sys2Proof

/-- A 32-bit register or instruction word (02_execution R26). -/
abbrev Word := BitVec 32

/-- One byte of memory. -/
abbrev Byte := BitVec 8

/-- A 64-bit virtual address or register pair (07_memory R122). -/
abbrev Addr := BitVec 64

/-- One 128-byte line (07_memory R123). -/
abbrev Line := BitVec 1024

/-- The low and the high word of a pair: the even register holds the low half (00_scope R3). -/
def pairOf (lo hi : Word) : Addr := hi ++ lo

end Sys2Proof
end

