-- ==== Sys2Proof/Syntax.lean ====
section
/-!
DEFINITION. The steps of the part as syntax: one constructor of `Instr` per row of spec/opcode_table.json.
The encoded rows (05_encoding R94, 22_ref to 25_ref) hold the fields of their format; the rows without an
encoding are the part's events (95_what_each_step_holds) and hold whom the event concerns and what the
outside supplies with it.
-/
namespace Sys2Proof

/-! ## Names of the parts of the machine -/

/-- A core: virtual die number and `%core` = 8y + x (02_execution Table 2.8). -/
structure CoreId where
  die : Fin 8
  num : Fin 64
deriving DecidableEq, Repr

/-- A resident team: its core and its team slot (03_selector R40). -/
structure TeamId where
  core : CoreId
  slot : Fin 64
deriving DecidableEq, Repr

/-- A thread: its team and its index within the team (02_execution Table 2.8). -/
structure ThreadId where
  team : TeamId
  tid : Nat
deriving DecidableEq, Repr

/-- One of the four issue pipes of a core (03_selector R45). -/
structure PipeId where
  core : CoreId
  num : Fin 4
deriving DecidableEq, Repr

/-- A cache that can hold a tracked line: an L1 or an L2 slice, by PHYSICAL compute die
(08_coherence R151, R152). -/
inductive CacheId where
  | l1 (die : Fin 8) (core : Fin 64)
  | l2 (die : Fin 8) (slice : Fin 16)
deriving DecidableEq, Repr

/-- The two memories behind the caches: pool memory and host memory (07_memory R122, R124). -/
inductive Backing where
  | pool
  | host
deriving DecidableEq, Repr

/-- A 128-byte line of one backing memory; `num` is the physical address divided by 128. -/
structure LineId where
  mem : Backing
  num : Nat
deriving DecidableEq, Repr

/-! ## Operand fields and shared codes -/

/-- A 7-bit operand field (05_encoding R76): lane temporary, kept register, inline constant, reserved code. -/
inductive Opnd where
  | t (n : BitVec 5)
  | k (n : BitVec 6)
  | c (n : BitVec 4)
  | r (n : BitVec 4)
deriving DecidableEq, Repr

/-- Width code of AND, OR, XOR, BREV, CLZ, POPC, IADD, ISUB, the shifts and ICMP (22_ref R299). -/
inductive Width where
  | w32
  | w64
deriving DecidableEq, Repr

/-- Width and signedness of IDIV, IREM, IMIN, IMAX, BFX and IMAD (23_ref Table 23.5). -/
inductive IntType where
  | i32
  | n32
  | i64
  | n64
deriving DecidableEq, Repr

/-- M code of IMUL (23_ref Table 23.5). -/
inductive MulForm where
  | b32
  | b64
  | hiI32
  | hiN32
deriving DecidableEq, Repr

/-- Register extent of MOV and SEL (24_ref R400, 25_ref R437). -/
inductive MovWidth where
  | b32
  | b64
  | b128
deriving DecidableEq, Repr

/-- Rounding codes (05_encoding Table 5.4). -/
inductive Rnd where
  | rn
  | rz
  | ru
  | rd
deriving DecidableEq, Repr

/-- Format codes 0x0 to 0xD (05_encoding Table 5.9). -/
inductive Fmt where
  | f64
  | f32
  | bf16
  | h16
  | e4m3
  | e5m2
  | i32
  | n32
  | q8
  | q4
  | i16
  | n16
  | i64
  | n64
deriving DecidableEq, Repr

/-- Compare conditions (05_encoding Table 5.10). -/
inductive Cond where
  | eq
  | ne
  | lt
  | le
  | gt
  | ge
  | ltu
  | leu
  | gtu
  | geu
  | equ
  | neu
  | num
  | nan
deriving DecidableEq, Repr

/-- Space codes (05_encoding Table 5.6). -/
inductive Space where
  | global
  | own
  | peer
  | accum
  | host
  | parcel
  | res6
  | res7
deriving DecidableEq, Repr

/-- Access sizes (05_encoding Table 5.7). -/
inductive MemSize where
  | n8
  | i8
  | n16
  | i16
  | b32
  | b64
  | b128
deriving DecidableEq, Repr

/-- Atomic types (05_encoding Table 5.8). -/
inductive AtomType where
  | i32
  | n32
  | i64
  | n64
  | f32
  | f64
  | b32
  | b64
deriving DecidableEq, Repr

/-- Order codes (05_encoding Table 5.6a); `acqRel1` is code 01: `.acq` on loads, `.rel` on stores. -/
inductive Order where
  | plain
  | acqRel1
  | acqrel
  | rlx
deriving DecidableEq, Repr

/-- Scope codes 0 to 9 (05_encoding R89, 10_ordering Table 10.1). -/
inductive Scope where
  | thread
  | group
  | team
  | cluster
  | die
  | pkg
  | domain
  | host
  | peer
  | sys
deriving DecidableEq, Repr

/-- ATOM operations (22_ref Table 22.6). -/
inductive AtomOp where
  | add
  | min
  | max
  | and
  | or
  | xor
  | exch
  | inc
  | dec
deriving DecidableEq, Repr

/-- Word 1 of a format M load, store or parcel access (05_encoding Table 5.5); `cp` is the cache policy. -/
structure MemCtl where
  space : Space
  size : MemSize
  ord : Order
  scope : Scope
  cp : BitVec 2
  off : BitVec 14
deriving DecidableEq, Repr

/-- Word 1 of ATOM, ATOMN and CAS (22_ref R306). -/
structure AtomCtl where
  space : Space
  ty : AtomType
  ord : Order
  scope : Scope
  cp : BitVec 2
  off : BitVec 14
deriving DecidableEq, Repr

/-- CMNT operations and reaches (07_memory Table 7.14, 22_ref Table 22.19). -/
inductive CmntOp where
  | wb
  | inv
  | wbinv
deriving DecidableEq, Repr

/-- The reach of CMNT (22_ref Table 22.19). -/
inductive Reach where
  | die
  | pkg
  | domain
deriving DecidableEq, Repr

/-- PREF functions (24_ref R420). -/
inductive PrefKind where
  | l1
  | l2
  | own
deriving DecidableEq, Repr

/-- FENCE kinds (10_ordering Table 10.3). -/
inductive FenceKind where
  | acq
  | rel
  | acqrel
  | sc
deriving DecidableEq, Repr

/-- SHFL modes (25_ref R440). -/
inductive ShflMode where
  | idx
  | up
  | down
  | xor
deriving DecidableEq, Repr

/-- VOTE modes (25_ref R456). -/
inductive VoteMode where
  | any
  | all
  | ballot
  | eq
deriving DecidableEq, Repr

/-- Group operations (23_ref Table 23.6). -/
inductive GrOp where
  | add
  | min
  | max
  | and
  | or
  | xor
deriving DecidableEq, Repr

/-- Group element types (23_ref Table 23.6). -/
inductive GrType where
  | f64
  | f32
  | i32
  | n32
  | i64
  | n64
deriving DecidableEq, Repr

/-- CRED element types (13_copy Table 13.2). -/
inductive CredType where
  | f32
  | bf16
  | i32
deriving DecidableEq, Repr

/-- Stream rows and MLOOP shapes 16, 32, 64 (14_matrix Tables 14.2, 14.7). -/
inductive Rows where
  | r16
  | r32
  | r64
deriving DecidableEq, Repr

/-- Group lengths 32, 64, 128 of the Q formats (14_matrix Table 14.2). -/
inductive GroupLen where
  | g32
  | g64
  | g128
deriving DecidableEq, Repr

/-- Word 1 of a format E copy command (05_encoding Table 5.5b, 13_copy Table 13.2). `st` is ST. -/
structure EngCtl where
  c : Opnd
  l : Opnd
  dsp : Space
  ssp : Space
  guard : BitVec 4
  st : Bool
  scope : Scope
deriving DecidableEq, Repr

/-- Word 1 of MLOOP below its C field (14_matrix Table 14.7). -/
structure LoopCtl where
  arid : BitVec 3
  brid : BitVec 3
  m : Rows
  n : Rows
  ak : Bool
  bk : Bool
  guard : BitVec 4
deriving DecidableEq, Repr

/-! ## What the outside supplies with an event -/

/-- Queue configuration (18_scheduling Table 18.1). -/
structure QueueConfig where
  en : Bool
  asid : BitVec 16
  base : Addr
  size : Nat
  cring : Addr
  ceil : Fin 4
  priv : Bool
  preempt : Bool
  ctx : Addr
deriving DecidableEq, Repr

/-- Parcel pool configuration (16_parcels R237). -/
structure PoolConfig where
  asid : BitVec 16
  arena : Addr
  extents : Nat
  handles : Nat
deriving DecidableEq, Repr

/-- What an owner die answers to a peer-window request (01_package R12): the physical line and class it
translated to, or the cause of its refusal; or no acceptance at all (R14: 0x61). -/
inductive PeerAnswer where
  | accepted (pa : Nat) (cls : BitVec 2)
  | refused (cause : BitVec 8)
  | lost
deriving DecidableEq, Repr

/-- A parcel that reaches a die from outside the package (16_parcels R252): the die, the slot reference it names, its size, and the
packet payload when it comes through the network engine (0: through the pool nodes). -/
structure Incoming where
  die : Fin 8
  sref : Addr
  size : Nat
  mtu : Nat
deriving DecidableEq, Repr

/-- The firmware image of a die as it is loaded: 0 to 3 base dies, 4 to 11 compute dies, 12 and 13 I/O dies; with its security version
number, and the public key and signature that came with it (21_outside R292). -/
structure Image where
  die : Nat
  bytes : List Byte
  version : Nat
  key : BitVec 512
  sig : BitVec 512
deriving DecidableEq, Repr

/-- The power rails (21_outside Table 21.6): a core rail for each compute die, the SRAM stacks and the logic of the base dies, the logic of the
I/O dies, and the SerDes. -/
inductive Rail where
  | core (die : Fin 8)
  | sram
  | baseLogic
  | ioLogic
  | serdes
deriving DecidableEq, Repr

/-- What firmware plans for a rail: its voltage in mV and its clock in MHz (21_outside R295). -/
structure RailPlan where
  rail : Rail
  volt : Nat
  clock : Nat
deriving DecidableEq, Repr

/-- What firmware finds and sets when it plans the margins anew (21_outside R295): the cores whose margin cannot be restored, and the plan of
the rails. -/
structure Replan where
  failed : List CoreId
  plan : List RailPlan
deriving DecidableEq, Repr

/-- What a cold boot meets (21_outside R292): whether I/O die 0 runs its ROM, which die-to-die links, host, pool and Ethernet links train,
the images that are loaded, the cores that are fused off, the cores whose margin cannot be restored, and the plan of the rails (R295). -/
structure BootResult where
  io0ok : Bool
  io1ok : Bool
  baseOk : BitVec 4
  computeOk : BitVec 8
  crossPaths : BitVec 4
  portOk : BitVec 48
  ethOk : BitVec 4
  hostOk : BitVec 2
  images : List Image
  margin : BitVec 4
  fused : List CoreId
  failed : List CoreId
  plan : List RailPlan
deriving DecidableEq, Repr

/-! ## The steps -/

/-- One constructor per row of spec/opcode_table.json. The argument `u` is the uniform bit U (02_execution
R34); where a form requires U = 1 or U = 0 it has no such argument. -/
inductive Instr where
  -- system software through a die's function, firmware, the debugger
  | exportEntryWrite (die : Fin 8) (idx : Fin 1024) (bits : BitVec 128) (gen : Option (BitVec 16))
  | revocationComplete (die : Fin 8) (idx : Fin 1024)
  | importEntryWrite (die : Fin 8) (idx : Fin 256) (bits : BitVec 64)
  | presentMaskWrite (mask : BitVec 256)
  | partitionMaskWrite (tenant : Nat) (mask : BitVec 256)
  | diePresentMapWrite (acc : BitVec 8) (bits : BitVec 8)
  | virtualDieMapWrite (v : Fin 8) (p : Option (Fin 8))
  | rootWrite (die : Fin 8) (host : Bool) (asid : BitVec 16) (root : Option (BitVec 64))
  | shootdown (die : Fin 8) (asid : BitVec 16) (base : Addr) (len : Nat)
  | shootdownCompletion (die : Fin 8) (id : Nat)
  | completionDoorbell (die : Fin 8) (seq : BitVec 64) (refused : Bool)
  | poolConfiguration (die : Fin 8) (cfg : PoolConfig)
  | queueConfiguration (die : Fin 8) (q : Fin 64) (cfg : QueueConfig)
  | queueDoorbell (die : Fin 8) (q : Fin 64) (tail : Nat)
  | queuePreemption (die : Fin 8) (q : Fin 64)
  | endGrid (grid : Nat)
  | mark (th : ThreadId)
  | unmark (th : ThreadId)
  | continueThread (th : ThreadId)
  | skipThread (th : ThreadId)
  | killThread (th : ThreadId)
  | portReset (port : Fin 48)
  | registerWrite (fn : Fin 9) (off : BitVec 32) (val : Word)
  | spdmGetCertificate
  | spdmGetMeasurements
  | spdmSignedReport (nonce : BitVec 256)
  -- a core's selector, pipes and drains
  | selectorDispatch (core : CoreId)
  | clauseIssue (pipe : PipeId)
  | loadReturn (id : Nat) (part : BitVec 4)
  | drainComplete (th : ThreadId)
  | faultRecord (th : ThreadId)
  | barrierArrival (th : ThreadId)
  | slateCredit (id : Nat)
  -- engines and the matrix unit
  | commandEnter (core : CoreId)
  | commandStart (core : CoreId)
  | engineSourceRead (id : Nat)
  | engineUnitWrite (id : Nat) (data : List Byte)
  | engineCompletionRecord (id : Nat)
  | mfeedLineEnter (id : Nat)
  | mloopStep (id : Nat)
  | afreeEffect (id : Nat)
  | orelEffect (id : Nat)
  | matrixWatchdogExpiry (core : CoreId)
  -- coherence trees, folios, hosts
  | catchableRead (id : Nat)
  | steeredRead (id : Nat)
  | directRead (id : Nat)
  | readReply (id : Nat)
  | ownershipRequest (id : Nat)
  | cut (id : Nat)
  | cutAcknowledgement (id : Nat)
  | grant (id : Nat)
  | holderEviction (cache : CacheId) (line : LineId)
  | writebackAcknowledgement (id : Nat)
  | prune (id : Nat)
  | backoffResend (id : Nat)
  | ownershipDelayExpiry (id : Nat)
  | bounceEntryClear (die : Fin 8) (core : Fin 64) (line : LineId)
  | farAtomic (id : Nat)
  | folioRequest (folio : Nat)
  | folioGrant (folio : Nat)
  | folioCut (folio : Nat) (toShared : Bool)
  | folioLineAck (id : Nat)
  | snpInv (line : Nat)
  | snpData (line : Nat)
  | snpCur (line : Nat)
  | inboundWrite (line : LineId) (cls : BitVec 2) (off : Fin 128) (data : List Byte)
  | peerWindowRequest (id : Nat)
  | peerWindowResponse (id : Nat) (answer : PeerAnswer)
  | stfDataAcknowledgement (id : Nat)
  | flagIncrement (id : Nat)
  | poolResponse (id : Nat)
  | laneFailure (port : Fin 48)
  | retrainStepComplete (port : Fin 48)
  | poolRequestTimeout (id : Nat)
  | packetRetransmit (id : Nat) (packet : Nat)
  | networkTmoExpiry (id : Nat)
  | packetArrival (id : Nat) (packet : Nat) (data : List Byte)
  | parcelClaim (id : Nat) (accept : Bool) (inc : Option Incoming)
  | parcelArrival (id : Nat)
  -- the dispatcher
  | cardTake (die : Fin 8)
  | localCardTake (core : CoreId)
  | clusterPlacement (die : Fin 8)
  | clusterRetire (cluster : Nat)
  | queueCompletionRecord (die : Fin 8) (q : Fin 64)
  | contextSave (cluster : Nat)
  | contextResume (cluster : Nat)
  | coldBoot (r : BootResult)
  | powerLimitStep (die : Fin 8) (raise : Bool)
  | marginReplan (margin : BitVec 4) (r : Replan)
  -- instructions
  | aalloc (d c : Opnd)
  | afree (g : Opnd) (count : BitVec 9)
  | and (u : Bool) (d a b : Opnd) (w : Width)
  | atom (u : Bool) (d base b : Opnd) (cnt : BitVec 2) (op : AtomOp) (mc : AtomCtl)
  | atomn (u : Bool) (b base : Opnd) (op : AtomOp) (mc : AtomCtl)
  | bfi (u : Bool) (d a b ctl : Opnd) (w : Width)
  | bfx (u : Bool) (d a ctl : Opnd) (ty : IntType)
  | bkpt (imm : BitVec 16)
  | bra (u : Bool) (off : BitVec 19)
  | brc (u : Bool) (p : BitVec 3) (sn : Bool) (off : BitVec 19)
  | brev (u : Bool) (d a : Opnd) (w : Width)
  | brx (u : Bool) (a : Opnd)
  | call (u : Bool) (off : BitVec 19)
  | callx (u : Bool) (a : Opnd)
  | cas (u : Bool) (d base b : Opnd) (cnt : BitVec 2) (mc : AtomCtl)
  | cbar (u : Bool)
  | clz (u : Bool) (d a : Opnd) (w : Width)
  | cmnt (u : Bool) (base : Opnd) (op : CmntOp) (reach : Reach) (space : Space) (off : BitVec 14)
  | cpy (u : Bool) (d a b : Opnd) (e : EngCtl)
  | cpym (u : Bool) (d a b : Opnd) (e : EngCtl)
  | cpyt (u : Bool) (d a b : Opnd) (st : Bool) (e : EngCtl)
  | cred (u : Bool) (d a b : Opnd) (ty : CredType) (e : EngCtl)
  | cvt (u : Bool) (d a : Opnd) (df sf : Fmt) (rnd : Rnd) (sat : Bool)
  | dadd (u : Bool) (d a b : Opnd) (rnd : Rnd)
  | dcmp (u : Bool) (cond : Cond) (p : BitVec 3) (a b : Opnd)
  | ddiv (u : Bool) (d a b : Opnd) (rnd : Rnd)
  | dfma (u : Bool) (d a b c : Opnd) (rnd : Rnd)
  | dmax (u : Bool) (d a b : Opnd)
  | dmin (u : Bool) (d a b : Opnd)
  | dmul (u : Bool) (d a b : Opnd) (rnd : Rnd)
  | dqnt (u : Bool) (d q s z : Opnd) (df : Fmt) (rnd : Rnd) (sat : Bool) (q4 : Bool)
  | drcp (u : Bool) (d a : Opnd)
  | dsqrt (u : Bool) (d a : Opnd) (rnd : Rnd)
  | dsub (u : Bool) (d a b : Opnd) (rnd : Rnd)
  | exit (u : Bool)
  | fadd (u : Bool) (d a b : Opnd) (rnd : Rnd)
  | fcls (u : Bool) (d a : Opnd) (w : Width)
  | fcmp (u : Bool) (cond : Cond) (p : BitVec 3) (a b : Opnd)
  | fcos (u : Bool) (d a : Opnd)
  | fdiv (u : Bool) (d a b : Opnd) (rnd : Rnd)
  | fence (u : Bool) (scope : Scope) (kind : FenceKind)
  | fex2 (u : Bool) (d a : Opnd)
  | ffma (u : Bool) (d a b c : Opnd) (rnd : Rnd)
  | flg2 (u : Bool) (d a : Opnd)
  | fmax (u : Bool) (d a b : Opnd)
  | fmin (u : Bool) (d a b : Opnd)
  | fmul (u : Bool) (d a b : Opnd) (rnd : Rnd)
  | frcp (u : Bool) (d a : Opnd)
  | frsq (u : Bool) (d a : Opnd)
  | fsin (u : Bool) (d a : Opnd)
  | fsqrt (u : Bool) (d a : Opnd) (rnd : Rnd)
  | fsub (u : Bool) (d a b : Opnd) (rnd : Rnd)
  | garm (u : Bool) (slot : BitVec 4)
  | gets (u : Bool) (d : Opnd) (num : BitVec 9)
  | gred (d a : Opnd) (op : GrOp) (ty : GrType) (rnd : Rnd) (sat : Bool)
  | gscan (d a : Opnd) (op : GrOp) (ty : GrType) (rnd : Rnd) (sat : Bool) (ex : Bool)
  | gset (u : Bool) (a : Opnd) (slot : BitVec 4)
  | hadd2 (u : Bool) (d a b : Opnd) (bf : Bool) (rnd : Rnd)
  | hfma2 (u : Bool) (d a b c : Opnd) (bf : Bool) (rnd : Rnd)
  | hmul2 (u : Bool) (d a b : Opnd) (bf : Bool) (rnd : Rnd)
  | iabs (u : Bool) (d a : Opnd) (w : Width)
  | iadd (u : Bool) (d a b : Opnd) (w : Width)
  | iaddi (u : Bool) (d a : Opnd) (imm : BitVec 9)
  | icmp (u : Bool) (cond : Cond) (p : BitVec 3) (a b : Opnd) (w : Width)
  | idiv (u : Bool) (d a b : Opnd) (ty : IntType)
  | imad (u : Bool) (d a b c : Opnd) (ty : IntType) (sat : Bool)
  | imax (u : Bool) (d a b : Opnd) (ty : IntType)
  | imin (u : Bool) (d a b : Opnd) (ty : IntType)
  | imul (u : Bool) (d a b : Opnd) (form : MulForm)
  | irem (u : Bool) (d a b : Opnd) (ty : IntType)
  | isub (u : Bool) (d a b : Opnd) (w : Width)
  | jpost (u : Bool) (a b : Opnd) (e : EngCtl)
  | ld (u : Bool) (d base : Opnd) (cnt : BitVec 2) (mc : MemCtl)
  | ldnr (u : Bool) (d base : Opnd) (p : BitVec 3) (cnt : BitVec 2) (mc : MemCtl)
  | mdrain (d a b : Opnd) (zero : Bool) (e : EngCtl)
  | mfeed (a b : Opnd) (rid : BitVec 3) (e : EngCtl)
  | mloop (a b c : Opnd) (lc : LoopCtl)
  | mov (u : Bool) (d a : Opnd) (w : MovWidth)
  | movh (u : Bool) (d : Opnd) (imm : BitVec 16)
  | movi (u : Bool) (d : Opnd) (imm : BitVec 16)
  | mrst (u : Bool)
  | mzero (g : Opnd) (count : BitVec 9)
  | nop
  | or (u : Bool) (d a b : Opnd) (w : Width)
  | orel (rid : BitVec 3)
  | ores (a b c : Opnd) (fmt : Fmt) (gl : GroupLen) (rid : BitVec 3) (rw : Rows)
  | padd (u : Bool) (d a b : Opnd)
  | pfree (u : Bool) (a : Opnd)
  | pld (u : Bool) (d base : Opnd) (cnt : BitVec 2) (mc : MemCtl)
  | pldr (u : Bool) (d base : Opnd) (cnt : BitVec 2) (mc : MemCtl)
  | plop (u : Bool) (pd pa pb : BitVec 3) (lut : BitVec 4)
  | pmovPack (u : Bool) (d : Opnd)
  | pmovUnpack (u : Bool) (a : Opnd) (mask : BitVec 8)
  | pnew (u : Bool) (d a : Opnd)
  | popc (u : Bool) (d a : Opnd) (w : Width)
  | post (u : Bool) (d a b : Opnd) (e : EngCtl)
  | pqry (u : Bool) (d a : Opnd) (fn : BitVec 2)
  | precv (u : Bool) (a l : Opnd) (dsp ssp : Space)
  | pref (u : Bool) (base : Opnd) (kind : PrefKind) (space : Space) (off : BitVec 14)
  | pseal (u : Bool) (a : Opnd)
  | pst (u : Bool) (d base : Opnd) (mc : MemCtl)
  | pstr (u : Bool) (d base : Opnd) (mc : MemCtl)
  | pwait (u : Bool) (a : Opnd)
  | qnt (u : Bool) (d x s z : Opnd) (sf : Fmt) (rnd : Rnd) (q4 : Bool)
  | resq (u : Bool) (base b : Opnd) (wr : Bool) (space : Space) (off : BitVec 14)
  | resume
  | resumeSkip
  | ret (u : Bool)
  | rol (u : Bool) (d a n : Opnd) (w : Width)
  | sar (u : Bool) (d a n : Opnd) (w : Width)
  | sarv (u : Bool) (a : Opnd) (ps : Bool)
  | sel (u : Bool) (d a b : Opnd) (p : BitVec 3) (neg : Bool) (w : MovWidth)
  | sets (u : Bool) (a : Opnd) (num : BitVec 9)
  | sexp (u : Bool) (bytes slate : Opnd)
  | shfl (d a b : Opnd) (mode : ShflMode) (w : Width)
  | shl (u : Bool) (d a n : Opnd) (w : Width)
  | shr (u : Bool) (d a n : Opnd) (w : Width)
  | sinit (u : Bool) (a b c : Opnd)
  | st (u : Bool) (d base : Opnd) (mc : MemCtl)
  | stf (u : Bool) (d base : Opnd) (mc : MemCtl) (fbase : Opnd) (foff : BitVec 16)
  | swait (u : Bool) (a : Opnd) (v : Bool)
  | tbar (u : Bool)
  | tdld (u : Bool) (a b : Opnd) (dsp ssp : Space)
  | tdrop (u : Bool) (a : Opnd) (pkg : Bool)
  | trap (imm : BitVec 16)
  | ttagImmediate (u : Bool) (id : BitVec 8)
  | ttagRegister (u : Bool) (a : Opnd)
  | vote (d : Opnd) (mode : VoteMode) (neg : Bool) (p : BitVec 3)
  | xor (u : Bool) (d a b : Opnd) (w : Width)
  -- events named after the instructions in the table
  | coreCycle (core : CoreId)
  | mzeroEffect (id : Nat)
  | cxlCacheResponse (id : Nat)
  | selectiveAcknowledgement (id : Nat) (packet : Nat)
  | inboundRead (line : LineId) (off : Fin 128) (len : Nat)
  | faultReportRingSpace (die : Fin 8) (count : Nat)
  | ethernetPortFailure (port : Fin 4)
deriving DecidableEq, Repr

end Sys2Proof
end

