-- ==== Sys2Proof/Decode.lean ====
section
/-!
DEFINITION. Decoding, total on any words (05_encoding R72 to R96), the static form of an instruction
(`Instr.formOk`), and the encoder written from the same tables. Decoding refuses by name exactly the encodings
that raise 0x10 whatever the machine's state is; operand codes (0x11), spaces (0x08) and what depends on the
thread are checked where the word executes (02_execution R35).
-/
namespace Sys2Proof

/-! ## Fields -/

/-- `len` bits of a word from bit `lo` (00_scope R3). -/
def fld (w : Word) (lo len : Nat) : BitVec len := w.extractLsb' lo len

/-- One bit of a word. -/
def flag (w : Word) (i : Nat) : Bool := w.getLsbD i

/-- The operand that a 7-bit code names (05_encoding Table 5.1). -/
def Opnd.ofCode (x : BitVec 7) : Opnd :=
  if x.toNat < 0x20 then .t (x.setWidth 5)
  else if x.toNat < 0x60 then .k ((x - 0x20#7).setWidth 6)
  else if x.toNat < 0x70 then .c (x.setWidth 4)
  else .r (x.setWidth 4)

/-- The 7-bit code of an operand (05_encoding Table 5.1). -/
def Opnd.code : Opnd → BitVec 7
  | .t n => n.setWidth 7
  | .k n => n.setWidth 7 + 0x20#7
  | .c n => n.setWidth 7 + 0x60#7
  | .r n => n.setWidth 7 + 0x70#7

/-- An operand of word 0 or word 1 whose code starts at bit `lo`. -/
def opndAt (w : Word) (lo : Nat) : Opnd := Opnd.ofCode (fld w lo 7)

/-! ## Codes -/

/-- 22_ref Table 22.1: codes 2 and 3 are reserved. -/
def Width.ofCode (x : BitVec 2) : Option Width :=
  match x.toNat with
  | 0 => some .w32
  | 1 => some .w64
  | _ => none

/-- 22_ref Table 22.1. -/
def Width.code : Width → BitVec 2
  | .w32 => 0
  | .w64 => 1

/-- 23_ref Table 23.5. -/
def IntType.ofM (x : BitVec 2) : IntType :=
  match x.toNat with
  | 0 => .i32
  | 1 => .n32
  | 2 => .i64
  | _ => .n64

/-- 23_ref Table 23.5. -/
def IntType.mCode : IntType → BitVec 2
  | .i32 => 0
  | .n32 => 1
  | .i64 => 2
  | .n64 => 3

/-- The integer format codes 0x6, 0x7, 0xC, 0xD (05_encoding Table 5.9). -/
def IntType.ofFmt (x : BitVec 4) : Option IntType :=
  match x.toNat with
  | 0x6 => some .i32
  | 0x7 => some .n32
  | 0xC => some .i64
  | 0xD => some .n64
  | _ => none

/-- 05_encoding Table 5.9. -/
def IntType.fmtCode : IntType → BitVec 4
  | .i32 => 0x6
  | .n32 => 0x7
  | .i64 => 0xC
  | .n64 => 0xD

/-- 23_ref Table 23.5, IMUL. -/
def MulForm.ofCode (x : BitVec 2) : MulForm :=
  match x.toNat with
  | 0 => .b32
  | 1 => .b64
  | 2 => .hiI32
  | _ => .hiN32

/-- 23_ref Table 23.5, IMUL. -/
def MulForm.code : MulForm → BitVec 2
  | .b32 => 0
  | .b64 => 1
  | .hiI32 => 2
  | .hiN32 => 3

/-- 24_ref Table 24.9: code 3 is reserved. -/
def MovWidth.ofCode (x : BitVec 2) : Option MovWidth :=
  match x.toNat with
  | 0 => some .b32
  | 1 => some .b64
  | 2 => some .b128
  | _ => none

/-- 24_ref Table 24.9. -/
def MovWidth.code : MovWidth → BitVec 2
  | .b32 => 0
  | .b64 => 1
  | .b128 => 2

/-- 25_ref Table 25.8: EXT 0, 1, 2. -/
def MovWidth.ofExt (x : BitVec 4) : Option MovWidth :=
  match x.toNat with
  | 0 => some .b32
  | 1 => some .b64
  | 2 => some .b128
  | _ => none

/-- 25_ref Table 25.8. -/
def MovWidth.ext : MovWidth → BitVec 4
  | .b32 => 0
  | .b64 => 1
  | .b128 => 2

/-- 05_encoding Table 5.4. -/
def Rnd.ofCode (x : BitVec 2) : Rnd :=
  match x.toNat with
  | 0 => .rn
  | 1 => .rz
  | 2 => .ru
  | _ => .rd

/-- 05_encoding Table 5.4. -/
def Rnd.code : Rnd → BitVec 2
  | .rn => 0
  | .rz => 1
  | .ru => 2
  | .rd => 3

/-- 05_encoding Table 5.9: codes 0xE and 0xF are reserved. -/
def Fmt.ofCode (x : BitVec 4) : Option Fmt :=
  match x.toNat with
  | 0x0 => some .f64
  | 0x1 => some .f32
  | 0x2 => some .bf16
  | 0x3 => some .h16
  | 0x4 => some .e4m3
  | 0x5 => some .e5m2
  | 0x6 => some .i32
  | 0x7 => some .n32
  | 0x8 => some .q8
  | 0x9 => some .q4
  | 0xA => some .i16
  | 0xB => some .n16
  | 0xC => some .i64
  | 0xD => some .n64
  | _ => none

/-- 05_encoding Table 5.9. -/
def Fmt.code : Fmt → BitVec 4
  | .f64 => 0x0
  | .f32 => 0x1
  | .bf16 => 0x2
  | .h16 => 0x3
  | .e4m3 => 0x4
  | .e5m2 => 0x5
  | .i32 => 0x6
  | .n32 => 0x7
  | .q8 => 0x8
  | .q4 => 0x9
  | .i16 => 0xA
  | .n16 => 0xB
  | .i64 => 0xC
  | .n64 => 0xD

/-- 05_encoding Table 5.10. -/
def Cond.ofCode (x : BitVec 4) : Option Cond :=
  match x.toNat with
  | 0x0 => some .eq
  | 0x1 => some .ne
  | 0x2 => some .lt
  | 0x3 => some .le
  | 0x4 => some .gt
  | 0x5 => some .ge
  | 0x6 => some .ltu
  | 0x7 => some .leu
  | 0x8 => some .gtu
  | 0x9 => some .geu
  | 0xA => some .equ
  | 0xB => some .neu
  | 0xC => some .num
  | 0xD => some .nan
  | _ => none

/-- 05_encoding Table 5.10. -/
def Cond.code : Cond → BitVec 4
  | .eq => 0x0
  | .ne => 0x1
  | .lt => 0x2
  | .le => 0x3
  | .gt => 0x4
  | .ge => 0x5
  | .ltu => 0x6
  | .leu => 0x7
  | .gtu => 0x8
  | .geu => 0x9
  | .equ => 0xA
  | .neu => 0xB
  | .num => 0xC
  | .nan => 0xD

/-- 05_encoding Table 5.6. -/
def Space.ofCode (x : BitVec 3) : Space :=
  match x.toNat with
  | 0 => .global
  | 1 => .own
  | 2 => .peer
  | 3 => .accum
  | 4 => .host
  | 5 => .parcel
  | 6 => .res6
  | _ => .res7

/-- 05_encoding Table 5.6. -/
def Space.code : Space → BitVec 3
  | .global => 0
  | .own => 1
  | .peer => 2
  | .accum => 3
  | .host => 4
  | .parcel => 5
  | .res6 => 6
  | .res7 => 7

/-- 05_encoding Table 5.7: code 7 is reserved (R90). -/
def MemSize.ofCode (x : BitVec 3) : Option MemSize :=
  match x.toNat with
  | 0 => some .n8
  | 1 => some .i8
  | 2 => some .n16
  | 3 => some .i16
  | 4 => some .b32
  | 5 => some .b64
  | 6 => some .b128
  | _ => none

/-- 05_encoding Table 5.7. -/
def MemSize.code : MemSize → BitVec 3
  | .n8 => 0
  | .i8 => 1
  | .n16 => 2
  | .i16 => 3
  | .b32 => 4
  | .b64 => 5
  | .b128 => 6

/-- 05_encoding Table 5.8. -/
def AtomType.ofCode (x : BitVec 3) : AtomType :=
  match x.toNat with
  | 0 => .i32
  | 1 => .n32
  | 2 => .i64
  | 3 => .n64
  | 4 => .f32
  | 5 => .f64
  | 6 => .b32
  | _ => .b64

/-- 05_encoding Table 5.8. -/
def AtomType.code : AtomType → BitVec 3
  | .i32 => 0
  | .n32 => 1
  | .i64 => 2
  | .n64 => 3
  | .f32 => 4
  | .f64 => 5
  | .b32 => 6
  | .b64 => 7

/-- 05_encoding Table 5.6a. -/
def Order.ofCode (x : BitVec 2) : Order :=
  match x.toNat with
  | 0 => .plain
  | 1 => .acqRel1
  | 2 => .acqrel
  | _ => .rlx

/-- 05_encoding Table 5.6a. -/
def Order.code : Order → BitVec 2
  | .plain => 0
  | .acqRel1 => 1
  | .acqrel => 2
  | .rlx => 3

/-- 05_encoding R89: codes 10 to 15 raise 0x10. -/
def Scope.ofCode (x : BitVec 4) : Option Scope :=
  match x.toNat with
  | 0 => some .thread
  | 1 => some .group
  | 2 => some .team
  | 3 => some .cluster
  | 4 => some .die
  | 5 => some .pkg
  | 6 => some .domain
  | 7 => some .host
  | 8 => some .peer
  | 9 => some .sys
  | _ => none

/-- 05_encoding R89. -/
def Scope.code : Scope → BitVec 4
  | .thread => 0
  | .group => 1
  | .team => 2
  | .cluster => 3
  | .die => 4
  | .pkg => 5
  | .domain => 6
  | .host => 7
  | .peer => 8
  | .sys => 9

/-- 22_ref Table 22.6: FUNC 0x9 to 0xF are reserved. -/
def AtomOp.ofCode (x : BitVec 4) : Option AtomOp :=
  match x.toNat with
  | 0 => some .add
  | 1 => some .min
  | 2 => some .max
  | 3 => some .and
  | 4 => some .or
  | 5 => some .xor
  | 6 => some .exch
  | 7 => some .inc
  | 8 => some .dec
  | _ => none

/-- 22_ref Table 22.6. -/
def AtomOp.code : AtomOp → BitVec 4
  | .add => 0
  | .min => 1
  | .max => 2
  | .and => 3
  | .or => 4
  | .xor => 5
  | .exch => 6
  | .inc => 7
  | .dec => 8

/-- 07_memory Table 7.14. -/
def CmntOp.ofCode (x : BitVec 4) : Option CmntOp :=
  match x.toNat with
  | 0 => some .wb
  | 1 => some .inv
  | 2 => some .wbinv
  | _ => none

/-- 07_memory Table 7.14. -/
def CmntOp.code : CmntOp → BitVec 4
  | .wb => 0
  | .inv => 1
  | .wbinv => 2

/-- 22_ref Table 22.19. -/
def Reach.ofCode (x : BitVec 3) : Option Reach :=
  match x.toNat with
  | 4 => some .die
  | 5 => some .pkg
  | 6 => some .domain
  | _ => none

/-- 22_ref Table 22.19. -/
def Reach.code : Reach → BitVec 3
  | .die => 4
  | .pkg => 5
  | .domain => 6

/-- 24_ref Table 24.24. -/
def PrefKind.ofCode (x : BitVec 4) : Option PrefKind :=
  match x.toNat with
  | 0 => some .l1
  | 1 => some .l2
  | 2 => some .own
  | _ => none

/-- 24_ref Table 24.24. -/
def PrefKind.code : PrefKind → BitVec 4
  | .l1 => 0
  | .l2 => 1
  | .own => 2

/-- 10_ordering Table 10.3. -/
def FenceKind.ofCode (x : BitVec 2) : FenceKind :=
  match x.toNat with
  | 0 => .acq
  | 1 => .rel
  | 2 => .acqrel
  | _ => .sc

/-- 10_ordering Table 10.3. -/
def FenceKind.code : FenceKind → BitVec 2
  | .acq => 0
  | .rel => 1
  | .acqrel => 2
  | .sc => 3

/-- 25_ref Table 25.12. -/
def ShflMode.ofCode (x : BitVec 4) : Option ShflMode :=
  match x.toNat with
  | 0 => some .idx
  | 1 => some .up
  | 2 => some .down
  | 3 => some .xor
  | _ => none

/-- 25_ref Table 25.12. -/
def ShflMode.code : ShflMode → BitVec 4
  | .idx => 0
  | .up => 1
  | .down => 2
  | .xor => 3

/-- 25_ref Table 25.23. -/
def VoteMode.ofCode (x : BitVec 2) : VoteMode :=
  match x.toNat with
  | 0 => .any
  | 1 => .all
  | 2 => .ballot
  | _ => .eq

/-- 25_ref Table 25.23. -/
def VoteMode.code : VoteMode → BitVec 2
  | .any => 0
  | .all => 1
  | .ballot => 2
  | .eq => 3

/-- 23_ref Table 23.6. -/
def GrOp.ofCode (x : BitVec 4) : Option GrOp :=
  match x.toNat with
  | 0 => some .add
  | 1 => some .min
  | 2 => some .max
  | 3 => some .and
  | 4 => some .or
  | 5 => some .xor
  | _ => none

/-- 23_ref Table 23.6. -/
def GrOp.code : GrOp → BitVec 4
  | .add => 0
  | .min => 1
  | .max => 2
  | .and => 3
  | .or => 4
  | .xor => 5

/-- 23_ref Table 23.6. -/
def GrType.ofCode (x : BitVec 4) : Option GrType :=
  match x.toNat with
  | 0x0 => some .f64
  | 0x1 => some .f32
  | 0x6 => some .i32
  | 0x7 => some .n32
  | 0xC => some .i64
  | 0xD => some .n64
  | _ => none

/-- 23_ref Table 23.6. -/
def GrType.code : GrType → BitVec 4
  | .f64 => 0x0
  | .f32 => 0x1
  | .i32 => 0x6
  | .n32 => 0x7
  | .i64 => 0xC
  | .n64 => 0xD

/-- 13_copy Table 13.2: code 3 raises 0x10. -/
def CredType.ofCode (x : BitVec 2) : Option CredType :=
  match x.toNat with
  | 0 => some .f32
  | 1 => some .bf16
  | 2 => some .i32
  | _ => none

/-- 13_copy Table 13.2. -/
def CredType.code : CredType → BitVec 2
  | .f32 => 0
  | .bf16 => 1
  | .i32 => 2

/-- 14_matrix Tables 14.2 and 14.7: code 3 raises 0x10. -/
def Rows.ofCode (x : BitVec 2) : Option Rows :=
  match x.toNat with
  | 0 => some .r16
  | 1 => some .r32
  | 2 => some .r64
  | _ => none

/-- 14_matrix Tables 14.2 and 14.7. -/
def Rows.code : Rows → BitVec 2
  | .r16 => 0
  | .r32 => 1
  | .r64 => 2

/-- 14_matrix Table 14.2: code 3 raises 0x10. -/
def GroupLen.ofCode (x : BitVec 2) : Option GroupLen :=
  match x.toNat with
  | 0 => some .g32
  | 1 => some .g64
  | 2 => some .g128
  | _ => none

/-- 14_matrix Table 14.2. -/
def GroupLen.code : GroupLen → BitVec 2
  | .g32 => 0
  | .g64 => 1
  | .g128 => 2

/-! ## Packing the formats (05_encoding 5.4) -/

/-- Format A (R78), and word 0 of formats X, M, M3 and E. -/
def packA (op : BitVec 8) (u : Bool) (d a b : BitVec 7) (m : BitVec 2) : Word :=
  op ++ BitVec.ofBool u ++ d ++ a ++ b ++ m

/-- Formats J and S (R79, R86). -/
def packS (op : BitVec 8) (u : Bool) (d a : BitVec 7) (imm : BitVec 9) : Word :=
  op ++ BitVec.ofBool u ++ d ++ a ++ imm

/-- Format I (R80). -/
def packI (op : BitVec 8) (u : Bool) (d : BitVec 7) (imm : BitVec 16) : Word :=
  op ++ BitVec.ofBool u ++ d ++ imm

/-- Format B, direct (R85). -/
def packB (op : BitVec 8) (u : Bool) (p : BitVec 3) (sn : Bool) (off : BitVec 19) : Word :=
  op ++ BitVec.ofBool u ++ p ++ BitVec.ofBool sn ++ off

/-- Format X, word 1 (R81). -/
def packX (c : BitVec 7) (ext : BitVec 4) (rnd : BitVec 2) (s : Bool) (per : BitVec 18) : Word :=
  c ++ ext ++ rnd ++ BitVec.ofBool s ++ per

/-- Format M, word 1 (R83). -/
def packM (space size : BitVec 3) (ord : BitVec 2) (scope : BitVec 4) (cp : BitVec 2) (func : BitVec 4)
    (off : BitVec 14) : Word :=
  space ++ size ++ ord ++ scope ++ cp ++ func ++ off

/-- Format M3, word 2 (R84). -/
def packM3 (fbase : BitVec 7) (off : BitVec 16) : Word :=
  fbase ++ (0 : BitVec 9) ++ off

/-- Format E, word 1 (R87). -/
def packE (c l : BitVec 7) (dsp ssp : BitVec 3) (guard : BitVec 4) (flags : BitVec 8) : Word :=
  c ++ l ++ dsp ++ ssp ++ guard ++ flags

/-! ## The encoder -/

/-- Word 1 of a load, store or parcel access. -/
def MemCtl.word (m : MemCtl) : Word :=
  packM m.space.code m.size.code m.ord.code m.scope.code m.cp 0 m.off

/-- Word 1 of an atomic, with its FUNC. -/
def AtomCtl.word (m : AtomCtl) (func : BitVec 4) : Word :=
  packM m.space.code m.ty.code m.ord.code m.scope.code m.cp func m.off

/-- Word 1 of a format E command: FLAGS is ST, three middle bits, SCOPE. -/
def EngCtl.word (e : EngCtl) (mid : BitVec 3) : Word :=
  packE e.c.code e.l.code e.dsp.code e.ssp.code e.guard (BitVec.ofBool e.st ++ mid ++ e.scope.code)

/-- The bits of a compare's D field (R78). -/
def cmpD (cond : Cond) (p : BitVec 3) : BitVec 7 := cond.code ++ p

/-- The words of an instruction, first word first; an event has none (05_encoding 5.4, 22_ref to 25_ref). -/
def encode : Instr → List Word
  | .aalloc d c => [packS 0x96 true d.code c.code 0]
  | .afree g n => [packS 0x97 true 0 g.code n]
  | .and u d a b w => [packA 0x09 u d.code a.code b.code w.code]
  | .atom u d base b cnt op mc => [packA 0x54 u d.code base.code b.code cnt, mc.word op.code]
  | .atomn u b base op mc => [packA 0x55 u b.code base.code 0 0, mc.word op.code]
  | .bfi u d a b ctl w =>
      [packA 0x11 u d.code a.code b.code 0,
        packX ctl.code (match w with | .w32 => 0x7 | .w64 => 0xD) 0 false 0]
  | .bfx u d a ctl ty => [packA 0x10 u d.code a.code ctl.code 0, packX 0 ty.fmtCode 0 false 0]
  | .bkpt imm => [packI 0x79 false 0 imm]
  | .bra u off => [packB 0x70 u 0 false off]
  | .brc u p sn off => [packB 0x71 u p sn off]
  | .brev u d a w => [packA 0x14 u d.code a.code 0 w.code]
  | .brx u a => [packS 0x72 u 0 a.code 0]
  | .call u off => [packB 0x73 u 0 false off]
  | .callx u a => [packS 0x74 u 0 a.code 0]
  | .cas u d base b cnt mc => [packA 0x56 u d.code base.code b.code cnt, mc.word 0]
  | .cbar u => [packS 0x65 u 0 0 0]
  | .clz u d a w => [packA 0x13 u d.code a.code 0 w.code]
  | .cmnt u base op reach sp off =>
      [packA 0x59 u 0 base.code 0 0, packM sp.code reach.code 0 0 0 op.code off]
  | .cpy u d a b e => [packA 0x80 u d.code a.code b.code 0, e.word 0]
  | .cpym u d a b e => [packA 0x81 u d.code a.code b.code 0, e.word 0]
  | .cpyt u d a b st e => [packA 0x82 u d.code a.code b.code 0, e.word ((0 : BitVec 2) ++ BitVec.ofBool st)]
  | .cred u d a b ty e => [packA 0x83 u d.code a.code b.code 0, e.word ((0 : BitVec 1) ++ ty.code)]
  | .cvt u d a df sf rnd sat =>
      [packA 0x40 u d.code a.code 0 0, packX 0 df.code rnd.code sat (sf.code ++ (0 : BitVec 14))]
  | .dadd u d a b rnd => [packA 0x30 u d.code a.code b.code rnd.code]
  | .dcmp u cond p a b => [packA 0x36 u (cmpD cond p) a.code b.code 0]
  | .ddiv u d a b rnd => [packA 0x37 u d.code a.code b.code rnd.code]
  | .dfma u d a b c rnd => [packA 0x33 u d.code a.code b.code 0, packX c.code 0 rnd.code false 0]
  | .dmax u d a b => [packA 0x35 u d.code a.code b.code 0]
  | .dmin u d a b => [packA 0x34 u d.code a.code b.code 0]
  | .dmul u d a b rnd => [packA 0x32 u d.code a.code b.code rnd.code]
  | .dqnt u d q s z df rnd sat q4 =>
      [packA 0x42 u d.code q.code s.code 0,
        packX z.code df.code rnd.code sat ((if q4 then (9 : BitVec 4) else 8) ++ (0 : BitVec 14))]
  | .drcp u d a => [packA 0x39 u d.code a.code 0 0]
  | .dsqrt u d a rnd => [packA 0x38 u d.code a.code 0 rnd.code]
  | .dsub u d a b rnd => [packA 0x31 u d.code a.code b.code rnd.code]
  | .exit u => [packS 0x76 u 0 0 0]
  | .fadd u d a b rnd => [packA 0x20 u d.code a.code b.code rnd.code]
  | .fcls u d a w => [packA 0x2F u d.code a.code 0 w.code]
  | .fcmp u cond p a b => [packA 0x26 u (cmpD cond p) a.code b.code 0]
  | .fcos u d a => [packA 0x2E u d.code a.code 0 0]
  | .fdiv u d a b rnd => [packA 0x2A u d.code a.code b.code rnd.code]
  | .fence u scope kind =>
      [packS 0x57 u 0 0 ((0 : BitVec 1) ++ scope.code ++ (0 : BitVec 2) ++ kind.code)]
  | .fex2 u d a => [packA 0x2B u d.code a.code 0 0]
  | .ffma u d a b c rnd => [packA 0x23 u d.code a.code b.code 0, packX c.code 0 rnd.code false 0]
  | .flg2 u d a => [packA 0x2C u d.code a.code 0 0]
  | .fmax u d a b => [packA 0x25 u d.code a.code b.code 0]
  | .fmin u d a b => [packA 0x24 u d.code a.code b.code 0]
  | .fmul u d a b rnd => [packA 0x22 u d.code a.code b.code rnd.code]
  | .frcp u d a => [packA 0x27 u d.code a.code 0 0]
  | .frsq u d a => [packA 0x28 u d.code a.code 0 0]
  | .fsin u d a => [packA 0x2D u d.code a.code 0 0]
  | .fsqrt u d a rnd => [packA 0x29 u d.code a.code 0 rnd.code]
  | .fsub u d a b rnd => [packA 0x21 u d.code a.code b.code rnd.code]
  | .garm u slot => [packS 0x66 u 0 0 ((0 : BitVec 5) ++ slot)]
  | .gets u d n => [packS 0xC0 u d.code 0 n]
  | .gred d a op ty rnd sat =>
      [packA 0x4A false d.code a.code 0 0, packX 0 op.code rnd.code sat (ty.code ++ (0 : BitVec 14))]
  | .gscan d a op ty rnd sat ex =>
      [packA 0x4B false d.code a.code 0 0,
        packX 0 op.code rnd.code sat (ty.code ++ BitVec.ofBool ex ++ (0 : BitVec 13))]
  | .gset u a slot => [packS 0x67 u 0 a.code ((0 : BitVec 5) ++ slot)]
  | .hadd2 u d a b bf rnd =>
      [packA 0x3C u d.code a.code b.code 0, packX 0 (if bf then 2 else 3) rnd.code false 0]
  | .hfma2 u d a b c bf rnd =>
      [packA 0x3E u d.code a.code b.code 0, packX c.code (if bf then 2 else 3) rnd.code false 0]
  | .hmul2 u d a b bf rnd =>
      [packA 0x3D u d.code a.code b.code 0, packX 0 (if bf then 2 else 3) rnd.code false 0]
  | .iabs u d a w => [packA 0x08 u d.code a.code 0 w.code]
  | .iadd u d a b w => [packA 0x01 u d.code a.code b.code w.code]
  | .iaddi u d a imm => [packS 0x03 u d.code a.code imm]
  | .icmp u cond p a b w => [packA 0x15 u (cmpD cond p) a.code b.code w.code]
  | .idiv u d a b ty => [packA 0x1A u d.code a.code b.code ty.mCode]
  | .imad u d a b c ty sat => [packA 0x05 u d.code a.code b.code 0, packX c.code ty.fmtCode 0 sat 0]
  | .imax u d a b ty => [packA 0x07 u d.code a.code b.code ty.mCode]
  | .imin u d a b ty => [packA 0x06 u d.code a.code b.code ty.mCode]
  | .imul u d a b f => [packA 0x04 u d.code a.code b.code f.code]
  | .irem u d a b ty => [packA 0x1B u d.code a.code b.code ty.mCode]
  | .isub u d a b w => [packA 0x02 u d.code a.code b.code w.code]
  | .jpost u a b e => [packA 0xB0 u 0 a.code b.code 0, e.word 0]
  | .ld u d base cnt mc => [packA 0x50 u d.code base.code 0 cnt, mc.word]
  | .ldnr u d base p cnt mc => [packA 0x51 u d.code base.code ((0 : BitVec 4) ++ p) cnt, mc.word]
  | .mdrain d a b z e => [packA 0x94 true d.code a.code b.code 0, e.word (BitVec.ofBool z ++ (0 : BitVec 2))]
  | .mfeed a b rid e => [packA 0x92 true 0 a.code b.code 0, e.word rid]
  | .mloop a b c lc =>
      [packA 0x93 true 0 a.code b.code 0,
        packX c.code 0 0 false
          (lc.arid ++ lc.brid ++ lc.m.code ++ lc.n.code ++ BitVec.ofBool lc.ak ++ BitVec.ofBool lc.bk
            ++ lc.guard ++ (0 : BitVec 2))]
  | .mov u d a w => [packA 0x17 u d.code a.code 0 w.code]
  | .movh u d imm => [packI 0x19 u d.code imm]
  | .movi u d imm => [packI 0x18 u d.code imm]
  | .mrst u => [packS 0xC2 u 0 0 0]
  | .mzero g n => [packS 0x95 true 0 g.code n]
  | .nop => [0]
  | .or u d a b w => [packA 0x0A u d.code a.code b.code w.code]
  | .orel rid => [packS 0x91 true 0 0 ((0 : BitVec 6) ++ rid)]
  | .ores a b c fmt gl rid rw =>
      [packA 0x90 true 0 a.code b.code 0,
        packX c.code fmt.code 0 false (gl.code ++ rid ++ rw.code ++ (0 : BitVec 11))]
  | .padd u d a b => [packA 0xAA u d.code a.code b.code 0]
  | .pfree u a => [packS 0xA5 u 0 a.code 0]
  | .pld u d base cnt mc => [packA 0xA6 u d.code base.code 0 cnt, mc.word]
  | .pldr u d base cnt mc => [packA 0xA8 u d.code base.code 0 cnt, mc.word]
  | .plop u pd pa pb lut =>
      [packS 0x1C u ((0 : BitVec 4) ++ pd) ((0 : BitVec 4) ++ pa) ((0 : BitVec 2) ++ pb ++ lut)]
  | .pmovPack u d => [packS 0x1D u d.code 0 0]
  | .pmovUnpack u a mask => [packS 0x1D u 0 a.code ((1 : BitVec 1) ++ mask)]
  | .pnew u d a => [packS 0xA0 u d.code a.code 0]
  | .popc u d a w => [packA 0x12 u d.code a.code 0 w.code]
  | .post u d a b e => [packA 0xA2 u d.code a.code b.code 0, e.word 0]
  | .pqry u d a fn => [packS 0xAB u d.code a.code ((0 : BitVec 7) ++ fn)]
  | .precv u a l dsp ssp => [packA 0xA3 u 0 a.code 0 0, packE 0 l.code dsp.code ssp.code 0 0]
  | .pref u base kind sp off => [packA 0x58 u 0 base.code 0 0, packM sp.code 0 0 0 0 kind.code off]
  | .pseal u a => [packS 0xA1 u 0 a.code 0]
  | .pst u d base mc => [packA 0xA7 u d.code base.code 0 0, mc.word]
  | .pstr u d base mc => [packA 0xA9 u d.code base.code 0 0, mc.word]
  | .pwait u a => [packS 0xA4 u 0 a.code 0]
  | .qnt u d x s z sf rnd q4 =>
      [packA 0x41 u d.code x.code s.code 0,
        packX z.code sf.code rnd.code false ((if q4 then (9 : BitVec 4) else 8) ++ (0 : BitVec 14))]
  | .resq u base b wr sp off =>
      [packA 0x5C u 0 base.code b.code 0, packM sp.code 0 0 0 0 (if wr then 1 else 0) off]
  | .resume => [packS 0x78 false 0 0 0]
  | .resumeSkip => [packS 0x78 false 0 0 1]
  | .ret u => [packS 0x75 u 0 0 0]
  | .rol u d a n w => [packA 0x0F u d.code a.code n.code w.code]
  | .sar u d a n w => [packA 0x0E u d.code a.code n.code w.code]
  | .sarv u a ps => [packS 0x61 u 0 a.code ((0 : BitVec 8) ++ BitVec.ofBool ps)]
  | .sel u d a b p neg w =>
      [packA 0x16 u d.code a.code b.code 0, packX 0 w.ext 0 false (p ++ BitVec.ofBool neg ++ (0 : BitVec 14))]
  | .sets u a n => [packS 0xC1 u 0 a.code n]
  | .sexp u bytes slate => [packS 0x62 u bytes.code slate.code 0]
  | .shfl d a b mode w =>
      [packA 0x48 false d.code a.code b.code 0, packX 0 mode.code 0 false (w.code ++ (0 : BitVec 16))]
  | .shl u d a n w => [packA 0x0C u d.code a.code n.code w.code]
  | .shr u d a n w => [packA 0x0D u d.code a.code n.code w.code]
  | .sinit u a b c => [packA 0x60 u 0 a.code b.code 0, packX c.code 0 0 false 0]
  | .st u d base mc => [packA 0x52 u d.code base.code 0 0, mc.word]
  | .stf u d base mc fb fo => [packA 0x53 u d.code base.code 0 0, mc.word, packM3 fb.code fo]
  | .swait u a v => [packS 0x63 u 0 a.code ((0 : BitVec 8) ++ BitVec.ofBool v)]
  | .tbar u => [packS 0x64 u 0 0 0]
  | .tdld u a b dsp ssp => [packA 0x84 u 0 a.code b.code 0, packE 0 0 dsp.code ssp.code 0 0]
  | .tdrop u a pkg => [packS 0x5B u 0 a.code (if pkg then 5 else 4)]
  | .trap imm => [packI 0x77 false 0 imm]
  | .ttagImmediate u id => [packS 0x5A u 0 0 ((0 : BitVec 1) ++ id)]
  | .ttagRegister u a => [packS 0x5A u 0 a.code 0x100]
  | .vote d mode neg p => [packS 0x49 false d.code 0 ((0 : BitVec 3) ++ mode.code ++ BitVec.ofBool neg ++ p)]
  | .xor u d a b w => [packA 0x0B u d.code a.code b.code w.code]
  | _ => []

/-- Word 0 of an instruction: what EXTRA records of it (19_faults Table 19.3). -/
def Instr.word0 (i : Instr) : Word := (encode i).headD 0

/-- The number of words of an instruction (04_assembly R70, 05_encoding R72). -/
def Instr.words (i : Instr) : Nat := (encode i).length

/-! ## The static form -/

/-- The operand field code 0x00 that an unused field must hold (05_encoding R76). -/
def Opnd.isZero (o : Opnd) : Bool := o.code == 0

/-- ORD and SCOPE of a load (05_encoding Table 5.6a). -/
def MemCtl.loadOrdOk (m : MemCtl) : Bool :=
  match m.ord with
  | .plain => m.scope == .thread
  | .acqRel1 => true
  | .acqrel => false
  | .rlx => true

/-- ORD and SCOPE of PLD, PLDR, PST, PSTR and STF: `.rlx` is not legal (05_encoding Table 5.6a). -/
def MemCtl.noRlxOrdOk (m : MemCtl) : Bool :=
  match m.ord with
  | .plain => m.scope == .thread
  | .acqRel1 => true
  | .acqrel => false
  | .rlx => false

/-- ORD and SCOPE of an atomic (05_encoding Table 5.6a). -/
def AtomCtl.ordOk (m : AtomCtl) : Bool :=
  match m.ord with
  | .plain => m.scope == .thread
  | .acqRel1 => false
  | .acqrel => true
  | .rlx => true

/-- Operation and type pairs of ATOM and ATOMN (22_ref Table 22.6). -/
def AtomOp.typeOk (op : AtomOp) (ty : AtomType) : Bool :=
  match op with
  | .add => ty != .b32 && ty != .b64
  | .min => ty != .b32 && ty != .b64
  | .max => ty != .b32 && ty != .b64
  | .and => ty == .b32 || ty == .b64
  | .or => ty == .b32 || ty == .b64
  | .xor => ty == .b32 || ty == .b64
  | .exch => true
  | .inc => ty == .n32 || ty == .n64
  | .dec => ty == .n32 || ty == .n64

/-- The status operand of a format E command is unused, hence 0x00, unless ST is 1 (13_copy Table 13.1). -/
def EngCtl.statusOk (e : EngCtl) : Bool := e.st || e.c.isZero

/-- Formats that CVT accepts: every format but Q8 and Q4 (22_ref Table 22.24). -/
def Fmt.cvtOk (f : Fmt) : Bool := f != .q8 && f != .q4

/-- The floating-point formats, codes 0x0 to 0x5. -/
def Fmt.isFloat : Fmt → Bool
  | .f64 | .f32 | .bf16 | .h16 | .e4m3 | .e5m2 => true
  | .i32 | .n32 | .q8 | .q4 | .i16 | .n16 | .i64 | .n64 => false

/-- Q8 and Q4. -/
def Fmt.isQ (f : Fmt) : Bool := f == .q8 || f == .q4

/-- A float type of a group instruction. -/
def GrType.isFloat : GrType → Bool
  | .f64 | .f32 => true
  | .i32 | .n32 | .i64 | .n64 => false

/-- RND, S and TYPE of GRED and GSCAN (23_ref Table 23.6): RND only for a float add, S only for an integer
add, and the bitwise operations only on integer types. -/
def grOk (op : GrOp) (ty : GrType) (rnd : Rnd) (sat : Bool) : Bool :=
  (match op with
    | .add => ty.isFloat || rnd == .rn
    | .min | .max | .and | .or | .xor => rnd == .rn) &&
  (match op with
    | .add => !sat || !ty.isFloat
    | .min | .max | .and | .or | .xor => !sat) &&
  (match op with
    | .and | .or | .xor => !ty.isFloat
    | .add | .min | .max => true)

/-- The relations between fields that decoding requires; a word whose fields break one raises 0x10. An event
has no form. -/
def Instr.formOk : Instr → Bool
  | .atom _ _ _ _ _ op mc => mc.ordOk && op.typeOk mc.ty
  | .atomn _ _ _ op mc => mc.ordOk && op.typeOk mc.ty
  | .cas _ _ _ _ _ mc => mc.ordOk
  | .cpy _ _ _ _ e => e.statusOk
  | .cpym _ _ _ _ e => e.statusOk
  | .cpyt _ _ _ _ _ e => e.statusOk
  | .cred _ _ _ _ _ e => e.statusOk
  | .cvt _ _ _ df sf _ _ => df.cvtOk && sf.cvtOk
  | .dqnt _ _ _ _ _ df _ _ _ => df.isFloat
  | .gred _ _ op ty rnd sat => grOk op ty rnd sat
  | .gscan _ _ op ty rnd sat _ => grOk op ty rnd sat
  | .icmp _ cond _ _ _ _ => cond.code.toNat < 10
  | .jpost _ _ _ e => e.statusOk
  | .ld _ _ _ _ mc => mc.loadOrdOk
  | .ldnr _ _ _ _ _ mc => mc.loadOrdOk
  | .mdrain _ _ _ _ e => e.statusOk
  | .mfeed _ _ _ e => e.statusOk
  | .ores _ b c fmt gl _ _ => fmt.isQ || (gl == .g32 && b.isZero && c.isZero)
  | .pld _ _ _ _ mc => mc.noRlxOrdOk
  | .pldr _ _ _ _ mc => mc.noRlxOrdOk && mc.size == .b32
  | .post _ _ _ _ e => e.statusOk && e.scope == .thread
  | .pst _ _ _ mc => mc.noRlxOrdOk
  | .pstr _ _ _ mc => mc.noRlxOrdOk && mc.size == .b32
  | .qnt _ _ _ _ _ sf _ _ => sf.isFloat
  | .st _ _ _ mc => mc.loadOrdOk
  | .stf _ _ _ mc _ _ => mc.noRlxOrdOk
  | i => i.words != 0

/-! ## The decoder -/

/-- Why a word in instruction position is no instruction; each raises 0x10 (05_encoding R75, R95). -/
inductive DecodeError where
  | blockWordRow
  | reservedOpcode
  | reservedForm
deriving DecidableEq, Repr

/-- The number of words that the format of an opcode has (05_encoding R72, Table 5.14); 1 where the opcode has
no format (19_faults R277). -/
def opcodeWords (op : BitVec 8) : Nat :=
  match op.toNat with
  | 0x05 | 0x10 | 0x11 | 0x16 | 0x23 | 0x33 | 0x3C | 0x3D | 0x3E | 0x40 | 0x41 | 0x42 | 0x48 | 0x4A | 0x4B => 2
  | 0x50 | 0x51 | 0x52 | 0x54 | 0x55 | 0x56 | 0x58 | 0x59 | 0x5C | 0xA6 | 0xA7 | 0xA8 | 0xA9 => 2
  | 0x60 | 0x80 | 0x81 | 0x82 | 0x83 | 0x84 | 0x90 | 0x92 | 0x93 | 0x94 | 0xA2 | 0xA3 | 0xB0 => 2
  | 0x53 => 3
  | _ => 1

/-- `some x` when the condition holds. -/
def keepIf (c : Bool) (x : α) : Option α := if c then some x else none

/-- D, A, B, U and M of word 0. -/
def fU (w : Word) : Bool := flag w 23
/-- The D field. -/
def fD (w : Word) : Opnd := opndAt w 16
/-- The A field. -/
def fA (w : Word) : Opnd := opndAt w 9
/-- The B field. -/
def fB (w : Word) : Opnd := opndAt w 2
/-- The M field, also CNT. -/
def fM (w : Word) : BitVec 2 := fld w 0 2
/-- The C field of word 1. -/
def fC (w : Word) : Opnd := opndAt w 25
/-- The imm9 field. -/
def fImm9 (w : Word) : BitVec 9 := fld w 0 9

/-- Word 1 of a load, store or parcel access (05_encoding R83): FUNC must be 0. -/
def decMemCtl (w : Word) : Option MemCtl :=
  match MemSize.ofCode (fld w 26 3), Scope.ofCode (fld w 20 4) with
  | some size, some scope =>
      keepIf (fld w 14 4 == 0)
        { space := Space.ofCode (fld w 29 3), size := size, ord := Order.ofCode (fld w 24 2), scope := scope,
          cp := fld w 18 2, off := fld w 0 14 }
  | _, _ => none

/-- Word 1 of an atomic (22_ref R306); FUNC is read apart. -/
def decAtomCtl (w : Word) : Option AtomCtl :=
  match Scope.ofCode (fld w 20 4) with
  | some scope =>
      some { space := Space.ofCode (fld w 29 3), ty := AtomType.ofCode (fld w 26 3),
             ord := Order.ofCode (fld w 24 2), scope := scope, cp := fld w 18 2, off := fld w 0 14 }
  | none => none

/-- Word 1 of a format E command (05_encoding R87); FLAGS [6:4] is read apart. -/
def decEngCtl (w : Word) : Option EngCtl :=
  match Scope.ofCode (fld w 0 4) with
  | some scope =>
      some { c := fC w, l := opndAt w 18, dsp := Space.ofCode (fld w 15 3), ssp := Space.ofCode (fld w 12 3),
             guard := fld w 8 4, st := flag w 7, scope := scope }
  | none => none

/-- A format A instruction with a rounding code. -/
def decRnd (mk : Bool → Opnd → Opnd → Opnd → Rnd → Instr) (w : Word) : Option Instr :=
  some (mk (fU w) (fD w) (fA w) (fB w) (Rnd.ofCode (fM w)))

/-- A format A instruction with a width code. -/
def decW (mk : Bool → Opnd → Opnd → Opnd → Width → Instr) (w : Word) : Option Instr :=
  (Width.ofCode (fM w)).map fun x => mk (fU w) (fD w) (fA w) (fB w) x

/-- A format A instruction with a width code and no B operand. -/
def decW1 (mk : Bool → Opnd → Opnd → Width → Instr) (w : Word) : Option Instr :=
  (Width.ofCode (fM w)).bind fun x => keepIf (fld w 2 7 == 0) (mk (fU w) (fD w) (fA w) x)

/-- A format A instruction with a type code. -/
def decTy (mk : Bool → Opnd → Opnd → Opnd → IntType → Instr) (w : Word) : Option Instr :=
  some (mk (fU w) (fD w) (fA w) (fB w) (IntType.ofM (fM w)))

/-- A format A instruction whose M is reserved. -/
def decA (mk : Bool → Opnd → Opnd → Opnd → Instr) (w : Word) : Option Instr :=
  keepIf (fM w == 0) (mk (fU w) (fD w) (fA w) (fB w))

/-- A format A instruction with neither B nor M. -/
def decA1 (mk : Bool → Opnd → Opnd → Instr) (w : Word) : Option Instr :=
  keepIf (fImm9 w == 0) (mk (fU w) (fD w) (fA w))

/-- A format A instruction with no B and a rounding code. -/
def decA1Rnd (mk : Bool → Opnd → Opnd → Rnd → Instr) (w : Word) : Option Instr :=
  keepIf (fld w 2 7 == 0) (mk (fU w) (fD w) (fA w) (Rnd.ofCode (fM w)))

/-- A floating-point compare (23_ref R334). -/
def decCmp (mk : Bool → Cond → BitVec 3 → Opnd → Opnd → Instr) (w : Word) : Option Instr :=
  (Cond.ofCode (fld w 19 4)).bind fun c => keepIf (fM w == 0) (mk (fU w) c (fld w 16 3) (fA w) (fB w))

/-- A fused multiply-add (23_ref R341). -/
def decFma (mk : Bool → Opnd → Opnd → Opnd → Opnd → Rnd → Instr) (w v : Word) : Option Instr :=
  keepIf (fM w == 0 && fld v 21 4 == 0 && !flag v 18 && fld v 0 18 == 0)
    (mk (fU w) (fD w) (fA w) (fB w) (fC v) (Rnd.ofCode (fld v 19 2)))

/-- The format of a packed-half instruction: 0x2 BF16, 0x3 FP16 (23_ref R336). -/
def decBf (x : BitVec 4) : Option Bool :=
  match x.toNat with
  | 2 => some true
  | 3 => some false
  | _ => none

/-- HADD2 and HMUL2 (23_ref R336). -/
def decH2 (mk : Bool → Opnd → Opnd → Opnd → Bool → Rnd → Instr) (w v : Word) : Option Instr :=
  (decBf (fld v 21 4)).bind fun bf =>
    keepIf (fM w == 0 && fld v 25 7 == 0 && !flag v 18 && fld v 0 18 == 0)
      (mk (fU w) (fD w) (fA w) (fB w) bf (Rnd.ofCode (fld v 19 2)))

/-- A format S instruction that uses only A. -/
def decSA (mk : Bool → Opnd → Instr) (w : Word) : Option Instr :=
  keepIf (fld w 16 7 == 0 && fImm9 w == 0) (mk (fU w) (fA w))

/-- A form that uses nothing besides the opcode and U. -/
def decU (mk : Bool → Instr) (w : Word) : Option Instr := keepIf (fld w 0 23 == 0) (mk (fU w))

/-- BRA and CALL (05_encoding R85). -/
def decB (mk : Bool → BitVec 19 → Instr) (w : Word) : Option Instr :=
  keepIf (fld w 19 4 == 0) (mk (fU w) (fld w 0 19))

/-- The format bit of QNT and DQNT: 0x8 is Q8, 0x9 is Q4. -/
def decQ4 (x : BitVec 4) : Option Bool :=
  match x.toNat with
  | 8 => some false
  | 9 => some true
  | _ => none

/-- The fields of one instruction by its opcode; `none` where a field holds a reserved value. -/
def decodeFields (w v x : Word) : Option Instr :=
  match (fld w 24 8).toNat with
  | 0x00 => keepIf (fld w 0 24 == 0) .nop
  | 0x01 => decW .iadd w
  | 0x02 => decW .isub w
  | 0x03 => some (.iaddi (fU w) (fD w) (fA w) (fImm9 w))
  | 0x04 => some (.imul (fU w) (fD w) (fA w) (fB w) (MulForm.ofCode (fM w)))
  | 0x05 => (IntType.ofFmt (fld v 21 4)).bind fun ty =>
      keepIf (fM w == 0 && fld v 19 2 == 0 && fld v 0 18 == 0)
        (.imad (fU w) (fD w) (fA w) (fB w) (fC v) ty (flag v 18))
  | 0x06 => decTy .imin w
  | 0x07 => decTy .imax w
  | 0x08 => decW1 .iabs w
  | 0x09 => decW .and w
  | 0x0A => decW .or w
  | 0x0B => decW .xor w
  | 0x0C => decW .shl w
  | 0x0D => decW .shr w
  | 0x0E => decW .sar w
  | 0x0F => decW .rol w
  | 0x10 => (IntType.ofFmt (fld v 21 4)).bind fun ty =>
      keepIf (fM w == 0 && fld v 25 7 == 0 && fld v 0 21 == 0) (.bfx (fU w) (fD w) (fA w) (fB w) ty)
  | 0x11 =>
      (match (fld v 21 4).toNat with
        | 0x7 => some Width.w32
        | 0xD => some Width.w64
        | _ => none).bind fun wd =>
      keepIf (fM w == 0 && fld v 0 21 == 0) (.bfi (fU w) (fD w) (fA w) (fB w) (fC v) wd)
  | 0x12 => decW1 .popc w
  | 0x13 => decW1 .clz w
  | 0x14 => decW1 .brev w
  | 0x15 => (Cond.ofCode (fld w 19 4)).bind fun c => (Width.ofCode (fM w)).map fun wd =>
      .icmp (fU w) c (fld w 16 3) (fA w) (fB w) wd
  | 0x16 => (MovWidth.ofExt (fld v 21 4)).bind fun wd =>
      keepIf (fM w == 0 && fld v 25 7 == 0 && fld v 18 3 == 0 && fld v 0 14 == 0)
        (.sel (fU w) (fD w) (fA w) (fB w) (fld v 15 3) (flag v 14) wd)
  | 0x17 => (MovWidth.ofCode (fM w)).bind fun wd => keepIf (fld w 2 7 == 0) (.mov (fU w) (fD w) (fA w) wd)
  | 0x18 => some (.movi (fU w) (fD w) (fld w 0 16))
  | 0x19 => some (.movh (fU w) (fD w) (fld w 0 16))
  | 0x1A => decTy .idiv w
  | 0x1B => decTy .irem w
  | 0x1C => keepIf (fld w 19 4 == 0 && fld w 12 4 == 0 && fld w 7 2 == 0)
      (.plop (fU w) (fld w 16 3) (fld w 9 3) (fld w 4 3) (fld w 0 4))
  | 0x1D =>
      if flag w 8 then keepIf (fld w 16 7 == 0) (.pmovUnpack (fU w) (fA w) (fld w 0 8))
      else keepIf (fld w 0 16 == 0) (.pmovPack (fU w) (fD w))
  | 0x20 => decRnd .fadd w
  | 0x21 => decRnd .fsub w
  | 0x22 => decRnd .fmul w
  | 0x23 => decFma .ffma w v
  | 0x24 => decA .fmin w
  | 0x25 => decA .fmax w
  | 0x26 => decCmp .fcmp w
  | 0x27 => decA1 .frcp w
  | 0x28 => decA1 .frsq w
  | 0x29 => decA1Rnd .fsqrt w
  | 0x2A => decRnd .fdiv w
  | 0x2B => decA1 .fex2 w
  | 0x2C => decA1 .flg2 w
  | 0x2D => decA1 .fsin w
  | 0x2E => decA1 .fcos w
  | 0x2F => decW1 .fcls w
  | 0x30 => decRnd .dadd w
  | 0x31 => decRnd .dsub w
  | 0x32 => decRnd .dmul w
  | 0x33 => decFma .dfma w v
  | 0x34 => decA .dmin w
  | 0x35 => decA .dmax w
  | 0x36 => decCmp .dcmp w
  | 0x37 => decRnd .ddiv w
  | 0x38 => decA1Rnd .dsqrt w
  | 0x39 => decA1 .drcp w
  | 0x3C => decH2 .hadd2 w v
  | 0x3D => decH2 .hmul2 w v
  | 0x3E => (decBf (fld v 21 4)).bind fun bf =>
      keepIf (fM w == 0 && !flag v 18 && fld v 0 18 == 0)
        (.hfma2 (fU w) (fD w) (fA w) (fB w) (fC v) bf (Rnd.ofCode (fld v 19 2)))
  | 0x40 => (Fmt.ofCode (fld v 21 4)).bind fun df => (Fmt.ofCode (fld v 14 4)).bind fun sf =>
      keepIf (fImm9 w == 0 && fld v 25 7 == 0 && fld v 0 14 == 0)
        (.cvt (fU w) (fD w) (fA w) df sf (Rnd.ofCode (fld v 19 2)) (flag v 18))
  | 0x41 => (Fmt.ofCode (fld v 21 4)).bind fun sf => (decQ4 (fld v 14 4)).bind fun q4 =>
      keepIf (fM w == 0 && !flag v 18 && fld v 0 14 == 0)
        (.qnt (fU w) (fD w) (fA w) (fB w) (fC v) sf (Rnd.ofCode (fld v 19 2)) q4)
  | 0x42 => (Fmt.ofCode (fld v 21 4)).bind fun df => (decQ4 (fld v 14 4)).bind fun q4 =>
      keepIf (fM w == 0 && fld v 0 14 == 0)
        (.dqnt (fU w) (fD w) (fA w) (fB w) (fC v) df (Rnd.ofCode (fld v 19 2)) (flag v 18) q4)
  | 0x48 => (ShflMode.ofCode (fld v 21 4)).bind fun mode => (Width.ofCode (fld v 16 2)).bind fun wd =>
      keepIf (!fU w && fM w == 0 && fld v 25 7 == 0 && fld v 18 3 == 0 && fld v 0 16 == 0)
        (.shfl (fD w) (fA w) (fB w) mode wd)
  | 0x49 => keepIf (!fU w && fld w 9 7 == 0 && fld w 6 3 == 0)
      (.vote (fD w) (VoteMode.ofCode (fld w 4 2)) (flag w 3) (fld w 0 3))
  | 0x4A => (GrOp.ofCode (fld v 21 4)).bind fun op => (GrType.ofCode (fld v 14 4)).bind fun ty =>
      keepIf (!fU w && fImm9 w == 0 && fld v 25 7 == 0 && fld v 0 14 == 0)
        (.gred (fD w) (fA w) op ty (Rnd.ofCode (fld v 19 2)) (flag v 18))
  | 0x4B => (GrOp.ofCode (fld v 21 4)).bind fun op => (GrType.ofCode (fld v 14 4)).bind fun ty =>
      keepIf (!fU w && fImm9 w == 0 && fld v 25 7 == 0 && fld v 0 13 == 0)
        (.gscan (fD w) (fA w) op ty (Rnd.ofCode (fld v 19 2)) (flag v 18) (flag v 13))
  | 0x50 => (decMemCtl v).bind fun mc => keepIf (fld w 2 7 == 0) (.ld (fU w) (fD w) (fA w) (fM w) mc)
  | 0x51 => (decMemCtl v).bind fun mc =>
      keepIf (fld w 5 4 == 0) (.ldnr (fU w) (fD w) (fA w) (fld w 2 3) (fM w) mc)
  | 0x52 => (decMemCtl v).bind fun mc => keepIf (fImm9 w == 0) (.st (fU w) (fD w) (fA w) mc)
  | 0x53 => (decMemCtl v).bind fun mc =>
      keepIf (fImm9 w == 0 && fld x 16 9 == 0) (.stf (fU w) (fD w) (fA w) mc (fC x) (fld x 0 16))
  | 0x54 => (decAtomCtl v).bind fun mc => (AtomOp.ofCode (fld v 14 4)).map fun op =>
      .atom (fU w) (fD w) (fA w) (fB w) (fM w) op mc
  | 0x55 => (decAtomCtl v).bind fun mc => (AtomOp.ofCode (fld v 14 4)).bind fun op =>
      keepIf (fImm9 w == 0) (.atomn (fU w) (fD w) (fA w) op mc)
  | 0x56 => (decAtomCtl v).bind fun mc =>
      keepIf (fld v 14 4 == 0) (.cas (fU w) (fD w) (fA w) (fB w) (fM w) mc)
  | 0x57 => (Scope.ofCode (fld w 4 4)).bind fun scope =>
      keepIf (fld w 9 14 == 0 && !flag w 8 && fld w 2 2 == 0) (.fence (fU w) scope (FenceKind.ofCode (fM w)))
  | 0x58 => (PrefKind.ofCode (fld v 14 4)).bind fun kind =>
      keepIf (fld w 16 7 == 0 && fImm9 w == 0 && fld v 18 11 == 0)
        (.pref (fU w) (fA w) kind (Space.ofCode (fld v 29 3)) (fld v 0 14))
  | 0x59 => (CmntOp.ofCode (fld v 14 4)).bind fun op => (Reach.ofCode (fld v 26 3)).bind fun reach =>
      keepIf (fld w 16 7 == 0 && fImm9 w == 0 && fld v 18 8 == 0)
        (.cmnt (fU w) (fA w) op reach (Space.ofCode (fld v 29 3)) (fld v 0 14))
  | 0x5A =>
      if flag w 8 then keepIf (fld w 16 7 == 0 && fld w 0 8 == 0) (.ttagRegister (fU w) (fA w))
      else keepIf (fld w 9 14 == 0) (.ttagImmediate (fU w) (fld w 0 8))
  | 0x5B =>
      (match (fImm9 w).toNat with
        | 4 => some false
        | 5 => some true
        | _ => none).bind fun pkg => keepIf (fld w 16 7 == 0) (.tdrop (fU w) (fA w) pkg)
  | 0x5C =>
      (match (fld v 14 4).toNat with
        | 0 => some false
        | 1 => some true
        | _ => none).bind fun wr =>
      keepIf (fld w 16 7 == 0 && fM w == 0 && fld v 18 11 == 0)
        (.resq (fU w) (fA w) (fB w) wr (Space.ofCode (fld v 29 3)) (fld v 0 14))
  | 0x60 => keepIf (fld w 16 7 == 0 && fM w == 0 && fld v 0 25 == 0) (.sinit (fU w) (fA w) (fB w) (fC v))
  | 0x61 => keepIf (fld w 16 7 == 0 && fld w 1 8 == 0) (.sarv (fU w) (fA w) (flag w 0))
  | 0x62 => keepIf (fImm9 w == 0) (.sexp (fU w) (fD w) (fA w))
  | 0x63 => keepIf (fld w 16 7 == 0 && fld w 1 8 == 0) (.swait (fU w) (fA w) (flag w 0))
  | 0x64 => decU .tbar w
  | 0x65 => decU .cbar w
  | 0x66 => keepIf (fld w 4 19 == 0) (.garm (fU w) (fld w 0 4))
  | 0x67 => keepIf (fld w 16 7 == 0 && fld w 4 5 == 0) (.gset (fU w) (fA w) (fld w 0 4))
  | 0x70 => decB .bra w
  | 0x71 => some (.brc (fU w) (fld w 20 3) (flag w 19) (fld w 0 19))
  | 0x72 => decSA .brx w
  | 0x73 => decB .call w
  | 0x74 => decSA .callx w
  | 0x75 => decU .ret w
  | 0x76 => decU .exit w
  | 0x77 => keepIf (fld w 16 8 == 0) (.trap (fld w 0 16))
  | 0x78 =>
      if fld w 0 24 == 0 then some .resume else if fld w 0 24 == 1 then some .resumeSkip else none
  | 0x79 => keepIf (fld w 16 8 == 0) (.bkpt (fld w 0 16))
  | 0x80 => (decEngCtl v).bind fun e => keepIf (fM w == 0 && fld v 4 3 == 0) (.cpy (fU w) (fD w) (fA w) (fB w) e)
  | 0x81 => (decEngCtl v).bind fun e => keepIf (fM w == 0 && fld v 4 3 == 0) (.cpym (fU w) (fD w) (fA w) (fB w) e)
  | 0x82 => (decEngCtl v).bind fun e =>
      keepIf (fM w == 0 && fld v 5 2 == 0) (.cpyt (fU w) (fD w) (fA w) (fB w) (flag v 4) e)
  | 0x83 => (decEngCtl v).bind fun e => (CredType.ofCode (fld v 4 2)).bind fun ty =>
      keepIf (fM w == 0 && !flag v 6) (.cred (fU w) (fD w) (fA w) (fB w) ty e)
  | 0x84 => keepIf (fld w 16 7 == 0 && fM w == 0 && fld v 18 14 == 0 && fld v 0 12 == 0)
      (.tdld (fU w) (fA w) (fB w) (Space.ofCode (fld v 15 3)) (Space.ofCode (fld v 12 3)))
  | 0x90 => (Fmt.ofCode (fld v 21 4)).bind fun fmt => (GroupLen.ofCode (fld v 16 2)).bind fun gl =>
      (Rows.ofCode (fld v 11 2)).bind fun rw =>
      keepIf (fU w && fld w 16 7 == 0 && fM w == 0 && fld v 18 3 == 0 && fld v 0 11 == 0)
        (.ores (fA w) (fB w) (fC v) fmt gl (fld v 13 3) rw)
  | 0x91 => keepIf (fU w && fld w 3 20 == 0) (.orel (fld w 0 3))
  | 0x92 => (decEngCtl v).bind fun e =>
      keepIf (fU w && fld w 16 7 == 0 && fM w == 0) (.mfeed (fA w) (fB w) (fld v 4 3) e)
  | 0x93 => (Rows.ofCode (fld v 10 2)).bind fun m => (Rows.ofCode (fld v 8 2)).bind fun n =>
      keepIf (fU w && fld w 16 7 == 0 && fM w == 0 && fld v 18 7 == 0 && fld v 0 2 == 0)
        (.mloop (fA w) (fB w) (fC v)
          { arid := fld v 15 3, brid := fld v 12 3, m := m, n := n, ak := flag v 7, bk := flag v 6,
            guard := fld v 2 4 })
  | 0x94 => (decEngCtl v).bind fun e =>
      keepIf (fU w && fM w == 0 && fld v 4 2 == 0) (.mdrain (fD w) (fA w) (fB w) (flag v 6) e)
  | 0x95 => keepIf (fU w && fld w 16 7 == 0) (.mzero (fA w) (fImm9 w))
  | 0x96 => keepIf (fU w && fImm9 w == 0) (.aalloc (fD w) (fA w))
  | 0x97 => keepIf (fU w && fld w 16 7 == 0) (.afree (fA w) (fImm9 w))
  | 0xA0 => keepIf (fImm9 w == 0) (.pnew (fU w) (fD w) (fA w))
  | 0xA1 => decSA .pseal w
  | 0xA2 => (decEngCtl v).bind fun e => keepIf (fM w == 0 && fld v 4 3 == 0) (.post (fU w) (fD w) (fA w) (fB w) e)
  | 0xA3 => keepIf (fld w 16 7 == 0 && fImm9 w == 0 && fld v 25 7 == 0 && fld v 0 12 == 0)
      (.precv (fU w) (fA w) (opndAt v 18) (Space.ofCode (fld v 15 3)) (Space.ofCode (fld v 12 3)))
  | 0xA4 => decSA .pwait w
  | 0xA5 => decSA .pfree w
  | 0xA6 => (decMemCtl v).bind fun mc => keepIf (fld w 2 7 == 0) (.pld (fU w) (fD w) (fA w) (fM w) mc)
  | 0xA7 => (decMemCtl v).bind fun mc => keepIf (fImm9 w == 0) (.pst (fU w) (fD w) (fA w) mc)
  | 0xA8 => (decMemCtl v).bind fun mc => keepIf (fld w 2 7 == 0) (.pldr (fU w) (fD w) (fA w) (fM w) mc)
  | 0xA9 => (decMemCtl v).bind fun mc => keepIf (fImm9 w == 0) (.pstr (fU w) (fD w) (fA w) mc)
  | 0xAA => decA .padd w
  | 0xAB => keepIf (fld w 2 7 == 0) (.pqry (fU w) (fD w) (fA w) (fM w))
  | 0xB0 => (decEngCtl v).bind fun e =>
      keepIf (fld w 16 7 == 0 && fM w == 0 && fld v 4 3 == 0) (.jpost (fU w) (fA w) (fB w) e)
  | 0xC0 => keepIf (fld w 9 7 == 0) (.gets (fU w) (fD w) (fImm9 w))
  | 0xC1 => keepIf (fld w 16 7 == 0) (.sets (fU w) (fA w) (fImm9 w))
  | 0xC2 => decU .mrst w
  | _ => none

/-- Whether Table 5.14 gives the opcode an instruction (05_encoding R94). -/
def opcodeKnown (op : BitVec 8) : Bool :=
  let n := op.toNat
  n ≤ 0x1D || (0x20 ≤ n && n ≤ 0x39) || (0x3C ≤ n && n ≤ 0x3E) || (0x40 ≤ n && n ≤ 0x42) ||
  (0x48 ≤ n && n ≤ 0x4B) || (0x50 ≤ n && n ≤ 0x5C) || (0x60 ≤ n && n ≤ 0x67) || (0x70 ≤ n && n ≤ 0x79) ||
  (0x80 ≤ n && n ≤ 0x84) || (0x90 ≤ n && n ≤ 0x97) || (0xA0 ≤ n && n ≤ 0xAB) || n == 0xB0 ||
  (0xC0 ≤ n && n ≤ 0xC2)

/-- Decode the words in instruction position; words past the format's length are not looked at
(05_encoding R72, R75, R94, R95). -/
def decode (w v x : Word) : Except DecodeError Instr :=
  if fld w 28 4 == 0xF then .error .blockWordRow
  else if opcodeKnown (fld w 24 8) then
    match decodeFields w v x with
    | some i => if i.formOk then .ok i else .error .reservedForm
    | none => .error .reservedForm
  else .error .reservedOpcode

/-! ## Bytes -/

/-- A word from four bytes, little-endian (00_scope R3); absent bytes read as 0. -/
def wordOfBytes (bs : List Byte) : Word :=
  (bs.getD 3 0) ++ (bs.getD 2 0) ++ (bs.getD 1 0) ++ (bs.getD 0 0)

/-- The four bytes of a word, little-endian. -/
def bytesOfWord (w : Word) : List Byte :=
  [w.extractLsb' 0 8, w.extractLsb' 8 8, w.extractLsb' 16 8, w.extractLsb' 24 8]

/-- Decode from bytes at rising addresses: the instruction and the bytes after it. -/
def decodeBytes (bs : List Byte) : Except DecodeError (Instr × List Byte) :=
  match decode (wordOfBytes bs) (wordOfBytes (bs.drop 4)) (wordOfBytes (bs.drop 8)) with
  | .ok i => .ok (i, bs.drop (4 * i.words))
  | .error e => .error e

/-- The instruction whose bits are `w`, numbered as the opcode table numbers them: bit 0 is bit 0 of the first
word, and later words count on; every bit from `nbits` up is 0. The words are laid out as memory holds them and
given to the decoder. -/
def decodeTableWord (nbits w : Nat) : Option Instr :=
  let n := w % 2 ^ nbits
  let bytes := (List.range 12).map fun i => BitVec.ofNat 8 (n / 2 ^ (8 * i))
  match decodeBytes bytes with
  | .ok (i, _) => some i
  | .error _ => none

end Sys2Proof
end

