-- ==== Sys2Proof/Config.lean ====
section
/-!
DEFINITION. What one implementation fixes (resource counts of 00_scope R1 and the chapters named at each
constant) and the free values: opaque constants without a body, so that nothing can be proved of their values.
-/
namespace Sys2Proof

/-! ## Constants -/

/-- What a byte of pool or host memory that nothing has written reads as. The spec gives power-on memory no
contents (DESIGN CHOICE, unsafe, log 2). -/
def Config.emptyByte : Byte := 0

/-- Call-sheet entries of a core (03_selector R41). -/
def Config.sheetEntries : Nat := 256

/-- The starvation guard's age (03_selector R47). -/
def Config.guardAge : Nat := 2048

/-- Entries of the copy engine's queue (13_copy R208). -/
def Config.engineQueue : Nat := 64

/-- Entries of a router's hold queue (08_coherence R164). -/
def Config.holdQueue : Nat := 8

/-- Physical granules of a core's accumulator memory (00_scope R1). -/
def Config.granules : Nat := 256

/-- Operand-buffer lines (14_matrix 14.1). -/
def Config.bufferLines : Nat := 512

/-- Bytes of a core's data array (07_memory R125). -/
def Config.dataArray : Nat := 2097152

/-- The smallest L1 share in bytes (07_memory R125). -/
def Config.minL1 : Nat := 786432

/-- TLB capacities (07_memory R139): core, die, walk-ahead. -/
def Config.coreTlb : Nat := 128
/-- Entries of the die TLB. -/
def Config.dieTlb : Nat := 8192
/-- Entries of a copy engine's walk-ahead TLB. -/
def Config.walkTlb : Nat := 64

/-- Entries of the residency ring (07_memory R143). -/
def Config.residencyRing : Nat := 1024

/-- Cards of a local task queue (18_scheduling R266). -/
def Config.localCards : Nat := 16

/-- Sets of a compute router's and of a base router's tree cache: 8,192 and 32,768 entries in 16 ways
(08_coherence R154). The set that a line maps to is not given: the low bits of the line number (DESIGN CHOICE, log 7). -/
def Config.treeSets (base : Bool) : Nat := if base then 2048 else 512

/-- Data entries of an L2 slice: 64 MiB a die in 16 slices (00_scope R1), each of one line, or of two that compress (07_memory R131). -/
def Config.l2Lines : Nat := 32768

/-- Lines of an L3 slice: 16 GiB in 64 slices (00_scope R1). -/
def Config.l3Lines : Nat := 2097152

/-- Folio entries of a gate (08_coherence R170). -/
def Config.gateEntries : Nat := 65536

/-- Ways of a tree cache. -/
def Config.treeWays : Nat := 16

/-- Outstanding line requests of a compute die (21_outside R285). -/
def Config.dieRequests : Nat := 6144

/-- Retransmissions of one packet (21_outside R291). -/
def Config.retransmits : Nat := 16

/-- Lowest core clock in MHz (21_outside R294). -/
def Config.minClock : Nat := 1500

/-- The clock of base-die routers and L3 slices in MHz (21_outside R294). -/
def Config.baseClock : Nat := 1500

/-- The clock of the I/O dies and of the SerDes in MHz until firmware plans another: the spec gives none (DESIGN CHOICE, log 115). -/
def Config.ioClock : Nat := 1500


/-- The range of the voltage of a compute die's core rail in mV (21_outside Table 21.6). -/
def Config.minVolt : Nat := 550
/-- The highest voltage of a core rail. -/
def Config.maxVolt : Nat := 750

/-- MSI-X vectors of a function (21_outside Table 21.1). -/
def Config.msixVectors : Nat := 64

/-- Highest core clock in MHz (00_scope R1). -/
def Config.maxClock : Nat := 3000

/-- Default watchdog window of a matrix unit, in local cycles (14_matrix R232). -/
def Config.watchdog : Nat := 67108864

/-- Entries of the fault report ring, which system software places (19_faults R278). The spec gives no size:
the records that the ring holds before its space is used up (DESIGN CHOICE, log 8). -/
def Config.reportRing : Nat := 256

/-- Where function 8 holds the endpoint table (21_outside R290 gives no place: DESIGN CHOICE, log 12). -/
def Config.endpointBase : Nat := 0x00100000

/-- Where function 8 holds the tenant of each compute-die function, one register a function (DESIGN CHOICE, log 12). -/
def Config.tenantBase : Nat := 0x00200000

/-- Where a die's function holds its watchdog window (DESIGN CHOICE, log 12). -/
def Config.watchdogReg : Nat := 0x00000800

/-! ## Free values -/

/-- Bytes that the spec leaves undefined: the extents of a receive slot after a failed incoming parcel
(16_parcels R240, Table 16.3), and a context save area (18_scheduling R269; log 70). The argument numbers the bytes in the order they are used
up (log 3). -/
opaque Config.freeByte : Nat → Byte

/-- Values for which the spec states no result: an ARRB or ARRA whose count leaves its field (13_copy R212). The argument
numbers them in the order they are used up (log 3). -/
opaque Config.freeValue : Nat → BitVec 64

/-- The size in bytes of the save area of a cluster of a job card (18_scheduling R269; log 70). -/
opaque Config.saveBytes : BitVec 512 → Nat

/-- Where the save area of a cluster, by its index, starts behind CTX, in lines of 128 bytes (18_scheduling R269; log 70). -/
opaque Config.saveLine : BitVec 512 → Nat → Nat

/-- The version byte of a capability in the list of a function (01_package R16; log 107). -/
opaque Config.capabilityVersion : BitVec 16 → BitVec 8

/-- How many registers of 8 bytes stand between a capability's header and the next one's (01_package R16; log 107). -/
opaque Config.capabilityBody : BitVec 16 → Nat

/-- The MSI-X vector that a function raises its interrupts by, by function (21_outside R283; log 108). -/
opaque Config.vector : Nat → Fin 64

/-- The identity key's certificate chain (21_outside R293). -/
opaque Config.certChain : List Byte

/-- SHA-256 digest of the firmware image that a die came up with before any cold boot of the model: 0 to 3 base dies, 4 to 11 compute
dies, 12 and 13 I/O dies (21_outside R293). -/
opaque Config.imageDigest : Nat → BitVec 256

/-- Whether a line compresses under base-delta encoding (07_memory R131; log 101). -/
opaque Config.compresses : Line → Bool

/-- The SHA-256 digest of a message (21_outside R292, R293; log 105). -/
opaque Config.sha256 : List Byte → BitVec 256

/-- Whether a signature over a digest verifies with a public key: ECDSA over P-256 (21_outside R292; log 105). -/
opaque Config.verifies : BitVec 512 → BitVec 256 → BitVec 512 → Bool

/-- The key hash in I/O die 0's fuses (21_outside R292). -/
opaque Config.keyHash : BitVec 256

/-- The fused minimum of the security version numbers (21_outside R292). -/
opaque Config.minVersion : Nat

/-- The ECDSA P-256 signature by the identity key over a nonce and the measurements (21_outside R293). -/
opaque Config.sign : BitVec 256 → List (BitVec 512) → BitVec 512

end Sys2Proof
end

