-- ==== Sys2Proof/Machine/State.lean ====
section
/-!
DEFINITION. The state of the part as plain data, the reasons a step can stop, and the state right after reset.
INVENTORY.md lists every field with the rule that names it and its reset value.
Virtual die numbers key what belongs to a logical device; PHYSICAL die numbers key caches and routers.
-/
namespace Sys2Proof.Machine

/-! ## Why a step can stop -/

/-- A stop of the whole machine. Faults of threads are next states, not these. -/
inductive Fault where
  /-- Raised by the meaning of an encoded instruction in a state in which no issue group stands at a word: there is
  no lane to execute it. Safe: no step of a run executes a word without an issue group. -/
  | noIssueGroup
deriving DecidableEq, Repr

/-- No meaning. -/
inductive Refusal where
  /-- Raised by an arm of the dispatch whose instruction has no meaning in the model yet. Safe. -/
  | notModelled (mnemonic : String)
deriving DecidableEq, Repr

/-! ## Memories -/

/-- Bytes by address: strictly rising addresses, no byte equal to what an unlisted address reads as. -/
abbrev Memory := List Host.Cell

/-! ## Threads (02_execution, 19_faults) -/

/-- Thread states (02_execution Table 2.1). -/
inductive TState where
  | enrolled
  | issuing
  | draining
  | waiting
  | faultPending
  | parked
  | exited
deriving DecidableEq, Repr

/-- A fault of one thread, before it is recorded (19_faults Table 19.2). -/
structure FaultInfo where
  cause : BitVec 8
  block : Addr
  widx : Nat
  addr : Addr
  extra : Word
  u : Bool
deriving DecidableEq, Repr

/-- What a wait terminator waits for. -/
inductive WaitKind where
  | slate (off : Nat) (v : Bool)
  | team
  | cluster
  | parcel (ref : Addr)
deriving DecidableEq, Repr

/-- What follows a thread's drain (02_execution R30). -/
inductive After where
  | none
  | enrol (block : Addr) (word : Word)
  | wait (k : WaitKind) (next : Addr) (word : Word)
  | exit
  | resume (skip : Bool) (widx : Nat)
  | step (block : Addr) (widx : Nat)
deriving DecidableEq, Repr

/-- A resume point: the word to start at and the frame (19_faults R277). -/
structure Resume where
  widx : Nat
  frame : Vector Word 32
deriving DecidableEq, Repr

/-- One thread. -/
structure Thread where
  id : ThreadId
  st : TState
  block : Addr
  coll : Bool
  after : After
  arrived : Bool
  t : Vector Word 32
  k : Vector Word 64
  p : BitVec 8
  ctr : Vector Nat 4
  hm : Bool
  mark : Bool
  tag : BitVec 8
  age : Nat
  resume : Option Resume
  fault : Option FaultInfo
  deferred : List (Nat × FaultInfo)
  parkEntry : Option Nat
  handEntry : Option Nat
  parkInfo : Option FaultInfo
  freedRef : Option Addr
deriving DecidableEq, Repr

/-! ## Teams (02_execution, 13_copy, 14_matrix) -/

/-- Guard-slot states (13_copy R214). -/
inductive Guard where
  | idle
  | unresolved
  | isTrue
  | isFalse
deriving DecidableEq, Repr

/-- A live reservation (14_matrix Table 14.4). -/
structure Resv where
  start : Nat
  len : Nat
  fmt : Fmt
  gl : GroupLen
  rw : Rows
  gcnt : BitVec 16
  fill : Nat
  rcur : Nat
  soff : Word
  zoff : Word
deriving DecidableEq, Repr

/-- One resident team. `guardRel` are the accesses that the GSET of a slot releases (23_ref R374), `guardBy` the highest thread
slot that has updated a guard slot in this core cycle, and its pipe (R369). -/
structure Team where
  id : TeamId
  cluster : Nat
  cpos : Nat
  index : Nat
  g0 : Nat
  nthr : Nat
  kcount : Nat
  roles : BitVec 32
  scratch : Nat
  blot : Nat
  handler : Option Addr
  priv : Bool
  asid : BitVec 16
  tctl : Word
  tstat : Word
  seq : BitVec 32
  guards : Vector Guard 16
  guardRel : Vector (List Nat) 16
  guardBy : Vector (Option (Nat × PipeId)) 16
  tiles : Vector (Option (BitVec 512)) 16
  spad : Memory
  gran : List (Nat × Nat)
  f64 : List Nat
  resv : Vector (Option Resv) 8
  mrst : Bool
deriving DecidableEq, Repr

/-! ## Issue (03_selector) -/

/-- What holds an issue group between two words (R29, R208, R245, R395, R428, R439, R443, R451, R453), or before one that cannot be
fetched, or whose target or table entries have not been read yet (05_encoding R73, 07_memory R135), or until the next cycle (R369). -/
inductive Hold where
  | counter (tid : Nat) (c : Fin 4)
  | acc (id : Nat)
  | perf (id : Nat)
  | answer (id : Nat)
  | enter (id : Nat)
  | seal (tids : List Nat) (ref : Addr) (u : Bool)
  | free (tids : List Nat) (ref : Addr) (u : Bool)
  | post (tids : List Nat) (ref : Addr) (u : Bool) (cmd : Nat)
  | discard (tag : BitVec 8) (die : Option (Fin 8))
  | earlier (id : Nat)
  | fetch
  | cycle (core : CoreId) (lcyc : BitVec 64)
  | tile (id : Nat) (word : Word)
deriving DecidableEq, Repr

/-- The clause a pipe is in: its class, the index after its last word, and the team control word, with its UCHK, as it stood when the
clause issued (R32). -/
structure Clause where
  cls : BitVec 3
  fin : Nat
  uchk : Bool
  tctl : Word
deriving DecidableEq, Repr

/-- An issue pipe that streams an issue group: lanes are thread indices in the order of their home lanes. `run` numbers the block
execution (10_ordering R191), and `instr` is the instruction that a hold keeps from executing, which is fetched once (05_encoding R73);
`ran` are the lanes that have executed it already, while those after them wait for a table entry (07_memory R135). -/
structure Pipe where
  id : PipeId
  team : TeamId
  lanes : List Nat
  block : Addr
  len : Nat
  coll : Bool
  widx : Nat
  clause : Option Clause
  hold : List Hold
  single : Bool
  run : Nat
  instr : Option Instr
  ran : List Nat
deriving DecidableEq, Repr

/-- A call-sheet entry (Table 3.1); COUNT, GATH and AGE follow from the waiters. -/
structure Sheet where
  core : CoreId
  team : Fin 64
  block : Addr
  coll : Bool
  prio : BitVec 2
  waiters : BitVec 2048
  used : Nat
deriving DecidableEq, Repr

/-! ## Accesses in flight -/

/-- Where an access performs. A peer-window access carries the import entry as step 1 of R12 found it. -/
inductive Place where
  | spad (team : TeamId) (off : Nat)
  | line (l : LineId) (off : Nat) (cls : BitVec 2)
  | peer (entry : BitVec 64) (off : Nat)
deriving DecidableEq, Repr

/-- What an access does where it performs. -/
inductive MemOp where
  | load (size : MemSize)
  | loadRef (base : Addr) (psize : Nat)
  | store (data : List Byte)
  | stf (data : List Byte) (flag : LineId) (foff : Nat)
  | atom (op : AtomOp) (ty : AtomType) (b : BitVec 64) (ret : Bool)
  | cas (ty : AtomType) (cmp b : BitVec 64)
  | prefetch (own : Bool)
  | engRead (cmd : Nat) (len : Nat)
  | engOwn (cmd : Nat)
  | cmnt (op : CmntOp) (reach : Reach)
  | tdesc (slot : Fin 16)
deriving DecidableEq, Repr

/-- What an access needs of a leaf (07_memory Table 7.9). -/
inductive Needs where
  | rd
  | wr
  | rw
  | fetch
  | leaf
deriving DecidableEq, Repr

/-- How far an access has come. -/
inductive Phase where
  | gated
  | asked
  | answered (a : PeerAnswer)
  | missing
  | done
  | failed (cause : BitVec 8) (addr : Addr) (extra : Word)
deriving DecidableEq, Repr

/-- One access in flight: a unit (10_ordering R180). `lanes` are the threads that receive the result, `cp` the cache policy (R130),
`run` the block execution (R191), `ref` says that the access is parcel-relative (17_program_parcel
R256), `parcel` and `fpar` are the parcels of its page and of an STF's flag (16_parcels R242), and `fea` is the flag's virtual address
(07_memory R140). -/
structure Acc where
  id : Nat
  th : ThreadId
  lanes : List Nat
  block : Addr
  widx : Nat
  u : Bool
  cache : CacheId
  place : Place
  op : MemOp
  ea : Addr
  size : Nat
  tag : BitVec 8
  ctr : Option (Fin 4)
  dst : List Opnd
  pred : Option (BitVec 3)
  ord : Order
  scope : Scope
  cp : BitVec 2
  run : Nat
  ref : Bool
  phase : Phase
  got : List Byte
  nonres : Bool
  written : BitVec 4
  parcel : Option (Fin 8 × Nat)
  fpar : Option (Fin 8 × Nat)
  fea : Option Addr
deriving DecidableEq, Repr

/-! ## Slates and engine commands (13_copy, 14_matrix, 16_parcels) -/

/-- Where a slate lies: in a team's scratchpad, in global DC memory (R260), or in a saved context, by cluster and position (R270). -/
inductive SlateAt where
  | team (t : TeamId) (off : Nat)
  | grid (g : Nat)
  | saved (cluster cpos off : Nat)
deriving DecidableEq, Repr

/-- A credit on its way to the owning slate logic (R212). `cmd` and `dest` name the command's NOSL bit, `after` the stores
that must have performed first (25_ref R436). -/
structure Credit where
  id : Nat
  at' : SlateAt
  bytes : Nat
  arrivals : Nat
  err : Bool
  cmd : Option Nat
  dest : Nat
  after : List Nat
deriving DecidableEq, Repr

/-- The transform record of MDRAIN, read at issue (Table 14.9). -/
structure Drain where
  rs : Option Nat
  cs : Option Nat
  bias : Option Nat
  hi : Word
  lo : Word
  dstride : Addr
  ofmt : Fmt
  rnd : Rnd
  clamp : Bool
  sat : Bool
  m : Rows
  n : Rows
  zero : Bool
  f64 : Bool
deriving DecidableEq, Repr

/-- The work of one engine or matrix-unit command, with the operand values read at issue. `incoming` is a parcel that
reaches a die of the package from outside it (16_parcels R251, R252). -/
inductive CmdOp where
  | cpy (dsp ssp : Space) (d a : Addr) (len : Nat)
  | cpym (d : Nat) (ssp : Space) (a : Addr) (mask : BitVec 12) (len : Nat)
  | cpyt (st : Bool) (dsp : Space) (d : Addr) (c0 c1 : Word) (desc : BitVec 512)
  | cred (ty : CredType) (dsp ssp : Space) (d a : Addr) (len : Nat)
  | post (ref sref : Addr) (route : Word)
  | precv (h : Nat)
  | incoming (size mtu : Nat)
  | jpost (card : Addr) (target : Word)
  | mfeed (rid : BitVec 3) (ssp : Space) (a : Addr) (desc : BitVec 512) (len : Nat)
  | mloop (steps gran : Nat) (arid brid : BitVec 3) (m n : Rows) (ak bk : Bool)
  | mdrain (dsp : Space) (d : Addr) (gran : Nat) (r : Drain)
  | mzero (gran count : Nat)
  | afree (gran count : Nat)
  | orel (rid : BitVec 3)
deriving DecidableEq, Repr

/-- How far a command has come: `stopped` before it may enter the queue, a POST whose parcel is still in use (16_parcels R242). -/
inductive CmdPhase where
  | entering
  | queued
  | running
  | stopped
  | finished
deriving DecidableEq, Repr

/-- A translated destination page of a command (13_copy R215): `parcels` are the handles of its extents that the command
writes (16_parcels R242), `entry` the import entry through which a peer window's owner has accepted it (01_package R15). -/
structure Page where
  vpn : Nat
  pa : Nat
  cc : BitVec 2
  tag : BitVec 8
  host : Bool
  parcels : List (Fin 8 × Nat)
  entry : Option (BitVec 64)
deriving DecidableEq, Repr

/-- One engine or matrix command. `pos` counts units, lines or steps done; `buf` holds source units that were read and
not yet written; `locked` are the destination lines for whose ownership it has asked (R218); `srcs` are the handles of the parcels whose flat
pages it reads, accepted at issue (16_parcels R241); `psums` are the exact partial sums of a Q group; `ruled` is what its guard said at the
end of a cycle in which it stood at the head of its queue, with the accesses that a TRUE releases (23_ref R369, R374). -/
structure Cmd where
  id : Nat
  core : CoreId
  team : TeamId
  th : ThreadId
  lanes : List Nat
  asid : BitVec 16
  tag : BitVec 8
  op : CmdOp
  guard : BitVec 4
  scope : Scope
  slate : SlateAt
  soff : Nat
  status : Option Nat
  phase : CmdPhase
  pos : Nat
  rd : Nat
  buf : List Byte
  locked : List LineId
  fail : BitVec 12
  nosl : BitVec 12
  cause : BitVec 8
  disc : Bool
  err : Bool
  credited : Nat
  pages : List Page
  srcs : List Nat
  claim : Option (Fin 8 × Nat)
  psums : List Int
  bad : Bool
  ruled : Option (Bool × List Nat)
deriving DecidableEq, Repr

/-! ## Caches and trees (07_memory, 08_coherence) -/

/-- The state of a cached copy: NC, or tree MOESI (Table 8.4; I is absence). -/
inductive LineState where
  | nc
  | s
  | e
  | o
  | m
deriving DecidableEq, Repr

/-- A copy in an L1 or an L2 slice; `fetch` copies are kept apart (05_encoding R73). `busy` is the engine command that
holds the line for a write not yet performed (R163), `next` says that the line is the next victim (Table 7.3). -/
structure CacheLine where
  cache : CacheId
  line : LineId
  fetch : Bool
  st : LineState
  data : Line
  dirty : BitVec 128
  tag : BitVec 8
  busy : Option Nat
  next : Bool
deriving DecidableEq, Repr

/-- A line in its home L3 slice (R128). -/
structure L3Line where
  num : Nat
  data : Line
  dirty : Bool
  tag : BitVec 8
deriving DecidableEq, Repr

/-- A router of a compute mesh or of the base mesh (Table 8.1). -/
inductive RouterId where
  | compute (die x y : Fin 8)
  | base (x : Fin 16) (y : Fin 8)
deriving DecidableEq, Repr

/-- Router ports in the order of Table 8.2's HINT; `self` is the home's own side. -/
inductive Port where
  | n
  | e
  | s
  | w
  | up
  | dn
  | self
deriving DecidableEq, Repr

/-- A line's data on its way home, with the identifier of its superblock (07_memory R132). -/
structure Datum where
  data : Line
  tag : BitVec 8
deriving DecidableEq, Repr

/-- A tree-cache entry (Table 8.2), with the data its acknowledgements returned, whether the cut is a trim, and when it
was last used. -/
structure TreeEntry where
  router : RouterId
  line : LineId
  hint : BitVec 18
  root : Port
  pend : Nat
  st : Bool
  links : BitVec 8
  data : Option Datum
  trim : Bool
  discard : Bool
  used : Nat
deriving DecidableEq, Repr

/-- What travels between routers for one line (8.4 to 8.6). -/
inductive MsgKind where
  | catchable
  | steered
  | direct
  | own
  | reply (data : Line) (splice excl : Bool) (hops : Nat) (holder : Bool)
  | grant (data : Line)
  | cut (discard own : Bool)
  | ack (data : Option Datum)
  | prune
  | writeback (data : Datum)
deriving DecidableEq, Repr

/-- One message: `at'` is the router it has reached, `port` the port it arrived through, `path` the routers its request
visited, newest first, and `caught` the hops to the catch point. A `held` request has stood in a hold queue of that router (R164). The reply
to a `once` request is taken as use-once (05_encoding R73), and for one that waits for a `way` its router trims an entry (R165). -/
structure Msg where
  id : Nat
  kind : MsgKind
  line : LineId
  req : CacheId
  at' : RouterId
  port : Port
  path : List RouterId
  caught : Option Nat
  returned : Nat
  held : Bool
  once : Bool
  way : Bool
deriving DecidableEq, Repr

/-- A read miss or an ownership request of a cache that has not been answered; `acc` is the access, or the read of the part's own, that
it serves. -/
structure Miss where
  cache : CacheId
  line : LineId
  own : Bool
  acc : Nat
  delayed : Bool
deriving DecidableEq, Repr

/-- What the home of a line is doing (R161, R163, R165, R172, R174, R175). -/
inductive HomeOp where
  | own (m : Msg)
  | folio (toShared : Bool)
  | discard
  | snoop
  | snpData
  | inbound (nc : Bool) (off : Nat) (data : List Byte)
deriving DecidableEq, Repr

/-- One home's operation: the data collected, whether its cut has started, and whether the line's branches are gone. -/
structure HomeJob where
  id : Nat
  line : LineId
  op : HomeOp
  data : Option Datum
  started : Bool
  cut : Bool
deriving DecidableEq, Repr

/-- An entry of a core's bounce table (R166); times are core cycles. `times` are those of the last cuts, newest first; `since` is when
the core came to hold the line in M, while it does; `owed` says that the delay of the last cut is still to come. -/
structure Bounce where
  die : Fin 8
  core : Fin 64
  line : LineId
  times : List Nat
  since : Option Nat
  delay : Nat
  owed : Bool
  used : Nat
deriving DecidableEq, Repr

/-- Folio states at a package gate (R170). -/
inductive FolioState where
  | i
  | s
  | e
deriving DecidableEq, Repr

/-- One folio: its state, what homes have asked for, what was asked of the pool node, and a cut in progress with the
line acknowledgements still awaited. -/
structure Folio where
  num : Nat
  st : FolioState
  want : FolioState
  asked : FolioState
  cut : Option (Bool × Nat)
deriving DecidableEq, Repr

/-! ## Pool ports and network (21_outside) -/

/-- What a request at a pool port asks: a folio, a line for its L3 slice, the write of the masked bytes of a line, an STF's data write or
flag increment, a parcel. -/
inductive PoolWhat where
  | folio (num : Nat)
  | line (num : Nat)
  | write (num : Nat) (data : Line) (mask : BitVec 128)
  | stf (acc : Nat)
  | flag (acc : Nat)
  | parcel (cmd : Nat)
deriving DecidableEq, Repr

/-- One request at a pool port (R285, R286). -/
structure PoolReq where
  id : Nat
  die : Fin 8
  port : Fin 48
  what : PoolWhat
  sent : Bool
  resent : Bool
  answered : Bool
deriving DecidableEq, Repr

/-- A pool port: its width in lanes (4, 2, 1, or 0 when dead) and whether it retrains. -/
structure PoolPort where
  width : Nat
  retrain : Bool
  window : Nat
  timeout : Nat
deriving DecidableEq, Repr

/-- A parcel on the network: packets in all, the Ethernet port by which each has gone, placed at the receiver, acknowledged, and sent again
how often. -/
structure NetParcel where
  cmd : Nat
  packets : Nat
  via : List (Nat × Fin 4)
  placed : List Nat
  acked : List Nat
  again : List (Nat × Nat)
deriving DecidableEq, Repr

/-! ## Dies (01_package, 07_memory, 16_parcels, 18_scheduling) -/

/-- Parcel handle states (Table 16.2). -/
inductive HState where
  | free
  | open'
  | sealed
  | transit
  | receiving
  | arrived
deriving DecidableEq, Repr

/-- A handle entry (Table 16.2). -/
structure Handle where
  idx : Nat
  size : Nat
  route : Word
  dref : Addr
  asid : BitVec 16
  gen : BitVec 16
  slate : Nat
  efirst : Nat
  ecount : Nat
  team : Fin 64
  core : Fin 64
  clm : Bool
  st : HState
deriving DecidableEq, Repr

/-- A dispatcher access that failed and is retried first when the queue resumes (18_scheduling R458). -/
inductive QueueWork where
  | card
  | wslate
  | record
deriving DecidableEq, Repr

/-- One hardware queue (18_scheduling Table 18.1, R257, R264). `done` holds outcomes whose records are not written yet:
card number, status, cause. -/
structure Queue where
  cfg : QueueConfig
  tail : Nat
  head : Nat
  rec' : Nat
  done : List (Nat × BitVec 2 × BitVec 8)
  stopped : Option QueueWork
deriving DecidableEq, Repr

/-- Which TLB an entry is in (07_memory R139). -/
inductive TlbAt where
  | core (c : Fin 64)
  | die
  | walk (c : Fin 64)
deriving DecidableEq, Repr

/-- A TLB entry; `big` is a 512 MiB page. -/
structure Tlb where
  at' : TlbAt
  asid : BitVec 16
  host : Bool
  big : Bool
  vpn : Nat
  leaf : BitVec 64
deriving DecidableEq, Repr

/-- A shootdown in progress (07_memory R140): the accesses, and the commands with pages, that translated through a dropped
entry. -/
structure Shoot where
  id : Nat
  asid : BitVec 16
  base : Addr
  len : Nat
  accs : List Nat
  cmds : List Nat
deriving DecidableEq, Repr

/-- A residency request whose doorbell has not been received (R143, R144). -/
structure Residency where
  seq : Nat
  rec' : BitVec 256
  at' : SlateAt
deriving DecidableEq, Repr

/-- A translation that the part itself asks of a peer window's owner (01_package R12), for instruction fetch, the dispatcher or a parcel
engine: the 4 KiB block of window addresses, the import entry as step 1 found it, and the owner's answer. -/
structure PeerAsk where
  id : Nat
  die : Fin 8
  win : Nat
  entry : BitVec 64
  needs : Needs
  answer : Option PeerAnswer
deriving DecidableEq, Repr

/-- What has come of a read that the part makes for itself. -/
inductive ReadRes where
  | waiting
  | got (data : Line)
  | taken (data : Line)
  | failed (cause : BitVec 8) (extra : Word)
deriving DecidableEq, Repr

/-- A catchable read that the part makes for itself, from the router of a cache: instruction fetch, the dispatcher, a page-table walk
(05_encoding R73, 07_memory R135, 18_scheduling R260). -/
structure HwRead where
  id : Nat
  die : Fin 8
  cache : CacheId
  line : LineId
  tag : BitVec 8
  res : ReadRes
deriving DecidableEq, Repr

/-- A page-table root (R135). -/
structure Root where
  asid : BitVec 16
  host : Bool
  root : Option (BitVec 64)
deriving DecidableEq, Repr

/-- The check of RESUME that refused a debug action (19_faults R277, R279, 25_ref R432): the entry is not in use, it belongs to
another thread, the block is collective, the word is no instruction, or a block fails R23. -/
inductive ResumeCheck where
  | entry
  | thread
  | collective
  | header
  | block (cause : BitVec 8)
deriving DecidableEq, Repr

/-- What a function reports of a debug action (19_faults R279): done, refused by its condition, or by a check. -/
inductive DebugReply where
  | done
  | condition
  | check (c : ResumeCheck)
deriving DecidableEq, Repr

/-- One logical device, by virtual die number. `revoking` are exports under revocation, each entry as it stood; `saves` are the sizes of
the save areas by cluster (18_scheduling R269); `acting` are CONTINUE (false) and SKIP (true) actions whose code is still being fetched
(19_faults R279). -/
structure Die where
  exports : List (Nat × BitVec 128)
  imports : List (Nat × BitVec 64)
  revoking : List (Nat × BitVec 128)
  roots : List Root
  tlbs : List Tlb
  shoots : List Shoot
  queues : List (Nat × Queue)
  turn : Nat
  pool : Option PoolConfig
  handles : List Handle
  resSeq : Nat
  residency : List Residency
  resRing : List (Nat × BitVec 256)
  reports : List (BitVec 128)
  reportsHeld : List (BitVec 128)
  health : List (BitVec 128)
  watchdog : Nat
  debug : Option DebugReply
  acting : List (ThreadId × Bool)
  saves : List (Nat × Nat)
  interrupts : Nat
deriving DecidableEq, Repr

/-- One core (02_execution, 03_selector, 07_memory, 14_matrix). `cards` is its local task queue: each card with the queue and the
address space that it was issued under. `due` are the enrolments of this cycle, which take effect at its end (R43), `exits` the threads that have exited in it, and `picked` says
whether the selector has dispatched in it (R45). -/
structure Core where
  lcyc : BitVec 64
  l1share : Nat
  served : Nat
  busy : Nat
  picked : Bool
  due : List (ThreadId × Addr × Word)
  exits : List ThreadId
  acc : Memory
  opbuf : List (Nat × Line × Bool)
  cards : List (Fin 64 × BitVec 16 × BitVec 512)
  cardNum : Nat
  progress : Nat
deriving DecidableEq, Repr

/-! ## Grids and clusters (18_scheduling) -/

/-- Where a grid's card came from. -/
inductive CardSrc where
  | queue (q : Fin 64) (num : Nat)
  | localQ (core : Fin 64) (num : Nat)
deriving DecidableEq, Repr

/-- One grid: its card and the word of its entry block, the queue it was issued under, its effective priority, the next cluster to
place, and the clusters retired. An orphan's queue has been enabled anew since. -/
structure Grid where
  id : Nat
  die : Fin 8
  src : CardSrc
  queue : Fin 64
  prio : Nat
  card : BitVec 512
  word : Word
  asid : BitVec 16
  placed : Nat
  retired : Nat
  ended : Bool
  complete : Bool
  orphan : Bool
deriving DecidableEq, Repr

/-- One resident cluster: its rectangle and whether pre-emption has stopped it. -/
structure Cluster where
  id : Nat
  grid : Nat
  die : Fin 8
  index : Nat
  x0 : Nat
  y0 : Nat
  w : Nat
  h : Nat
  prio : Nat
  stopping : Bool
deriving DecidableEq, Repr

/-- A place where an uncorrectable error was found (19_faults R281). -/
inductive Damage where
  | cached (c : CacheId) (l : LineId)
  | l3 (num : Nat)
  | pool (num : Nat)
  | spad (team : TeamId) (unit : Nat)
  | kreg (th : ThreadId) (n : Nat)
  | preg (th : ThreadId) (n : Nat)
  | acc (core : CoreId) (unit : Nat)
deriving DecidableEq, Repr

/-- A context saved by pre-emption (R233, R269): the operand-buffer lines and the accumulator bytes by team position and number.
`slots` are the receive slots of its teams: handle, generation, position; `damage` are the marks on what was saved (19_faults R281). -/
structure Context where
  cluster : Cluster
  teams : List Team
  threads : List Thread
  sheet : List Sheet
  cmds : List Cmd
  lines : List (Nat × Nat × Line × Bool)
  acc : List (Nat × Nat × Byte)
  slots : List (Nat × BitVec 16 × Nat)
  damage : List Damage
deriving DecidableEq, Repr

/-! ## The package -/

/-- A power rail: its voltage in mV and the clock of what it feeds in MHz (21_outside R294, R295). -/
structure RailState where
  volt : Nat
  clock : Nat
deriving DecidableEq, Repr

/-- The management function and what belongs to the whole package (01_package, 21_outside). `coreRails` go by physical compute die
(Table 21.6). -/
structure Package where
  accNum : BitVec 8
  vmap : Vector (Option (Fin 8)) 8
  present : BitVec 256
  partitions : List (Nat × BitVec 256)
  tenantOf : Vector Nat 8
  dieMap : List (BitVec 8 × BitVec 8)
  endpoints : List (Nat × BitVec 256)
  registers : List (Fin 9 × BitVec 32 × Word)
  eth : BitVec 4
  hosts : BitVec 2
  io1 : Bool
  crossPaths : BitVec 4
  health : Word
  healthEvents : List (BitVec 64)
  lostLines : List LineId
  fused : List CoreId
  retiredCores : List CoreId
  coreRails : Vector RailState 8
  sramRail : RailState
  baseRail : RailState
  ioRail : RailState
  serdesRail : RailState
  response : List (BitVec 512)
  chain : List Byte
  digests : List (Nat × BitVec 256)
  capabilities : Vector (List (BitVec 16)) 9
  interrupts : Nat
deriving DecidableEq, Repr

/-- The state of the part. The model's own fields: `agenda` holds the events that the outside causes, in their order; `focus` is
the issue group that stands at a word; `fresh` numbers accesses, commands, messages and the like; `freed` numbers the free
values used up; `turn` rotates what the part does of itself. `ended` are the pipes whose issue group has ended in this cycle of their
core (03_selector R45), and `flagsNow` the sticky flags that have been set in it, by the pipe whose word set them, if any (06_arithmetic
R110). `imported` are the 4 KiB blocks that importers have reached through peer windows: physical die, import entry, physical block
(01_package R15). -/
structure State where
  agenda : List Instr
  focus : Option PipeId
  fresh : Nat
  freed : Nat
  turn : Nat
  threads : List Thread
  teams : List Team
  pipes : List Pipe
  ended : List PipeId
  flagsNow : List (TeamId × Option PipeId × Word)
  sheet : List Sheet
  cores : List (CoreId × Core)
  dies : Vector Die 8
  grids : List Grid
  clusters : List Cluster
  contexts : List Context
  accs : List Acc
  asks : List PeerAsk
  reads : List HwRead
  credits : List Credit
  cmds : List Cmd
  lines : List CacheLine
  imported : List (Fin 8 × BitVec 64 × Nat)
  l3 : List L3Line
  tree : List TreeEntry
  msgs : List Msg
  holdq : List Msg
  returned : List Msg
  misses : List Miss
  jobs : List HomeJob
  bounces : List Bounce
  folios : List Folio
  ports : Vector PoolPort 48
  poolReqs : List PoolReq
  nets : List NetParcel
  pool : Memory
  host : Memory
  damage : List Damage
  scLines : List LineId
  pkg : Package
deriving DecidableEq, Repr

/-! ## Reset -/

/-- A queue before system software configures it (log 4). -/
def queueReset : Queue :=
  { cfg := { en := false, asid := 0, base := 0, size := 16, cring := 0, ceil := 0, priv := false, preempt := false,
             ctx := 0 },
    tail := 0, head := 0, rec' := 0, done := [], stopped := none }

/-- A logical device after the boot: nothing configured; the default watchdog window of R232. The first residency record of a die has
SEQ 0, which 07_memory R143 does not say (DESIGN CHOICE, log 126). -/
def dieReset : Die :=
  { exports := [], imports := [], revoking := [], roots := [], tlbs := [], shoots := [], queues := [], turn := 0,
    pool := none, handles := [], resSeq := 0, residency := [], resRing := [], reports := [], reportsHeld := [],
    health := [], watchdog := Config.watchdog, debug := none, acting := [], saves := [], interrupts := 0 }

/-- A core from its reset (R268): the counter at 0, nothing resident. Its L1 has the largest share of 07_memory R125, of which the spec says
nothing (DESIGN CHOICE, log 125). -/
def coreReset : Core :=
  { lcyc := 0, l1share := 1572864, served := 0, busy := 0, picked := false, due := [], exits := [], acc := [], opbuf := [], cards := [], cardNum := 0,
    progress := 0 }

/-- A trained pool port (R285, R286). -/
def portReset : PoolPort := { width := 4, retrain := false, window := 1024, timeout := 50 }

/-- The management function after a cold boot in which every die and port works (R292): identity map, all ones in no
mask (log 5). The capability lists are those of 01_package Table 1.5. -/
def packageReset : Package :=
  { accNum := 0, vmap := Vector.ofFn fun i => some i, present := 0, partitions := [],
    tenantOf := Vector.replicate 8 0, dieMap := [], endpoints := [], registers := [], eth := 0xF, hosts := 3, io1 := true,
    crossPaths := 0xF, health := 15, healthEvents := [], lostLines := [], fused := [], retiredCores := [],
    coreRails := Vector.replicate 8 { volt := 600, clock := Config.maxClock },
    sramRail := { volt := 750, clock := Config.baseClock }, baseRail := { volt := 700, clock := Config.baseClock },
    ioRail := { volt := 750, clock := Config.ioClock }, serdesRail := { volt := 900, clock := Config.ioClock },
    response := [], chain := [], digests := [],
    capabilities := Vector.ofFn fun i =>
      if i.val = 8 then [0x0004, 0x0006, 0x0007]
      else if i.val < 4 then [0x0001, 0x0002, 0x0003, 0x0005] else [0x0001, 0x0002, 0x0005],
    interrupts := 0 }

/-- The machine right after reset: the package after a cold boot with all parts working (21_outside R292), no work
posted, nothing resident, nothing cached, memory with nothing listed. -/
def State.reset : State :=
  { agenda := [], focus := none, fresh := 0, freed := 0, turn := 0, threads := [], teams := [], pipes := [], ended := [],
    flagsNow := [], sheet := [],
    cores := [], dies := Vector.replicate 8 dieReset, grids := [], clusters := [], contexts := [], accs := [], asks := [], reads := [],
    credits := [], cmds := [], lines := [], imported := [], l3 := [], tree := [], msgs := [], holdq := [], returned := [],
    misses := [], jobs := [], bounces := [], folios := [], ports := Vector.replicate 48 portReset, poolReqs := [],
    nets := [], pool := [], host := [], damage := [], scLines := [], pkg := packageReset }

end Sys2Proof.Machine
end

