-- ==== Sys2Proof/Machine/Memory.lean ====
section
/-!
DEFINITION. Bytes, lines and the canonical memories (00_scope R3: little-endian), and the bit fields of values
wider than a word.
-/
namespace Sys2Proof.Machine

/-! ## Bytes -/

/-- The value of bytes at rising addresses, little-endian. -/
def natOfBytes : List Byte → Nat
  | [] => 0
  | b :: bs => b.toNat + 256 * natOfBytes bs

/-- The low `n` bytes of a value, little-endian. -/
def bytesOfNat : Nat → Nat → List Byte
  | 0, _ => []
  | n + 1, x => BitVec.ofNat 8 x :: bytesOfNat n (x / 256)

/-- Bits [lo + len - 1 : lo] of a value. -/
def bitsOf (x lo len : Nat) : Nat := (x >>> lo) % 2 ^ len

/-- A value sign-extended from `w` bits. -/
def signedOf (w x : Nat) : Int :=
  if x % 2 ^ w < 2 ^ (w - 1) then ((x % 2 ^ w : Nat) : Int) else ((x % 2 ^ w : Nat) : Int) - (2 ^ w : Nat)

/-- The `w`-bit two's complement pattern of an integer. -/
def wrapInt (w : Nat) (x : Int) : Nat := (x % ((2 ^ w : Nat) : Int)).toNat

/-! ## Memories -/

/-- The byte that an unlisted address reads as (log 2). -/
def Memory.unlisted : Byte := Config.emptyByte

/-- The byte at an address. -/
def Memory.get : Memory → Nat → Byte
  | [], _ => Memory.unlisted
  | (b, v) :: m, a => if a = b then v else if a < b then Memory.unlisted else Memory.get m a

/-- A memory with the cell in front, unless the byte is what an unlisted address reads as. -/
def Memory.put (a : Nat) (v : Byte) (m : Memory) : Memory := if v = Memory.unlisted then m else (a, v) :: m

/-- Write one byte. -/
def Memory.set : Memory → Nat → Byte → Memory
  | [], a, v => Memory.put a v []
  | (b, w) :: m, a, v =>
      if a = b then Memory.put a v m
      else if a < b then Memory.put a v ((b, w) :: m)
      else (b, w) :: Memory.set m a v

/-- `n` bytes from an address. -/
def Memory.getN (m : Memory) (a : Nat) : Nat → List Byte
  | 0 => []
  | n + 1 => m.get a :: m.getN (a + 1) n

/-- Write bytes at rising addresses. -/
def Memory.setN (m : Memory) (a : Nat) : List Byte → Memory
  | [] => m
  | b :: bs => Memory.setN (m.set a b) (a + 1) bs

/-- Every address of the list is above `a`, strictly rising, and no byte is the unlisted one. -/
def Memory.wfFrom : Nat → Memory → Bool
  | _, [] => true
  | a, (b, v) :: m => decide (a ≤ b) && (v != Memory.unlisted) && Memory.wfFrom (b + 1) m

/-- The canonical form. -/
def Memory.wf (m : Memory) : Bool := Memory.wfFrom 0 m

/-- A little-endian value of `n` bytes. -/
def Memory.getNat (m : Memory) (a n : Nat) : Nat := natOfBytes (m.getN a n)

/-- Remove every listed byte of [a, a + n). -/
def Memory.clear (m : Memory) (a n : Nat) : Memory := m.filter fun c => c.1 < a || a + n ≤ c.1

/-! ## Lines -/

/-- `n` bytes of a line from an offset. -/
def lineBytes (l : Line) (off : Nat) : Nat → List Byte
  | 0 => []
  | n + 1 => l.extractLsb' (8 * off) 8 :: lineBytes l (off + 1) n

/-- A line with one byte replaced. -/
def lineSet (l : Line) (off : Nat) (b : Byte) : Line :=
  (l &&& ~~~ (BitVec.ofNat 1024 0xFF <<< (8 * off))) ||| (b.setWidth 1024 <<< (8 * off))

/-- A line with bytes replaced at rising offsets. -/
def lineSetN (l : Line) (off : Nat) : List Byte → Line
  | [] => l
  | b :: bs => lineSetN (lineSet l off b) (off + 1) bs

/-- The dirty mask of `n` bytes from an offset. -/
def dirtyMask (off n : Nat) : BitVec 128 := BitVec.ofNat 128 ((2 ^ n - 1) * 2 ^ off)

/-- One line of memory. -/
def Memory.getLine (m : Memory) (num : Nat) : Line := BitVec.ofNat 1024 (m.getNat (128 * num) 128)

/-- Write one line of memory. -/
def Memory.setLine (m : Memory) (num : Nat) (l : Line) : Memory := m.setN (128 * num) (lineBytes l 0 128)

/-- The bytes of `new` where the mask has a 1, else those of `old`. -/
def lineMerge (old new : Line) (mask : BitVec 128) : Nat → Line
  | 0 => old
  | n + 1 =>
      let l := lineMerge old new mask n
      if mask.getLsbD n then lineSet l n (new.extractLsb' (8 * n) 8) else l

end Sys2Proof.Machine
end

