-- ==== Sys2Proof/Machine/Operands.lean ====
section
/-!
DEFINITION. Operand forms (05_encoding 5.3): the fields an instruction reads and writes and how many registers each
names, the inline constants, engine classes (02_execution Table 2.4) and roles (Table 2.12).
-/
namespace Sys2Proof

/-! ## Inline constants (05_encoding Table 5.2) -/

/-- The integer column. -/
def constInt (c : BitVec 4) : Int :=
  match c.toNat with
  | 0x0 => 0
  | 0x1 => 1
  | 0x2 => 2
  | 0x3 => 4
  | 0x4 => 8
  | 0x5 => 16
  | 0x6 => 32
  | 0x7 => 64
  | 0x8 => -1
  | 0x9 => -2
  | 0xA => 128
  | 0xB => 65535
  | 0xC => -2147483648
  | 0xD => 31
  | 0xE => 255
  | _ => 2147483647

/-- The FP32 column. -/
def constF32 (c : BitVec 4) : Word :=
  match c.toNat with
  | 0x0 => 0x00000000
  | 0x1 => 0x3F800000
  | 0x2 => 0x40000000
  | 0x3 => 0x40800000
  | 0x4 => 0x41000000
  | 0x5 => 0x41800000
  | 0x6 => 0x42000000
  | 0x7 => 0x42800000
  | 0x8 => 0xBF800000
  | 0x9 => 0xC0000000
  | 0xA => 0x3F000000
  | 0xB => 0x3E800000
  | 0xC => 0x3F3504F3
  | 0xD => 0x40490FDB
  | 0xE => 0x437F0000
  | _ => 0x7F800000

/-- The FP64 column. -/
def constF64 (c : BitVec 4) : BitVec 64 :=
  match c.toNat with
  | 0x0 => 0x0000000000000000
  | 0x1 => 0x3FF0000000000000
  | 0x2 => 0x4000000000000000
  | 0x3 => 0x4010000000000000
  | 0x4 => 0x4020000000000000
  | 0x5 => 0x4030000000000000
  | 0x6 => 0x4040000000000000
  | 0x7 => 0x4050000000000000
  | 0x8 => 0xBFF0000000000000
  | 0x9 => 0xC000000000000000
  | 0xA => 0x3FE0000000000000
  | 0xB => 0x3FD0000000000000
  | 0xC => 0x3FE6A09E667F3BCD
  | 0xD => 0x400921FB54442D18
  | 0xE => 0x406FE00000000000
  | _ => 0x7FF0000000000000

/-! ## Uses -/

/-- One register field of an instruction: how many registers it names, whether it is read and written, and whether an
inline constant may stand there (R76). -/
structure Use where
  o : Opnd
  n : Nat
  reads : Bool
  writes : Bool
  constOk : Bool
deriving DecidableEq, Repr

/-- A source of `n` registers; a constant is legal unless the source is a quad. -/
def src (n : Nat) (o : Opnd) : Use := { o := o, n := n, reads := true, writes := false, constOk := n != 4 }

/-- A source that no constant may name: a base, or an operand of type Q8 or Q4. -/
def srcReg (n : Nat) (o : Opnd) : Use := { o := o, n := n, reads := true, writes := false, constOk := false }

/-- A destination. -/
def dstU (n : Nat) (o : Opnd) : Use := { o := o, n := n, reads := false, writes := true, constOk := false }

/-- A field that is read and then written. -/
def both (n : Nat) (o : Opnd) : Use := { o := o, n := n, reads := true, writes := true, constOk := false }

/-- Registers of a width. -/
def Width.regs : Width → Nat
  | .w32 => 1
  | .w64 => 2

/-- Registers of an integer type. -/
def IntType.regs : IntType → Nat
  | .i32 | .n32 => 1
  | .i64 | .n64 => 2

/-- Registers of an IMUL form. -/
def MulForm.regs : MulForm → Nat
  | .b64 => 2
  | .b32 | .hiI32 | .hiN32 => 1

/-- Registers of MOV and SEL. -/
def MovWidth.regs : MovWidth → Nat
  | .b32 => 1
  | .b64 => 2
  | .b128 => 4

/-- Registers of a format (22_ref Table 22.25). -/
def Fmt.regs : Fmt → Nat
  | .f64 | .i64 | .n64 => 2
  | .f32 | .bf16 | .h16 | .e4m3 | .e5m2 | .i32 | .n32 | .q8 | .q4 | .i16 | .n16 => 1

/-- Registers of an access size (05_encoding Table 5.7). -/
def MemSize.regs : MemSize → Nat
  | .n8 | .i8 | .n16 | .i16 | .b32 => 1
  | .b64 => 2
  | .b128 => 4

/-- Bytes of an access size (05_encoding Table 5.7). -/
def MemSize.bytes : MemSize → Nat
  | .n8 | .i8 => 1
  | .n16 | .i16 => 2
  | .b32 => 4
  | .b64 => 8
  | .b128 => 16

/-- Registers of an atomic type. -/
def AtomType.regs : AtomType → Nat
  | .i32 | .n32 | .f32 | .b32 => 1
  | .i64 | .n64 | .f64 | .b64 => 2

/-- Registers of a group element type. -/
def GrType.regs : GrType → Nat
  | .f64 | .i64 | .n64 => 2
  | .f32 | .i32 | .n32 => 1

/-- Registers that hold an address in a space: a pair for global and host addresses and parcel references, one
register otherwise (04_assembly Table 4.3a). The table has no row for the reserved codes 110 and 111; the model takes one register there
(DESIGN CHOICE, log 111). -/
def Space.regs : Space → Nat
  | .global | .host | .parcel => 2
  | .own | .peer | .accum | .res6 | .res7 => 1

/-- The slate, and the status offset when ST is 1. -/
def EngCtl.uses (e : EngCtl) : List Use := src 1 e.l :: (if e.st then [src 1 e.c] else [])

/-- The register fields of an instruction, in the order D, A, B, C, L. -/
def Instr.uses : Instr → List Use
  | .aalloc d c => [dstU 1 d, src 1 c]
  | .afree g _ | .mzero g _ => [src 1 g]
  | .and _ d a b w | .or _ d a b w | .xor _ d a b w | .iadd _ d a b w | .isub _ d a b w =>
      [dstU w.regs d, src w.regs a, src w.regs b]
  | .atom _ d base b _ _ mc =>
      [dstU mc.ty.regs d, srcReg mc.space.regs base, src mc.ty.regs b]
  | .atomn _ b base _ mc => [src mc.ty.regs b, srcReg mc.space.regs base]
  | .bfi _ d a b ctl w => [dstU w.regs d, src w.regs a, src w.regs b, src 1 ctl]
  | .bfx _ d a ctl ty => [dstU ty.regs d, src ty.regs a, src 1 ctl]
  | .brev _ d a w | .iabs _ d a w => [dstU w.regs d, src w.regs a]
  | .brx _ a | .callx _ a => [srcReg 2 a]
  | .cas _ d base b _ mc =>
      [both mc.ty.regs d, srcReg mc.space.regs base, src mc.ty.regs b]
  | .clz _ d a w | .popc _ d a w | .fcls _ d a w => [dstU 1 d, src w.regs a]
  | .cmnt _ base _ _ sp _ | .pref _ base _ sp _ => [srcReg sp.regs base]
  | .cpy _ d a b e | .cred _ d a b _ e =>
      [src e.dsp.regs d, src e.ssp.regs a, src 1 b] ++ e.uses
  | .cpym _ d a b e => [src 1 d, src e.ssp.regs a, src 1 b] ++ e.uses
  | .cpyt _ d a b _ e => [src e.dsp.regs d, src 2 a, src 1 b] ++ e.uses
  | .cvt _ d a df sf _ _ => [dstU df.regs d, src sf.regs a]
  | .dadd _ d a b _ | .dsub _ d a b _ | .dmul _ d a b _ | .ddiv _ d a b _ | .dmax _ d a b | .dmin _ d a b =>
      [dstU 2 d, src 2 a, src 2 b]
  | .dcmp _ _ _ a b => [src 2 a, src 2 b]
  | .dfma _ d a b c _ => [dstU 2 d, src 2 a, src 2 b, src 2 c]
  | .dqnt _ d q s z df _ _ _ => [dstU df.regs d, srcReg 1 q, src 1 s, src 1 z]
  | .drcp _ d a | .dsqrt _ d a _ => [dstU 2 d, src 2 a]
  | .fadd _ d a b _ | .fsub _ d a b _ | .fmul _ d a b _ | .fdiv _ d a b _ | .fmax _ d a b | .fmin _ d a b
  | .hadd2 _ d a b _ _ | .hmul2 _ d a b _ _ => [dstU 1 d, src 1 a, src 1 b]
  | .fcmp _ _ _ a b => [src 1 a, src 1 b]
  | .fcos _ d a | .fsin _ d a | .fex2 _ d a | .flg2 _ d a | .frcp _ d a | .frsq _ d a | .fsqrt _ d a _
  | .iaddi _ d a _ => [dstU 1 d, src 1 a]
  | .ffma _ d a b c _ | .hfma2 _ d a b c _ _ => [dstU 1 d, src 1 a, src 1 b, src 1 c]
  | .gets _ d _ | .movi _ d _ | .pmovPack _ d => [dstU 1 d]
  | .movh _ d _ => [both 1 d]
  | .gred d a _ ty _ _ | .gscan d a _ ty _ _ _ => [dstU ty.regs d, src ty.regs a]
  | .gset _ a _ | .pmovUnpack _ a _ | .sets _ a _ | .swait _ a _ | .sarv _ a _ | .ttagRegister _ a
  | .tdrop _ a _ => [src 1 a]
  | .icmp _ _ _ a b w => [src w.regs a, src w.regs b]
  | .idiv _ d a b ty | .irem _ d a b ty | .imax _ d a b ty | .imin _ d a b ty =>
      [dstU ty.regs d, src ty.regs a, src ty.regs b]
  | .imad _ d a b c ty _ =>
      [dstU ty.regs d, src ty.regs a, src ty.regs b, src ty.regs c]
  | .imul _ d a b f => [dstU f.regs d, src f.regs a, src f.regs b]
  | .jpost _ a b e => [src 2 a, src 1 b] ++ e.uses
  | .ld _ d base _ mc | .ldnr _ d base _ _ mc => [dstU mc.size.regs d, srcReg mc.space.regs base]
  | .mdrain d a b _ e => [src e.dsp.regs d, src 1 a, src 1 b] ++ e.uses
  | .mfeed a b _ e => [src e.ssp.regs a, src 1 b] ++ e.uses
  | .mloop a b c _ => [src 1 a, src 1 b, src 1 c]
  | .mov _ d a w => [dstU w.regs d, src w.regs a]
  | .ores a b c fmt _ _ _ => src 1 a :: (if fmt.isQ then [src 1 b, src 1 c] else [])
  | .padd _ d a b => [dstU 2 d, src 2 a, src 1 b]
  | .pfree _ a | .pseal _ a | .pwait _ a => [src 2 a]
  | .pld _ d base _ mc => [dstU mc.size.regs d, srcReg 2 base]
  | .pldr _ d base _ _ => [dstU 2 d, srcReg 2 base]
  | .pnew _ d a => [dstU 2 d, src 1 a]
  | .post _ d a b e => [src 1 d, src 2 a, src 2 b] ++ e.uses
  | .pqry _ d a _ => [dstU 1 d, src 2 a]
  | .precv _ a l _ _ => [src 2 a, src 1 l]
  | .pst _ d base mc => [src mc.size.regs d, srcReg 2 base]
  | .pstr _ d base _ => [src 2 d, srcReg 2 base]
  | .qnt _ d x s z sf _ _ => [dstU 1 d, src sf.regs x, src 1 s, src 1 z]
  | .resq _ base b _ sp _ => [srcReg sp.regs base, src 1 b]
  | .rol _ d a n w | .sar _ d a n w | .shl _ d a n w | .shr _ d a n w =>
      [dstU w.regs d, src w.regs a, src 1 n]
  | .sel _ d a b _ _ w => [dstU w.regs d, src w.regs a, src w.regs b]
  | .sexp _ b a => [src 1 b, src 1 a]
  | .shfl d a b _ w => [dstU w.regs d, src w.regs a, src 1 b]
  | .sinit _ a b c => [src 1 a, src 1 b, src 1 c]
  | .st _ d base mc => [src mc.size.regs d, srcReg mc.space.regs base]
  | .stf _ d base mc fb _ =>
      [src mc.size.regs d, srcReg mc.space.regs base, srcReg 2 fb]
  | .tdld _ a b _ _ => [src 2 a, src 1 b]
  | .vote d _ _ _ => [dstU 1 d]
  | _ => []

/-- The predicates an instruction reads (R34): UCHK compares them as sources. -/
def Instr.predUses : Instr → List (BitVec 3)
  | .brc _ p _ _ => [p]
  | .sel _ _ _ _ p _ _ => [p]
  | .plop _ _ a b _ => [a, b]
  | .pmovPack _ _ => [0, 1, 2, 3, 4, 5, 6, 7]
  | .vote _ _ _ p => [p]
  | _ => []

/-- The predicates that an instruction writes when it executes; LDNR writes its predicate when it returns. -/
def Instr.predDefs : Instr → List (BitVec 3)
  | .dcmp _ _ p _ _ | .fcmp _ _ p _ _ | .icmp _ _ p _ _ _ => [p]
  | .plop _ p _ _ _ => [p]
  | .pmovUnpack _ _ mask => (List.range 8).filterMap fun k => if mask.getLsbD k then some (BitVec.ofNat 3 k) else none
  | _ => []

/-- CALL, CALLX and RET name k62:k63 (R28). -/
def Instr.needsLink : Instr → Bool
  | .call _ _ | .callx _ _ | .ret _ => true
  | _ => false

/-! ## Classes and roles -/

/-- The uniform bit of an instruction (R34): bit 23 of its first word; group instructions, TRAP, BKPT and RESUME have 0,
matrix commands 1. -/
def Instr.uni (i : Instr) : Bool := flag i.word0 23

/-- Matrix commands (Table 2.4). -/
def Instr.isMatrix (i : Instr) : Bool := decide (0x90 ≤ (fld i.word0 24 8).toNat ∧ (fld i.word0 24 8).toNat ≤ 0x97)

/-- Instructions that are legal only in collective blocks (R38). -/
def Instr.collectiveOnly (i : Instr) : Bool :=
  i.isMatrix || decide (0x48 ≤ (fld i.word0 24 8).toNat ∧ (fld i.word0 24 8).toNat ≤ 0x4B)

/-- The engine class of an opcode (Table 2.4); none for the class-neutral NOP and BKPT. -/
def opcodeClass (op : BitVec 8) : Option (BitVec 3) :=
  let n := op.toNat
  if n = 0x00 ∨ n = 0x79 then none
  else if n = 0x1A ∨ n = 0x1B then some 1
  else if n ≤ 0x1D then some 0
  else if 0x27 ≤ n ∧ n ≤ 0x2E then some 1
  else if 0x37 ≤ n ∧ n ≤ 0x39 then some 1
  else if n ≤ 0x42 then some 0
  else if n ≤ 0x4B then some 3
  else if n = 0x57 then some 5
  else if n ≤ 0x5C then some 2
  else if n = 0x63 ∨ n = 0x64 ∨ n = 0x65 then some 6
  else if n ≤ 0x67 then some 5
  else if n ≤ 0x78 then some 6
  else if n ≤ 0x97 then some 4
  else if n = 0xA2 ∨ n = 0xA3 then some 4
  else if n = 0xA4 then some 6
  else if n ≤ 0xAB then some 2
  else if n = 0xB0 then some 4
  else if n = 0xC0 then some 0
  else some 7

/-- The engine class of an instruction. -/
def Instr.cls (i : Instr) : Option (BitVec 3) := opcodeClass (fld i.word0 24 8)

/-- The terminators of Table 2.5. -/
def opcodeTerminates (op : BitVec 8) : Bool := opcodeClass op == some 6

/-- Whether the role of a thread permits an instruction (Table 2.12): 0 vector, 1 matrix, 2 copy. -/
def roleOk (role : BitVec 2) (cls : Option (BitVec 3)) (matrix : Bool) : Bool :=
  match cls with
  | none => true
  | some c =>
      match c.toNat with
      | 1 | 3 | 7 => role != 2
      | 4 => if matrix then role == 1 else role != 0
      | _ => true

/-! ## Register names -/

/-- Whether the operand code names registers or a constant legally for this use and k count (R27, R28, R76). -/
def Use.ok (kc : Nat) (u : Use) : Bool :=
  match u.o with
  | .t n => decide (n.toNat % u.n = 0)
  | .k n => decide (n.toNat % u.n = 0 ∧ n.toNat + u.n ≤ kc)
  | .c _ => u.constOk
  | .r _ => false

/-- The register `i` places above the one an operand names. -/
def Opnd.plus (o : Opnd) (i : Nat) : Opnd :=
  match o with
  | .t n => .t (n + BitVec.ofNat 5 i)
  | .k n => .k (n + BitVec.ofNat 6 i)
  | .c n => .c n
  | .r n => .r n

/-- The registers a field of `n` registers names. -/
def Opnd.regList (o : Opnd) (n : Nat) : List Opnd := (List.range n).map fun i => o.plus i

end Sys2Proof

namespace Sys2Proof.Machine

/-! ## Reading and writing a thread's registers -/

/-- A 32-bit register (R26); a constant reads as its integer column (R77). -/
def Thread.reg (th : Thread) : Opnd → Word
  | .t n => th.t[n.toFin]
  | .k n => th.k[n.toFin]
  | .c n => BitVec.ofInt 32 (constInt n)
  | .r _ => 0

/-- Write a 32-bit register. -/
def Thread.setReg (th : Thread) (o : Opnd) (v : Word) : Thread :=
  match o with
  | .t n => { th with t := th.t.set n.toFin v }
  | .k n => { th with k := th.k.set n.toFin v }
  | .c _ => th
  | .r _ => th

/-- A 64-bit integer or bit operand: a pair, low half in the even register (R3), or a sign-extended constant. -/
def Thread.reg64 (th : Thread) (o : Opnd) : BitVec 64 :=
  match o with
  | .c n => BitVec.ofInt 64 (constInt n)
  | .t _ | .k _ | .r _ => pairOf (th.reg o) (th.reg (o.plus 1))

/-- Write a pair. -/
def Thread.setReg64 (th : Thread) (o : Opnd) (v : BitVec 64) : Thread :=
  (th.setReg o (v.setWidth 32)).setReg (o.plus 1) (v.extractLsb' 32 32)

/-- An operand of `n` registers as one value; constants are sign-extended. -/
def Thread.regN (th : Thread) (o : Opnd) (n : Nat) : Nat :=
  match n with
  | 1 => (th.reg o).toNat
  | 2 => (th.reg64 o).toNat
  | _ => (th.reg64 o).toNat + 2 ^ 64 * (th.reg64 (o.plus 2)).toNat

/-- Write `n` registers from one value. -/
def Thread.setRegN (th : Thread) (o : Opnd) (n v : Nat) : Thread :=
  match n with
  | 1 => th.setReg o (BitVec.ofNat 32 v)
  | 2 => th.setReg64 o (BitVec.ofNat 64 v)
  | _ => (th.setReg64 o (BitVec.ofNat 64 v)).setReg64 (o.plus 2) (BitVec.ofNat 64 (v / 2 ^ 64))

/-- An operand read as FP32. -/
def Thread.regF32 (th : Thread) (o : Opnd) : Word :=
  match o with
  | .c n => constF32 n
  | .t _ | .k _ | .r _ => th.reg o

/-- An operand read as FP64. -/
def Thread.regF64 (th : Thread) (o : Opnd) : BitVec 64 :=
  match o with
  | .c n => constF64 n
  | .t _ | .k _ | .r _ => th.reg64 o

/-- A predicate. -/
def Thread.pred (th : Thread) (i : BitVec 3) : Bool := th.p.getLsbD i.toNat

/-- Write a predicate. -/
def Thread.setPred (th : Thread) (i : BitVec 3) (v : Bool) : Thread :=
  { th with p := (th.p &&& ~~~ (1#8 <<< i.toNat)) ||| ((if v then 1#8 else 0#8) <<< i.toNat) }

/-- The values a use reads, register by register (R34: compared whole). -/
def Thread.useVal (th : Thread) (u : Use) : Nat :=
  match u.o with
  | .c _ => 0
  | .t _ | .k _ | .r _ => th.regN u.o u.n

end Sys2Proof.Machine
end

