-- ==== Sys2Proof/WellFormed.lean ====
section
/-!
DEFINITION. Well-formed instructions: the words decode (`Instr.formOk`) and every operand field names what
05_encoding R76 and 02_execution R27 allow it to name in a team of k count 64. An event has no words, and any is
well formed.
-/
namespace Sys2Proof

/-- Every register field names legal registers or a legal constant for this k count (R27, R28, R76). -/
def Instr.operandsOk (kc : Nat) (i : Instr) : Bool :=
  i.uses.all (fun u => u.ok kc) && (!i.needsLink || decide (64 ≤ kc))

/-- A constructor that is an event of the part, not an encoded instruction. -/
def Instr.isEvent (i : Instr) : Bool := i.words == 0

/-- The check that the smoke tests exercise (Sys2Proof/Tests/Slice0.lean). -/
def Instr.wellFormed (i : Instr) : Bool := i.isEvent || (i.formOk && i.operandsOk 64)

end Sys2Proof
end

