-- ==== Sys2Proof/Machine/Ops.lean ====
section
/-!
DEFINITION. The named operations over the state: lookups and updates, reports, enrolment and the call sheet
(03_selector), waits and barriers, taking a fault and returning from it (19_faults).
-/
namespace Sys2Proof.Machine

/-! ## Lookups and updates -/

/-- A resident thread. -/
def State.thread (s : State) (i : ThreadId) : Option Thread := s.threads.find? fun t => t.id = i

/-- Replace a thread. -/
def State.setThread (s : State) (t : Thread) : State :=
  { s with threads := s.threads.map fun u => if u.id = t.id then t else u }

/-- Change one thread. -/
def State.onThread (s : State) (i : ThreadId) (f : Thread → Thread) : State :=
  { s with threads := s.threads.map fun u => if u.id = i then f u else u }

/-- A resident team. -/
def State.team (s : State) (i : TeamId) : Option Team := s.teams.find? fun t => t.id = i

/-- Change one team. -/
def State.onTeam (s : State) (i : TeamId) (f : Team → Team) : State :=
  { s with teams := s.teams.map fun u => if u.id = i then f u else u }

/-- A pipe that streams an issue group. -/
def State.pipe (s : State) (i : PipeId) : Option Pipe := s.pipes.find? fun p => p.id = i

/-- Change one pipe. -/
def State.onPipe (s : State) (i : PipeId) (f : Pipe → Pipe) : State :=
  { s with pipes := s.pipes.map fun u => if u.id = i then f u else u }

/-- A core's record; one that nothing has touched is as reset left it. -/
def State.core (s : State) (i : CoreId) : Core :=
  match s.cores.find? fun c => c.1 = i with
  | some c => c.2
  | none => coreReset

/-- Change one core's record. -/
def State.onCore (s : State) (i : CoreId) (f : Core → Core) : State :=
  { s with cores := (i, f (s.core i)) :: s.cores.filter fun c => !decide (c.1 = i) }

/-- A logical device. -/
def State.die (s : State) (i : Fin 8) : Die := s.dies[i]

/-- Change one logical device. -/
def State.onDie (s : State) (i : Fin 8) (f : Die → Die) : State :=
  { s with dies := s.dies.set i (f (s.die i)) }

/-- The physical die of a virtual number (R8). -/
def State.phys (s : State) (v : Fin 8) : Option (Fin 8) := s.pkg.vmap[v]

/-- The virtual number of a physical die. -/
def State.virt (s : State) (p : Fin 8) : Option (Fin 8) :=
  (List.finRange 8).find? fun v => decide (s.pkg.vmap[v] = some p)

/-- A queue of a die. -/
def Die.queue (d : Die) (q : Nat) : Queue :=
  match d.queues.find? fun x => x.1 = q with
  | some x => x.2
  | none => queueReset

/-- Change a queue. -/
def Die.onQueue (d : Die) (q : Nat) (f : Queue → Queue) : Die :=
  { d with queues := (q, f (d.queue q)) :: d.queues.filter fun x => !decide (x.1 = q) }

/-- An access in flight. -/
def State.acc (s : State) (i : Nat) : Option Acc := s.accs.find? fun a => a.id = i

/-- Change one access. -/
def State.onAcc (s : State) (i : Nat) (f : Acc → Acc) : State :=
  { s with accs := s.accs.map fun a => if a.id = i then f a else a }

/-- Remove one access. -/
def State.dropAcc (s : State) (i : Nat) : State := { s with accs := s.accs.filter fun a => !decide (a.id = i) }

/-- A command. -/
def State.cmd (s : State) (i : Nat) : Option Cmd := s.cmds.find? fun c => c.id = i

/-- Change one command. -/
def State.onCmd (s : State) (i : Nat) (f : Cmd → Cmd) : State :=
  { s with cmds := s.cmds.map fun c => if c.id = i then f c else c }

/-- A grid. -/
def State.grid (s : State) (i : Nat) : Option Grid := s.grids.find? fun g => g.id = i

/-- Change one grid. -/
def State.onGrid (s : State) (i : Nat) (f : Grid → Grid) : State :=
  { s with grids := s.grids.map fun g => if g.id = i then f g else g }

/-- A resident cluster. -/
def State.cluster (s : State) (i : Nat) : Option Cluster := s.clusters.find? fun c => c.id = i

/-- A fresh identifier. -/
def State.bump (s : State) : State := { s with fresh := s.fresh + 1 }

/-- The threads of a team. -/
def State.threadsOf (s : State) (t : TeamId) : List Thread := s.threads.filter fun u => u.id.team = t

/-- The thread slot of a thread (03_selector R40). -/
def State.slot (s : State) (i : ThreadId) : Nat :=
  match s.team i.team with
  | some t => 32 * t.g0 + i.tid
  | none => 0

/-- A team of a cluster by its position (02_execution Table 2.8). -/
def State.teamAt (s : State) (cluster cpos : Nat) : Option Team :=
  s.teams.find? fun t => decide (t.cluster = cluster ∧ t.cpos = cpos)

/-- The number of teams of a cluster. -/
def State.teamCount (s : State) (cluster : Nat) : Nat :=
  match s.cluster cluster with
  | some c => c.w * c.h
  | none => 0

/-! ## Scratchpad layout (07_memory R126) -/

/-- B of Table 7.2: the scratch bytes rounded up to a multiple of 256. -/
def Team.blotAt (t : Team) : Nat := (t.scratch + 255) / 256 * 256

/-- A of Table 7.2. -/
def Team.size (t : Team) : Nat := (t.blotAt + 256 * t.blot + 8 * t.nthr + 4095) / 4096 * 4096

/-- Where the spill region starts (03_selector R51). -/
def Team.spillAt (t : Team) : Nat := t.size - 8 * t.nthr

/-- Offsets that the team itself may access: the program area and the blotter. -/
def Team.ownOk (t : Team) (off n : Nat) : Bool :=
  decide (off + n ≤ t.scratch) || decide (t.blotAt ≤ off ∧ off + n ≤ t.blotAt + 256 * t.blot)

/-- Offsets in the program area. -/
def Team.progOk (t : Team) (off n : Nat) : Bool := decide (off + n ≤ t.scratch)

/-- The role of a thread (18_scheduling Table 18.2, ROLES). -/
def Team.role (t : Team) (tid : Nat) : BitVec 2 := t.roles.extractLsb' (2 * min (tid / 32) 15) 2

/-! ## Damage (19_faults R281) -/

/-- Whether the damage is marked. -/
def State.damaged (s : State) (d : Damage) : Bool := s.damage.contains d

/-- Forget a mark: a write has covered the whole unit, or the line was dropped. -/
def State.repair (s : State) (d : Damage) : State := { s with damage := s.damage.filter fun x => !decide (x = d) }

/-- Write bytes into a team's scratchpad; a write that covers a whole damaged unit repairs it. -/
def State.spadWrite (s : State) (t : TeamId) (off : Nat) (bs : List Byte) : State :=
  let s := s.onTeam t fun u => { u with spad := u.spad.setN off bs }
  { s with damage := s.damage.filter fun d =>
      match d with
      | .spad t' u => !decide (t' = t ∧ off ≤ 16 * u ∧ 16 * u + 16 ≤ off + bs.length)
      | _ => true }

/-- Whether a byte range of a scratchpad meets a damaged unit. -/
def State.spadDamaged (s : State) (t : TeamId) (off n : Nat) : Bool :=
  s.damage.any fun d =>
    match d with
    | .spad t' u => decide (t' = t ∧ off < 16 * u + 16 ∧ 16 * u < off + n)
    | _ => false

/-! ## Reports (19_faults R278) -/

/-- The INDEX of a grid in a fault report record (18_scheduling R266). -/
def CardSrc.index : CardSrc → BitVec 64
  | .queue _ n => BitVec.ofNat 64 n
  | .localQ c n => (3 : BitVec 2) ++ BitVec.ofNat 6 c.val ++ (0 : BitVec 24) ++ BitVec.ofNat 32 n

/-- A fault report record (Table 19.4). -/
def reportRec (index : BitVec 64) (cause : BitVec 8) (core team : Nat) (tid : Nat) (kind : Bool) (data : Word) :
    BitVec 128 :=
  index ++ cause ++ BitVec.ofNat 6 core ++ BitVec.ofNat 6 team ++ BitVec.ofNat 11 tid ++ BitVec.ofBool kind ++ data

/-- Write a record to the die's ring, or hold it while the ring is full; the function interrupts (R278). -/
def Die.report (d : Die) (r : BitVec 128) : Die :=
  if d.reports.length < Config.reportRing then
    { d with reports := d.reports ++ [r], interrupts := d.interrupts + 1 }
  else { d with reportsHeld := d.reportsHeld ++ [r] }

/-- The INDEX of a team's grid. -/
def State.teamIndex (s : State) (t : Team) : BitVec 64 :=
  match s.cluster t.cluster with
  | some c =>
      match s.grid c.grid with
      | some g => g.src.index
      | none => 0
  | none => 0

/-- The record of a team: `kind` false for a thread, true for a team event. -/
def State.teamReport (s : State) (t : TeamId) (cause : BitVec 8) (tid : Nat) (kind : Bool) (data : Word) : State :=
  match s.team t with
  | some u =>
      s.onDie t.core.die fun d =>
        d.report (reportRec (s.teamIndex u) cause t.core.num.val t.slot.val tid kind data)
  | none => s

/-! ## Groups, gathering and splitting (03_selector R49, 02_execution R36, R37) -/

/-- The non-exited members of a group. -/
def State.members (s : State) (t : TeamId) (grp : Nat) : List Thread :=
  (s.threadsOf t).filter fun u => decide (u.id.tid / 32 = grp) && u.st != .exited

/-- A call-sheet entry of a team and block. -/
def State.entry (s : State) (t : TeamId) (block : Addr) : Option Sheet :=
  s.sheet.find? fun e => decide (e.core = t.core ∧ e.team = t.slot ∧ e.block = block)

/-- Replace or remove an entry; an entry without waiters becomes invalid (R43). -/
def State.setEntry (s : State) (e : Sheet) : State :=
  let same (x : Sheet) : Bool := decide (x.core = e.core ∧ x.team = e.team ∧ x.block = e.block)
  if e.waiters = 0 then { s with sheet := s.sheet.filter fun x => !same x }
  else { s with sheet := s.sheet.map fun x => if same x then e else x }

/-- Take a thread's bit out of the sheet, and clear its spill word's S (R44). -/
def State.leaveSheet (s : State) (i : ThreadId) : State :=
  let slot := s.slot i
  let clear (e : Sheet) : Sheet :=
    if e.core = i.team.core ∧ e.team = i.team.slot then
      { e with waiters := e.waiters &&& ~~~ (1#2048 <<< slot) }
    else e
  let sheet := (s.sheet.map clear).filter fun e => e.waiters != 0
  let s := { s with sheet := sheet }
  s.onTeam i.team fun t =>
    { t with spad := t.spad.set (t.spillAt + 8 * i.tid) (t.spad.get (t.spillAt + 8 * i.tid) &&& 0xFE) }

/-- Whether a thread's spill word has S = 1 (Table 3.4). -/
def Team.spilled (t : Team) (tid : Nat) : Bool := (t.spad.get (t.spillAt + 8 * tid)).getLsbD 0

/-- Write a spill word (Table 3.4). -/
def Team.spill (t : Team) (tid : Nat) (block : Addr) : Team :=
  { t with spad := t.spad.setN (t.spillAt + 8 * tid) (bytesOfNat 8 ((block.toNat % 2 ^ 55 / 4 * 4) + 1)) }

/-- Whether the group of a collective entry has gathered: every non-exited member holds a bit of it (R49). -/
def State.gathered (s : State) (e : Sheet) (grp : Nat) : Bool :=
  let t : TeamId := { core := e.core, slot := e.team }
  let ms := s.members t grp
  !ms.isEmpty && ms.all fun u => e.waiters.getLsbD (s.slot u.id)

/-- Whether the group had gathered at the start of the cycle, which is what the selection sees: no exit of this one has completed it (R43). -/
def State.gatheredBefore (s : State) (e : Sheet) (grp : Nat) : Bool :=
  s.gathered e grp && !(s.core e.core).exits.any fun i => decide (i.team = { core := e.core, slot := e.team } ∧ i.tid / 32 = grp)

/-! ## Taking a fault (02_execution R35, 19_faults R271 to R276) -/

/-- Take a thread out of the issue group that holds it. A group that loses its last lane ends, and its pipe is free from the next cycle
on (R45). -/
def State.leavePipe (s : State) (i : ThreadId) : State :=
  let drop (p : Pipe) : Pipe :=
    if p.team = i.team then { p with lanes := p.lanes.filter fun l => !decide (l = i.tid) } else p
  let s := { s with pipes := s.pipes.map drop }
  let gone := s.pipes.filter fun p => p.lanes.isEmpty
  { s with
    pipes := s.pipes.filter fun p => !p.lanes.isEmpty,
    ended := s.ended ++ gone.map fun p => p.id,
    focus := match s.focus with
      | some f => if gone.any fun p => p.id = f then none else s.focus
      | none => none }

/-- TAKING A FAULT. The thread leaves its issue group at the faulting word and drains; the other lanes go on
(R35, R271). What follows the drain is FAULT_RECORD (`State.recordFault`). -/
def State.takeFault (s : State) (i : ThreadId) (f : FaultInfo) : State :=
  (s.onThread i fun t => { t with st := .draining, block := f.block, after := .none, fault := some f, age := 0 }).leavePipe i

/-- Every load of a thread has returned (R30): no access of it still owes a register. -/
def State.drained (s : State) (i : ThreadId) : Bool :=
  s.accs.all fun a => !(decide (a.th.team = i.team) && a.lanes.contains i.tid && a.ctr.isSome)

/-- The split test of one group (R37): members enrolled at different collective blocks fault with 0x12. -/
def State.splitTest (s : State) (t : TeamId) (grp : Nat) : State :=
  let ms := s.members t grp
  let cs := ms.filter fun u => u.coll
  if ms.all (fun u => u.st == .enrolled) && cs.any (fun u => cs.any fun v => u.block != v.block) then
    cs.foldl (fun s u =>
      (s.leaveSheet u.id).onThread u.id fun x =>
        { x with st := .draining, after := .none, coll := false, age := 0,
                 fault := some { cause := 0x12, block := x.block, widx := 0, addr := 0, extra := 0, u := false } }) s
  else s

/-- The age of an entry: the largest wait age among its waiters; for a collective entry, of gathered groups only
(R42, R48). -/
def State.entryAge (s : State) (e : Sheet) : Nat :=
  ((s.threadsOf { core := e.core, slot := e.team }).filter fun u =>
    e.waiters.getLsbD (s.slot u.id) && (!e.coll || s.gathered e (u.id.tid / 32))).foldl (fun m u => max m u.age) 0

/-- The number of 1 bits. -/
def popcount (w : Nat) (x : Nat) : Nat :=
  match w with
  | 0 => 0
  | n + 1 => x % 2 + popcount n (x / 2)

/-- How long a spill or a refill of `n` threads holds the selector: 8 cycles and 1 per 16 threads (R53). For a number that is no multiple
of 16 the spec gives no rounding; the model rounds up (DESIGN CHOICE, log 94). -/
def spillCycles (n : Nat) : Nat := 8 + (n + 15) / 16

/-- Spill an entry: a spill word for each waiter; the selector is held (R52, R53). -/
def State.spillEntry (s : State) (e : Sheet) : State :=
  let t : TeamId := { core := e.core, slot := e.team }
  let ws := (s.threadsOf t).filter fun u => e.waiters.getLsbD (s.slot u.id)
  let s := ws.foldl (fun s u => s.onTeam t fun x => x.spill u.id.tid e.block) s
  (s.setEntry { e with waiters := 0 }).onCore e.core fun c =>
    { c with busy := c.busy + spillCycles ws.length }

/-- The least recently used entry of a core whose AGE is below the guard's (R52). -/
def State.victim (s : State) (c : CoreId) : Option Sheet :=
  (s.sheet.filter fun e => decide (e.core = c ∧ s.entryAge e < Config.guardAge)).foldl
    (fun m e => match m with
      | none => some e
      | some x => if e.used < x.used then some e else some x) none

/-- The spilled threads of a team at a block. -/
def State.spilledAt (s : State) (t : TeamId) (block : Addr) : List Thread :=
  match s.team t with
  | some x => (s.threadsOf t).filter fun u => x.spilled u.id.tid && decide (u.block = block)
  | none => []

/-- Allocate an entry with these waiters; the block's spilled waiters are refilled with it (R43, R53). An entry that a refill allocates
counts as used then, of which R52 says nothing (DESIGN CHOICE, log 95). -/
def State.allocEntry (s : State) (t : TeamId) (block : Addr) (word : Word) (slots : List Nat) : State :=
  let sp := s.spilledAt t block
  let all := slots ++ sp.map fun u => s.slot u.id
  let s := sp.foldl (fun s u => s.onTeam t fun x =>
    { x with spad := x.spad.set (x.spillAt + 8 * u.id.tid) (x.spad.get (x.spillAt + 8 * u.id.tid) &&& 0xFE) }) s
  let s := if sp.isEmpty then s else s.onCore t.core fun c => { c with busy := c.busy + spillCycles sp.length }
  let e : Sheet :=
    { core := t.core, team := t.slot, block := block, coll := flag word 27, prio := fld word 24 2,
      waiters := all.foldl (fun w i => w ||| (1#2048 <<< i)) 0, used := s.fresh }
  { s.bump with sheet := s.sheet ++ [e] }

/-- Write the spill word of one thread that enrols while it can have no entry; this holds the selector as any spill does (R52, R53). -/
def State.spillSelf (s : State) (i : ThreadId) (block : Addr) : State :=
  (s.onTeam i.team fun t => t.spill i.tid block).onCore i.team.core fun c => { c with busy := c.busy + spillCycles 1 }

/-- Set a thread's bit in its entry, allocating or spilling as R43 and R52 give. With no entry free, a thread at a block that has spilled
waiters is spilled too (R53). -/
def State.sheetAdd (s : State) (i : ThreadId) (block : Addr) (word : Word) : State :=
  match s.entry i.team block with
  | some e => (s.setEntry { e with waiters := e.waiters ||| (1#2048 <<< s.slot i), used := s.fresh }).bump
  | none =>
      if (s.sheet.filter fun e => e.core = i.team.core).length < Config.sheetEntries then
        s.allocEntry i.team block word [s.slot i]
      else if !(s.spilledAt i.team block).isEmpty then s.spillSelf i block
      else
        match s.victim i.team.core with
        | some v => (s.spillEntry v).allocEntry i.team block word [s.slot i]
        | none => s.spillSelf i block

/-- Enrol a thread at a block whose word is `word` (R43, R44). Its bit is set at the end of the cycle. -/
def State.enrol (s : State) (i : ThreadId) (block : Addr) (word : Word) (r : Option Resume) : State :=
  (s.onThread i fun t =>
    { t with st := .enrolled, block := block, coll := flag word 27, after := .none, arrived := false, age := 0,
             resume := r, t := Vector.replicate 32 0 }).onCore i.team.core fun c => { c with due := c.due ++ [(i, block, word)] }

/-- Put one into a list that is ordered by a key, after those with the same key. -/
def insertBy (key : α → Nat) (x : α) : List α → List α
  | [] => [x]
  | y :: ys => if key x < key y then x :: y :: ys else y :: insertBy key x ys

/-- A list in ascending order of a key; what has the same key keeps its order. -/
def sortBy (key : α → Nat) (xs : List α) : List α := xs.foldl (fun m x => insertBy key x m) []

/-- One enrolment of a cycle takes effect, unless its thread has left the block since; then its group is tested (R43, R49). -/
def State.enrolDue (s : State) (x : ThreadId × Addr × Word) : State :=
  match s.thread x.1 with
  | some t =>
      if t.st = .enrolled ∧ t.block = x.2.1 then
        (s.sheetAdd x.1 x.2.1 x.2.2).splitTest x.1.team (x.1.tid / 32)
      else s
  | none => s

/-- The enrolments of a core's cycle take effect at its end, in ascending order of thread slots (R43, R44). -/
def State.enrolAll (s : State) (core : CoreId) : State :=
  (sortBy (fun x => s.slot x.1) (s.core core).due).foldl (fun s x => s.enrolDue x)
    (s.onCore core fun c => { c with due := [], exits := [] })

/-- Enrol after a terminator or a wait; a thread that carries the frame-step mark parks there instead, with 0x52, BLOCK
the next block and WIDX 2, or the resume point; until then its block is the one that it has run (Table 20.1). At a collective block it enrols: it runs that block with its group (R280). -/
def State.enrolNext (s : State) (i : ThreadId) (block : Addr) (word : Word) (r : Option Resume) : State :=
  match s.thread i with
  | some t =>
      if t.mark && !flag word 27 then
        s.onThread i fun t =>
          { t with st := .draining, after := .none, arrived := false,
                   t := match r with
                     | some x => x.frame
                     | none => Vector.replicate 32 0,
                   fault := some { cause := 0x52, block := block, addr := 0, extra := 0, u := false,
                                   widx := match r with
                                     | some x => x.widx
                                     | none => 2 } }
      else s.enrol i block word r
  | none => s

/-- A blotter entry's offset. -/
def Team.entryAt (t : Team) (e : Nat) : Nat := t.blotAt + 256 * e

/-- The V bit of a blotter entry: header bit 191 (Table 19.2). -/
def Team.entryV (t : Team) (e : Nat) : Bool := (t.spad.get (t.entryAt e + 23)).getLsbD 7

/-- Clear V of a blotter entry (R273). -/
def Team.freeEntry (t : Team) (e : Nat) : Team :=
  { t with spad := t.spad.set (t.entryAt e + 23) (t.spad.get (t.entryAt e + 23) &&& 0x7F) }

/-- A field of the header of a blotter entry (Table 19.2). -/
def Team.entryField (t : Team) (e lo len : Nat) : Nat := bitsOf (t.spad.getNat (t.entryAt e) 64) lo len

/-- Free an entry that is still in use by a thread: the team may have freed it by a store, and another fault may have taken it (R273). -/
def Team.freeOwn (t : Team) (e tid : Nat) : Team := if t.entryV e ∧ t.entryField e 178 11 = tid then t.freeEntry e else t

/-- The lowest-numbered free entry (R273). -/
def Team.freeSlot (t : Team) : Option Nat := (List.range t.blot).find? fun e => !t.entryV e

/-- Whether a thread has a fault to record, its own or a deferred one. -/
def Thread.hasFault (t : Thread) : Bool := t.fault.isSome || !t.deferred.isEmpty

/-- The header of a blotter entry (Table 19.2). -/
def faultHeader (seq : BitVec 32) (th : Thread) (f : FaultInfo) : BitVec 512 :=
  (0 : BitVec 280) ++ seq ++ th.p ++ (1 : BitVec 1) ++ BitVec.ofBool th.hm ++ BitVec.ofBool f.u
    ++ BitVec.ofNat 11 th.id.tid ++ BitVec.ofNat 10 f.widx ++ f.cause ++ f.extra ++ f.addr ++ f.block

/-- The 256 bytes of an entry: header, frame, zeros (R273). -/
def faultEntry (seq : BitVec 32) (th : Thread) (f : FaultInfo) : List Byte :=
  bytesOfNat 64 (faultHeader seq th f).toNat ++ (th.t.toList.flatMap fun w => bytesOfNat 4 w.toNat)
    ++ List.replicate 64 0

/-- The fault that a thread records: the earliest deferred fault, else its precise one (24_ref R392). -/
def Thread.faultNow (t : Thread) : Option FaultInfo :=
  match t.deferred.foldl (fun (m : Option (Nat × FaultInfo)) d =>
      match m with
      | none => some d
      | some x => if d.1 < x.1 then some d else some x) none with
  | some d => some d.2
  | none => t.fault

/-- RECORDING A FAULT (R271 to R276): the lowest free blotter entry receives header and frame; the thread enters the
handler, with k56:k57 the entry's offset and handler mode on, or parks with a report; with no free entry it becomes
FAULT-PENDING. `hword` is the handler block's word. -/
def State.recordFault (s : State) (i : ThreadId) (hword : Word) : State :=
  match s.thread i, s.team i.team with
  | some th, some tm =>
      match th.faultNow with
      | none => s
      | some f =>
          match tm.freeSlot with
          | none =>
              if th.st = .faultPending then s
              else
                (s.onThread i fun t =>
                  { t with st := .faultPending, fault := some f, deferred := [], after := .none, parkInfo := some f, age := 0 }).teamReport
                  i.team f.cause i.tid false 0xFFFFFFFF
          | some e =>
              let s := s.onTeam i.team fun t => { t with seq := t.seq + 1 }
              let s := s.spadWrite i.team (tm.entryAt e) (faultEntry tm.seq th f)
              let s := s.onThread i fun t => { t with fault := none, deferred := [], after := .none }
              match tm.handler, th.hm || decide (f.cause = 0x51 ∨ f.cause = 0x52) with
              | some h, false =>
                  let off := BitVec.ofNat 64 (tm.entryAt e)
                  let s := s.onThread i fun t =>
                    { (t.setReg64 (.k 56) off) with hm := true, handEntry := some e }
                  ((s.repair (.kreg i 56)).repair (.kreg i 57)).enrol i h hword none
              | _, _ =>
                  (s.onThread i fun t => { t with st := .parked, parkEntry := some e, parkInfo := some f }).teamReport
                    i.team f.cause i.tid false (BitVec.ofNat 32 (tm.entryAt e))
  | _, _ => s

/-! ## Waits and barriers (03_selector R44, 22_ref R321, 25_ref R449) -/

/-- Release one waiting thread: it enrols at its physically next block. -/
def State.release (s : State) (i : ThreadId) : State :=
  match s.thread i with
  | some t =>
      match t.after with
      | .wait _ next word => s.enrolNext i next word none
      | _ => s
  | none => s

/-- Whether a thread is WAITING for this. -/
def Thread.waitsFor (t : Thread) (k : WaitKind) : Bool :=
  t.st == .waiting &&
    match t.after with
    | .wait k' _ _ => decide (k' = k)
    | _ => false

/-- The team barrier completes when every non-exited thread of the team has arrived (R449). -/
def State.teamBarrier (s : State) (t : TeamId) : State :=
  let ms := (s.threadsOf t).filter fun u => u.st != .exited
  if !ms.isEmpty && ms.all fun u => u.waitsFor .team && u.arrived then
    ms.foldl (fun s u => s.release u.id) s
  else s

/-- The cluster barrier (R321). -/
def State.clusterBarrier (s : State) (c : Nat) : State :=
  let ts := s.teams.filter fun t => t.cluster = c
  let ms := (s.threads.filter fun u => ts.any fun t => t.id = u.id.team).filter fun u => u.st != .exited
  if !ms.isEmpty && ms.all fun u => u.waitsFor .cluster && u.arrived then
    ms.foldl (fun s u => s.release u.id) s
  else s

/-- What an exit or a kill completes: gatherings and splits of its group, and both barriers (23_ref R349). -/
def State.afterExit (s : State) (i : ThreadId) : State :=
  let s := (s.splitTest i.team (i.tid / 32)).teamBarrier i.team
  match s.team i.team with
  | some t => s.clusterBarrier t.cluster
  | none => s

/-- A thread becomes EXITED; in handler mode its entry is freed (R273, R349). What its exit gathers can be selected from the next cycle on
(03_selector R43). -/
def State.exitThread (s : State) (i : ThreadId) : State :=
  match s.thread i with
  | some t =>
      let s := match t.hm, t.handEntry with
        | true, some e => s.onTeam i.team fun x => x.freeOwn e i.tid
        | _, _ => s
      let s := s.onThread i fun t =>
        { t with st := .exited, after := .none, hm := false, handEntry := none, block := 0, coll := false }
      let s := if t.st = .enrolled then s else s.onCore i.team.core fun c => { c with exits := c.exits ++ [i] }
      s.afterExit i
  | none => s

/-! ## Slate bytes (13_copy Table 13.5) -/

/-- A slate as its 16 bytes' value. -/
def slateMagic (v : Nat) : Bool := decide (bitsOf v 112 16 = 0xC1A9)
/-- PH. -/
def slatePh (v : Nat) : Bool := decide (bitsOf v 96 1 = 1)

/-- The value of a team's slate. -/
def State.slateVal (s : State) (t : TeamId) (off : Nat) : Nat :=
  match s.team t with
  | some x => x.spad.getNat off 16
  | none => 0

end Sys2Proof.Machine
end

