-- ==== Sys2Proof/Machine/Walk.lean ====
section
/-!
DEFINITION. Lines: their copies in caches and in L3, the value behind the caches, the folios at the gates (07_memory R128, R132,
08_coherence R169, R170).
-/
namespace Sys2Proof.Machine

/-! ## Lines as the coherent value -/

/-- A data copy of a line in one cache. -/
def State.copy (s : State) (c : CacheId) (l : LineId) : Option CacheLine :=
  s.lines.find? fun x => decide (x.cache = c ∧ x.line = l) && !x.fetch

/-- A tracked copy: M, O, E or S. -/
def CacheLine.tracked (x : CacheLine) : Bool := !x.fetch && x.st != .nc

/-- The holder of a line in M or O (08_coherence R169: at most one). -/
def State.dirtyHolder (s : State) (l : LineId) : Option CacheLine :=
  s.lines.find? fun x => decide (x.line = l) && !x.fetch && (x.st == .m || x.st == .o)

/-- The L3 copy of a pool line. -/
def State.l3Line (s : State) (n : Nat) : Option L3Line := s.l3.find? fun x => x.num = n

/-- A line of pool memory with the writes that are on their way to it (21_outside R285). -/
def State.poolLine (s : State) (n : Nat) : Line :=
  s.poolReqs.foldl (fun d r => match r.what with
    | .write m new mask => if m = n ∧ !r.answered then lineMerge d new mask 128 else d
    | .folio _ | .line _ | .stf _ | .flag _ | .parcel _ => d) (s.pool.getLine n)

/-- Whether a write of a line is on its way to pool memory, other than those from request `id` on. -/
def State.poolWriting (s : State) (n : Nat) (id : Nat) : Bool :=
  s.poolReqs.any fun r => decide (r.id < id) && !r.answered && match r.what with
    | .write m _ _ => m == n
    | .folio _ | .line _ | .stf _ | .flag _ | .parcel _ => false

/-- The value behind the caches: the home L3 slice's copy, else pool memory; host memory for a host line (R128). -/
def State.homeLine (s : State) (l : LineId) : Line :=
  match l.mem with
  | .pool =>
      match s.l3Line l.num with
      | some x => x.data
      | none => s.poolLine l.num
  | .host => s.host.getLine l.num

/-- The coherent value of a tracked line (R169). -/
def State.coherentLine (s : State) (l : LineId) : Line :=
  match s.dirtyHolder l with
  | some x => x.data
  | none => s.homeLine l

/-- The line of a physical address. -/
def lineOf (mem : Backing) (pa : Nat) : LineId := { mem := mem, num := pa / 128 }

/-- `n` bytes at a physical address, read coherently; no access crosses a line (R123). -/
def State.coherentBytes (s : State) (mem : Backing) (pa n : Nat) : List Byte :=
  lineBytes (s.coherentLine (lineOf mem pa)) (pa % 128) n

/-- Put a whole line into its home L3 slice: no damage is left there. -/
def State.l3Put (s : State) (n : Nat) (d : Line) (dirty : Bool) (tag : BitVec 8) : State :=
  ({ s with l3 := { num := n, data := d, dirty := dirty, tag := tag } :: s.l3.filter fun x => !decide (x.num = n) } : State).repair
    (.l3 n)

/-- Drop a line from its L3 slice. -/
def State.l3Drop (s : State) (n : Nat) : State :=
  ({ s with l3 := s.l3.filter fun x => !decide (x.num = n) } : State).repair (.l3 n)

/-- The identifier of a line's superblock in its L3 slices (07_memory R132); 0 where it holds none of its lines. -/
def State.l3Tag (s : State) (n : Nat) : BitVec 8 :=
  match s.l3.find? fun x => x.num / 4 = n / 4 with
  | some x => x.tag
  | none => 0

/-- A folio at its gate (R170). -/
def State.folio (s : State) (n : Nat) : Folio :=
  match s.folios.find? fun f => f.num = n with
  | some f => f
  | none => { num := n, st := .i, want := .i, asked := .i, cut := none }

/-- Change a folio. -/
def State.onFolio (s : State) (n : Nat) (f : Folio → Folio) : State :=
  { s with folios := f (s.folio n) :: s.folios.filter fun x => !decide (x.num = n) }

/-- The folio of a pool line: 32 lines (R170). -/
def folioOf (l : LineId) : Nat := l.num / 32

/-! ## The caches of a core and of a die -/

/-- The L2 slice of a line: j of Table 8.1. -/
def l2Slice (num : Nat) : Fin 16 :=
  let pa := num * 128
  Fin.ofNat 16 (bitsOf pa 9 4 ^^^ bitsOf pa 13 4 ^^^ bitsOf pa 17 4)

/-- The L1 of a core and the L2 slice of a line on its die, as physical caches; absent dies have none. -/
def State.l1Of (s : State) (c : CoreId) : CacheId := .l1 ((s.phys c.die).getD c.die) c.num
/-- The L2 slice for a line on a virtual die. -/
def State.l2Of (s : State) (d : Fin 8) (l : LineId) : CacheId := .l2 ((s.phys d).getD d) (l2Slice l.num)

/-- A fetch copy of a line in one cache. -/
def State.fetchCopy (s : State) (c : CacheId) (l : LineId) : Option CacheLine :=
  s.lines.find? fun x => decide (x.cache = c ∧ x.line = l) && x.fetch

end Sys2Proof.Machine
end

