-- ==== Sys2Proof/Machine/Exec.lean ====
section
/-!
DEFINITION. How one instruction word executes for an issue group: the checks in the order of 02_execution R35, the
uniform bit (R34), the lanes in ascending order, and the advance to the next word.
-/
namespace Sys2Proof.Machine

/-- Outcomes of meanings. -/
abbrev Out := Host.Outcome State Fault Refusal

/-- A fault of one lane at the word that executes: cause, ADDR, EXTRA (19_faults Table 19.3). -/
structure Flt where
  cause : BitVec 8
  addr : Addr
  extra : Word
deriving DecidableEq, Repr

/-- No cause of Table 19.2: what the part itself needs first has not come yet, and is asked for again later. -/
def notYet : BitVec 8 := 0

/-- A cause that records an address (0x01 to 0x08, 0x30 to 0x34, 0x20). -/
def fltAt (cause : BitVec 8) (addr : Addr) : Flt := { cause := cause, addr := addr, extra := 0 }

/-- A cause with EXTRA that records an address. -/
def fltOf (e : BitVec 8 × Word) (addr : Addr) : Flt := { cause := e.1, addr := addr, extra := e.2 }

/-- A cause that records word 0 of the instruction (0x10, 0x11, 0x13 to 0x16, 0x41, 0x42). -/
def fltWord (cause : BitVec 8) (i : Instr) : Flt := { cause := cause, addr := 0, extra := i.word0 }

/-- What an instruction does for one execution: `reader` supplies the operands, `targets` receive the result. -/
abbrev Body := State → Thread → List Nat → State × Option Flt

/-- The pipe whose issue group stands at a word, and its team. -/
def State.site (s : State) : Option (Pipe × Team) :=
  match s.focus with
  | none => none
  | some f =>
      match s.pipe f with
      | none => none
      | some p =>
          match s.team p.team with
          | none => none
          | some t => some (p, t)

/-- The lanes of an issue group that have not executed its word yet. -/
def Pipe.left (p : Pipe) : Pipe := { p with lanes := p.lanes.filter fun l => !p.ran.contains l }

/-- A thread of a team. -/
def tidOf (p : Pipe) (tid : Nat) : ThreadId := { team := p.team, tid := tid }

/-- One lane takes a fault at the current word (R35). -/
def State.faultLane (s : State) (p : Pipe) (u : Bool) (f : Flt) (tid : Nat) : State :=
  s.takeFault (tidOf p tid)
    { cause := f.cause, block := p.block, widx := p.widx, addr := f.addr, extra := f.extra, u := u }

/-- Several lanes take the same fault, in ascending order. -/
def State.faultLanes (s : State) (p : Pipe) (u : Bool) (f : Flt) (tids : List Nat) : State :=
  tids.foldl (fun s tid => s.faultLane p u f tid) s

/-- Put a hold on the issue group that executes. -/
def State.addHold (s : State) (h : Hold) : State :=
  match s.focus with
  | some f => s.onPipe f fun p => { p with hold := p.hold ++ [h] }
  | none => s

/-- The causes of an instruction word that do not depend on the lane, 0x10, 0x15, 0x16 and 0x11 apart from 0x14:
the ones before the role check (R21, R74, R96; R22; R38). Where the block's last word is the second or third word of an instruction
that may not end a block, R22 names that last word; the model raises 0x15 at the instruction's first word, with that word as WIDX, and the
instruction does not execute (DESIGN CHOICE, log 96). -/
def wordCause (i : Instr) (p : Pipe) (t : Team) : Option (BitVec 8) :=
  let fin := p.widx + i.words
  let cls := match p.clause with
    | some c => c.cls
    | none => 0
  let last := match p.clause with
    | some c => c.fin
    | none => 0
  let mrst := match i with
    | .mrst _ => !t.priv
    | _ => false
  if (match i.cls with
      | some c => c != cls
      | none => false) || decide (last < fin) || mrst then some 0x10
  else if i.cls = some 6 ∧ fin ≠ p.len then some 0x15
  else if fin = p.len ∧ ¬ (i.cls = some 6 ∧ cls = 6) then some 0x15
  else if i.collectiveOnly && !p.coll then some 0x16
  else none

/-- Integer formats, which no reservation takes. -/
def Fmt.plainInt : Fmt → Bool
  | .i32 | .n32 | .i16 | .n16 | .i64 | .n64 => true
  | .f64 | .f32 | .bf16 | .h16 | .e4m3 | .e5m2 | .q8 | .q4 => false

/-- A field of the word itself that raises 0x11 in every lane, which ranks before 0x13 (R35): a special-register number that GETS or SETS may
not name (R31), a count of AFREE or MZERO outside 1 to 256 (14_matrix R228), an integer format of ORES (R219). -/
def badNumber : Instr → Bool
  | .gets _ _ n => decide (9 < n.toNat ∧ n.toNat ≠ 0x010 ∧ n.toNat ≠ 0x011)
  | .sets _ _ n => decide (n.toNat ≠ 0x010 ∧ n.toNat ≠ 0x011)
  | .afree _ n | .mzero _ n => decide (n.toNat < 1 ∨ 256 < n.toNat)
  | .ores _ _ _ fmt _ _ _ => Sys2Proof.Machine.Fmt.plainInt fmt
  | _ => false

/-- The cause that a lane records for a word that fails for the whole group: RESUME outside handler mode is 0x10, which ranks before
every other (R24, R35). -/
def State.laneCause (s : State) (i : Instr) (p : Pipe) (c : BitVec 8) (tid : Nat) : BitVec 8 :=
  match i with
  | .resume | .resumeSkip =>
      match s.thread (tidOf p tid) with
      | some th => if th.hm then c else 0x10
      | none => c
  | _ => c

/-- A lane whose source registers or predicates differ from the reader's (R34). -/
def differs (i : Instr) (r th : Thread) : Bool :=
  (i.uses.any fun u => u.reads && (r.useVal u != th.useVal u)) || i.predUses.any fun q => r.pred q != th.pred q

/-- The registers that an instruction reads without naming them: RET reads the link (25_ref R433). -/
def implicitReads : Instr → List Opnd
  | .ret _ => [.k 62, .k 63]
  | _ => []

/-- A lane that reads a damaged k register or predicate: both stand in the live-value store (R281). -/
def State.readsDamage (s : State) (i : Instr) (p : Pipe) (tid : Nat) : Bool :=
  let hurt (o : Opnd) : Bool := match o with
    | .k n => s.damaged (.kreg (tidOf p tid) n.toNat)
    | _ => false
  !badNumber i && ((implicitReads i).any hurt || (i.uses.any fun u => u.reads && (u.o.regList u.n).any hurt) ||
    i.predUses.any fun q => s.damaged (.preg (tidOf p tid) q.toNat))

/-- One execution at a word: its reader, and the lanes that receive its result. -/
structure Run where
  reader : Nat
  targets : List Nat
deriving DecidableEq, Repr

/-- The lanes whose operands differ from the reader's, when UCHK was 1 as the clause issued (R32, R34); none where the word raises 0x11
in every lane. -/
def State.differing (s : State) (i : Instr) (p : Pipe) (rd : Thread) (rest : List Nat) : List Nat :=
  let uchk := match p.clause with
    | some c => c.uchk
    | none => false
  if uchk && !badNumber i then
    rest.filter fun tid => match s.thread (tidOf p tid) with
      | some th => differs i rd th
      | none => false
  else []

/-- The checks of R35 at one word: the state with the faulting lanes gone, and the executions that remain. An issue group of a plain block
can mix roles (03_selector R46). Where the lowest lane of a uniform word raises 0x14, R34 does not say whose operands the other lanes take: the
model takes those of the lowest lane whose role permits the word (DESIGN CHOICE, log 120). -/
def State.precheck (s : State) (i : Instr) (p : Pipe) (t : Team) : State × List Run :=
  match wordCause i p t with
  | some c => (p.lanes.foldl (fun s tid => s.faultLane p i.uni (fltWord (s.laneCause i p c tid) i) tid) s, [])
  | none =>
      let ok := p.lanes.filter fun tid => roleOk (t.role tid) i.cls i.isMatrix
      let bad := p.lanes.filter fun tid => !roleOk (t.role tid) i.cls i.isMatrix
      let s := s.faultLanes p i.uni (fltWord 0x14 i) bad
      if !i.operandsOk t.kcount then (s.faultLanes p i.uni (fltWord 0x11 i) ok, [])
      else if !i.uni then
        let dmg := ok.filter fun tid => s.readsDamage i p tid
        let s' := s.faultLanes p false { cause := 0x60, addr := 0, extra := 6 } dmg
        (s', (ok.filter fun tid => !s.readsDamage i p tid).map fun tid =>
          { reader := tid, targets := [tid] })
      else
        match ok with
        | [] => (s, [])
        | r :: rest =>
            match s.thread (tidOf p r) with
            | none => (s, [])
            | some rd =>
                let off := s.differing i p rd rest
                let same := r :: rest.filter fun tid => !off.contains tid
                let s := s.faultLanes p true (fltWord 0x13 i) off
                if s.readsDamage i p r then
                  (s.faultLanes p true { cause := 0x60, addr := 0, extra := 6 } same, [])
                else (s, [{ reader := r, targets := same }])

/-- The executions of a word from lane `r` on wait: what the part has asked for in `s'` must come first (07_memory R135). The lanes before
have executed the word. -/
def State.pauseRun (s : State) (p : Pipe) (r : Run) : State :=
  (s.addHold .fetch).onPipe p.id fun q => { q with ran := q.lanes.takeWhile fun l => decide (l ≠ r.reader) }

/-- Run the executions of one word in ascending lane order. An execution that faults faults all its targets; at one that meets a page-table
entry which has not been read yet the group is held, and goes on with that lane (07_memory R135). -/
def State.runBody (s : State) (i : Instr) (p : Pipe) (body : Body) : List Run → State
  | [] => s
  | r :: rs =>
      match s.thread (tidOf p r.reader) with
      | none => s.runBody i p body rs
      | some th =>
          match body s th r.targets with
          | (s', none) => s'.runBody i p body rs
          | (s', some f) =>
              if f.cause = notYet then s'.pauseRun p r
              else (({ s with reads := s'.reads } : State).faultLanes p i.uni f r.targets).runBody i p body rs

/-- A group that no hold keeps: a thread dispatched alone for the frame-step mark drains after its one instruction (R280);
any other group stands at its next word, or waits for its next clause to issue. -/
def State.settle (s : State) (f : PipeId) : State :=
  match s.pipe f with
  | none => { s with focus := none }
  | some p =>
      if p.single then
        p.lanes.foldl (fun s tid =>
          (s.onThread (tidOf p tid) fun t => { t with st := .draining, after := .step p.block p.widx }).leavePipe
            (tidOf p tid)) s
      else if p.clause.isNone then { s with focus := none }
      else { s with focus := some f }

/-- After a word: the issue group stands at the next one. At the end of its clause it waits for the next clause to issue
(R29); a held group waits for its holds. The lanes whose target cannot be fetched yet execute the word again (05_encoding R73). -/
def State.advance (s : State) (f : PipeId) (words : Nat) : State :=
  match s.pipe f with
  | none => { s with focus := none }
  | some p =>
      if p.hold.contains .fetch then { s with focus := none }
      else
      let w := p.widx + words
      let done := match p.clause with
        | some c => decide (c.fin ≤ w)
        | none => true
      let s := s.onPipe f fun p => { p with widx := w, clause := if done then none else p.clause, instr := none, ran := [] }
      if p.hold.isEmpty then s.settle f else { s with focus := none }

/-- A hold that stands before its word: the word has not executed yet (R29; TDLD after its thread's accesses to the descriptor's line,
10_ordering R187), or not for every lane (05_encoding R73, 07_memory R135). -/
def Hold.before : Hold → Bool
  | .counter _ _ | .earlier _ | .fetch | .cycle _ _ => true
  | .acc _ | .perf _ | .answer _ | .enter _ | .seal _ _ _ | .free _ _ _ | .post _ _ _ _ | .discard _ _ | .tile _ _ => false

/-- The instruction of a group that is held before its word stays with the group: it is fetched once (05_encoding R73). -/
def State.keepWord (s : State) (f : PipeId) (i : Instr) : State :=
  s.onPipe f fun p => if p.hold.any Hold.before then { p with instr := some i } else p

/-- THE MEANING OF A WORD for each lane, or once for a uniform instruction. A full load counter of an active lane holds
the group before the word (R29). -/
def execLanes (i : Instr) (ctr : Option (Fin 4)) (body : Body) (s : State) : Out :=
  match s.site with
  | none => .fault .noIssueGroup
  | some (p, t) =>
      let (s, runs) := s.precheck i p.left t
      let full := match ctr with
        | none => []
        | some c => (runs.flatMap fun r => r.targets).filter fun tid =>
            match s.thread (tidOf p tid) with
            | some th => decide (63 ≤ th.ctr[c])
            | none => false
      match ctr, full with
      | some c, tid :: _ => .next { (s.addHold (.counter tid c)).keepWord p.id i with focus := none }
      | _, _ => .next (((s.runBody i p body runs).advance p.id i.words).keepWord p.id i)

/-- The active lanes of an issue group as threads, ascending (L of 23_ref R337). -/
def State.activeLanes (s : State) (p : Pipe) (tids : List Nat) : List Thread :=
  tids.filterMap fun tid => s.thread (tidOf p tid)

/-- THE MEANING OF A GROUP INSTRUCTION: every lane's operands are read before any result is written. -/
def execGroup (i : Instr) (body : State → List Thread → State) (s : State) : Out :=
  match s.site with
  | none => .fault .noIssueGroup
  | some (p, t) =>
      let (s, runs) := s.precheck i p t
      let ls := s.activeLanes p (runs.map fun r => r.reader)
      .next ((body s ls).advance p.id i.words)

end Sys2Proof.Machine
end

