-- ==== Sys2Proof/Machine/Flags.lean ====
section
/-!
DEFINITION. The sticky flags of the team status word (06_arithmetic Table 6.6), the flag computations of integer
arithmetic (R111, R112), and the shapes in which ALU instructions write registers and flags.
-/
namespace Sys2Proof.Machine

/-! ## Sticky flags (Table 6.6) -/

/-- Invalid. -/
def flNV : Word := 1
/-- Division by zero. -/
def flDZ : Word := 2
/-- Overflow. -/
def flOF : Word := 4
/-- Underflow. -/
def flUF : Word := 8
/-- Inexact. -/
def flNX : Word := 16
/-- A clamped integer. -/
def flSAT : Word := 32

/-! ## Integer flags -/

/-- The bounds of an integer type (Table 6.3). -/
def intBounds (w : Nat) (sg : Bool) : Int × Int :=
  if sg then (-((2 ^ (w - 1) : Nat) : Int), ((2 ^ (w - 1) : Nat) : Int) - 1) else (0, ((2 ^ w : Nat) : Int) - 1)

/-- The value of a pattern as an integer type. -/
def intOf (w : Nat) (sg : Bool) (x : Nat) : Int := if sg then signedOf w x else ((x % 2 ^ w : Nat) : Int)

/-- Clamp to bounds. -/
def clampInt (lo hi x : Int) : Int := if x < lo then lo else if hi < x then hi else x

/-- An exact integer narrowed to w bits: wrapped without a flag, or clamped with SAT when clamping changes it (R111,
R115). -/
def narrow (w : Nat) (sg : Bool) (sat : Bool) (x : Int) : Nat × Word :=
  if sat then
    let (lo, hi) := intBounds w sg
    let y := clampInt lo hi x
    (wrapInt w y, if y = x then 0 else flSAT)
  else (wrapInt w x, 0)

/-- IDIV (Table 6.7). -/
def intDiv (w : Nat) (sg : Bool) (a b : Nat) : Nat × Word :=
  let x := intOf w sg a
  let y := intOf w sg b
  let (lo, hi) := intBounds w sg
  if y = 0 then (wrapInt w (if x < 0 then lo else hi), flDZ) else (wrapInt w (Int.tdiv x y), 0)

/-- IREM (Table 6.7). -/
def intRem (w : Nat) (sg : Bool) (a b : Nat) : Nat × Word :=
  let x := intOf w sg a
  let y := intOf w sg b
  if y = 0 then (wrapInt w x, flDZ) else (wrapInt w (x - Int.tdiv x y * y), 0)

/-! ## Writing results -/

/-- A write to registers of some threads of a team; a write to a damaged k register repairs it (19_faults R281). -/
def State.writeRegs (s : State) (team : TeamId) (tids : List Nat) (os : List Opnd) (f : Thread → Thread) : State :=
  let s := tids.foldl (fun s tid => s.onThread { team := team, tid := tid } f) s
  if s.damage.isEmpty then s
  else { s with damage := s.damage.filter fun d =>
      match d with
      | .kreg th n => !(decide (th.team = team) && tids.contains th.tid && os.any fun o =>
          match o with
          | .k m => decide (m.toNat = n)
          | _ => false)
      | _ => true }

/-- A write to predicates of some threads of a team repairs them (19_faults R281). -/
def State.repairPreds (s : State) (team : TeamId) (tids : List Nat) (ps : List (BitVec 3)) : State :=
  if s.damage.isEmpty then s
  else { s with damage := s.damage.filter fun d =>
      match d with
      | .preg th n => !(decide (th.team = team) && tids.contains th.tid && ps.any fun q => decide (q.toNat = n))
      | _ => true }

/-- The flags set in this cycle, with one more entry where something sets some: a word of a pipe, or, with no word in focus, an access or a
command of the team (06_arithmetic R110). -/
def State.flagsWith (s : State) (team : TeamId) (fl : Word) : List (TeamId × Option PipeId × Word) :=
  if fl = 0 then s.flagsNow else (team, s.focus, fl) :: s.flagsNow

/-- OR flags into the team's sticky flags (06_arithmetic R109). -/
def State.setFlags (s : State) (team : TeamId) (fl : Word) : State :=
  { s.onTeam team (fun t => { t with tstat := t.tstat ||| fl }) with flagsNow := s.flagsWith team fl }

/-- An instruction that computes one value of `n` registers, and flags, from its reader's registers. -/
def execAlu (i : Instr) (d : Opnd) (n : Nat) (f : Thread → Nat × Word) (s : State) : Out :=
  execLanes i none (fun s r tids =>
    ((s.writeRegs r.id.team tids (d.regList n) fun t => t.setRegN d n (f r).1).setFlags r.id.team (f r).2, none)) s

/-- An instruction that computes predicates, and flags, from its reader: `f r` changes each target. -/
def execPred (i : Instr) (f : Thread → (Thread → Thread) × Word) (s : State) : Out :=
  execLanes i none (fun s r tids =>
    (((s.writeRegs r.id.team tids [] (f r).1).repairPreds r.id.team tids i.predDefs).setFlags r.id.team (f r).2, none)) s

/-- A group instruction whose result of `n` registers for each lane depends on every lane's operands. -/
def execGroupAlu (i : Instr) (d : Opnd) (n : Nat) (f : List Thread → Thread → Nat × Word) (s : State) : Out :=
  execGroup i (fun s ls =>
    ls.foldl (fun s th =>
      (s.writeRegs th.id.team [th.id.tid] (d.regList n) fun t => t.setRegN d n (f ls th).1).setFlags th.id.team
        (f ls th).2) s) s

end Sys2Proof.Machine
end

