-- ==== Sys2Proof/Machine/Alu.lean ====
section
/-!
DEFINITION. Integer, bit, move and predicate instructions (23_ref R335, R334; 22_ref R305 to R322; 24_ref R400 to R416;
25_ref R426, R437): one definition per instruction over the shared shapes of Flags.
-/
namespace Sys2Proof.Machine

/-! ## Integer arithmetic (mould IA) -/

/-- Bits of a number of registers. -/
def bitsOfRegs (n : Nat) : Nat := 32 * n

/-- Whether an integer type is signed. -/
def signedType : IntType → Bool
  | .i32 | .i64 => true
  | .n32 | .n64 => false

/-- Bits of an integer type. -/
def typeBits (ty : IntType) : Nat := bitsOfRegs ty.regs

/-- The integer that an operand holds under a type. -/
def Thread.int (th : Thread) (ty : IntType) (o : Opnd) : Int := intOf (typeBits ty) (signedType ty) (th.regN o ty.regs)

/-- IADD (R335). -/
def execIadd (u : Bool) (d a b : Opnd) (w : Width) (s : State) : Out :=
  execAlu (.iadd u d a b w) d w.regs (fun t => (t.regN a w.regs + t.regN b w.regs, 0)) s

/-- ISUB (R335). -/
def execIsub (u : Bool) (d a b : Opnd) (w : Width) (s : State) : Out :=
  execAlu (.isub u d a b w) d w.regs
    (fun t => (t.regN a w.regs + (2 ^ bitsOfRegs w.regs - t.regN b w.regs), 0)) s

/-- IADDI (R380). -/
def execIaddi (u : Bool) (d a : Opnd) (imm : BitVec 9) (s : State) : Out :=
  execAlu (.iaddi u d a imm) d 1 (fun t => ((t.reg a + imm.signExtend 32).toNat, 0)) s

/-- IABS (R335): the most negative value is its own result. -/
def execIabs (u : Bool) (d a : Opnd) (w : Width) (s : State) : Out :=
  execAlu (.iabs u d a w) d w.regs (fun t => ((signedOf (bitsOfRegs w.regs) (t.regN a w.regs)).natAbs, 0)) s

/-- IMIN (R335). -/
def execImin (u : Bool) (d a b : Opnd) (ty : IntType) (s : State) : Out :=
  execAlu (.imin u d a b ty) d ty.regs
    (fun t => (if t.int ty a ≤ t.int ty b then t.regN a ty.regs else t.regN b ty.regs, 0)) s

/-- IMAX (R335). -/
def execImax (u : Bool) (d a b : Opnd) (ty : IntType) (s : State) : Out :=
  execAlu (.imax u d a b ty) d ty.regs
    (fun t => (if t.int ty a ≤ t.int ty b then t.regN b ty.regs else t.regN a ty.regs, 0)) s

/-- The product that IMUL writes (Table 23.5). -/
def mulValue (form : MulForm) (a b : Nat) : Nat :=
  match form with
  | .b32 => a * b % 2 ^ 32
  | .b64 => a * b % 2 ^ 64
  | .hiI32 => wrapInt 64 (signedOf 32 a * signedOf 32 b) / 2 ^ 32
  | .hiN32 => a * b / 2 ^ 32

/-- IMUL (R335, R386). -/
def execImul (u : Bool) (d a b : Opnd) (form : MulForm) (s : State) : Out :=
  execAlu (.imul u d a b form) d form.regs (fun t => (mulValue form (t.regN a form.regs) (t.regN b form.regs), 0)) s

/-- IMAD (R383). -/
def execImad (u : Bool) (d a b c : Opnd) (ty : IntType) (sat : Bool) (s : State) : Out :=
  execAlu (.imad u d a b c ty sat) d ty.regs
    (fun t => narrow (typeBits ty) (signedType ty) sat (t.int ty a * t.int ty b + t.int ty c)) s

/-- IDIV (R112, R382). -/
def execIdiv (u : Bool) (d a b : Opnd) (ty : IntType) (s : State) : Out :=
  execAlu (.idiv u d a b ty) d ty.regs
    (fun t => intDiv (typeBits ty) (signedType ty) (t.regN a ty.regs) (t.regN b ty.regs)) s

/-- IREM (R112, R387). -/
def execIrem (u : Bool) (d a b : Opnd) (ty : IntType) (s : State) : Out :=
  execAlu (.irem u d a b ty) d ty.regs
    (fun t => intRem (typeBits ty) (signedType ty) (t.regN a ty.regs) (t.regN b ty.regs)) s

/-! ## Bits -/

/-- AND (R305). -/
def execAnd (u : Bool) (d a b : Opnd) (w : Width) (s : State) : Out :=
  execAlu (.and u d a b w) d w.regs (fun t => (t.regN a w.regs &&& t.regN b w.regs, 0)) s

/-- OR (R406). -/
def execOr (u : Bool) (d a b : Opnd) (w : Width) (s : State) : Out :=
  execAlu (.or u d a b w) d w.regs (fun t => (t.regN a w.regs ||| t.regN b w.regs, 0)) s

/-- XOR (R457). -/
def execXor (u : Bool) (d a b : Opnd) (w : Width) (s : State) : Out :=
  execAlu (.xor u d a b w) d w.regs (fun t => (t.regN a w.regs ^^^ t.regN b w.regs, 0)) s

/-- The four shifts of mould SH (R426). -/
def shlValue (w a n : Nat) : Nat := if w ≤ n then 0 else a * 2 ^ n % 2 ^ w
/-- A logical right shift. -/
def shrValue (w a n : Nat) : Nat := if w ≤ n then 0 else a / 2 ^ n
/-- An arithmetic right shift. -/
def sarValue (w a n : Nat) : Nat := wrapInt w (signedOf w a / (2 ^ min n w : Nat))
/-- A left rotation. -/
def rolValue (w a n : Nat) : Nat := (a * 2 ^ (n % w) % 2 ^ w) ||| (a / 2 ^ (w - n % w))

/-- SHL. -/
def execShl (u : Bool) (d a n : Opnd) (w : Width) (s : State) : Out :=
  execAlu (.shl u d a n w) d w.regs
    (fun t => (shlValue (bitsOfRegs w.regs) (t.regN a w.regs) (t.reg n).toNat, 0)) s

/-- SHR. -/
def execShr (u : Bool) (d a n : Opnd) (w : Width) (s : State) : Out :=
  execAlu (.shr u d a n w) d w.regs
    (fun t => (shrValue (bitsOfRegs w.regs) (t.regN a w.regs) (t.reg n).toNat, 0)) s

/-- SAR. -/
def execSar (u : Bool) (d a n : Opnd) (w : Width) (s : State) : Out :=
  execAlu (.sar u d a n w) d w.regs
    (fun t => (sarValue (bitsOfRegs w.regs) (t.regN a w.regs) (t.reg n).toNat, 0)) s

/-- ROL. -/
def execRol (u : Bool) (d a n : Opnd) (w : Width) (s : State) : Out :=
  execAlu (.rol u d a n w) d w.regs
    (fun t => (rolValue (bitsOfRegs w.regs) (t.regN a w.regs) (t.reg n).toNat, 0)) s

/-- The low `w` bits of a value in reverse order. -/
def reverseBits (w x : Nat) : Nat :=
  match w with
  | 0 => 0
  | n + 1 => x % 2 * 2 ^ n + reverseBits n (x / 2)

/-- BREV (R315). -/
def execBrev (u : Bool) (d a : Opnd) (w : Width) (s : State) : Out :=
  execAlu (.brev u d a w) d w.regs (fun t => (reverseBits (bitsOfRegs w.regs) (t.regN a w.regs), 0)) s

/-- The number of zero bits above the highest 1 of w bits. -/
def leadingZeros (w x : Nat) : Nat := if x = 0 then w else w - 1 - Nat.log2 x

/-- CLZ (R322). -/
def execClz (u : Bool) (d a : Opnd) (w : Width) (s : State) : Out :=
  execAlu (.clz u d a w) d 1 (fun t => (leadingZeros (bitsOfRegs w.regs) (t.regN a w.regs), 0)) s

/-- POPC (R416). -/
def execPopc (u : Bool) (d a : Opnd) (w : Width) (s : State) : Out :=
  execAlu (.popc u d a w) d 1 (fun t => (popcount (bitsOfRegs w.regs) (t.regN a w.regs), 0)) s

/-- BFX's value (R311). -/
def bfxValue (w : Nat) (sg : Bool) (a ctl : Nat) : Nat :=
  let pos := bitsOf ctl 0 8
  let len := bitsOf ctl 8 8
  let x : Int := intOf w sg a / (2 ^ pos : Nat)
  if len = 0 then 0
  else if len < w then
    let y := wrapInt len x
    if sg then wrapInt w (signedOf len y) else y
  else wrapInt w x

/-- BFX. -/
def execBfx (u : Bool) (d a ctl : Opnd) (ty : IntType) (s : State) : Out :=
  execAlu (.bfx u d a ctl ty) d ty.regs
    (fun t => (bfxValue (typeBits ty) (signedType ty) (t.regN a ty.regs) (t.reg ctl).toNat, 0)) s

/-- BFI's value (R310). -/
def bfiValue (w a b ctl : Nat) : Nat :=
  let pos := bitsOf ctl 0 8
  let len := bitsOf ctl 8 8
  let mask := (2 ^ min len w - 1) * 2 ^ pos % 2 ^ w
  (a &&& (2 ^ w - 1 - mask)) ||| (b * 2 ^ pos &&& mask)

/-- BFI. -/
def execBfi (u : Bool) (d a b ctl : Opnd) (w : Width) (s : State) : Out :=
  execAlu (.bfi u d a b ctl w) d w.regs
    (fun t => (bfiValue (bitsOfRegs w.regs) (t.regN a w.regs) (t.regN b w.regs) (t.reg ctl).toNat, 0)) s

/-! ## Moves -/

/-- MOV (R400). -/
def execMov (u : Bool) (d a : Opnd) (w : MovWidth) (s : State) : Out :=
  execAlu (.mov u d a w) d w.regs (fun t => (t.regN a w.regs, 0)) s

/-- MOVI (R402). -/
def execMovi (u : Bool) (d : Opnd) (imm : BitVec 16) (s : State) : Out :=
  execAlu (.movi u d imm) d 1 (fun _ => (imm.toNat, 0)) s

/-- MOVH (R401). -/
def execMovh (u : Bool) (d : Opnd) (imm : BitVec 16) (s : State) : Out :=
  execAlu (.movh u d imm) d 1 (fun t => (imm.toNat * 2 ^ 16 + (t.reg d).toNat % 2 ^ 16, 0)) s

/-- SEL (R437). -/
def execSel (u : Bool) (d a b : Opnd) (p : BitVec 3) (neg : Bool) (w : MovWidth) (s : State) : Out :=
  execAlu (.sel u d a b p neg w) d w.regs
    (fun t => (if t.pred p != neg then t.regN a w.regs else t.regN b w.regs, 0)) s

/-- NOP (R403). -/
def execNop (s : State) : Out := execLanes .nop none (fun s _ _ => (s, none)) s

/-! ## Predicates -/

/-- ICMP's conditions (Table 5.10); the codes that ICMP does not accept are refused by decode. -/
def Cond.intHolds (c : Cond) (w a b : Nat) : Bool :=
  match c with
  | .eq => a == b
  | .ne => a != b
  | .lt => decide (signedOf w a < signedOf w b)
  | .le => decide (signedOf w a ≤ signedOf w b)
  | .gt => decide (signedOf w b < signedOf w a)
  | .ge => decide (signedOf w b ≤ signedOf w a)
  | .ltu => decide (a < b)
  | .leu => decide (a ≤ b)
  | .gtu => decide (b < a)
  | .geu => decide (b ≤ a)
  | .equ | .neu | .num | .nan => false

/-- ICMP (R334, R381). -/
def execIcmp (u : Bool) (cond : Cond) (p : BitVec 3) (a b : Opnd) (w : Width) (s : State) : Out :=
  execPred (.icmp u cond p a b w)
    (fun t => (fun x => x.setPred p (Sys2Proof.Machine.Cond.intHolds cond (bitsOfRegs w.regs) (t.regN a w.regs)
      (t.regN b w.regs)), 0)) s

/-- PLOP (R413). -/
def execPlop (u : Bool) (pd pa pb : BitVec 3) (lut : BitVec 4) (s : State) : Out :=
  execPred (.plop u pd pa pb lut)
    (fun t => (fun x => x.setPred pd (lut.getLsbD ((if t.pred pa then 2 else 0) + if t.pred pb then 1 else 0)), 0)) s

/-- PMOV.pack (R414). -/
def execPmovPack (u : Bool) (d : Opnd) (s : State) : Out :=
  execAlu (.pmovPack u d) d 1 (fun t => (t.p.toNat, 0)) s

/-- PMOV.unpack (R414). -/
def execPmovUnpack (u : Bool) (a : Opnd) (mask : BitVec 8) (s : State) : Out :=
  execPred (.pmovUnpack u a mask)
    (fun t => (fun x => { x with p := (x.p &&& ~~~ mask) ||| ((t.reg a).setWidth 8 &&& mask) }, 0)) s

end Sys2Proof.Machine
end

