-- ==== Sys2Proof/Machine/Float.lean ====
section
/-!
DEFINITION. Floating-point formats, exact values and the single rounding (06_arithmetic R97 to R108), and the arithmetic
of moulds FA and FU up to the special functions (23_ref R332, R333).
-/
namespace Sys2Proof.Machine

/-! ## Formats (R97 to R99) -/

/-- A layout: exponent width, fraction width, and whether it is E4M3, which has no infinity. -/
structure FFmt where
  eb : Nat
  fb : Nat
  e4 : Bool
deriving DecidableEq, Repr

/-- FP64. -/
def fp64 : FFmt := { eb := 11, fb := 52, e4 := false }
/-- FP32. -/
def fp32 : FFmt := { eb := 8, fb := 23, e4 := false }
/-- BF16. -/
def bf16 : FFmt := { eb := 8, fb := 7, e4 := false }
/-- FP16. -/
def fp16 : FFmt := { eb := 5, fb := 10, e4 := false }
/-- FP8 E4M3. -/
def e4m3 : FFmt := { eb := 4, fb := 3, e4 := true }
/-- FP8 E5M2. -/
def e5m2 : FFmt := { eb := 5, fb := 2, e4 := false }

/-- The width in bits. -/
def FFmt.width (f : FFmt) : Nat := 1 + f.eb + f.fb
/-- The all-ones exponent. -/
def FFmt.emax (f : FFmt) : Nat := 2 ^ f.eb - 1
/-- The bias. -/
def FFmt.bias (f : FFmt) : Nat := 2 ^ (f.eb - 1) - 1
/-- The exponent of the least normal. -/
def FFmt.emin (f : FFmt) : Int := 1 - (f.bias : Int)
/-- The exponent of the unit of a subnormal. -/
def FFmt.unit (f : FFmt) : Int := f.emin - (f.fb : Int)
/-- The sign bit. -/
def FFmt.signBit (f : FFmt) (neg : Bool) : Nat := if neg then 2 ^ (f.eb + f.fb) else 0
/-- The largest finite magnitude's pattern (Table 6.2). -/
def FFmt.maxBits (f : FFmt) : Nat := if f.e4 then 0x7E else f.emax * 2 ^ f.fb - 1
/-- The pattern of +∞, in a format that has one. -/
def FFmt.infBits (f : FFmt) : Nat := f.emax * 2 ^ f.fb
/-- Whether the format is an FP8 format. -/
def FFmt.fp8 (f : FFmt) : Bool := decide (f.width = 8)

/-- A pattern's value: a NaN with its payload, an infinity, or ±man × 2^exp. -/
inductive FVal where
  | nan (neg signalling : Bool) (payload : Nat)
  | inf (neg : Bool)
  | fin (neg : Bool) (man : Nat) (exp : Int)
deriving DecidableEq, Repr

/-- Read a pattern (R97 to R99). An E4M3 NaN is treated as carrying cause 5 (R107). -/
def FFmt.read (f : FFmt) (x : Nat) : FVal :=
  let neg := decide (bitsOf x (f.eb + f.fb) 1 = 1)
  let e := bitsOf x f.fb f.eb
  let m := bitsOf x 0 f.fb
  if f.e4 then
    if e = 15 ∧ m = 7 then .nan neg false 5
    else if e = 0 then .fin neg m f.unit
    else .fin neg (m + 2 ^ f.fb) (f.unit + ((e : Int) - 1))
  else if e = f.emax then
    if m = 0 then .inf neg else .nan neg (decide (m < 2 ^ (f.fb - 1))) (m % 2 ^ (f.fb - 1))
  else if e = 0 then .fin neg m f.unit
  else .fin neg (m + 2 ^ f.fb) (f.unit + ((e : Int) - 1))

/-- A quiet NaN with this sign and the low-order bits of this payload (R107). -/
def FFmt.nanBits (f : FFmt) (neg : Bool) (payload : Nat) : Nat :=
  if f.e4 then f.signBit neg + 0x7F
  else f.signBit neg + f.emax * 2 ^ f.fb + 2 ^ (f.fb - 1) + payload % 2 ^ (f.fb - 1)

/-- qnan(cause) (R106). -/
def FFmt.qnan (f : FFmt) (cause : Nat) : Nat := if f.fp8 then 0x7F else f.nanBits false cause

/-- ±0. -/
def FFmt.zero (f : FFmt) (neg : Bool) : Nat := f.signBit neg
/-- ±∞. -/
def FFmt.inf (f : FFmt) (neg : Bool) : Nat := f.signBit neg + f.infBits

/-- A signalling NaN. -/
def FVal.isSnan : FVal → Bool
  | .nan _ s _ => s
  | .inf _ | .fin _ _ _ => false

/-- A NaN. -/
def FVal.isNan : FVal → Bool
  | .nan _ _ _ => true
  | .inf _ | .fin _ _ _ => false

/-- A zero. -/
def FVal.isZero : FVal → Bool
  | .fin _ m _ => m == 0
  | .inf _ | .nan _ _ _ => false

/-- The sign. -/
def FVal.neg : FVal → Bool
  | .nan n _ _ => n
  | .inf n => n
  | .fin n _ _ => n

/-- The value negated; a NaN keeps its sign (R332). -/
def FVal.flip : FVal → FVal
  | .nan n s p => .nan n s p
  | .inf n => .inf !n
  | .fin n m e => .fin (!n) m e

/-! ## Rounding (R102 to R104) -/

/-- Round m × 2^e, plus less than one unit of it when `st`, to a multiple of 2^q: the multiple and whether it is
inexact. -/
def roundAt (rnd : Rnd) (neg : Bool) (m : Nat) (e : Int) (st : Bool) (q : Int) : Nat × Bool :=
  if q ≤ e then (m <<< (e - q).toNat, st)
  else
    let d := (q - e).toNat
    let n := m >>> d
    let r := m % 2 ^ d
    let inexact := r != 0 || st
    let half := 2 ^ (d - 1)
    let up := match rnd with
      | .rn => decide (half < r) || (r == half && (st || n % 2 == 1))
      | .rz => false
      | .ru => inexact && !neg
      | .rd => inexact && neg
    (if up then n + 1 else n, inexact)

/-- Table 6.4. -/
def FFmt.overflow (f : FFmt) (rnd : Rnd) (sat neg : Bool) : Nat × Word :=
  let toMax := sat || match rnd with
    | .rn => false
    | .rz => true
    | .ru => neg
    | .rd => !neg
  if toMax then (f.signBit neg + f.maxBits, flOF ||| flNX)
  else if f.e4 then (0x7F, flOF ||| flNX ||| flNV)
  else (f.inf neg, flOF ||| flNX)

/-- Round a nonzero exact result once and give its flags (R102, R103); `m` has more bits than the format's precision
when `st` is set. -/
def FFmt.round (f : FFmt) (rnd : Rnd) (sat neg : Bool) (m : Nat) (e : Int) (st : Bool) : Nat × Word :=
  let top := e + (Nat.log2 m : Int)
  let (n, _) := roundAt rnd neg m e st (top - f.fb)
  let carry := decide (2 ^ (f.fb + 1) ≤ n)
  let man := if carry then n / 2 else n
  let ex := if carry then top + 1 else top
  let emaxv : Int := if f.e4 then (f.emax : Int) - f.bias else f.bias
  let manMax := if f.e4 then 14 else 2 ^ (f.fb + 1) - 1
  if emaxv < ex ∨ (ex = emaxv ∧ manMax < man) then f.overflow rnd sat neg
  else
    let q := max (top - f.fb) f.unit
    let (k, inexact) := roundAt rnd neg m e st q
    let tiny := decide (ex < f.emin)
    (f.signBit neg + ((q - f.unit).toNat * 2 ^ f.fb + k),
      if inexact then (if tiny then flUF ||| flNX else flNX) else 0)

/-- An exact result that may be zero; `zneg` is the sign of a zero. -/
def FFmt.roundZ (f : FFmt) (rnd : Rnd) (sat zneg neg : Bool) (m : Nat) (e : Int) (st : Bool) : Nat × Word :=
  if m = 0 then (f.zero zneg, 0) else f.round rnd sat neg m e st

/-- The exact sum of finite terms, as a numerator over 2^-exp. -/
def exactSum (ts : List (Bool × Nat × Int)) : Int × Int :=
  let e := ts.foldl (fun m t => min m t.2.2) 0
  (ts.foldl (fun a t =>
    let v : Int := ((t.2.1 <<< (t.2.2 - e).toNat : Nat) : Int)
    if t.1 then a - v else a + v) 0, e)

/-- Round the exact sum of finite terms once, with the zero sign of R104. -/
def FFmt.roundSum (f : FFmt) (rnd : Rnd) (ts : List (Bool × Nat × Int)) : Nat × Word :=
  let (v, e) := exactSum ts
  let zneg := ts.all (fun t => t.1 && t.2.1 == 0) || rnd == .rd
  f.roundZ rnd false zneg (decide (v < 0)) v.natAbs e false

/-! ## NaN operands (R105, R107) -/

/-- The first NaN operand, converted to the destination format and quieted; NV if any operand signals. -/
def FFmt.nanOf (f : FFmt) (vs : List FVal) : Option (Nat × Word) :=
  match vs.find? FVal.isNan with
  | some (.nan n _ p) => some (f.nanBits n p, if vs.any FVal.isSnan then flNV else 0)
  | some (.inf _) | some (.fin _ _ _) | none => none

/-- qnan(cause) and its flag. -/
def FFmt.invalid (f : FFmt) (cause : Nat) : Nat × Word := (f.qnan cause, flNV)

/-! ## Mould FA and the fused forms (R332, R341) -/

/-- The finite terms of a list. -/
def finTerms (vs : List FVal) : List (Bool × Nat × Int) :=
  vs.filterMap fun v => match v with
    | .fin n m e => some (n, m, e)
    | .inf _ | .nan _ _ _ => none

/-- A sum of values without NaNs: opposite infinities, one infinity, or the exact sum rounded once. -/
def FFmt.sum (f : FFmt) (rnd : Rnd) (vs : List FVal) : Nat × Word :=
  let pos := vs.contains (.inf false)
  let ng := vs.contains (.inf true)
  if pos && ng then f.invalid 3
  else if pos then (f.inf false, 0)
  else if ng then (f.inf true, 0)
  else f.roundSum rnd (finTerms vs)

/-- a + b. -/
def FFmt.add (f : FFmt) (rnd : Rnd) (a b : FVal) : Nat × Word :=
  (f.nanOf [a, b]).getD (f.sum rnd [a, b])

/-- a − b. -/
def FFmt.sub (f : FFmt) (rnd : Rnd) (a b : FVal) : Nat × Word :=
  (f.nanOf [a, b]).getD (f.sum rnd [a, b.flip])

/-- The exact product of two values that are no NaNs; none for zero times infinity. -/
def exactMul (a b : FVal) : Option FVal :=
  match a, b with
  | .fin n m e, .fin n' m' e' => some (.fin (n != n') (m * m') (e + e'))
  | .inf n, x => if x.isZero then none else some (.inf (n != x.neg))
  | x, .inf n => if x.isZero then none else some (.inf (n != x.neg))
  | x, _ => some x

/-- Round one exact value: an infinity stays exact. -/
def FFmt.put (f : FFmt) (rnd : Rnd) (v : FVal) : Nat × Word :=
  match v with
  | .fin n m e => f.roundZ rnd false n n m e false
  | .inf n => (f.inf n, 0)
  | .nan n _ p => (f.nanBits n p, 0)

/-- a × b. -/
def FFmt.mul (f : FFmt) (rnd : Rnd) (a b : FVal) : Nat × Word :=
  (f.nanOf [a, b]).getD
    (match exactMul a b with
    | none => f.invalid 4
    | some p => f.put rnd p)

/-- a × b + c with one rounding (R102, R108). -/
def FFmt.fma (f : FFmt) (rnd : Rnd) (a b c : FVal) : Nat × Word :=
  (f.nanOf [a, b, c]).getD
    (match exactMul a b with
    | none => f.invalid 4
    | some p => f.sum rnd [p, c])

/-- The quotient of two finite nonzero values, correctly rounded. -/
def FFmt.quot (f : FFmt) (rnd : Rnd) (neg : Bool) (ma : Nat) (ea : Int) (mb : Nat) (eb : Int) : Nat × Word :=
  let k := f.fb + 4 + Nat.log2 mb
  let n := ma <<< k
  f.round rnd false neg (n / mb) (ea - eb - k) (n % mb != 0)

/-- a / b (R332, R118). -/
def FFmt.div (f : FFmt) (rnd : Rnd) (a b : FVal) : Nat × Word :=
  (f.nanOf [a, b]).getD
    (match a, b with
    | .inf _, .inf _ => f.invalid 6
    | .inf n, x => (f.inf (n != x.neg), 0)
    | x, .inf n => (f.zero (n != x.neg), 0)
    | .fin n m e, .fin n' m' e' =>
        if m' = 0 then (if m = 0 then f.invalid 6 else (f.inf (n != n'), flDZ))
        else if m = 0 then (f.zero (n != n'), 0)
        else f.quot rnd (n != n') m e m' e'
    | _, _ => f.invalid 6)

/-! ## Ordering (R93, R104) -/

/-- An order-preserving key of a pattern that is no NaN: −0 below +0 when `strict`. -/
def FFmt.key (f : FFmt) (strict : Bool) (x : Nat) : Int :=
  let mag : Int := (bitsOf x 0 (f.eb + f.fb) : Nat)
  if bitsOf x (f.eb + f.fb) 1 = 1 then (if strict then -mag - 1 else -mag) else mag

/-- FMIN, FMAX, DMIN, DMAX (R332). -/
def FFmt.minmax (f : FFmt) (isMax : Bool) (a b : Nat) : Nat × Word :=
  (f.nanOf [f.read a, f.read b]).getD
    (let le := decide (f.key true a ≤ f.key true b)
     (if isMax == le then b else a, 0))

/-- Whether a condition holds between ordered keys, or when unordered (Table 5.10, FCMP and DCMP column). -/
def Cond.floatHolds (c : Cond) (unordered lt eq : Bool) : Bool :=
  let gt := !unordered && !lt && !eq
  match c with
  | .eq => eq
  | .ne => !unordered && !eq
  | .lt => lt
  | .le => lt || eq
  | .gt => gt
  | .ge => gt || eq
  | .ltu => unordered || lt
  | .leu => unordered || lt || eq
  | .gtu => unordered || gt
  | .geu => unordered || gt || eq
  | .equ => unordered || eq
  | .neu => unordered || !eq
  | .num => !unordered
  | .nan => unordered

/-- FCMP and DCMP (R334). -/
def FFmt.compare (f : FFmt) (c : Cond) (a b : Nat) : Bool × Word :=
  let va := f.read a
  let vb := f.read b
  let un := va.isNan || vb.isNan
  let ka := f.key false a
  let kb := f.key false b
  (Sys2Proof.Machine.Cond.floatHolds c un (!un && decide (ka < kb)) (!un && decide (ka = kb)),
    if va.isSnan || vb.isSnan then flNV else 0)

/-- FCLS (Table 23.13). -/
def FFmt.classOf (f : FFmt) (x : Nat) : Nat :=
  match f.read x with
  | .nan _ s _ => if s then 0 else 1
  | .inf n => if n then 2 else 9
  | .fin n m _ =>
      if m = 0 then (if n then 5 else 6)
      else if m < 2 ^ f.fb then (if n then 4 else 7)
      else if n then 3 else 8

/-! ## Roots -/

/-- The integer square root by bits: `r` grows from the bit below `fuel` down. -/
def isqrtGo : Nat → Nat → Nat → Nat
  | 0, _, r => r
  | k + 1, x, r => isqrtGo k x (if (r + 2 ^ k) * (r + 2 ^ k) ≤ x then r + 2 ^ k else r)

/-- The integer square root. -/
def isqrt (x : Nat) : Nat := isqrtGo (Nat.log2 x / 2 + 1) x 0

/-- √(m × 2^e), correctly rounded. -/
def FFmt.root (f : FFmt) (rnd : Rnd) (m : Nat) (e : Int) : Nat × Word :=
  let k := 2 * f.fb + 8
  let k := if (e - k) % 2 = 0 then k else k + 1
  let n := m <<< k
  let r := isqrt n
  f.round rnd false false r ((e - k) / 2) (r * r != n)

/-- 1 / √(m × 2^e), rounded to nearest. -/
def FFmt.rroot (f : FFmt) (m : Nat) (e : Int) : Nat × Word :=
  let m2 := if e % 2 = 0 then m else 2 * m
  let e2 := if e % 2 = 0 then e else e - 1
  let k := f.fb + 6 + Nat.log2 m2
  let r := isqrt (2 ^ (2 * k) / m2)
  f.round .rn false false r (-(e2 / 2) - k) (m2 * (r * r) != 2 ^ (2 * k))

/-- FSQRT, DSQRT (Table 6.10). -/
def FFmt.sqrt (f : FFmt) (rnd : Rnd) (a : FVal) : Nat × Word :=
  (f.nanOf [a]).getD
    (match a with
    | .inf n => if n then f.invalid 6 else (f.inf false, 0)
    | .fin n m e =>
        if m = 0 then (f.zero n, 0)
        else if n then f.invalid 6 else f.root rnd m e
    | .nan _ _ _ => f.invalid 6)

/-- FRSQ (Table 6.10). -/
def FFmt.rsqrt (f : FFmt) (a : FVal) : Nat × Word :=
  (f.nanOf [a]).getD
    (match a with
    | .inf n => if n then f.invalid 6 else (f.zero false, 0)
    | .fin n m e =>
        if m = 0 then (f.inf n, flDZ)
        else if n then f.invalid 6 else f.rroot m e
    | .nan _ _ _ => f.invalid 6)

/-- FRCP, DRCP (Table 6.10). -/
def FFmt.recip (f : FFmt) (a : FVal) : Nat × Word := f.div .rn (.fin false 1 0) a

/-! ## Format codes -/

/-- The layout that a floating-point format code names. -/
def fmtLayout : Fmt → Option FFmt
  | .f64 => some fp64
  | .f32 => some fp32
  | .bf16 => some bf16
  | .h16 => some fp16
  | .e4m3 => some e4m3
  | .e5m2 => some e5m2
  | .i32 | .n32 | .q8 | .q4 | .i16 | .n16 | .i64 | .n64 => none

/-- Width in bits and signedness of an integer format code. -/
def fmtInt : Fmt → Nat × Bool
  | .i16 => (16, true)
  | .n16 => (16, false)
  | .n32 => (32, false)
  | .i64 => (64, true)
  | .n64 => (64, false)
  | .i32 | .f64 | .f32 | .bf16 | .h16 | .e4m3 | .e5m2 | .q8 | .q4 => (32, true)

/-! ## Conversions (R113 to R115) -/

/-- Float to float, between different formats or the same (R113, R330). Infinity into E4M3 gives 0x7F with NV, or ±448
when saturating. R113 also says that conversions from FP8 raise no flag but NV; the model takes that of widening conversions, and gives
one between the FP8 formats the flags of R103 (DESIGN CHOICE, log 112). -/
def convFF (df : FFmt) (rnd : Rnd) (sat : Bool) (v : FVal) : Nat × Word :=
  match v with
  | .nan n s p => (df.nanBits n p, if s then flNV else 0)
  | .inf n =>
      if df.e4 then (if sat then (df.signBit n + df.maxBits, 0) else (0x7F, flNV)) else (df.inf n, 0)
  | .fin n m e => df.roundZ rnd sat n n m e false

/-- Float to integer (R114, Table 6.8): the result's w-bit pattern. -/
def convFI (w : Nat) (sg : Bool) (rnd : Rnd) (sat : Bool) (v : FVal) : Nat × Word :=
  let (lo, hi) := intBounds w sg
  let bad : Nat := if sg then 2 ^ (w - 1) else 2 ^ w - 1
  match v with
  | .nan _ _ _ => (if sat then 0 else bad, flNV)
  | .inf n => (if sat then wrapInt w (if n then lo else hi) else bad, flNV)
  | .fin n m e =>
      let (k, inexact) := roundAt rnd n m e false 0
      let x : Int := if n then -(k : Int) else k
      if lo ≤ x ∧ x ≤ hi then (wrapInt w x, if inexact then flNX else 0)
      else (if sat then wrapInt w (if n then lo else hi) else bad, if inexact then flNV ||| flNX else flNV)

/-- Integer to float (R115). -/
def convIF (df : FFmt) (rnd : Rnd) (sat : Bool) (x : Int) : Nat × Word :=
  df.roundZ rnd sat false (decide (x < 0)) x.natAbs 0 false

/-- An inline constant read as a floating-point format (R77). -/
def constFloat (f : FFmt) (c : BitVec 4) : Nat :=
  if f = fp64 then (constF64 c).toNat
  else if f = fp32 then (constF32 c).toNat
  else (convFF f .rn false (fp64.read (constF64 c).toNat)).1

/-! ## Q codes (R116) -/

/-- QNT: the code, under scale `s` (FP16) and zero point `z`. -/
def quantise (w : Nat) (rnd : Rnd) (x s : FVal) (z : Nat) : Nat × Word :=
  match x, s with
  | .nan _ _ _, _ | _, .nan _ _ _ => (z, flNV)
  | x, .fin ns 0 _ =>
      if x.isZero then (z, 0) else (if x.neg = ns then 2 ^ w - 1 else 0, flDZ)
  | .inf _, .inf _ => (z, flNV)
  | .inf n, .fin ns _ _ => (if n = ns then 2 ^ w - 1 else 0, flSAT)
  | .fin _ 0 _, _ => (z, 0)
  | .fin _ _ _, .inf _ => (z, 0)
  | .fin n m e, .fin ns ms es =>
      let neg := n != ns
      let k := if e - es < 0 then (es - e).toNat else 0
      let num := if e - es < 0 then m else m <<< (e - es).toNat
      let den := ms <<< k
      let q := num / den
      let r := num % den
      let up := match rnd with
        | .rn => decide (den < 2 * r) || (2 * r == den && q % 2 == 1)
        | .rz => false
        | .ru => r != 0 && !neg
        | .rd => r != 0 && neg
      let k := if up then q + 1 else q
      let v : Int := (if neg then -(k : Int) else k) + z
      let c := clampInt 0 (2 ^ w - 1 : Nat) v
      (c.toNat, (if c = v then 0 else flSAT) ||| (if r = 0 then 0 else flNX))

/-- DQNT: s × (q − z) rounded once (R345). -/
def dequantise (df : FFmt) (rnd : Rnd) (sat : Bool) (q : Nat) (s : FVal) (z : Nat) : Nat × Word :=
  let d : Int := (q : Int) - z
  match s with
  | .nan n sg p => (df.nanBits n p, if sg then flNV else 0)
  | .inf n => if d = 0 then df.invalid 4 else convFF df rnd sat (.inf (n != decide (d < 0)))
  | .fin n m e =>
      let neg := n != decide (d < 0)
      df.roundZ rnd sat neg neg (m * d.natAbs) e false

end Sys2Proof.Machine
end

