-- ==== Sys2Proof/Machine/Special.lean ====
section
/-!
DEFINITION. The FP32 functions FEX2, FLG2, FSIN and FCOS (06_arithmetic R117, R118): the exact result rounded once, from
fixed-point values whose error is far below what separates the exact result from a rounding boundary.
-/
namespace Sys2Proof.Machine

/-- The scale of the exponential and the logarithm. -/
def expBits : Nat := 192
/-- ln 2 × 2^192, rounded down. -/
def ln2Fix : Nat := 0xb17217f7d1cf79abc9e3b39803f2f6af40f343267298b62d
/-- The scale of sine and cosine. -/
def trigBits : Nat := 480
/-- π × 2^480, rounded down. -/
def piFix : Nat :=
  0x3243f6a8885a308d313198a2e03707344a4093822299f31d0082efa98ec4e6c89452821e638d01377be5466cf34e90c6cc0ac29b7c97c50dd3f84d5b5

/-! ## 2^x -/

/-- The terms y^k / k! of e^y for y scaled by 2^192: `term` is the k-th. -/
def expSeries : Nat → Nat → Nat → Nat → Nat → Nat
  | 0, _, _, _, acc => acc
  | n + 1, y, k, term, acc => expSeries n y (k + 1) (((term * y) >>> expBits) / (k + 1)) (acc + term)

/-- 2^(num / 2^d) for 0 ≤ num < 2^d, scaled by 2^192. -/
def exp2Frac (num d : Nat) : Nat :=
  let y := (num * ln2Fix) >>> d
  expSeries 56 y 0 (2 ^ expBits) 0

/-- FEX2 of a finite value that is not zero: 2^n × 2^f, with n the floor. Past ±1000 the result overflows or is less than
every subnormal. -/
def exp2Fin (neg : Bool) (m : Nat) (e : Int) : Nat × Word :=
  let v : Int := if neg then -(m : Int) else m
  if 0 ≤ e then
    let x := clampInt (-1000) 1000 (if 10 < e then (if neg then -1000 else 1000) else v * (2 ^ e.toNat : Nat))
    fp32.round .rn false false 1 x false
  else
    let d := (-e).toNat
    let n := clampInt (-1000) 1000 (v / (2 ^ d : Nat))
    let f := (v % (2 ^ d : Nat)).toNat
    if f = 0 then fp32.round .rn false false 1 n false
    else fp32.round .rn false false (exp2Frac f d) (n - expBits) true

/-- FEX2 (Table 6.10). -/
def fexp2 (a : FVal) : Nat × Word :=
  (fp32.nanOf [a]).getD
    (match a with
    | .inf n => if n then (fp32.zero false, 0) else (fp32.inf false, 0)
    | .fin n m e => if m = 0 then ((fp32.round .rn false false 1 0 false).1, 0) else exp2Fin n m e
    | .nan _ _ _ => fp32.invalid 6)

/-! ## log2 x -/

/-- The terms t^(2k+1) / (2k+1) of artanh t for t scaled by 2^192: `pw` is t^(2k+1). -/
def atanhSeries : Nat → Nat → Nat → Nat → Nat → Nat
  | 0, _, _, _, acc => acc
  | n + 1, t2, k, pw, acc => atanhSeries n t2 (k + 1) ((pw * t2) >>> expBits) (acc + pw / (2 * k + 1))

/-- log2 of 1 + num / 2^d for 0 ≤ num < 2^d, scaled by 2^192. -/
def log2Frac (num d : Nat) : Nat :=
  let t := (num <<< expBits) / (2 ^ (d + 1) + num)
  let ln := 2 * atanhSeries 64 ((t * t) >>> expBits) 0 t 0
  (ln <<< expBits) / ln2Fix

/-- FLG2 of a positive finite value. -/
def flog2Fin (m : Nat) (e : Int) : Nat × Word :=
  let d := Nat.log2 m
  let n : Int := e + d
  let num := m - 2 ^ d
  if num = 0 then fp32.roundZ .rn false false (decide (n < 0)) n.natAbs 0 false
  else
    let v : Int := n * (2 ^ expBits : Nat) + (log2Frac num d : Nat)
    let mag := if v < 0 then v.natAbs - 1 else v.natAbs
    fp32.round .rn false (decide (v < 0)) mag (-(expBits : Int)) true

/-- FLG2 (Table 6.10). -/
def flog2 (a : FVal) : Nat × Word :=
  (fp32.nanOf [a]).getD
    (match a with
    | .inf n => if n then fp32.invalid 6 else (fp32.inf false, 0)
    | .fin n m e =>
        if m = 0 then (fp32.inf true, flDZ)
        else if n then fp32.invalid 6 else flog2Fin m e
    | .nan _ _ _ => fp32.invalid 6)

/-! ## Sine and cosine -/

/-- The terms ± r^k / k! with alternating signs, stepping k by 2, for r² scaled by 2^480. -/
def trigSeries : Nat → Nat → Nat → Int → Int → Int
  | 0, _, _, _, acc => acc
  | n + 1, r2, k, term, acc =>
      trigSeries n r2 (k + 2) (-(term * r2 / (2 ^ trigBits : Nat)) / ((k + 1) * (k + 2) : Nat)) (acc + term)

/-- sin r or cos r for 0 ≤ r < π/2, scaled by 2^480. -/
def trigFix (cosine : Bool) (r : Nat) : Int :=
  let r2 := (r * r) >>> trigBits
  if cosine then trigSeries 50 r2 0 (2 ^ trigBits : Nat) 0 else trigSeries 50 r2 1 r 0

/-- sin or cos of |x| = m × 2^e as a sign and a magnitude scaled by 2^480: exact reduction by quarter turns. -/
def trigReduce (cosine : Bool) (m : Nat) (e : Int) : Bool × Nat :=
  let x := m <<< (e + trigBits).toNat
  let half := piFix / 2
  let k := 2 * x / piFix
  let r := x - k * piFix / 2
  let q := (k + if cosine then 1 else 0) % 4
  let v := trigFix (q % 2 = 1) (if half < r then half else r)
  (decide (2 ≤ q), v.natAbs)

/-- FSIN and FCOS of a finite nonzero value. -/
def trigFin (cosine neg : Bool) (m : Nat) (e : Int) : Nat × Word :=
  let (s, v) := trigReduce cosine m e
  fp32.round .rn false (s != (neg && !cosine)) (v - 1) (-(trigBits : Int)) true

/-- FSIN and FCOS (Table 6.10). -/
def ftrig (cosine : Bool) (a : FVal) : Nat × Word :=
  (fp32.nanOf [a]).getD
    (match a with
    | .inf _ => fp32.invalid 6
    | .fin n m e =>
        if m = 0 then (if cosine then ((fp32.round .rn false false 1 0 false).1, 0) else (fp32.zero n, 0))
        else trigFin cosine n m e
    | .nan _ _ _ => fp32.invalid 6)

end Sys2Proof.Machine
end

