-- ==== Sys2Proof/Machine/Fp.lean ====
section
/-!
DEFINITION. Floating-point instructions (23_ref moulds FA, FU, CMP, H2), conversions (22_ref R329, R330) and the Q codes
(25_ref R429, 23_ref R345).
-/
namespace Sys2Proof.Machine

/-! ## Reading operands -/

/-- The FP32 pattern of an operand. -/
def Thread.f32 (th : Thread) (o : Opnd) : Nat := (th.regF32 o).toNat
/-- The FP64 pattern of an operand. -/
def Thread.f64 (th : Thread) (o : Opnd) : Nat := (th.regF64 o).toNat
/-- The FP32 value of an operand. -/
def Thread.v32 (th : Thread) (o : Opnd) : FVal := fp32.read (th.f32 o)
/-- The FP64 value of an operand. -/
def Thread.v64 (th : Thread) (o : Opnd) : FVal := fp64.read (th.f64 o)

/-- The FP16 scale of QNT and DQNT: bits [15:0], or a constant's FP16 value. -/
def Thread.scale (th : Thread) (o : Opnd) : FVal :=
  match o with
  | .c n => fp16.read (constFloat fp16 n)
  | .t _ | .k _ | .r _ => fp16.read ((th.reg o).toNat % 2 ^ 16)

/-- The two halves of a packed operand; a constant's converted value stands in both (R77). -/
def Thread.halves (th : Thread) (f : FFmt) (o : Opnd) : FVal × FVal :=
  match o with
  | .c n => (f.read (constFloat f n), f.read (constFloat f n))
  | .t _ | .k _ | .r _ => (f.read (bitsOf (th.reg o).toNat 0 16), f.read (bitsOf (th.reg o).toNat 16 16))

/-! ## FP32 -/

/-- FADD. -/
def execFadd (u : Bool) (d a b : Opnd) (rnd : Rnd) (s : State) : Out :=
  execAlu (.fadd u d a b rnd) d 1 (fun t => fp32.add rnd (t.v32 a) (t.v32 b)) s
/-- FSUB. -/
def execFsub (u : Bool) (d a b : Opnd) (rnd : Rnd) (s : State) : Out :=
  execAlu (.fsub u d a b rnd) d 1 (fun t => fp32.sub rnd (t.v32 a) (t.v32 b)) s
/-- FMUL. -/
def execFmul (u : Bool) (d a b : Opnd) (rnd : Rnd) (s : State) : Out :=
  execAlu (.fmul u d a b rnd) d 1 (fun t => fp32.mul rnd (t.v32 a) (t.v32 b)) s
/-- FDIV. -/
def execFdiv (u : Bool) (d a b : Opnd) (rnd : Rnd) (s : State) : Out :=
  execAlu (.fdiv u d a b rnd) d 1 (fun t => fp32.div rnd (t.v32 a) (t.v32 b)) s
/-- FMIN. -/
def execFmin (u : Bool) (d a b : Opnd) (s : State) : Out :=
  execAlu (.fmin u d a b) d 1 (fun t => fp32.minmax false (t.f32 a) (t.f32 b)) s
/-- FMAX. -/
def execFmax (u : Bool) (d a b : Opnd) (s : State) : Out :=
  execAlu (.fmax u d a b) d 1 (fun t => fp32.minmax true (t.f32 a) (t.f32 b)) s
/-- FFMA (R341). -/
def execFfma (u : Bool) (d a b c : Opnd) (rnd : Rnd) (s : State) : Out :=
  execAlu (.ffma u d a b c rnd) d 1 (fun t => fp32.fma rnd (t.v32 a) (t.v32 b) (t.v32 c)) s
/-- FSQRT. -/
def execFsqrt (u : Bool) (d a : Opnd) (rnd : Rnd) (s : State) : Out :=
  execAlu (.fsqrt u d a rnd) d 1 (fun t => fp32.sqrt rnd (t.v32 a)) s
/-- FRCP. -/
def execFrcp (u : Bool) (d a : Opnd) (s : State) : Out :=
  execAlu (.frcp u d a) d 1 (fun t => fp32.recip (t.v32 a)) s
/-- FRSQ. -/
def execFrsq (u : Bool) (d a : Opnd) (s : State) : Out :=
  execAlu (.frsq u d a) d 1 (fun t => fp32.rsqrt (t.v32 a)) s
/-- FEX2. -/
def execFex2 (u : Bool) (d a : Opnd) (s : State) : Out :=
  execAlu (.fex2 u d a) d 1 (fun t => fexp2 (t.v32 a)) s
/-- FLG2. -/
def execFlg2 (u : Bool) (d a : Opnd) (s : State) : Out :=
  execAlu (.flg2 u d a) d 1 (fun t => flog2 (t.v32 a)) s
/-- FSIN. -/
def execFsin (u : Bool) (d a : Opnd) (s : State) : Out :=
  execAlu (.fsin u d a) d 1 (fun t => ftrig false (t.v32 a)) s
/-- FCOS. -/
def execFcos (u : Bool) (d a : Opnd) (s : State) : Out :=
  execAlu (.fcos u d a) d 1 (fun t => ftrig true (t.v32 a)) s
/-- FCMP (R334). -/
def execFcmp (u : Bool) (cond : Cond) (p : BitVec 3) (a b : Opnd) (s : State) : Out :=
  execPred (.fcmp u cond p a b)
    (fun t => (fun x => x.setPred p (fp32.compare cond (t.f32 a) (t.f32 b)).1,
      (fp32.compare cond (t.f32 a) (t.f32 b)).2)) s
/-- FCLS (R352). -/
def execFcls (u : Bool) (d a : Opnd) (w : Width) (s : State) : Out :=
  execAlu (.fcls u d a w) d 1 (fun t =>
    (2 ^ (match w with
      | .w32 => fp32.classOf (t.f32 a)
      | .w64 => fp64.classOf (t.f64 a)), 0)) s

/-! ## FP64 -/

/-- DADD. -/
def execDadd (u : Bool) (d a b : Opnd) (rnd : Rnd) (s : State) : Out :=
  execAlu (.dadd u d a b rnd) d 2 (fun t => fp64.add rnd (t.v64 a) (t.v64 b)) s
/-- DSUB. -/
def execDsub (u : Bool) (d a b : Opnd) (rnd : Rnd) (s : State) : Out :=
  execAlu (.dsub u d a b rnd) d 2 (fun t => fp64.sub rnd (t.v64 a) (t.v64 b)) s
/-- DMUL. -/
def execDmul (u : Bool) (d a b : Opnd) (rnd : Rnd) (s : State) : Out :=
  execAlu (.dmul u d a b rnd) d 2 (fun t => fp64.mul rnd (t.v64 a) (t.v64 b)) s
/-- DDIV. -/
def execDdiv (u : Bool) (d a b : Opnd) (rnd : Rnd) (s : State) : Out :=
  execAlu (.ddiv u d a b rnd) d 2 (fun t => fp64.div rnd (t.v64 a) (t.v64 b)) s
/-- DMIN. -/
def execDmin (u : Bool) (d a b : Opnd) (s : State) : Out :=
  execAlu (.dmin u d a b) d 2 (fun t => fp64.minmax false (t.f64 a) (t.f64 b)) s
/-- DMAX. -/
def execDmax (u : Bool) (d a b : Opnd) (s : State) : Out :=
  execAlu (.dmax u d a b) d 2 (fun t => fp64.minmax true (t.f64 a) (t.f64 b)) s
/-- DFMA (R341). -/
def execDfma (u : Bool) (d a b c : Opnd) (rnd : Rnd) (s : State) : Out :=
  execAlu (.dfma u d a b c rnd) d 2 (fun t => fp64.fma rnd (t.v64 a) (t.v64 b) (t.v64 c)) s
/-- DSQRT. -/
def execDsqrt (u : Bool) (d a : Opnd) (rnd : Rnd) (s : State) : Out :=
  execAlu (.dsqrt u d a rnd) d 2 (fun t => fp64.sqrt rnd (t.v64 a)) s
/-- DRCP. -/
def execDrcp (u : Bool) (d a : Opnd) (s : State) : Out :=
  execAlu (.drcp u d a) d 2 (fun t => fp64.recip (t.v64 a)) s
/-- DCMP (R334). -/
def execDcmp (u : Bool) (cond : Cond) (p : BitVec 3) (a b : Opnd) (s : State) : Out :=
  execPred (.dcmp u cond p a b)
    (fun t => (fun x => x.setPred p (fp64.compare cond (t.f64 a) (t.f64 b)).1,
      (fp64.compare cond (t.f64 a) (t.f64 b)).2)) s

/-! ## Packed halves (R336) -/

/-- The format of a packed instruction. -/
def packedFmt (bf : Bool) : FFmt := if bf then bf16 else fp16

/-- Two half results and their flags as one register. -/
def packHalves (lo hi : Nat × Word) : Nat × Word := (hi.1 * 2 ^ 16 + lo.1, lo.2 ||| hi.2)

/-- HADD2. -/
def execHadd2 (u : Bool) (d a b : Opnd) (bf : Bool) (rnd : Rnd) (s : State) : Out :=
  execAlu (.hadd2 u d a b bf rnd) d 1 (fun t =>
    let f := packedFmt bf
    let x := t.halves f a
    let y := t.halves f b
    packHalves (f.add rnd x.1 y.1) (f.add rnd x.2 y.2)) s

/-- HMUL2. -/
def execHmul2 (u : Bool) (d a b : Opnd) (bf : Bool) (rnd : Rnd) (s : State) : Out :=
  execAlu (.hmul2 u d a b bf rnd) d 1 (fun t =>
    let f := packedFmt bf
    let x := t.halves f a
    let y := t.halves f b
    packHalves (f.mul rnd x.1 y.1) (f.mul rnd x.2 y.2)) s

/-- HFMA2. -/
def execHfma2 (u : Bool) (d a b c : Opnd) (bf : Bool) (rnd : Rnd) (s : State) : Out :=
  execAlu (.hfma2 u d a b c bf rnd) d 1 (fun t =>
    let f := packedFmt bf
    let x := t.halves f a
    let y := t.halves f b
    let z := t.halves f c
    packHalves (f.fma rnd x.1 y.1 z.1) (f.fma rnd x.2 y.2 z.2)) s

/-! ## Conversions -/

/-- A source of CVT or QNT as a pattern of its format (Table 22.25, R77). -/
def Thread.fmtBits (th : Thread) (f : Fmt) (o : Opnd) : Nat :=
  match fmtLayout f, o with
  | some l, .c n => constFloat l n
  | some l, _ => th.regN o f.regs % 2 ^ l.width
  | none, _ => th.regN o f.regs % 2 ^ (fmtInt f).1

/-- A result's pattern as it stands in its registers (Table 22.25): I16 is sign-extended. -/
def placeFmt (f : Fmt) (x : Nat) : Nat :=
  match f with
  | .i16 => wrapInt 32 (signedOf 16 x)
  | .f64 | .f32 | .bf16 | .h16 | .e4m3 | .e5m2 | .i32 | .n32 | .q8 | .q4 | .n16 | .i64 | .n64 => x

/-- CVT's result for a source pattern (R113 to R115). -/
def convert (df sf : Fmt) (rnd : Rnd) (sat : Bool) (x : Nat) : Nat × Word :=
  match fmtLayout df, fmtLayout sf with
  | some l, some m => convFF l rnd sat (m.read x)
  | some l, none => convIF l rnd sat (intOf (fmtInt sf).1 (fmtInt sf).2 x)
  | none, some m => convFI (fmtInt df).1 (fmtInt df).2 rnd sat (m.read x)
  | none, none => narrow (fmtInt df).1 (fmtInt df).2 sat (intOf (fmtInt sf).1 (fmtInt sf).2 x)

/-- CVT (R329, R330). -/
def execCvt (u : Bool) (d a : Opnd) (df sf : Fmt) (rnd : Rnd) (sat : Bool) (s : State) : Out :=
  execAlu (.cvt u d a df sf rnd sat) d df.regs (fun t =>
    let v := convert df sf rnd sat (t.fmtBits sf a)
    (placeFmt df v.1, v.2)) s

/-- Bits of a code. -/
def codeBits (q4 : Bool) : Nat := if q4 then 4 else 8

/-- QNT (R429). -/
def execQnt (u : Bool) (d x sc z : Opnd) (sf : Fmt) (rnd : Rnd) (q4 : Bool) (s : State) : Out :=
  execAlu (.qnt u d x sc z sf rnd q4) d 1 (fun t =>
    match fmtLayout sf with
    | some l =>
        quantise (codeBits q4) rnd (l.read (t.fmtBits sf x)) (t.scale sc) ((t.reg z).toNat % 2 ^ codeBits q4)
    | none => (0, 0)) s

/-- DQNT (R345). -/
def execDqnt (u : Bool) (d q sc z : Opnd) (df : Fmt) (rnd : Rnd) (sat q4 : Bool) (s : State) : Out :=
  execAlu (.dqnt u d q sc z df rnd sat q4) d df.regs (fun t =>
    match fmtLayout df with
    | some l =>
        dequantise l rnd sat ((t.reg q).toNat % 2 ^ codeBits q4) (t.scale sc) ((t.reg z).toNat % 2 ^ codeBits q4)
    | none => (0, 0)) s

end Sys2Proof.Machine
end

