-- ==== Sys2Proof/Machine/Routes.lean ====
section
/-!
DEFINITION. Routers, homes and routes (08_coherence R152, R153, 07_memory R129), tree-cache entries (R154, R155) and the
queues of messages between routers (R153, R164).
-/
namespace Sys2Proof.Machine

/-! ## Geometry -/

/-- The home L3 slice of an address (R129), by line number. -/
def l3Slice (num : Nat) : Nat :=
  let pa := num * 128
  bitsOf pa 9 6 ^^^ bitsOf pa 15 6 ^^^ bitsOf pa 21 6 ^^^ bitsOf pa 27 6 ^^^ bitsOf pa 33 6 ^^^ bitsOf pa 39 6
    ^^^ bitsOf pa 45 6

/-- The home router of a line: below its L3 slice (Table 8.1); the root of a host line is placed alike (R174). -/
def homeOf (l : LineId) : RouterId :=
  let sl := l3Slice l.num
  .base (Fin.ofNat 16 (8 * bitsOf sl 4 1 + 2 * bitsOf sl 0 2)) (Fin.ofNat 8 (4 * bitsOf sl 5 1 + bitsOf sl 2 2))

/-- The first base column below a compute die. -/
def fx (c : Fin 8) : Nat := 8 * bitsOf c.val 1 1 + 4 * bitsOf c.val 0 1
/-- The first base row below a compute die. -/
def fy (c : Fin 8) : Nat := 4 * bitsOf c.val 2 1

/-- The router beside a cache. -/
def routerOf (c : CacheId) : RouterId :=
  match c with
  | .l1 d n => .compute d (Fin.ofNat 8 (n.val % 8)) (Fin.ofNat 8 (n.val / 8))
  | .l2 d j => .compute d (Fin.ofNat 8 (2 * (j.val % 4))) (Fin.ofNat 8 (2 * (j.val / 4)))

/-- A value moved into a range. -/
def clampNat (x lo hi : Nat) : Nat := if x < lo then lo else if hi < x then hi else x

/-- One step towards (tx, ty), X first (R153); none at the target. -/
def towards (x y tx ty : Nat) : Option Port :=
  if x < tx then some .e else if tx < x then some .w
  else if y < ty then some .s else if ty < y then some .n else none

/-- The port through which a request for a home leaves a router (R153). -/
def nextPort (h : RouterId) (r : RouterId) : Option Port :=
  match h, r with
  | .base hx hy, .compute c x y =>
      let dx := 2 * (clampNat hx.val (fx c) (fx c + 3) - fx c)
      let dy := 2 * (clampNat hy.val (fy c) (fy c + 3) - fy c)
      match towards x.val y.val dx dy with
      | some p => some p
      | none => some .dn
  | .base hx hy, .base x y => towards x.val y.val hx.val hy.val
  | .compute _ _ _, _ => none

/-- The router on the other end of a port. -/
def neighbour (r : RouterId) (p : Port) : Option RouterId :=
  match r, p with
  | .compute c x y, .n => if 0 < y.val then some (.compute c x (Fin.ofNat 8 (y.val - 1))) else none
  | .compute c x y, .s => if y.val < 7 then some (.compute c x (Fin.ofNat 8 (y.val + 1))) else none
  | .compute c x y, .w => if 0 < x.val then some (.compute c (Fin.ofNat 8 (x.val - 1)) y) else none
  | .compute c x y, .e => if x.val < 7 then some (.compute c (Fin.ofNat 8 (x.val + 1)) y) else none
  | .compute c x y, .dn =>
      if x.val % 2 = 0 ∧ y.val % 2 = 0 then
        some (.base (Fin.ofNat 16 (fx c + x.val / 2)) (Fin.ofNat 8 (fy c + y.val / 2)))
      else none
  | .base x y, .n => if 0 < y.val then some (.base x (Fin.ofNat 8 (y.val - 1))) else none
  | .base x y, .s => if y.val < 7 then some (.base x (Fin.ofNat 8 (y.val + 1))) else none
  | .base x y, .w => if 0 < x.val then some (.base (Fin.ofNat 16 (x.val - 1)) y) else none
  | .base x y, .e => if x.val < 15 then some (.base (Fin.ofNat 16 (x.val + 1)) y) else none
  | .base x y, .up =>
      some (.compute (Fin.ofNat 8 (4 * (y.val / 4) + 2 * (x.val / 8) + x.val % 8 / 4))
        (Fin.ofNat 8 (2 * (x.val % 4))) (Fin.ofNat 8 (2 * (y.val % 4))))
  | .compute _ _ _, .up | .compute _ _ _, .self | .base _ _, .dn | .base _ _, .self => none

/-- The port at the other end of a link. -/
def Port.flip : Port → Port
  | .n => .s
  | .s => .n
  | .e => .w
  | .w => .e
  | .up => .dn
  | .dn => .up
  | .self => .self

/-- The six link ports in the order of R157's ties. -/
def linkPorts : List Port := [.n, .e, .s, .w, .up, .dn]

/-- The port of a router that leads to a neighbour. -/
def portTo (r q : RouterId) : Port := (linkPorts.find? fun p => neighbour r p = some q).getD .self

/-! ## Tree-cache entries (Table 8.2) -/

/-- The LINKS bit of a port. -/
def linkBit : Port → Nat
  | .n => 7
  | .e => 6
  | .s => 5
  | .w => 4
  | .up => 3
  | .dn => 2
  | .self => 0

/-- The LINKS bit of a local holder. -/
def localBit : CacheId → Nat
  | .l1 _ _ => 0
  | .l2 _ _ => 1

/-- The low bit of a port's HINT. -/
def hintLo : Port → Nat
  | .n => 0
  | .e => 3
  | .s => 6
  | .w => 9
  | .up => 12
  | .dn => 15
  | .self => 0

/-- The ROOT code of a port. -/
def rootCode : Port → Nat
  | .n => 0
  | .e => 1
  | .s => 2
  | .w => 3
  | .up => 4
  | .dn => 5
  | .self => 6

/-- Whether a port's link bit is set. -/
def TreeEntry.link (e : TreeEntry) (p : Port) : Bool := p != .self && e.links.getLsbD (linkBit p)

/-- A port's hint. -/
def TreeEntry.hintOf (e : TreeEntry) (p : Port) : Nat := bitsOf e.hint.toNat (hintLo p) 3

/-- Write a hint, saturating at 7. -/
def TreeEntry.setHint (e : TreeEntry) (p : Port) (h : Nat) : TreeEntry :=
  match p with
  | .self => e
  | .n | .e | .s | .w | .up | .dn =>
      { e with hint := (e.hint &&& ~~~ (7#18 <<< hintLo p)) ||| (BitVec.ofNat 18 (min h 7) <<< hintLo p) }

/-- Set a link bit. -/
def TreeEntry.setLink (e : TreeEntry) (p : Port) : TreeEntry :=
  match p with
  | .self => e
  | .n | .e | .s | .w | .up | .dn => { e with links := e.links ||| (1#8 <<< linkBit p) }

/-- Clear a link bit; the hint of a cleared port reads 0 (R176). -/
def TreeEntry.clearLink (e : TreeEntry) (p : Port) : TreeEntry :=
  match p with
  | .self => e
  | .n | .e | .s | .w | .up | .dn => { e.setHint p 0 with links := e.links &&& ~~~ (1#8 <<< linkBit p) }

/-- Set or clear a local bit. -/
def TreeEntry.setLocal (e : TreeEntry) (c : CacheId) (v : Bool) : TreeEntry :=
  if v then { e with links := e.links ||| (1#8 <<< localBit c) }
  else { e with links := e.links &&& ~~~ (1#8 <<< localBit c) }

/-- Link ports other than ROOT. -/
def TreeEntry.branches (e : TreeEntry) : List Port := linkPorts.filter fun p => e.link p && p != e.root

/-- Whether no link bit other than ROOT's is set (R162). -/
def TreeEntry.bare (e : TreeEntry) : Bool := e.branches.isEmpty && (e.links &&& 3) == 0

/-- Write the hint of a linked port; that of a port whose link bit is 0 reads 0 (R176). -/
def TreeEntry.noteHint (e : TreeEntry) (p : Port) (h : Nat) : TreeEntry := if e.link p then e.setHint p h else e

/-- The debug-port record of an entry (R154, Table 8.2): 16 bytes with bits [127:80] zero. -/
def TreeEntry.record (e : TreeEntry) : BitVec 128 :=
  (0 : BitVec 48) ++ (2 : BitVec 2) ++ BitVec.ofNat 45 e.line.num ++ e.hint ++
    BitVec.ofNat 3 (rootCode e.root) ++ BitVec.ofNat 3 e.pend ++ BitVec.ofBool e.st ++ e.links

/-- The entry of a router for a line. -/
def State.treeAt (s : State) (r : RouterId) (l : LineId) : Option TreeEntry :=
  s.tree.find? fun e => decide (e.router = r ∧ e.line = l)

/-- Change an entry and mark it used. -/
def State.onTree (s : State) (r : RouterId) (l : LineId) (f : TreeEntry → TreeEntry) : State :=
  { s with tree := s.tree.map fun e => if e.router = r ∧ e.line = l then f e else e }

/-- Free an entry. -/
def State.freeTree (s : State) (r : RouterId) (l : LineId) : State :=
  { s with tree := s.tree.filter fun e => !decide (e.router = r ∧ e.line = l) }

/-- The debug-port read of one router and line (R154, R177). -/
def State.debugRead (s : State) (r : RouterId) (l : LineId) : BitVec 128 :=
  match s.treeAt r l with
  | some e => e.record
  | none => 0

/-- The set of a tree cache that a line maps to (log 7). -/
def treeSet (r : RouterId) (l : LineId) : Nat :=
  match r with
  | .compute _ _ _ => l.num % Config.treeSets false
  | .base _ _ => l.num % Config.treeSets true

/-- The entries of a set: one that a trim has given up keeps its way until it is freed (R161, R165). -/
def State.treeWays (s : State) (r : RouterId) (set : Nat) : List TreeEntry :=
  s.tree.filter fun e => decide (e.router = r ∧ treeSet r e.line = set)

/-! ## Folios at the gate -/

/-- Raise what a folio's home needs from its gate (R171, R178). -/
def State.want (s : State) (l : LineId) (st : FolioState) : State :=
  let f := s.folio (folioOf l)
  if f.want = .e ∨ f.want = st ∨ f.st = .e ∨ f.st = st then s else s.onFolio (folioOf l) fun f => { f with want := st }

/-- Whether the folio of a line is held in S or E; a host line has no folio. -/
def State.folioS (s : State) (l : LineId) : Bool :=
  match l.mem with
  | .host => true
  | .pool => (s.folio (folioOf l)).st != .i

/-- Whether the folio of a line is held in E. -/
def State.folioE (s : State) (l : LineId) : Bool :=
  match l.mem with
  | .host => true
  | .pool => (s.folio (folioOf l)).st == .e

/-- Whether the folio of a line is cut-pending (R172). -/
def State.folioCutting (s : State) (l : LineId) : Bool :=
  match l.mem with
  | .host => false
  | .pool => (s.folio (folioOf l)).cut.isSome

/-- Whether a home may use the folio of a line for data: held in S or E, and no cut of it pending (R171, R172). -/
def State.folioOpenS (s : State) (l : LineId) : Bool := s.folioS l && !s.folioCutting l

/-- Whether a home may make the line dirty or grant it: held in E, and no cut of the folio pending. -/
def State.folioOpenE (s : State) (l : LineId) : Bool := s.folioE l && !s.folioCutting l

/-! ## Messages -/

/-- Append a message: messages of one line over one link in one direction keep their order (R153). -/
def State.send (s : State) (m : Msg) : State := { s with msgs := s.msgs ++ [m] }

/-- A message by its number. -/
def State.msg (s : State) (id : Nat) : Option Msg := s.msgs.find? fun m => m.id = id

/-- Remove a message. -/
def State.dropMsg (s : State) (id : Nat) : State := { s with msgs := s.msgs.filter fun m => !decide (m.id = id) }

/-- Whether a message is a request, which a hold queue takes (R164). -/
def MsgKind.isRequest : MsgKind → Bool
  | .catchable | .steered | .direct | .own => true
  | .reply _ _ _ _ _ | .grant _ | .cut _ _ | .ack _ | .prune | .writeback _ => false

/-- Whether no earlier message of the line is still to be taken from the same link in the same direction (R153), and, for a request,
none that the router has held for the line (R164). -/
def State.firstOn (s : State) (m : Msg) : Bool :=
  let before := s.msgs.takeWhile fun x => x.id != m.id
  before.all fun x => !(decide (x.line = m.line ∧ x.at' = m.at') &&
    if x.held then m.kind.isRequest else decide (x.port = m.port))

/-- Send a message out of a port of a router, as a new message. -/
def State.sendOut (s : State) (r : RouterId) (p : Port) (l : LineId) (req : CacheId) (k : MsgKind) : State :=
  match neighbour r p with
  | some q =>
      s.bump.send { id := s.fresh, kind := k, line := l, req := req, at' := q, port := p.flip, path := [], caught := none,
                    returned := 0, held := false, once := false, way := false }
  | none => s

/-- Move a request one hop on, out of a port. -/
def State.forward (s : State) (m : Msg) (p : Port) : State :=
  match neighbour m.at' p with
  | some q => (s.dropMsg m.id).send { m with at' := q, port := p.flip, path := m.at' :: m.path, held := false, way := false }
  | none => s

/-- The entries of a router's hold queue that are taken: by the requests it holds, and by an ownership request whose cut is over and that
waits for the folio (R164, 09_program_tree R178). -/
def State.heldAt (s : State) (r : RouterId) : Nat :=
  (s.holdq.filter fun x => x.at' = r).length + (s.jobs.filter fun j => decide (homeOf j.line = r) && j.cut && !s.folioOpenE j.line &&
    match j.op with
    | .own _ => true
    | .folio _ | .discard | .snoop | .snpData | .inbound _ _ _ => false).length

/-- Place a request in its router's hold queue, or return it to its issuer when the queue is full (R164). -/
def State.holdMsg (s : State) (m : Msg) : State :=
  let s := s.dropMsg m.id
  if s.heldAt m.at' < Config.holdQueue then
    { s with holdq := s.holdq ++ [{ m with returned := 0, held := true }] }
  else { s with returned := s.returned ++ [{ m with returned := m.returned + 1, held := false }] }

/-- Re-apply a router's held requests for a line, oldest first (R164): they stand before the router again, ahead of what arrives later. -/
def State.reapply (s : State) (r : RouterId) (l : LineId) : State :=
  let mine := s.holdq.filter fun m => decide (m.at' = r ∧ m.line = l)
  { s with holdq := s.holdq.filter fun m => !decide (m.at' = r ∧ m.line = l), msgs := mine ++ s.msgs }

/-! ## Prunes (R162) -/

/-- The test that frees an entry without branches: a prune goes to its parent. -/
def State.pruneTest (s : State) (r : RouterId) (l : LineId) : State :=
  match s.treeAt r l with
  | none => s
  | some e =>
      if e.st || !e.bare then s
      else
        let s := s.freeTree r l
        let s := match e.root with
          | .self => s
          | p => s.sendOut r p l (.l2 0 0) .prune
        s.reapply r l

/-- Clear a holder's local bit, then test its router's entry. -/
def State.leaveTree (s : State) (c : CacheId) (l : LineId) : State :=
  (s.onTree (routerOf c) l fun e => e.setLocal c false).pruneTest (routerOf c) l

/-! ## Pool ports (21_outside R284 to R286) -/

/-- The pool node that homes a physical address (R284). -/
def poolNode (pa : Nat) : Nat := bitsOf pa 14 38 % 12

/-- The port that a physical address is reached through (R284). -/
def poolPort (pa : Nat) : Fin 48 := Fin.ofNat 48 (poolNode pa + 12 * (2 * bitsOf pa 12 1 + bitsOf pa 13 1))

/-- The first working port of the same node, in the order of R286: this one, then port + 12, + 24, + 36. -/
def State.workingPort (s : State) (p : Fin 48) : Option (Fin 48) :=
  [0, 12, 24, 36].findSome? fun k =>
    let q := Fin.ofNat 48 (p.val + k)
    if s.ports[q].width = 0 then none else some q

/-- Requests of a port, or of a compute die, that have been sent and whose responses have not returned. -/
def State.outstanding (s : State) (f : PoolReq → Bool) : Nat := (s.poolReqs.filter fun r => r.sent && f r).length

/-- Whether a held request may be sent (R285, R286). -/
def State.maySend (s : State) (r : PoolReq) : Bool :=
  let p := s.ports[r.port]
  !p.retrain && decide (s.outstanding (fun x => x.port = r.port) < p.window ∧
    s.outstanding (fun x => x.die = r.die) < Config.dieRequests)

/-- Send the held requests that a window and the die limit admit, in their order. -/
def State.sendHeld (s : State) : State :=
  s.poolReqs.foldl (fun s r =>
    if r.sent || !s.maySend r then s
    else { s with poolReqs := s.poolReqs.map fun x => if x.id = r.id then { x with sent := true } else x }) s

/-- ACC and VDIE of a failed path, as EXTRA of 0x61 (19_faults Table 19.3): a pool path is this accelerator's own. -/
def State.linkExtra (s : State) (die : Fin 8) : Word :=
  (0 : BitVec 16) ++ s.pkg.accNum ++ BitVec.ofNat 3 die.val ++ (0 : BitVec 5)

/-- Make a request for a physical address through its port, or the next working one; none where no port of the node works. -/
def State.portRequest (s : State) (die : Fin 8) (pa : Nat) (w : PoolWhat) : Option State :=
  match s.workingPort (poolPort pa) with
  | some p =>
      some ({ s.bump with poolReqs := s.poolReqs ++
        [{ id := s.fresh, die := die, port := p, what := w, sent := false, resent := false, answered := false }] }
        : State).sendHeld
  | none => none

/-- Whether no port of the node that homes a line works any more (R286). -/
def State.pathDead (s : State) (l : LineId) : Bool := l.mem == .pool && (s.workingPort (poolPort (128 * l.num))).isNone

/-- What comes of the need for some data: it is there, it must be waited for, or no path to it works. -/
inductive Fill (α : Type) where
  | got (s : State) (x : α)
  | wait (s : State)
  | dead

/-- Write bytes of a line to pool memory: a request of its port (R285). With no working port it has failed, and the bytes are lost, of which
the spec says nothing (R286; DESIGN CHOICE, log 119). -/
def State.poolStore (s : State) (die : Fin 8) (num : Nat) (new : Line) (mask : BitVec 128) : State :=
  match s.portRequest die (128 * num) (.write num new mask) with
  | some s => s
  | none => s

/-- Ask the pool node for a line of a home's L3 slice, once (R285). -/
def State.lineRequest (s : State) (die : Fin 8) (num : Nat) : Option State :=
  if s.poolReqs.any fun r => r.what = .line num then some s else s.portRequest die (128 * num) (.line num)

end Sys2Proof.Machine
end

