-- ==== Sys2Proof/Machine/Access.lean ====
section
/-!
DEFINITION. Accesses in flight: what a load, store or atomic does where it performs (22_ref R306, R319, 12_program_atomics
R203), which accesses must wait for earlier ones (10_ordering R185, R187), and the requests that a tracked miss makes
(08_coherence R156, R161, R166).
-/
namespace Sys2Proof.Machine

/-! ## What an operation does to its bytes -/

/-- Bytes of an atomic type. -/
def atomBytes (ty : AtomType) : Nat := 4 * ty.regs

/-- f of Table 22.6: the new value and the flags. -/
def atomNew (op : AtomOp) (ty : AtomType) (old b : Nat) : Nat × Word :=
  let w := 32 * ty.regs
  let sg := ty == .i32 || ty == .i64
  let lay : Option FFmt := match ty with
    | .f32 => some fp32
    | .f64 => some fp64
    | .i32 | .n32 | .i64 | .n64 | .b32 | .b64 => none
  match op with
  | .add =>
      match lay with
      | some f => f.add .rn (f.read old) (f.read b)
      | none => ((old + b) % 2 ^ w, 0)
  | .min =>
      match lay with
      | some f => f.minmax false old b
      | none => (if intOf w sg old ≤ intOf w sg b then old else b, 0)
  | .max =>
      match lay with
      | some f => f.minmax true old b
      | none => (if intOf w sg old ≤ intOf w sg b then b else old, 0)
  | .and => (old &&& b, 0)
  | .or => (old ||| b, 0)
  | .xor => (old ^^^ b, 0)
  | .exch => (b, 0)
  | .inc => (if b ≤ old then 0 else old + 1, 0)
  | .dec => (if old = 0 ∨ b < old then b else old - 1, 0)

/-- Whether an operation needs the right to write where it performs. -/
def MemOp.writes : MemOp → Bool
  | .store _ | .stf _ _ _ | .atom _ _ _ _ | .cas _ _ _ | .engOwn _ => true
  | .prefetch own => own
  | .load _ | .loadRef _ _ | .engRead _ _ | .cmnt _ _ | .tdesc _ => false

/-- Whether a thread's operation reads: a value that it returns, or the read half of an atomic (10_ordering R191). -/
def MemOp.reads : MemOp → Bool
  | .load _ | .loadRef _ _ | .atom _ _ _ _ | .cas _ _ _ | .tdesc _ => true
  | .store _ | .stf _ _ _ | .prefetch _ | .engRead _ _ | .engOwn _ | .cmnt _ _ => false

/-- Whether an access is an engine's. -/
def MemOp.isEngine : MemOp → Bool
  | .engRead _ _ | .engOwn _ => true
  | .load _ | .loadRef _ _ | .store _ | .stf _ _ _ | .atom _ _ _ _ | .cas _ _ _ | .prefetch _ | .cmnt _ _ | .tdesc _ => false

/-- Whether an operation is an atomic. -/
def MemOp.isAtomic : MemOp → Bool
  | .atom _ _ _ _ | .cas _ _ _ => true
  | .load _ | .loadRef _ _ | .store _ | .stf _ _ _ | .prefetch _ | .engRead _ _ | .engOwn _ | .cmnt _ _ | .tdesc _ => false

/-- Whether something is owed to the issuer after an operation has performed: a value, or an STF's flag. -/
def MemOp.returns : MemOp → Bool
  | .load _ | .loadRef _ _ | .engRead _ _ | .cas _ _ _ | .stf _ _ _ | .tdesc _ => true
  | .atom _ _ _ ret => ret
  | .store _ | .prefetch _ | .engOwn _ | .cmnt _ _ => false

/-- The effect on the bytes at the location: what is written, if anything, and the flags. -/
def MemOp.effect (op : MemOp) (old : List Byte) : Option (List Byte) × Word :=
  match op with
  | .store d => (some d, 0)
  | .stf d _ _ => (some d, 0)
  | .atom o ty b _ =>
      let r := atomNew o ty (natOfBytes old) b.toNat
      (some (bytesOfNat (atomBytes ty) r.1), r.2)
  | .cas ty cmp b =>
      if natOfBytes old = cmp.toNat then (some (bytesOfNat (atomBytes ty) b.toNat), 0) else (none, 0)
  | .load _ | .loadRef _ _ | .prefetch _ | .engRead _ _ | .engOwn _ | .cmnt _ _ | .tdesc _ => (none, 0)

/-! ## Order between accesses -/

/-- Whether an access still has to perform. -/
def Acc.pending (a : Acc) : Bool :=
  match a.phase with
  | .gated | .asked | .answered _ | .missing => true
  | .done | .failed _ _ _ => false

/-- Whether an access still waits for a peer window's owner to accept it (01_package R12). -/
def Acc.unplaced (a : Acc) : Bool :=
  match a.phase with
  | .asked | .answered _ => true
  | .gated | .missing | .done | .failed _ _ _ => false

/-- Whether an access goes to a line, not to a scratchpad. -/
def Acc.onLine (a : Acc) : Bool :=
  match a.place with
  | .spad _ _ => false
  | .line _ _ _ | .peer _ _ => true

/-- Whether an access is a release side (R185). -/
def Acc.isRelease (a : Acc) : Bool :=
  (a.ord == .acqRel1 && a.op.writes) || a.ord == .acqrel

/-- Whether two accesses belong to one thread. Engine accesses have no lanes. -/
def Acc.sameThread (a b : Acc) : Bool :=
  decide (a.th.team = b.th.team) && a.lanes.any fun l => b.lanes.contains l

/-- Whether two accesses go to one line through one cache, or to overlapping scratchpad bytes; through a peer window whose owner has not
answered, the line is that of the window. -/
def Acc.sameSite (a b : Acc) : Bool :=
  match a.place, b.place with
  | .line l _ _, .line m _ _ => decide (a.cache = b.cache ∧ l = m)
  | .spad t o, .spad u p => decide (t = u ∧ o < p + b.size ∧ p < o + a.size)
  | .peer e o, .peer f p => decide (a.cache = b.cache ∧ e = f ∧ o / 128 = p / 128)
  | _, _ => false

/-- Whether two accesses belong to one execution of one word of an issue group. -/
def Acc.sameWord (a b : Acc) : Bool := decide (a.th.team = b.th.team ∧ a.run = b.run ∧ a.block = b.block ∧ a.widx = b.widx)

/-- Whether two commands stand in one queue, the first before the second. -/
def State.ahead (s : State) (k c : Nat) : Bool :=
  match s.cmd k, s.cmd c with
  | some x, some y => decide (x.core = y.core) && (s.cmds.takeWhile fun e => e.id != c).any fun e => e.id = k
  | _, _ => false

/-- Whether an access of a command goes before one that asks for a line for a later command of the queue: their writes stand in queue order
(13_copy R208). -/
def State.goesBefore (s : State) (a b : Acc) : Bool :=
  match a.op, b.op with
  | .engRead k _, .engOwn c | .engOwn k, .engOwn c => s.ahead k c
  | _, _ => false

/-- Whether an access must wait for an earlier one: at one site accesses perform in their order (R187, R445); a release wider than its thread
waits for every earlier access of its thread (R185, R191; log 26); an access to a line waits while an earlier access of its thread, or of a
lower lane of its word, does not know its line yet (22_ref R308, 25_ref R445); a write waits for the read half of an atomic of an earlier block
execution, which no drain awaits (R191). -/
def State.blocked (s : State) (a : Acc) : Bool :=
  s.accs.any fun b => decide (b.id < a.id) && b.pending &&
    ((a.sameSite b && !s.goesBefore a b) || (b.unplaced && a.onLine && (a.sameThread b || a.sameWord b)) || (a.sameThread b &&
      ((a.isRelease && a.scope.code != 0) || (a.op.writes && b.op.isAtomic && b.ctr.isNone && b.run != a.run))))

/-- A store, an STF's data write or a CMNT of a thread that has not performed (R29, SD). -/
def State.storesPending (s : State) (i : ThreadId) : Bool :=
  s.accs.any fun a => decide (a.th.team = i.team) && a.lanes.contains i.tid && a.pending &&
    match a.op with
    | .store _ | .stf _ _ _ | .cmnt _ _ => true
    | .load _ | .loadRef _ _ | .atom _ _ _ _ | .cas _ _ _ | .prefetch _ | .engRead _ _ | .engOwn _ | .tdesc _ => false

/-- An event of a thread that has not performed: what an arrival at a barrier or a credit of it releases (10_ordering R193). -/
def State.eventsPending (s : State) (i : ThreadId) : Bool :=
  s.accs.any fun a => decide (a.th.team = i.team) && a.lanes.contains i.tid && a.pending &&
    match a.op with
    | .prefetch _ => false
    | .store _ | .stf _ _ _ | .cmnt _ _ | .load _ | .loadRef _ _ | .atom _ _ _ _ | .cas _ _ _ | .engRead _ _ | .engOwn _
    | .tdesc _ => true

/-! ## Performing -/

/-- An access has performed: its value stays until it returns, or it is forgotten. Float atomics set flags (R307), when they perform: of an atomic
that executed before a SETS of %tstat and performs after it the flags are ORed onto the value written, of which 06_arithmetic R110 says nothing
(DESIGN CHOICE, log 121). -/
def State.performed (s : State) (a : Acc) (got : List Byte) (fl : Word) : State :=
  let s := s.setFlags a.th.team fl
  if a.op.returns then s.onAcc a.id fun x => { x with phase := .done, got := got } else s.dropAcc a.id

/-- An access has failed after it left the core: a read returns its cause (24_ref R392); for an access that returns nothing
the die writes a team-event record with DATA 0xFFFF_FFFF (R423). -/
def State.failAcc (s : State) (a : Acc) (cause : BitVec 8) (addr : Addr) (extra : Word) : State :=
  match a.op with
  | .load _ | .loadRef _ _ | .atom _ _ _ true | .cas _ _ _ | .engRead _ _ | .engOwn _ | .tdesc _ =>
      s.onAcc a.id fun x => { x with phase := .failed cause addr extra }
  | .prefetch _ | .cmnt _ _ => s.dropAcc a.id
  | .store _ | .stf _ _ _ | .atom _ _ _ false =>
      (s.teamReport a.th.team cause 0 true 0xFFFFFFFF).dropAcc a.id

/-- Perform at a scratchpad. A damaged unit that is read fails with 0x60 and location 5 (R281). -/
def State.performSpad (s : State) (a : Acc) (t : TeamId) (off : Nat) : State :=
  match s.team t with
  | none => s.dropAcc a.id
  | some x =>
      let old := x.spad.getN off a.size
      let reads := match a.op with
        | .store _ | .stf _ _ _ => false
        | .load _ | .loadRef _ _ | .atom _ _ _ _ | .cas _ _ _ | .prefetch _ | .engRead _ _ | .engOwn _ | .cmnt _ _
        | .tdesc _ => true
      if reads && s.spadDamaged t off a.size then s.failAcc a 0x60 a.ea 5
      else
        match a.op.effect old with
        | (some new, fl) => (s.spadWrite t off new).performed a old fl
        | (none, fl) => s.performed a old fl

/-- The superblock of a line takes the identifier that an access carries (R132), in one cache. -/
def State.retag (s : State) (c : CacheId) (l : LineId) (tag : BitVec 8) : State :=
  { s with lines := s.lines.map fun x =>
      if x.cache = c ∧ x.line.mem = l.mem ∧ x.line.num / 4 = l.num / 4 then { x with tag := tag } else x }

/-- The same for the superblock's lines in their L3 slices. -/
def State.retagL3 (s : State) (num : Nat) (tag : BitVec 8) : State :=
  { s with l3 := s.l3.map fun x => if x.num / 4 = num / 4 then { x with tag := tag } else x }

/-- Put a data copy into a cache. -/
def State.putCopy (s : State) (x : CacheLine) : State :=
  let keep := s.lines.filter fun y => !(decide (y.cache = x.cache ∧ y.line = x.line) && y.fetch == x.fetch)
  ({ s with lines := x :: keep } : State).retag x.cache x.line x.tag

/-- Drop a data copy. -/
def State.dropCopy (s : State) (c : CacheId) (l : LineId) : State :=
  ({ s with lines := s.lines.filter fun y => !(decide (y.cache = c ∧ y.line = l) && !y.fetch) } : State).repair (.cached c l)

/-- The L2 slice behind a cache, for a line. -/
def l2Behind (c : CacheId) (l : LineId) : CacheId :=
  match c with
  | .l1 d _ => .l2 d (l2Slice l.num)
  | .l2 d j => .l2 d j

/-- The virtual die of a cache. -/
def State.dieOf (s : State) (c : CacheId) : Fin 8 :=
  match c with
  | .l1 d _ => (s.virt d).getD d
  | .l2 d _ => (s.virt d).getD d

/-- A clean L3 copy with an error is dropped, and will be fetched again (R281). -/
def State.scrubL3 (s : State) (num : Nat) : State :=
  match s.l3Line num with
  | some x => if !x.dirty && s.damaged (.l3 num) then s.l3Drop num else s
  | none => s

/-- The line as its home L3 slice gives it; one that the slice lacks is asked of the pool node (21_outside R285). -/
def State.fillL3 (s : State) (die : Fin 8) (num : Nat) (tag : BitVec 8) : Fill Line :=
  let s := s.scrubL3 num
  match s.l3Line num with
  | some x => .got (s.retagL3 num tag) x.data
  | none =>
      match s.lineRequest die num with
      | some s => .wait s
      | none => .dead

/-- A data copy without an error, or one whose dirty bytes have it: a clean one with an error is as none (R281). -/
def State.soundCopy (s : State) (c : CacheId) (l : LineId) : Option CacheLine :=
  match s.copy c l with
  | some x => if s.damaged (.cached c l) && x.dirty == 0 && x.st != .m && x.st != .o then none else some x
  | none => none

/-- The holder of damaged data (R281): a dirty line that a cache holds. -/
def State.damagedDirty (s : State) (x : CacheLine) : Bool :=
  s.damaged (.cached x.cache x.line) && (x.st == .m || x.st == .o || x.dirty != 0)

/-- The location code of a cache (R281). -/
def damageCode : CacheId → Word
  | .l1 _ _ => 1
  | .l2 _ _ => 2

/-- Bits that only a cold boot clears (R297): all four ports of a pool node dead, no margin, more than 8 cores of one die
off, or an uncorrectable error that recurs at one line. -/
def State.replaceNow (s : State) (margin : BitVec 4) (again : Bool) : Bool :=
  let dead (n : Nat) : Bool := [0, 12, 24, 36].all fun k => decide ((s.ports.toList.getD (n + k) portReset).width = 0)
  let off := s.pkg.fused ++ s.pkg.retiredCores
  margin == 0 || again || (List.range 12).any dead ||
    (List.finRange 8).any fun d => decide (8 < (off.filter fun c => c.die = d).length)

/-- The health status word as it now is (Table 21.7). -/
def State.healthWord (s : State) (margin : BitVec 4) (again : Bool) : Word :=
  let coff := s.pkg.fused.length + s.pkg.retiredCores.length
  let narrow := (s.ports.toList.filter fun p => decide (0 < p.width ∧ p.width < 4)).length
  let dead := (s.ports.toList.filter fun p => p.width = 0).length
  let degr := s.pkg.health.getLsbD 30 || decide (0 < coff + narrow + dead)
  let repl := s.pkg.health.getLsbD 31 || s.replaceNow margin again
  BitVec.ofBool repl ++ BitVec.ofBool degr ++ s.pkg.health.extractLsb' 29 1 ++ (0 : BitVec 3) ++ BitVec.ofNat 10 coff
    ++ BitVec.ofNat 6 narrow ++ BitVec.ofNat 6 dead ++ margin

/-- Update the health status word: every change writes a record to the health event stream and interrupts (R296); the
record is the old word and the new one (log 11). -/
def State.updateHealth (s : State) (margin : BitVec 4) (again : Bool) : State :=
  let w := s.healthWord margin again
  if w = s.pkg.health then s
  else
    { s with pkg := { s.pkg with health := w, healthEvents := s.pkg.healthEvents ++ [s.pkg.health ++ w],
                                 interrupts := s.pkg.interrupts + 1 } }

/-- Dirty bytes of a line are lost (R281): the die's health event stream names the line; an error that recurs at one line
asks for replacement (R297). -/
def State.lineLost (s : State) (die : Fin 8) (code : Word) (l : LineId) : State :=
  let again := s.pkg.lostLines.contains l
  let s := s.onDie die fun d => { d with health := d.health ++ [code ++ BitVec.ofNat 96 l.num] }
  let s := { s with pkg := { s.pkg with lostLines := l :: s.pkg.lostLines } }
  s.updateHealth (s.pkg.health.extractLsb' 0 4) again

/-- The location code of damage at a line's home (R281): a dirty L3 line, or pool memory that the slice holds no sound copy of. -/
def State.homeDamage (s : State) (l : LineId) : Option Word :=
  match l.mem with
  | .host => none
  | .pool =>
      let pool := if s.damaged (.pool l.num) then some 4 else none
      match s.l3Line l.num with
      | some x => if s.damaged (.l3 l.num) then (if x.dirty then some 3 else pool) else none
      | none => pool

/-- The home's damaged line is dropped; later reads return the next level outward (R281). -/
def State.dropHome (s : State) (die : Fin 8) (code : Word) (l : LineId) : State :=
  (if code = 3 then s.l3Drop l.num else s.repair (.pool l.num)).lineLost die code l

/-- A home takes bytes that are not a whole line: what it holds damaged is dropped first. -/
def State.cleanHome (s : State) (die : Fin 8) (l : LineId) : State :=
  match s.homeDamage l, l.mem with
  | some code, _ => s.dropHome die code l
  | none, .pool => s.scrubL3 l.num
  | none, .host => s

/-- A dirty copy with an error is lost: it leaves its cache and its tree (R281). -/
def State.loseCopy (s : State) (die : Fin 8) (x : CacheLine) : State :=
  ((s.dropCopy x.cache x.line).leaveTree x.cache x.line).lineLost die (damageCode x.cache) x.line

/-- A core has come to hold a line in M: its bounce entry notes when (R166). -/
def State.heldInM (s : State) (c : CacheId) (l : LineId) : State :=
  match c with
  | .l1 p n =>
      match s.virt p with
      | some v =>
          let now := (s.core { die := v, num := n }).lcyc.toNat
          { s with bounces := s.bounces.map fun b =>
              if b.die = p ∧ b.core = n ∧ b.line = l then { b with since := some now, used := s.fresh } else b }
      | none => s
  | .l2 _ _ => s

/-- After an access with `.last` the line is the next victim of both its caches (Table 7.3). -/
def State.markNext (s : State) (c : CacheId) (l : LineId) : State :=
  { s with lines := s.lines.map fun y =>
      if y.line = l ∧ (y.cache = c ∨ y.cache = l2Behind c l) then { y with next := true } else y }

/-- Perform on a copy that a cache holds for the access. A line obtained for an engine write is held in M, and stays with its command until the
write performs (08_coherence R163, 13_copy R218); PREF.own takes a line held in E to M (24_ref R420). -/
def State.performCopy (s : State) (a : Acc) (x : CacheLine) (off : Nat) : State :=
  let s := s.retag x.cache x.line a.tag
  if s.damagedDirty x then
    (s.loseCopy a.th.team.core.die x).failAcc a 0x60 a.ea (damageCode x.cache)
  else
    let last := decide (a.cp = 3)
    let s := if last then s.markNext x.cache x.line else s
    let old := lineBytes x.data off a.size
    let x : CacheLine := { x with tag := a.tag, next := x.next || last }
    let s : State := match a.op with
      | .engOwn c => (if x.st == .e then s.heldInM x.cache x.line else s).putCopy { x with st := .m, busy := some c }
      | .prefetch true => if x.st == .e then (s.putCopy { x with st := .m }).heldInM x.cache x.line else s
      | .load _ | .loadRef _ _ | .store _ | .stf _ _ _ | .atom _ _ _ _ | .cas _ _ _ | .prefetch false | .engRead _ _
      | .cmnt _ _ | .tdesc _ => s
    match a.op.effect old with
    | (none, fl) => s.performed a old fl
    | (some new, fl) =>
        let y := { x with data := lineSetN x.data off new, dirty := x.dirty ||| dirtyMask off new.length,
                          st := if x.st == .e then .m else x.st }
        let s := if x.st == .e then s.heldInM x.cache x.line else s
        (s.putCopy y).performed a old fl

/-! ## NC lines (R128, R145, R151) -/

/-- Write dirty NC bytes of a copy outward (R148): to the L2 slice's copy if one exists, else to the home: to the L3 line, or to pool
memory where the slice holds none, since a writeback allocates no copy. Bytes with an error are lost; a clean copy with one is dropped (R281). -/
def State.spillCopy (s : State) (x : CacheLine) : State :=
  let die := s.dieOf x.cache
  if s.damaged (.cached x.cache x.line) then s.lineLost die (damageCode x.cache) x.line
  else
    match x.cache, s.soundCopy (l2Behind x.cache x.line) x.line with
    | .l1 _ _, some y => s.putCopy { y with data := lineMerge y.data x.data x.dirty 128, dirty := y.dirty ||| x.dirty }
    | _, _ =>
        let s := match x.cache with
          | .l1 _ _ => s.dropCopy (l2Behind x.cache x.line) x.line
          | .l2 _ _ => s
        let s := s.cleanHome die x.line
        let new := lineMerge (s.homeLine x.line) x.data x.dirty 128
        match x.line.mem with
        | .pool =>
            if (s.l3Line x.line.num).isSome then (s.l3Put x.line.num new true x.tag).retagL3 x.line.num x.tag
            else s.poolStore die x.line.num x.data x.dirty
        | .host => { s with host := s.host.setLine x.line.num new }

/-- Whether a dirty NC copy can be written outward now: into the L2 slice's copy, or to the home while the folio is held
in E (R171). -/
def State.canSpill (s : State) (x : CacheLine) : Bool :=
  x.dirty == 0 || s.folioOpenE x.line ||
    match x.cache with
    | .l1 _ _ => (s.soundCopy (l2Behind x.cache x.line) x.line).isSome
    | .l2 _ _ => false

/-- Write a dirty NC copy outward and leave it clean (R148). -/
def State.cleanCopy (s : State) (c : CacheId) (l : LineId) : State :=
  match s.copy c l with
  | some x => if x.dirty = 0 then s else (s.spillCopy x).putCopy { x with dirty := 0 }
  | none => s

/-! ## Replacement (00_scope Table 0.1, 07_memory R131, R149, 08_coherence R162) -/

/-- Whether an eviction's data is on its way to the home. -/
def State.writingBack (s : State) (c : CacheId) (l : LineId) : Bool :=
  s.msgs.any fun m => decide (m.line = l ∧ m.req = c ∧ m.caught = none) && match m.kind with
    | .writeback _ => true
    | .catchable | .steered | .direct | .own | .reply _ _ _ _ _ | .grant _ | .cut _ _ | .ack _ | .prune => false

/-- A cache evicts a line: dirty data goes to the home and the copy stays until the home has acknowledged it; a clean copy leaves at
once, and dirty data with an error is lost. Where it holds no data copy, its fetch copy leaves (05_encoding R73). -/
def State.evict (s : State) (c : CacheId) (l : LineId) : State :=
  match s.copy c l with
  | none => { s with lines := s.lines.filter fun x => !(x.fetch && decide (x.cache = c ∧ x.line = l)) }
  | some x =>
      if x.busy.isSome then s
      else if x.st = .nc then
        if s.canSpill x then (if x.dirty = 0 then s else s.spillCopy x).dropCopy c l else s.want l .e
      else if s.damagedDirty x then s.loseCopy (s.dieOf c) x
      else if x.st = .m ∨ x.st = .o then
        if s.writingBack c l then s
        else s.bump.send { id := s.fresh, kind := .writeback { data := x.data, tag := x.tag }, line := l, req := c, at' := routerOf c,
                           port := .self, path := [], caught := none, returned := 0, held := false, once := false, way := false }
      else (s.dropCopy c l).leaveTree c l

/-- The lines, or in an L2 slice the data entries, for which a cache has room (00_scope Table 0.1): an L1 has its share of the data array, an
L2 slice its part of 64 MiB. -/
def State.room (s : State) (c : CacheId) : Nat :=
  match c with
  | .l1 d n => (s.core { die := s.dieOf (.l1 d n), num := n }).l1share / 128
  | .l2 _ _ => Config.l2Lines

/-- A copy that is leaving: its data is on the way to the home, or waits for the folio in E (R171). -/
def State.leaving (s : State) (x : CacheLine) : Bool := s.writingBack x.cache x.line || !(x.fetch || x.st != .nc || s.canSpill x)

/-- The copies of a cache that stand for capacity: those that are leaving do not (log 29). -/
def State.standing (s : State) (c : CacheId) : List CacheLine := s.lines.filter fun x => decide (x.cache = c) && !s.leaving x

/-- Whether a cache holds more than it has room for. In an L2 slice two lines that compress stand in one data entry (R131). -/
def State.overfull (s : State) (c : CacheId) : Bool :=
  let xs := s.standing c
  if xs.length ≤ s.room c then false
  else
    match c with
    | .l1 _ _ => true
    | .l2 _ _ =>
        let k := (xs.filter fun x => Config.compresses x.data).length
        decide (s.room c < xs.length - k + (k + 1) / 2)

/-- The line that a cache replaces next: the next victim, else the one fetched or written longest ago (log 16). A line that an engine write
keeps stays. -/
def State.nextVictim (s : State) (c : CacheId) : Option CacheLine :=
  let mine := (s.standing c).filter fun x => x.busy.isNone
  match mine.find? fun x => x.next with
  | some x => some x
  | none => mine.getLast?

/-- A cache that holds more than it has room for replaces lines, `n` at most. -/
def State.shrink (s : State) (c : CacheId) : Nat → State
  | 0 => s
  | n + 1 =>
      if s.overfull c then
        match s.nextVictim c with
        | some v => (if v.fetch then { s with lines := s.lines.erase v } else s.evict v.cache v.line).shrink c n
        | none => s
      else s

/-- Put a copy that has just been fetched into a cache: it has no damage, and a line that it leaves no room for is replaced. -/
def State.newCopy (s : State) (x : CacheLine) : State :=
  ((if x.fetch then s else s.repair (.cached x.cache x.line)).putCopy x).shrink x.cache 2

/-- A copy of a line as a fill makes it. -/
def ncCopy (k : CacheId) (l : LineId) (d : Line) (tag : BitVec 8) (next : Bool) : CacheLine :=
  { cache := k, line := l, fetch := false, st := .nc, data := d, dirty := 0, tag := tag, busy := none, next := next }

/-- The NC copy that an access uses, filled into its cache, and for an L1 into the L2 slice too (R151), not before the folio is held
(R171). The superblock takes the identifier in each of them (07_memory R132). -/
def State.ncFill (s : State) (die : Fin 8) (c : CacheId) (l : LineId) (tag : BitVec 8) (next : Bool) : Fill CacheLine :=
  match s.copy c l with
  | some x => .got s x
  | none =>
      let k := l2Behind c l
      let inner (s : State) (d : Line) : Fill CacheLine :=
        .got (if c = k then s else s.newCopy (ncCopy c l d tag next)) (ncCopy c l d tag next)
      match s.copy k l with
      | some x => inner (s.retag k l tag) x.data
      | none =>
          if s.folioOpenS l then
            match s.fillL3 die l.num tag with
            | .got s d => inner (s.newCopy (ncCopy k l d tag next)) d
            | .wait s => .wait s
            | .dead => .dead
          else .wait (s.want l .s)

/-! ## Requests of a tracked miss -/

/-- A bounce-table entry (R166). -/
def State.bounce (s : State) (c : CacheId) (l : LineId) : Option Bounce :=
  match c with
  | .l1 d n => s.bounces.find? fun b => decide (b.die = d ∧ b.core = n ∧ b.line = l)
  | .l2 _ _ => none

/-- Issue a catchable read or an ownership request from a cache's own router (R153, R156, R161). -/
def State.sendRequest (s : State) (c : CacheId) (l : LineId) (own once : Bool) : State :=
  s.bump.send { id := s.fresh, kind := if own then .own else .catchable, line := l, req := c, at' := routerOf c,
                port := .self, path := [], caught := none, returned := 0, held := false, once := once, way := false }

/-- Start a request of a cache, for an access or a read of the part's own by its number, unless one of the cache for the line is outstanding.
The next ownership request after a cut of a bouncing line is delayed (R166). -/
def State.startMiss (s : State) (id : Nat) (c : CacheId) (l : LineId) (own once : Bool) : State :=
  if s.misses.any fun m => decide (m.cache = c ∧ m.line = l) then s
  else
    let slow := own && match s.bounce c l with
      | some b => b.owed
      | none => false
    let s : State := { s with misses := s.misses ++
      [{ cache := c, line := l, own := own, acc := id, delayed := slow }] }
    if slow then
      { s with bounces := s.bounces.map fun b => if some b = s.bounce c l then { b with owed := false } else b }
    else s.sendRequest c l own once

/-! ## Attempting an access -/

/-- A clean copy with an error is dropped, and fetched again (R281). -/
def State.scrubCopy (s : State) (c : CacheId) (l : LineId) : State :=
  match s.copy c l with
  | some x => if s.damaged (.cached c l) && !s.damagedDirty x then (s.dropCopy c l).leaveTree c l else s
  | none => s

/-- The commitment of a far atomic's line (R203): the L1 and the L2 slice give up their copies, the L1's dirty bytes over the L2's. -/
def State.giveUp (s : State) (c : CacheId) (l : LineId) : State :=
  let out (s : State) (k : CacheId) : State :=
    match s.copy k l with
    | some x => (if x.dirty = 0 then s else s.spillCopy x).dropCopy k l
    | none => s
  out (out s c) (l2Behind c l)

/-- A dirty copy with an error that an access meets in one of its NC line's caches. -/
def State.brokenNc (s : State) (c : CacheId) (l : LineId) : Option CacheLine :=
  [c, l2Behind c l].findSome? fun k =>
    match s.copy k l with
    | some x => if s.damagedDirty x then some x else none
    | none => none

/-- A far atomic, or an STF to an NC line, leaves its core once its caches have given up their copies (R203, 21_outside Table 21.2); dirty
bytes wait for the folio in E (R171). -/
def State.leaveFar (s : State) (a : Acc) (l : LineId) : State :=
  let s := (s.scrubCopy a.cache l).scrubCopy (l2Behind a.cache l) l
  let dirty (k : CacheId) : Bool := match s.copy k l with
    | some x => x.dirty != 0
    | none => false
  if a.phase = .missing then s.want l .e
  else
    match s.brokenNc a.cache l with
    | some x => (s.loseCopy a.th.team.core.die x).failAcc a 0x60 a.ea (damageCode x.cache)
    | none =>
        if (dirty a.cache || dirty (l2Behind a.cache l)) && !s.folioOpenE l then s.want l .e
        else ((s.giveUp a.cache l).onAcc a.id fun x => { x with phase := .missing }).want l .e

/-- Perform a far atomic at the home slice (R203). What another core of the die has fetched into the L2 slice meanwhile is given up too, so
that the core's later loads read the result (R188). -/
def State.performFar (s : State) (a : Acc) (l : LineId) (off : Nat) : State :=
  let die := a.th.team.core.die
  let s := s.giveUp a.cache l
  match s.homeDamage l with
  | some code => (s.dropHome die code l).failAcc a 0x60 a.ea code
  | none =>
      match s.fillL3 die l.num a.tag with
      | .got s d =>
          let old := lineBytes d off a.size
          match a.op.effect old with
          | (some new, fl) => ((s.l3Put l.num (lineSetN d off new) true a.tag).retagL3 l.num a.tag).performed a old fl
          | (none, fl) => s.performed a old fl
      | .wait s => s
      | .dead => s.failAcc a 0x61 a.ea (s.linkExtra die)

/-- The host link of a die's function: functions 4 to 7 stand on the second link while I/O die 1 works (21_outside R292). -/
def State.hostLink (s : State) (die : Fin 8) : Nat := if s.pkg.io1 && decide (4 ≤ die.val) then 1 else 0

/-- Whether a host link works: one that failed training is dead (R286, R292). -/
def State.hostUp (s : State) (link : Nat) : Bool := s.pkg.hosts.getLsbD link

/-- Perform at host memory, which no cache holds (R145), over the host link, if that works (21_outside R286, R292). -/
def State.performHost (s : State) (a : Acc) (l : LineId) (off : Nat) : State :=
  let die := a.th.team.core.die
  let d := s.host.getLine l.num
  let old := lineBytes d off a.size
  if !s.hostUp (s.hostLink die) then s.failAcc a 0x61 a.ea (s.linkExtra die)
  else
    match a.op.effect old with
    | (some new, fl) => { s with host := s.host.setLine l.num (lineSetN d off new) }.performed a old fl
    | (none, fl) => s.performed a old fl

/-- Write back a dirty L3 line to pool memory (21_outside R285), and keep it clean or drop it (R148, 08_coherence R172). One with an error is
lost. -/
def State.l3Writeback (s : State) (die : Fin 8) (num : Nat) (keep : Bool) : State :=
  match s.l3Line num with
  | none => s
  | some x =>
      if s.damaged (.l3 num) then
        if x.dirty then (s.l3Drop num).lineLost die 3 { mem := .pool, num := num } else s.l3Drop num
      else
        let s := if x.dirty then s.poolStore die num x.data (BitVec.allOnes 128) else s
        if keep then
          { s with l3 := s.l3.map fun y => if y.num = num then { y with dirty := false } else y }
        else s.l3Drop num

/-- CMNT on an NC line whose writebacks need the folio in E, which is not held (R171). -/
def State.cmntWaits (s : State) (c : CacheId) (l : LineId) (op : CmntOp) (reach : Reach) : Bool :=
  let dirty (k : CacheId) : Bool := match s.copy k l with
    | some x => x.dirty != 0
    | none => false
  let has2 := (s.soundCopy (l2Behind c l) l).isSome
  op != .inv && !s.folioOpenE l &&
    ((dirty c && !has2) || (reach != .die && (dirty c || dirty (l2Behind c l))))

/-- CMNT on the data copies of an NC line (R148): writeback, then invalidate, level by level. -/
def State.cmntData (s : State) (c : CacheId) (l : LineId) (op : CmntOp) (reach : Reach) : State :=
  let at' (s : State) (k : CacheId) : State :=
    let s := if op = .inv then s else s.cleanCopy k l
    if op = .wb then s else s.dropCopy k l
  let s := at' s c
  let s := if reach = .die then s else at' s (l2Behind c l)
  if reach = .domain then
    let s := if op = .inv then s else s.l3Writeback (s.dieOf c) l.num true
    if op = .wb then s else s.l3Drop l.num
  else s

/-- CMNT on the instruction-fetch copies that the reach covers (R148, 05_encoding R73). -/
def State.cmntFetch (s : State) (c : CacheId) (l : LineId) (op : CmntOp) (reach : Reach) : State :=
  if op = .wb then s
  else { s with lines := s.lines.filter fun x =>
      !(x.fetch && decide (x.line = l) &&
        (decide (x.cache = c) || (reach != .die && decide (x.cache = l2Behind c l)))) }

/-- Perform a CMNT (R148): at DC and SC lines and at host lines data copies stay. What it writes to pool memory is awaited. -/
def State.performCmnt (s : State) (a : Acc) (l : LineId) (cls : BitVec 2) (op : CmntOp) (reach : Reach) : State :=
  if cls = 0 ∧ l.mem = .pool then
    if s.cmntWaits a.cache l op reach then s.want l .e
    else
      let s := s.cmntData a.cache l op reach
      if op != .inv && s.poolWriting l.num s.fresh then s else (s.cmntFetch a.cache l op reach).performed a [] 0
  else (s.cmntFetch a.cache l op reach).performed a [] 0

/-- Note the class under which a pool line is accessed: TDROP skips SC lines (R133). -/
def State.noteClass (s : State) (l : LineId) (cls : BitVec 2) : State :=
  if cls = 2 then (if s.scLines.contains l then s else { s with scLines := l :: s.scLines })
  else if s.scLines.contains l then { s with scLines := s.scLines.filter fun x => !decide (x = l) } else s

/-- The cache in which an access performs: with `.nol1`, a line that the L1 does not hold is used in the L2 slice, without allocating it
in the L1 (Table 7.3; log 27). Atomics perform in the L1 (R166). -/
def State.cacheFor (s : State) (a : Acc) (l : LineId) : CacheId :=
  if a.cp = 2 ∧ !a.op.isAtomic ∧ (s.copy a.cache l).isNone then l2Behind a.cache l else a.cache

/-- An engine's access to an NC line agrees with the accesses of its own core (10_ordering R187, R188): the L1's dirty bytes go outward
first; none while they must wait for the folio. -/
def State.shareNc (s : State) (core : CoreId) (l : LineId) : Option State :=
  match s.copy (s.l1Of core) l with
  | none => some s
  | some x => if s.canSpill x then some (s.cleanCopy (s.l1Of core) l) else none

/-- The code of damage at the home of an NC line that no cache of a core holds. -/
def State.ncDamage (s : State) (c : CacheId) (l : LineId) : Option Word :=
  if (s.copy c l).isSome || (s.copy (l2Behind c l) l).isSome then none else s.homeDamage l

/-- Attempt a load or store at an NC pool line in a cache. -/
def State.attemptNcIn (s : State) (a : Acc) (c : CacheId) (l : LineId) (off : Nat) : State :=
  let die := a.th.team.core.die
  match if (s.copy c l).isSome then none else s.brokenNc c l with
  | some x => (s.loseCopy die x).failAcc a 0x60 a.ea (damageCode x.cache)
  | none =>
      match s.ncDamage c l with
      | some code => (s.dropHome die code l).failAcc a 0x60 a.ea code
      | none =>
          match s.ncFill die c l a.tag (a.cp == 1) with
          | .wait s => s
          | .got s x => s.performCopy a x off
          | .dead => s.failAcc a 0x61 a.ea (s.linkExtra die)

/-- Attempt a load or store at an NC pool line. An engine that meets dirty bytes of its core's L1 with an error fails (R281). -/
def State.attemptNc (s : State) (a : Acc) (l : LineId) (off : Nat) : State :=
  let l1 := s.l1Of a.th.team.core
  match if a.op.isEngine then s.brokenNc l1 l else none with
  | some x => (s.loseCopy a.th.team.core.die x).failAcc a 0x60 a.ea (damageCode x.cache)
  | none =>
      match if a.op.isEngine then s.shareNc a.th.team.core l else some s with
      | none => s.want l .e
      | some s =>
          let c := s.cacheFor a l
          ((s.scrubCopy c l).scrubCopy (l2Behind c l) l).attemptNcIn a c l off

/-- Whether a copy is kept from an access: by an engine write that has not performed, unless it is a read of the same command, which may copy
a line onto itself (08_coherence R163, 22_ref R325), or an access of a command before it in the queue, whose write comes first (R208; log 46). -/
def State.keptFrom (s : State) (x : CacheLine) (op : MemOp) : Bool :=
  match x.busy, op with
  | some c, .engRead k _ => c != k && !s.ahead k c
  | some c, .engOwn k => !s.ahead k c
  | some _, _ => true
  | none, _ => false

/-- Attempt TDLD at an NC line: a DC read of it, which no NC copy answers and which leaves no copy (13_copy R209). -/
def State.attemptTile (s : State) (a : Acc) (l : LineId) (off : Nat) : State :=
  let s := s.scrubCopy a.cache l
  match s.copy a.cache l with
  | some x =>
      if x.st = .nc then s.startMiss a.id a.cache l false true
      else if s.keptFrom x a.op then s else s.performCopy a x off
  | none => s.startMiss a.id a.cache l false true

/-- Attempt an access at its line. -/
def State.attemptLine (s : State) (a : Acc) (l : LineId) (off : Nat) (cls : BitVec 2) : State :=
  let s := s.noteClass l cls
  match a.op with
  | .stf _ _ _ => if cls = 0 ∧ l.mem = .pool then s.leaveFar a l else s
  | .cmnt op reach => s.performCmnt a l cls op reach
  | .load _ | .loadRef _ _ | .store _ | .atom _ _ _ _ | .cas _ _ _ | .prefetch _ | .engRead _ _ | .engOwn _ | .tdesc _ =>
  if cls = 0 then
    match l.mem with
    | .host => s.performHost a l off
    | .pool =>
        match a.op with
        | .atom _ _ _ _ | .cas _ _ _ => s.leaveFar a l
        | .tdesc _ => s.attemptTile a l off
        | .load _ | .loadRef _ _ | .store _ | .stf _ _ _ | .prefetch _ | .engRead _ _ | .engOwn _ | .cmnt _ _ => s.attemptNc a l off
  else
    let c := s.cacheFor a l
    let s := s.scrubCopy c l
    match s.copy c l with
    | some x =>
        if s.keptFrom x a.op then s
        else if !a.op.writes || x.st == .m || x.st == .e then s.performCopy a x off
        else s.startMiss a.id c l true false
    | none => s.startMiss a.id c l a.op.writes false

/-- Attempt one access that has not performed. -/
def State.attempt (s : State) (id : Nat) : State :=
  match s.acc id with
  | none => s
  | some a =>
      if !(a.phase == .gated || a.phase == .missing) || s.blocked a then s
      else
        match a.place with
        | .spad t off => s.performSpad a t off
        | .line l off cls => s.attemptLine a l off cls
        | .peer _ _ => s

/-! ## Reads of the part's own -/

/-- What has come of a read of the part's own. -/
def State.readEnds (s : State) (id : Nat) (r : ReadRes) : State :=
  { s with reads := s.reads.map fun x => if x.id = id then { x with res := r } else x }

/-- At the end of an event: a read that has been taken has served, unless its die waits for another: then what took it may ask again. -/
def State.settleReads (s : State) : State :=
  { s with reads := s.reads.filterMap fun r =>
      match r.res with
      | .taken d => if s.reads.any fun x => decide (x.die = r.die ∧ x.res = .waiting) then some { r with res := .got d } else none
      | .waiting | .got _ | .failed _ _ => some r }

/-- Attempt a read of the part's own: a tracked copy of its cache answers it, else it is a catchable read (08_coherence R156). -/
def State.attemptRead (s : State) (r : HwRead) : State :=
  let s := s.scrubCopy r.cache r.line
  match s.copy r.cache r.line with
  | some x =>
      if x.st = .nc then s.startMiss r.id r.cache r.line false true
      else if x.busy.isSome then s
      else if s.damagedDirty x then (s.loseCopy r.die x).readEnds r.id (.failed 0x60 (damageCode x.cache))
      else (s.retag x.cache x.line r.tag).readEnds r.id (.got x.data)
  | none => s.startMiss r.id r.cache r.line false true

/-- Attempt every access, oldest first: accesses are kept in the order in which they were made; then the part's own reads. -/
def State.progress (s : State) : State :=
  let s := s.accs.foldl (fun s a => s.attempt a.id) s
  s.reads.foldl (fun s r => if r.res = .waiting then s.attemptRead r else s) s

/-- Make an access and attempt it. -/
def State.newAcc (s : State) (a : Acc) : State :=
  let s := { s.bump with accs := s.accs ++ [{ a with id := s.fresh }] }
  s.attempt (s.fresh - 1)

end Sys2Proof.Machine
end

