-- ==== Sys2Proof/Machine/Translate.lean ====
section
/-!
DEFINITION. Reads that the part makes for itself (05_encoding R73, 07_memory R135), page-table walks and TLBs (07_memory R135 to R141), peer
windows (01_package R10 to R14) and parcel pages (16_parcels R241). What cannot be had yet ends in `notYet` and is asked for again.
-/
namespace Sys2Proof.Machine

/-! ## Reads of the part's own -/

/-- Whether a line's value may be on its way somewhere: an operation of its home, a cut, a grant, an engine write that keeps it. -/
def State.lineMoves (s : State) (l : LineId) : Bool :=
  s.folioCutting l || (s.jobs.any fun j => j.line = l) || (s.tree.any fun e => decide (e.line = l) && e.st) ||
    (s.lines.any fun x => decide (x.line = l) && x.busy.isSome) ||
    s.msgs.any fun m => decide (m.line = l) && match m.kind with
      | .grant _ | .cut _ _ | .ack _ | .writeback _ => true
      | .catchable | .steered | .direct | .own | .reply _ _ _ _ _ | .prune => false

/-- Take the result of a read, which stays until `settleReads`: one event may need the line more than once. A value that is not the line's
coherent value any more is read again: whoever waited for it may be gone. -/
def State.takeRead (s : State) (r : HwRead) : State × Except (BitVec 8 × Word) Line :=
  let gone : State := { s with reads := s.reads.filter fun x => !decide (x.id = r.id) }
  match r.res with
  | .waiting => (s, .error (notYet, 0))
  | .failed c x => (gone, .error (c, x))
  | .got d | .taken d =>
      if s.lineMoves r.line || s.coherentLine r.line != d then (gone, .error (notYet, 0)) else (s.readEnds r.id (.taken d), .ok d)

/-- The read that a cache's router has made of a line for a die. -/
def State.readOf (s : State) (die : Fin 8) (c : CacheId) (l : LineId) : Option HwRead :=
  s.reads.find? fun r => decide (r.die = die ∧ r.cache = c ∧ r.line = l)

/-- A catchable read of a DC or SC line, from the router of a cache, whose reply is taken as use-once (05_encoding R73, 07_memory R135,
08_coherence R156, R158; log 36). -/
def State.dcRead (s : State) (die : Fin 8) (c : CacheId) (l : LineId) (tag : BitVec 8) : State × Except (BitVec 8 × Word) Line :=
  let s := match s.readOf die c l with
    | some _ => s
    | none =>
        let r : HwRead := { id := s.fresh, die := die, cache := c, line := l, tag := tag, res := .waiting }
        ({ s.bump with reads := s.reads ++ [r] } : State).attemptRead r
  match s.readOf die c l with
  | some r => s.takeRead r
  | none => (s, .error (notYet, 0))

/-! ## Page tables -/

/-- Whether an access of these needs writes (Table 16.4's columns). -/
def Needs.isWrite : Needs → Bool
  | .wr | .rw => true
  | .rd | .fetch | .leaf => false

/-- A translation: the physical address and the leaf's class, identifier, parcel bit; after a state check the parcel whose
page it is. -/
structure Trans where
  pa : Nat
  cc : BitVec 2
  tag : BitVec 8
  pcl : Bool
  parcel : Option (Fin 8 × Nat)
deriving DecidableEq, Repr

/-- R124: bits [63:55] all equal bit 54. -/
def canonical (a : Addr) : Bool := let h := bitsOf a.toNat 54 10; h == 0 || h == 1023

/-- A 64-bit table entry, read as DC (R135), from the die's L2 slice of its line. The identifier is 0: a table has no leaf (log 36). -/
def State.tableEntry (s : State) (die : Fin 8) (pa : Nat) : State × Except (BitVec 8 × Word) (BitVec 64) :=
  let l := lineOf .pool pa
  match s.dcRead die (s.l2Of die l) l 0 with
  | (s, .error e) => (s, .error e)
  | (s, .ok d) => (s, .ok (BitVec.ofNat 64 (natOfBytes (lineBytes d (pa % 128) 8))))

/-- The walk of one level: an entry that is absent, a leaf, or the next table (Table 7.8, rows 1 to 3). Causes: 0x04,
0x02. -/
def walkEntry (level : Nat) (e : BitVec 64) : Except (BitVec 8) (Bool × Nat) :=
  if !e.getLsbD 0 then (if e.getLsbD 63 then .error 0x04 else .error 0x02)
  else if e.getLsbD 1 then
    if level = 1 then .error 0x02
    else if level = 2 ∧ bitsOf e.toNat 16 13 ≠ 0 then .error 0x02
    else .ok (true, bitsOf e.toNat 16 36 * 65536)
  else if level = 3 ∨ bitsOf e.toNat 2 14 ≠ 0 then .error 0x02
  else .ok (false, bitsOf e.toNat 16 36 * 65536)

/-- The entry of a level, and what the walk does at it. -/
def State.walkLevel (s : State) (die : Fin 8) (level : Nat) (table : Nat) (idx : Nat) :
    State × Except (BitVec 8 × Word) (BitVec 64 × Bool × Nat) :=
  match s.tableEntry die (table + 8 * idx) with
  | (s, .error e) => (s, .error e)
  | (s, .ok e) =>
      match walkEntry level e with
      | .error c => (s, .error (c, 0))
      | .ok (leaf, next) => (s, .ok (e, leaf, next))

/-- A valid root of an ASID (R135). -/
def Die.root (d : Die) (asid : BitVec 16) (host : Bool) : Option (BitVec 64) :=
  match d.roots.find? fun r => decide (r.asid = asid ∧ r.host = host) with
  | some r => r.root
  | none => none

/-- The leaf that a walk reaches, and whether its page is 512 MiB (R135, R138). -/
def State.walkLeaf (s : State) (die : Fin 8) (asid : BitVec 16) (host : Bool) (va : Addr) :
    State × Except (BitVec 8 × Word) (BitVec 64 × Bool) :=
  match (s.die die).root asid host with
  | none => (s, .error (0x02, 0))
  | some r =>
      match s.walkLevel die 1 (r.toNat % 2 ^ 52 / 65536 * 65536) (bitsOf va.toNat 42 13) with
      | (s, .error e) => (s, .error e)
      | (s, .ok (_, _, n1)) =>
          match s.walkLevel die 2 n1 (bitsOf va.toNat 29 13) with
          | (s, .error e) => (s, .error e)
          | (s, .ok (e2, true, _)) => (s, .ok (e2, true))
          | (s, .ok (_, false, n2)) =>
              match s.walkLevel die 3 n2 (bitsOf va.toNat 16 13) with
              | (s, .error e) => (s, .error e)
              | (s, .ok (e3, _, _)) => (s, .ok (e3, false))

/-- The class and permission rows of Table 7.8, and R237: a parcel page is DC or SC. -/
def leafCheck (host : Bool) (needs : Needs) (leaf : BitVec 64) : Option (BitVec 8) :=
  let cc := leaf.extractLsb' 5 2
  let ok := match needs with
    | .rd => leaf.getLsbD 2
    | .wr => leaf.getLsbD 3
    | .rw => leaf.getLsbD 2 && leaf.getLsbD 3
    | .fetch => host || leaf.getLsbD 4
    | .leaf => true
  if cc = 3 ∨ (host = true ∧ cc = 1) then some 0x03
  else if leaf.getLsbD 7 ∧ cc = 0 then some 0x03
  else if ok then none else some 0x03

/-- What a leaf translates an address to. -/
def leafTrans (leaf : BitVec 64) (big : Bool) (va : Addr) : Trans :=
  let bits := if big then 29 else 16
  { pa := bitsOf leaf.toNat 16 36 * 65536 / 2 ^ bits * 2 ^ bits + bitsOf va.toNat 0 bits,
    cc := leaf.extractLsb' 5 2, tag := leaf.extractLsb' 8 8, pcl := leaf.getLsbD 7, parcel := none }

/-- Look an address up in one TLB. -/
def Die.tlbFind (d : Die) (a : TlbAt) (asid : BitVec 16) (host : Bool) (va : Addr) : Option Tlb :=
  d.tlbs.find? fun t => decide (t.at' = a ∧ t.asid = asid ∧ t.host = host ∧
    t.vpn = bitsOf va.toNat (if t.big then 29 else 16) (if t.big then 35 else 48))

/-- Fill one TLB; when it is full its oldest entry is replaced (log 9). -/
def Die.tlbFill (d : Die) (t : Tlb) : Die :=
  let cap := match t.at' with
    | .core _ => Config.coreTlb
    | .die => Config.dieTlb
    | .walk _ => Config.walkTlb
  let mine := d.tlbs.filter fun x => x.at' = t.at'
  let rest := d.tlbs.filter fun x => !decide (x.at' = t.at')
  { d with tlbs := t :: mine.take (cap - 1) ++ rest }

/-- The leaf of an address: from the first-level TLB, the die TLB or a walk, and whether the two TLBs hold it (R139). -/
def State.leafOf (s : State) (die : Fin 8) (a : TlbAt) (asid : BitVec 16) (host : Bool) (va : Addr) :
    State × Except (BitVec 8 × Word) (BitVec 64 × Bool × Bool × Bool) :=
  match (s.die die).tlbFind a asid host va with
  | some t => (s, .ok (t.leaf, t.big, true, true))
  | none =>
      match (s.die die).tlbFind .die asid host va with
      | some t => (s, .ok (t.leaf, t.big, false, true))
      | none =>
          match s.walkLeaf die asid host va with
          | (s, .error e) => (s, .error e)
          | (s, .ok (l, b)) => (s, .ok (l, b, false, false))

/-- Translate through a first-level TLB, the die TLB and the walk (R139), or give the cause with EXTRA. The TLBs hold no failed walk. A walk
whose entry has not been read yet ends in `notYet`, one whose read fails in 0x60 or 0x61 (19_faults R281, 21_outside R286). -/
def State.translate (s : State) (die : Fin 8) (a : TlbAt) (asid : BitVec 16) (host : Bool) (needs : Needs) (va : Addr) :
    State × Except (BitVec 8 × Word) Trans :=
  if !canonical va then (s, .error (0x02, 0))
  else
    match s.leafOf die a asid host va with
    | (s, .error e) => (s, .error e)
    | (s, .ok (leaf, big, inFirst, inDie)) =>
        match leafCheck host needs leaf with
        | some c => (s, .error (c, 0))
        | none =>
            let e (w : TlbAt) : Tlb :=
              { at' := w, asid := asid, host := host, big := big,
                vpn := bitsOf va.toNat (if big then 29 else 16) (if big then 35 else 48), leaf := leaf }
            let s := if inDie then s else s.onDie die fun d => d.tlbFill (e .die)
            let s := if inFirst then s else s.onDie die fun d => d.tlbFill (e a)
            (s, .ok (leafTrans leaf big va))

/-- The leaf that a walk would reach, and whether its page is 512 MiB, as the tables stand in the die's coherent view: nothing is read, and no TLB changes (log 36). -/
def State.leafNow (s : State) (die : Fin 8) (asid : BitVec 16) (host : Bool) (va : Addr) :
    Option (BitVec 64 × Bool) :=
  let entry (level table idx : Nat) : Option (BitVec 64 × Bool × Nat) :=
    let e := BitVec.ofNat 64 (natOfBytes (s.coherentBytes .pool (table + 8 * idx) 8))
    match walkEntry level e with
    | .ok (leaf, next) => some (e, leaf, next)
    | .error _ => none
  match (s.die die).root asid host with
  | none => none
  | some r =>
      match entry 1 (r.toNat % 2 ^ 52 / 65536 * 65536) (bitsOf va.toNat 42 13) with
      | none => none
      | some (_, _, n1) =>
          match entry 2 n1 (bitsOf va.toNat 29 13) with
          | none => none
          | some (e2, true, _) => some (e2, true)
          | some (_, false, n2) => (entry 3 n2 (bitsOf va.toNat 16 13)).map fun e => (e.1, false)

/-- What an address translates to by a TLB, or by the tables as they stand: a look that makes no translation. -/
def State.leafAt (s : State) (die : Fin 8) (a : TlbAt) (asid : BitVec 16) (host : Bool) (needs : Needs) (va : Addr) : Option Trans :=
  let leaf := match (s.die die).tlbFind a asid host va, (s.die die).tlbFind .die asid host va with
    | some t, _ | none, some t => some (t.leaf, t.big)
    | none, none => s.leafNow die asid host va
  leaf.bind fun l => if canonical va && (leafCheck host needs l.1).isNone then some (leafTrans l.1 l.2 va) else none

/-! ## Parcel pages (16_parcels R241) -/

/-- A handle of a die; one that nothing has used is FREE with generation 0 (R239). Of its other fields the spec says nothing; the model
reads them as 0 (DESIGN CHOICE, log 97). -/
def Die.handle (d : Die) (i : Nat) : Handle :=
  match d.handles.find? fun h => h.idx = i with
  | some h => h
  | none => { idx := i, size := 0, route := 0, dref := 0, asid := 0, gen := 0, slate := 0, efirst := 0, ecount := 0,
              team := 0, core := 0, clm := false, st := .free }

/-- Change a handle. -/
def Die.onHandle (d : Die) (i : Nat) (f : Handle → Handle) : Die :=
  { d with handles := f (d.handle i) :: d.handles.filter fun h => !decide (h.idx = i) }

/-- The handle that holds the extent of an arena address; the arena lies in one address space (R237). -/
def Die.holderOf (d : Die) (asid : BitVec 16) (va : Addr) : Option Handle :=
  match d.pool with
  | some c =>
      let e := (va.toNat - c.arena.toNat) / 4096
      d.handles.find? fun h => decide (c.asid = asid ∧ c.arena.toNat ≤ va.toNat ∧ h.st ≠ .free ∧ h.efirst ≤ e ∧
        e < h.efirst + h.ecount)
  | none => none

/-- Table 16.4, columns 2 and 3: a flat read, write or atomic. -/
def flatCheck (st : HState) : Option (BitVec 8) :=
  match st with
  | .open' | .arrived => none
  | .transit => some 0x30
  | .sealed | .free | .receiving => some 0x32

/-- Table 16.4, columns 4 and 5: a parcel-relative access. -/
def parcelCheck (st : HState) (write : Bool) : Option (BitVec 8) :=
  match st with
  | .open' | .arrived => none
  | .sealed => if write then some 0x32 else none
  | .transit => some 0x30
  | .free | .receiving => some 0x32

/-- The state check of a flat access to a page with PCL = 1: the accepted access's handle, or the cause. -/
def Die.flatAccess (d : Die) (asid : BitVec 16) (va : Addr) : Except (BitVec 8) Nat :=
  match d.holderOf asid va with
  | none => .error 0x32
  | some h =>
      match flatCheck h.st with
      | some c => .error c
      | none => .ok h.idx

/-- R241 for a translation of a die: an access to a parcel page checks its parcel's state. -/
def State.parcelState (s : State) (die : Fin 8) (asid : BitVec 16) (va : Addr) (needs : Needs) (t : Trans) :
    Except (BitVec 8) Trans :=
  if t.pcl ∧ needs ≠ .leaf then
    match (s.die die).flatAccess asid va with
    | .error c => .error c
    | .ok h => .ok { t with parcel := some (die, h) }
  else .ok t

/-! ## Peer windows (01_package R11 to R14) -/

/-- R11: [51:48] = 0xF. -/
def isPeer (pa : Nat) : Bool := decide (bitsOf pa 48 4 = 0xF)

/-- Table 1.4: whether an accelerator's die is out of reach of a die's tenant. -/
def State.unreachable (s : State) (die : Fin 8) (acc : BitVec 8) (vdie : Fin 8) : Bool :=
  let part := match s.pkg.partitions.find? fun p => p.1 = s.pkg.tenantOf[die] with
    | some p => p.2
    | none => 0
  let dies := if acc = s.pkg.accNum then (s.pkg.vmap[vdie]).isSome
    else match s.pkg.dieMap.find? fun x => x.1 = acc with
      | some x => x.2.getLsbD vdie.val
      | none => false
  decide (192 ≤ acc.toNat) || !s.pkg.present.getLsbD acc.toNat || !part.getLsbD acc.toNat || !dies

/-- An import entry (Table 1.3). -/
def Die.importAt (d : Die) (i : Nat) : BitVec 64 :=
  match d.imports.find? fun x => x.1 = i with
  | some x => x.2
  | none => 0

/-- An export entry (Table 1.2). -/
def Die.exportAt (d : Die) (i : Nat) : BitVec 128 :=
  match d.exports.find? fun x => x.1 = i with
  | some x => x.2
  | none => 0

/-- VDIE of an import entry. -/
def importVdie (e : BitVec 64) : Fin 8 := (e.extractLsb' 5 3).toFin

/-- Step 1 of R12, made by the importer: 0x02, 0x03 or 0x06. Which right of the entries an instruction fetch needs the spec does not
say, since they have none for execution: the model asks for RD here and at the owner (DESIGN CHOICE, log 98). -/
def State.importCheck (s : State) (die : Fin 8) (pa : Nat) (needs : Needs) : Option (BitVec 8) :=
  let e := (s.die die).importAt (bitsOf pa 40 8)
  let right := match needs with
    | .rd | .fetch => e.getLsbD 2
    | .wr => e.getLsbD 3
    | .rw => e.getLsbD 2 && e.getLsbD 3
    | .leaf => true
  if !e.getLsbD 1 then some 0x02
  else if !right then some 0x03
  else if s.unreachable die (e.extractLsb' 8 8) (importVdie e) then some 0x06
  else none

/-- The scopes that a location allows an ordered access (Table 7.12): `cls` 0 NC, 1 DC, 2 SC. -/
def scopeOk (host : Bool) (cls : BitVec 2) (atomic : Bool) (sc : Scope) : Bool :=
  let n := sc.code.toNat
  match host, cls.toNat with
  | false, 0 => if atomic then decide (n ≤ 5) else decide (n ≤ 2)
  | false, 1 => decide (n ≤ 6 ∨ n = 8)
  | _, _ => true

/-- The types and operations that an atomic may have at a location (Table 7.13): `op` none is CAS. -/
def atomOk (host : Bool) (cls : BitVec 2) (op : Option AtomOp) (ty : AtomType) : Bool :=
  let float := ty == .f32 || ty == .f64
  match host, cls.toNat with
  | false, 0 => !float
  | true, 0 =>
      !float && match op with
        | none | some .exch => true
        | some .add => ty != .b32 && ty != .b64
        | some _ => false
  | _, _ => true

/-- Steps 3 and 4 of R12, made by the owner die: the line's physical address and class, or a cause. A leaf of the owner that maps a
peer-window address of its own is taken as a pool address, of which the spec says nothing (DESIGN CHOICE, log 99). -/
def State.ownerCheck (s : State) (owner : Fin 8) (handle : Word) (asid : BitVec 16) (off : Nat) (needs : Needs)
    (ord : Order) (sc : Scope) (atomic : Bool) (op : Option (Option AtomOp × AtomType)) :
    State × Except (BitVec 8 × Word) Trans :=
  let e := (s.die owner).exportAt (bitsOf handle.toNat 0 10)
  let right := match needs with
    | .rd => e.getLsbD 66
    | .wr => e.getLsbD 67
    | .rw => e.getLsbD 66 && e.getLsbD 67
    | .fetch => e.getLsbD 66
    | .leaf => true
  if !e.getLsbD 65 ∨ e.extractLsb' 112 16 ≠ handle.extractLsb' 16 16 ∨ e.extractLsb' 96 16 ≠ asid ∨ !right ∨
      bitsOf e.toNat 68 24 * 65536 ≤ off then (s, .error (0x03, 0))
  else
    let va := BitVec.ofNat 64 (bitsOf e.toNat 16 48 * 65536 + off)
    match s.translate owner .die asid false needs va with
    | (s, .error c) => (s, .error c)
    | (s, .ok t) =>
        match s.parcelState owner asid va needs t with
        | .error c => (s, .error (c, 0))
        | .ok t =>
            if ord ≠ .plain ∧ !scopeOk false t.cc atomic sc then (s, .error (0x03, 0))
            else match op with
              | some (o, ty) => if atomOk false t.cc o ty then (s, .ok t) else (s, .error (0x07, 0))
              | none => (s, .ok t)

/-- What the part has asked of an owner for a block of window addresses. -/
def State.ask (s : State) (die : Fin 8) (win : Nat) (needs : Needs) : Option PeerAsk :=
  s.asks.find? fun a => decide (a.die = die ∧ a.win = win ∧ a.needs = needs)

/-- The request for a block of window addresses has been used: its access is over. -/
def State.endAsk (s : State) (die : Fin 8) (pa : Nat) (needs : Needs) : State :=
  { s with asks := s.asks.filter fun a => !decide (a.die = die ∧ a.win = pa / 4096 ∧ a.needs = needs) }

/-- Note that an importer has reached a physical block through a peer window (R15); its caches are those of the physical die. -/
def State.noteImport (s : State) (die : Fin 8) (entry : BitVec 64) (pa : Nat) : State :=
  let p := (s.phys die).getD die
  if s.imported.contains (p, entry, pa / 4096) then s else { s with imported := (p, entry, pa / 4096) :: s.imported }

/-- ACC and VDIE of an import entry, as EXTRA of 0x61 (19_faults Table 19.3). -/
def peerExtra (e : BitVec 64) : Word := (0 : BitVec 16) ++ e.extractLsb' 8 8 ++ e.extractLsb' 5 3 ++ (0 : BitVec 5)

/-- Step 1 for an access of the part itself, and its request (R12): it holds the import entry as it stands. -/
def State.sendAsk (s : State) (die : Fin 8) (pa : Nat) (needs : Needs) : State × Option (BitVec 8) :=
  match s.importCheck die pa needs with
  | some c => (s, some c)
  | none =>
      ({ s.bump with asks := s.asks ++ [{ id := s.fresh, die := die, win := pa / 4096, entry := (s.die die).importAt (bitsOf pa 40 8),
                                          needs := needs, answer := none }] }, none)

/-- The owner's answer to a request of the part itself, as it holds for an address of its block: a refusal ends the request, an acceptance
stands until the access is over (R12, R14). -/
def State.useAnswer (s : State) (k : PeerAsk) (pa : Nat) : State × Except (BitVec 8 × Word) Trans :=
  let gone : State := { s with asks := s.asks.filter fun x => !decide (x.id = k.id) }
  match k.answer with
  | none => (s, .error (notYet, 0))
  | some (.accepted p cls) =>
      (s.noteImport k.die k.entry p, .ok { pa := p / 4096 * 4096 + pa % 4096, cc := cls, tag := 0, pcl := false, parcel := none })
  | some (.refused c) => (gone, .error (c, 0))
  | some .lost => (gone, .error (0x61, peerExtra k.entry))

/-- An owner on this package checks and translates a request of the part itself (R12, steps 3 and 4). -/
def State.ownAnswer (s : State) (k : PeerAsk) (pa : Nat) (needs : Needs) : State × Except (BitVec 8 × Word) Trans :=
  let gone (s : State) : State := { s with asks := s.asks.filter fun x => !decide (x.id = k.id) }
  if (s.phys (importVdie k.entry)).isNone then (gone s, .error (0x61, peerExtra k.entry))
  else
    match s.ownerCheck (importVdie k.entry) (k.entry.extractLsb' 32 32) (k.entry.extractLsb' 16 16) (bitsOf pa 0 40) needs .plain .thread
        false none with
    | (s, .ok t) =>
        (({ s with asks := s.asks.map fun x => if x.id = k.id then { x with answer := some (.accepted t.pa t.cc) } else x } : State).noteImport
          k.die k.entry t.pa, .ok t)
    | (s, .error e) => if e.1 = notYet then (s, .error e) else (gone s, .error e)

/-- A whole peer-window translation for accesses of the part itself: fetch, the dispatcher, a parcel engine, a context save. A request that
has been sent goes on as it was sent. An owner on this package answers at once; one on another accelerator is asked, and answers by
PEER_WINDOW_RESPONSE (R12, R14). -/
def State.peerNow (s : State) (die : Fin 8) (pa : Nat) (needs : Needs) : State × Except (BitVec 8 × Word) Trans :=
  let r : State × Option (BitVec 8) := if (s.ask die (pa / 4096) needs).isSome then (s, none) else s.sendAsk die pa needs
  match r.2, r.1.ask die (pa / 4096) needs with
  | some c, _ => (r.1, .error (c, 0))
  | none, none => (r.1, .error (notYet, 0))
  | none, some k =>
      if k.answer.isNone && k.entry.extractLsb' 8 8 == r.1.pkg.accNum then r.1.ownAnswer k pa needs else r.1.useAnswer k pa

/-- Translate to a physical line, through a peer window where the leaf names one, or the cause and EXTRA; a parcel page checks its parcel's state (24_ref
R391). The identifier is that of the die's own leaf (07_memory R132). `win` is the window address of an accepted request, which stands until
the access is over. -/
def State.translateAll (s : State) (die : Fin 8) (a : TlbAt) (asid : BitVec 16) (host : Bool) (needs : Needs) (va : Addr) :
    State × Except (BitVec 8 × Word) (Trans × Option Nat) :=
  match s.translate die a asid host needs va with
  | (s, .error e) => (s, .error e)
  | (s, .ok t) =>
      if host then (s, .ok (t, none))
      else
        let (s, w) : State × Except (BitVec 8 × Word) Trans := if isPeer t.pa then s.peerNow die t.pa needs else (s, .ok t)
        match w with
        | .error e => (s, .error e)
        | .ok w =>
            match s.parcelState die asid va needs t with
            | .error c => (if isPeer t.pa then s.endAsk die t.pa needs else s, .error (c, 0))
            | .ok u => (s, .ok ({ w with tag := t.tag, parcel := if u.parcel.isSome then u.parcel else w.parcel },
                                if isPeer t.pa then some t.pa else none))

/-- An access of the part itself is over, or goes on waiting: its accepted request at a peer window's owner ends with it. -/
def State.overAll (s : State) (die : Fin 8) (needs : Needs) (win : Option Nat) (r : Except (BitVec 8 × Word) α) : State :=
  let done := match r with
    | .ok _ => true
    | .error e => e.1 != notYet
  match win with
  | some pa => if done then s.endAsk die pa needs else s
  | none => s

end Sys2Proof.Machine
end

