-- ==== Sys2Proof/Machine/Tree.lean ====
section
/-!
DEFINITION. The coherence trees (08_coherence 8.4 to 8.8): catch, steer, splice, cuts, grants, evictions, trims and
prunes, one message at one router per event.
-/
namespace Sys2Proof.Machine

/-- The outcome of an event: it always has a next state. -/
def event (s : State) : Out := .next s

/-! ## The end of a request -/

/-- Forget a cache's outstanding request. -/
def State.endMiss (s : State) (c : CacheId) (l : LineId) : State :=
  { s with misses := s.misses.filter fun m => !decide (m.cache = c ∧ m.line = l) }

/-- A cache's outstanding request for a line. -/
def State.missOf (s : State) (c : CacheId) (l : LineId) : Option Miss := s.misses.find? fun m => decide (m.cache = c ∧ m.line = l)

/-- The access behind a cache's request. -/
def State.missAcc (s : State) (c : CacheId) (l : LineId) : Option Acc := (s.missOf c l).bind fun m => s.acc m.acc

/-- The read of the part's own behind a cache's request. -/
def State.missRead (s : State) (c : CacheId) (l : LineId) : Option HwRead :=
  (s.missOf c l).bind fun m => s.reads.find? fun r => decide (r.id = m.acc)

/-- The access, or the read of the part's own, that a request was made for takes the data of a use-once reply (R158), and no other. -/
def State.useOnce (s : State) (c : CacheId) (l : LineId) (d : Line) : State :=
  match s.missRead c l, s.missAcc c l with
  | some r, _ => s.readEnds r.id (.got d)
  | none, some a =>
      if a.op.writes || !a.pending || s.blocked a then s
      else
        match a.place with
        | .line m off _ => if m = l then s.performed a (lineBytes d off a.size) 0 else s
        | .spad _ _ | .peer _ _ => s
  | none, none => s

/-- The identifier that the access behind a cache's request carries (07_memory R132). -/
def State.missTag (s : State) (c : CacheId) (l : LineId) : BitVec 8 :=
  match s.missRead c l with
  | some r => r.tag
  | none => ((s.missAcc c l).map fun a => a.tag).getD 0

/-- The access behind a cache's request has failed. -/
def State.failMiss (s : State) (c : CacheId) (l : LineId) (cause : BitVec 8) (extra : Word) : State :=
  match s.missRead c l, s.missAcc c l with
  | some r, _ => s.readEnds r.id (.failed cause extra)
  | none, some a => s.failAcc a cause a.ea extra
  | none, none => s

/-- Install a line in a cache at the end of its request, then serve what waits there. -/
def State.install (s : State) (c : CacheId) (l : LineId) (st : LineState) (d : Line) : State :=
  let evf := ((s.missAcc c l).map fun a => a.cp == 1).getD false
  let tag := s.missTag c l
  let s := (s.endMiss c l).newCopy
    { cache := c, line := l, fetch := false, st := st, data := d, dirty := 0, tag := tag, busy := none, next := evf }
  (if st = .m then s.heldInM c l else s).progress

/-! ## Tree-cache ways (R154, R165) -/

/-- Start cutting a router's branches: the entry becomes cut-pending and awaits one acknowledgement for each (R161). -/
def State.startCut (s : State) (r : RouterId) (l : LineId) (req : CacheId) (discard own trim : Bool) : State :=
  match s.treeAt r l with
  | none => s
  | some e =>
      let ps := e.branches
      let s := s.onTree r l fun e => { e with st := true, pend := ps.length, trim := trim, discard := discard }
      ps.foldl (fun s p => s.sendOut r p l req (.cut discard own)) s

/-- The tracked copies of a line beside a router. -/
def State.localsAt (s : State) (r : RouterId) (l : LineId) : List CacheLine :=
  s.lines.filter fun x => decide (x.line = l ∧ routerOf x.cache = r) && x.tracked

/-- Invalidate a router's local holders: the entry keeps what one in M or O had, unless the data is discarded (Table 8.4). Dirty data with
an error is lost, and the access whose ownership request met it fails (19_faults R281). -/
def State.cutLocals (s : State) (r : RouterId) (l : LineId) (req : CacheId) (discard own : Bool) : State :=
  let mine := s.localsAt r l
  let from' := if discard then none else mine.find? fun x => x.st == .m || x.st == .o
  let s1 := match from' with
    | some x =>
        if s.damagedDirty x then
          let s := s.lineLost (s.dieOf req) (damageCode x.cache) l
          if own then s.failMiss req l 0x60 (damageCode x.cache) else s
        else s
    | none => s
  let data : Option Datum := from'.bind fun x => if s.damagedDirty x then none else some { data := x.data, tag := x.tag }
  (mine.foldl (fun s x => s.dropCopy x.cache x.line) s1).onTree r l fun e =>
    { e with links := e.links &&& 0xFC, data := data }

/-- A cut's data: what came last, else what the entry had. -/
def mergeData (old new : Option Datum) : Option Datum :=
  match new with
  | some d => some d
  | none => old

/-- Returned data reaches the home: its L3 slice, where its superblock takes the identifier that came with it (07_memory R132, R134), or
host memory for a host line (R172, R174). -/
def State.homeData (s : State) (l : LineId) (d : Option Datum) : State :=
  match d with
  | none => s
  | some d =>
      match l.mem with
      | .pool => (s.l3Put l.num d.data true d.tag).retagL3 l.num d.tag
      | .host => { s with host := s.host.setLine l.num d.data }

/-- A message that brings a trim's data to the home. -/
def State.isTrimData (_ : State) (r : RouterId) (l : LineId) (m : Msg) : Bool :=
  decide (m.at' = r ∧ m.line = l ∧ m.caught = some 0) && match m.kind with
    | .writeback _ => true
    | .catchable | .steered | .direct | .own | .reply _ _ _ _ _ | .grant _ | .cut _ _ | .ack _ | .prune => false

/-- Whether a trim's data is already on its way to the home. -/
def State.trimSent (s : State) (r : RouterId) (l : LineId) : Bool := s.msgs.any fun m => s.isTrimData r l m

/-- The first operation of a line's home whose cut is running: its branches are gone now, with this data. -/
def State.jobCut (s : State) (l : LineId) (d : Option Datum) : State :=
  match s.jobs.find? fun j => j.line = l ∧ j.started ∧ j.cut = false with
  | some j =>
      { s with jobs := s.jobs.map fun x => if x.id = j.id then { x with cut := true, data := mergeData x.data d } else x }
  | none => s

/-- The end of a cut or trim at a router whose acknowledgements are in (R161, R165). -/
def State.finishCut (s : State) (r : RouterId) (l : LineId) : State :=
  match s.treeAt r l with
  | none => s
  | some e =>
      if e.pend ≠ 0 ∨ !e.st then s
      else if e.trim then
        match e.root, e.data with
        | .self, d => ((s.homeData l d).freeTree r l).reapply r l
        | p, none => ((s.freeTree r l).sendOut r p l (.l2 0 0) .prune).reapply r l
        | _, some d =>
            if s.trimSent r l then s
            else s.bump.send { id := s.fresh, kind := .writeback d, line := l, req := .l2 0 0, at' := r, port := .self,
                               path := [], caught := some 0, returned := 0, held := false, once := false, way := false }
      else
        match e.root with
        | .self => ((s.freeTree r l).jobCut l e.data).reapply r l
        | p => ((s.freeTree r l).sendOut r p l (.l2 0 0) (.ack e.data)).reapply r l

/-- The least recently used stable entry of a set. -/
def State.victimWay (s : State) (r : RouterId) (set : Nat) : Option TreeEntry :=
  ((s.treeWays r set).filter fun e => !e.st).foldl
    (fun m e => match m with
      | none => some e
      | some x => if e.used < x.used then some e else some x) none

/-- Trim an entry (R165): cut its local holders and every link port except ROOT. -/
def State.trimTree (s : State) (r : RouterId) (l : LineId) : State :=
  ((s.cutLocals r l (.l2 0 0) false false).startCut r l (.l2 0 0) false false true).finishCut r l

/-- Allocate an entry. In a full set the router trims the least recently used stable entry and the message waits for that (`way`), where a
local holder that an engine write keeps delays the trim (R163); with no stable entry there is no way (R161, R165). -/
def State.newTree (s : State) (e : TreeEntry) (way : Bool) : Fill Unit :=
  let set := treeSet e.router e.line
  let add (s : State) : State := { s.bump with tree := s.tree ++ [{ e with used := s.fresh }] }
  let room (s : State) : Bool := decide ((s.treeWays e.router set).length < Config.treeWays)
  if room s then .got (add s) ()
  else if way && (s.treeWays e.router set).any fun x => x.trim then .wait s
  else
    match s.victimWay e.router set with
    | some v =>
        if (s.localsAt v.router v.line).any fun x => x.busy.isSome then .wait s
        else
          let s := s.trimTree v.router v.line
          if room s then .got (add s) () else .wait s
    | none => .dead

/-- A use of an entry for the replacement of its set (R165). Which events are uses the spec does not say: the model counts a catch, a direct
read at the home and a splice; not a steered read that passes, a cut or a hint (DESIGN CHOICE, log 122). -/
def State.useTree (s : State) (r : RouterId) (l : LineId) : State := (s.onTree r l fun e => { e with used := s.fresh }).bump

/-- A message waits at its router for the way that an entry is being trimmed for (R165). -/
def State.awaitWay (s : State) (m : Msg) : State := { s with msgs := s.msgs.map fun x => if x.id = m.id then { x with way := true } else x }

/-- Set the link of a splice at one router (R158, R176): in a new entry with this ROOT, or in the stable entry that is there; at the catch
point a link that is set already keeps its hint. What the router has held goes on when the entry has become stable (R164). No way where the
entry is cut-pending. -/
def State.splice (s : State) (m : Msg) (root : Port) (rootHint : Nat) (link : Option (Port × Nat)) (caught : Bool) : Fill Unit :=
  let fix (e : TreeEntry) : TreeEntry :=
    match link with
    | some (p, h) => if caught && e.link p then e else (e.setLink p).setHint p h
    | none => e.setLocal m.req true
  match s.treeAt m.at' m.line with
  | some e =>
      if e.st then .dead
      else
        .got ((s.onTree m.at' m.line fun e => fix (if e.root = root then e.noteHint root rootHint else e)).useTree m.at' m.line) ()
  | none =>
      let e : TreeEntry :=
        { router := m.at', line := m.line, hint := 0, root := root, pend := 0, st := false, links := 0, data := none,
          trim := false, discard := false, used := 0 }
      match s.newTree (fix ((e.setLink root).setHint root rootHint)) m.way with
      | .got s _ => .got (s.reapply m.at' m.line) ()
      | .wait s => .wait s
      | .dead => .dead

/-! ## Replies and grants (R158, R161, R176) -/

/-- The port towards the requester at the router that a reply has reached, and its hint: the hops that remain. -/
def Msg.onward (m : Msg) : Option (Port × Nat) :=
  match m.path with
  | [] => none
  | q :: _ => some (portTo m.at' q, m.path.length)

/-- Move a reply or grant on along the path, or install at the requester. -/
def State.replyOn (s : State) (m : Msg) (k : MsgKind) (done : State → State) : State :=
  match m.path with
  | [] => done (s.dropMsg m.id)
  | q :: rest =>
      (s.dropMsg m.id).send { m with kind := k, at' := q, port := (portTo m.at' q).flip, path := rest, held := false, way := false }

/-- A reply at one router. `rem` hops remain to the requester; the catch point lies `caught` hops from it. A splice waits while its way is
being trimmed; without a way, or at a cut-pending entry, the reply goes on as use-once. A branch that comes to no holder of its own, since the
reply goes on as use-once or has come to a router whose ROOT is another port, is taken back by a prune (R155, R162; DEDUCED, log 17). -/
def State.replyStep (s : State) (m : Msg) (d : Line) (flagged excl : Bool) (hops : Nat) (holder : Bool) : State :=
  let rem := m.path.length
  let r := m.caught.getD 0
  let stable := match s.treeAt m.at' m.line with
    | some e => !e.st
    | none => false
  let done (ok : Bool) (s : State) : State :=
    if ok then s.install m.req m.line (if excl then .e else .s) d
    else ((s.useOnce m.req m.line d).endMiss m.req m.line).progress
  let next (s : State) (ok : Bool) : State := s.replyOn m (.reply d ok excl (hops + 1) holder) (done ok)
  let back (s : State) : State := s.sendOut m.at' m.port m.line (.l2 0 0) .prune
  let rooted : Bool := match s.treeAt m.at' m.line with
    | some e => e.root == m.port
    | none => true
  let s := if holder && decide (0 < hops ∧ r ≤ rem) then s.onTree m.at' m.line fun e => e.noteHint m.port hops else s
  if r < rem then next s (flagged && stable)
  else if !flagged || (rem = r && holder && !stable) then next s false
  else
    let spliced :=
      if rem = r ∧ holder then
        match s.treeAt m.at' m.line with
        | some e => s.splice m e.root (e.hintOf e.root) m.onward true
        | none => .dead
      else if rem = r then s.splice m .self 7 m.onward true
      else s.splice m m.port (if holder then hops else 7) m.onward false
    match spliced with
    | .got s _ => if rem = r || rooted then next s true else back (next s true)
    | .wait s => s.awaitWay m
    | .dead => if rem = r then next s false else back (next s false)

/-- A grant at one router: it splices always, and waits where no way is free (R161). -/
def State.grantStep (s : State) (m : Msg) (d : Line) : State :=
  match s.splice m m.port 7 m.onward false with
  | .got s _ => s.replyOn m (.grant d) fun s => s.install m.req m.line .m d
  | .wait s => s.awaitWay m
  | .dead => s

/-! ## Serving a read (R157 to R160) -/

/-- What serving a read does to the holder (Table 8.4). -/
def servedState : LineState → LineState
  | .m => .o
  | .e => .s
  | .o => .o
  | .s => .s
  | .nc => .nc

/-- A read has met dirty data with an error: the access behind it fails, and its request ends (19_faults R281). -/
def State.failRead (s : State) (m : Msg) (cause : BitVec 8) (extra : Word) : State :=
  (((s.dropMsg m.id).failMiss m.req m.line cause extra).endMiss m.req m.line).progress

/-- A holder at the message's router serves it: its superblock takes the identifier of the access (07_memory R132), and the reply starts
there. A copy with an error is dropped instead (R281). -/
def State.serveFrom (s : State) (m : Msg) (x : CacheLine) : State :=
  if s.damagedDirty x then (s.loseCopy (s.dieOf m.req) x).failRead m 0x60 (damageCode x.cache)
  else if s.damaged (.cached x.cache x.line) then s.scrubCopy x.cache x.line
  else
    let s := { s with lines := s.lines.map fun y => if y = x then { y with st := servedState y.st } else y }
    let s := s.retag x.cache x.line (s.missTag m.req m.line)
    s.replyStep { m with port := .self, held := false } x.data (!m.once) false 0 true

/-- The home serves a read from its L3 slice, or from what the host returned (R160, R174). -/
def State.serveHome (s : State) (m : Msg) : State :=
  let die := s.dieOf m.req
  let reply (s : State) (d : Line) (excl : Bool) : State :=
    s.replyStep { m with port := .self, caught := some m.path.length, held := false } d (!m.once) excl 0 false
  match m.line.mem with
  | .pool =>
      match s.homeDamage m.line with
      | some code => (s.dropHome die code m.line).failRead m 0x60 code
      | none =>
          match s.fillL3 die m.line.num (s.missTag m.req m.line) with
          | .got s d => reply s d (s.folioE m.line)
          | .wait s => s
          | .dead => s.failRead m 0x61 (s.linkExtra die)
  | .host => reply s (s.host.getLine m.line.num) false

/-- Whether some operation of the home on the line is in progress (R161, R164, R172). -/
def State.homeBusy (s : State) (l : LineId) : Bool := s.folioCutting l || s.jobs.any fun j => j.line = l

/-- A read at its home without an entry (R160): served when the folio is held in S or E; held while the gate is asked; a
host line waits for the gate's RdShared (R174). -/
def State.homeRead (s : State) (m : Msg) : State :=
  if s.homeBusy m.line then s.holdMsg m
  else
    match m.line.mem with
    | .pool => if s.folioS m.line then s.serveHome m else (s.want m.line .s).holdMsg m
    | .host => s.holdMsg m

/-- The local holder that serves at a router, L1 before L2, other than the requester (R157). -/
def State.localHolder (s : State) (r : RouterId) (e : TreeEntry) (l : LineId) (req : CacheId) : Option CacheLine :=
  let at' (b : Nat) : Option CacheLine :=
    if e.links.getLsbD b then
      s.lines.find? fun x => decide (x.line = l ∧ routerOf x.cache = r ∧ localBit x.cache = b ∧ x.cache ≠ req) && x.tracked
    else none
  match at' 0 with
  | some x => some x
  | none => at' 1

/-- The link port with the smallest hint, leaving out the arrival port; ties in the order of `linkPorts` (R157). -/
def TreeEntry.steerPort (e : TreeEntry) (arrival : Port) : Option Port :=
  (linkPorts.filter fun p => e.link p && p != arrival).foldl
    (fun m p => match m with
      | none => some p
      | some q => if e.hintOf p < e.hintOf q then some p else some q) none

/-- A catchable read at a router (R156): held, caught, forwarded, or at the home. -/
def State.catchable (s : State) (m : Msg) : State :=
  match s.treeAt m.at' m.line with
  | some e =>
      if e.st then s.holdMsg m
      else
        ((s.useTree m.at' m.line).dropMsg m.id).send { m with kind := .steered, caught := some m.path.length, held := false }
  | none =>
      match nextPort (homeOf m.line) m.at' with
      | some p => s.forward m p
      | none => s.homeRead m

/-- A steered read at a router (R157, R159, R164): a local holder serves it; else it goes on; else it is re-sent towards the home. It waits
at a holder that an engine write keeps (R163). -/
def State.steered (s : State) (m : Msg) : State :=
  match s.treeAt m.at' m.line with
  | some e =>
      if e.st then s.holdMsg m
      else
        match s.localHolder m.at' e m.line m.req with
        | some x => if x.busy.isSome then s else s.serveFrom m x
        | none =>
            match e.steerPort m.port with
            | some p => s.forward m p
            | none => (s.dropMsg m.id).send { m with kind := .direct, held := false }
  | none => (s.dropMsg m.id).send { m with kind := .direct, held := false }

/-- Whether a router's entry for a line is cut-pending: it holds what requests the line (R164). -/
def State.cutPending (s : State) (r : RouterId) (l : LineId) : Bool :=
  match s.treeAt r l with
  | some e => e.st
  | none => false

/-- A direct read (R159): on to the home without being caught; at the home it is steered, never back, or held. -/
def State.direct (s : State) (m : Msg) : State :=
  match nextPort (homeOf m.line) m.at' with
  | some p => if s.cutPending m.at' m.line then s.holdMsg m else s.forward m p
  | none =>
      match s.treeAt m.at' m.line with
      | none => s.homeRead m
      | some e =>
          if e.st then s.holdMsg m
          else
            match e.steerPort m.port with
            | some p =>
                (s.useTree m.at' m.line).forward { m with kind := .steered, caught := some (m.caught.getD m.path.length) } p
            | none => s.holdMsg m

/-! ## Ownership, cuts and what a home finishes (R161, R163, R172, R174, R175) -/

/-- Remove one operation of a home, and re-apply what the home held. -/
def State.endJob (s : State) (j : HomeJob) : State :=
  ({ s with jobs := s.jobs.filter fun x => !decide (x.id = j.id) } : State).reapply (homeOf j.line) j.line

/-- Change one operation of a home. -/
def State.onJob (s : State) (id : Nat) (f : HomeJob → HomeJob) : State :=
  { s with jobs := s.jobs.map fun x => if x.id = id then f x else x }

/-- Grant an ownership request with the line's data (R161): the grant starts at the home. It waits there for a way. -/
def State.startGrant (s : State) (j : HomeJob) (m : Msg) (d : Line) : State :=
  let g : Msg := { m with kind := .grant d, port := .self, caught := some m.path.length, held := false }
  match s.splice g .self 7 g.onward true with
  | .got s _ =>
      (({ s with jobs := s.jobs.filter fun x => !decide (x.id = j.id) } : State).replyOn g (.grant d) id).reapply g.at' g.line
  | .wait s => s.onJob j.id fun x => { x with op := .own { m with way := true } }
  | .dead => s

/-- An ownership request cannot have the line's data: the access behind it fails, and the request ends. -/
def State.failOwn (s : State) (j : HomeJob) (m : Msg) (cause : BitVec 8) (extra : Word) : State :=
  ((s.failMiss m.req m.line cause extra).endMiss m.req m.line).endJob j

/-- Advance one operation of a home whose line has no tree any more. An ownership request is granted when the folio is in E (R161, R178);
a host line's when the gate's RdOwn has been answered (R174), which CXL_CACHE_RESPONSE says. What merges bytes into the L3 line needs the
folio in E too (R175). -/
def State.advanceJob (s : State) (j : HomeJob) (hostOk : Bool) : State :=
  if !j.cut then s
  else
    match j.op with
    | .own m =>
        match j.data, j.line.mem with
        | some d, .host => if hostOk then s.startGrant j m d.data else s
        | none, .host => if hostOk then s.startGrant j m (s.host.getLine j.line.num) else s
        | some d, .pool => if s.folioOpenE j.line then s.startGrant j m d.data else s.want j.line .e
        | none, .pool =>
            let die := s.dieOf m.req
            if !s.folioOpenE j.line then s.want j.line .e
            else
              match s.homeDamage j.line with
              | some code => (s.dropHome die code j.line).failOwn j m 0x60 code
              | none =>
                  match s.fillL3 die j.line.num (s.missTag m.req j.line) with
                  | .got s d => s.startGrant j m d
                  | .wait s => s
                  | .dead => s.failOwn j m 0x61 (s.linkExtra die)
    | .folio _ => s
    | .discard => (if j.line.mem = .pool then s.l3Drop j.line.num else s).endJob j
    | .snoop => (s.homeData j.line j.data).endJob j
    | .snpData =>
        let s := match s.dirtyHolder j.line with
          | some x => s.homeData j.line (some { data := x.data, tag := x.tag })
          | none => s
        ({ s with lines := s.lines.map fun x => if x.line = j.line ∧ x.tracked then { x with st := .s } else x } : State).endJob j
    | .inbound nc off bs =>
        match j.line.mem with
        | .host =>
            let s := s.homeData j.line j.data
            ({ s with host := s.host.setLine j.line.num (lineSetN (s.host.getLine j.line.num) off bs) } : State).endJob j
        | .pool =>
            if s.folioOpenE j.line then
              let s := (if nc then s else s.homeData j.line j.data).cleanHome 0 j.line
              match s.fillL3 0 j.line.num (s.l3Tag j.line.num) with
              | .got s d => (s.l3Put j.line.num (lineSetN d off bs) true (s.l3Tag j.line.num)).endJob j
              | .wait s => s.onJob j.id fun x => { x with data := none }
              | .dead => s.endJob j
            else s.want j.line .e

/-- Operations that something beyond the package waits for, which a request that waits for the folio or for the host does not delay. -/
def HomeOp.urgent : HomeOp → Bool
  | .folio _ | .snoop | .snpData => true
  | .own _ | .discard | .inbound _ _ _ => false

/-- Whether some message of a line brings a copy or takes one away. -/
def State.copyMoves (s : State) (l : LineId) : Bool :=
  s.msgs.any fun m => decide (m.line = l) && match m.kind with
    | .reply _ _ _ _ _ | .grant _ | .writeback _ | .cut _ _ | .ack _ => true
    | .catchable | .steered | .direct | .own | .prune => false

/-- Whether an engine write keeps a copy of the line (R163). -/
def State.lineKept (s : State) (l : LineId) : Bool := s.lines.any fun x => decide (x.line = l) && x.busy.isSome

/-- Data that the cuts of waiting operations have returned goes to the home, for an operation that does not wait behind them. -/
def State.flushJobs (s : State) (l : LineId) : State :=
  let s := s.jobs.foldl (fun s j => if j.line = l then s.homeData l j.data else s) s
  { s with jobs := s.jobs.map fun j => if j.line = l then { j with data := none } else j }

/-- Start an operation of a home (R161): those of one line run one at a time, in their order. It waits for an entry that is cut-pending;
with no entry its branches are gone. SnpData cuts nothing, and waits for what is in flight and for an engine write (R163). -/
def State.startJob (s : State) (j : HomeJob) : State :=
  let h := homeOf j.line
  let before := (s.jobs.takeWhile fun x => x.id != j.id).filter fun x => x.line = j.line
  let mark (f : HomeJob → HomeJob) (s : State) : State := s.onJob j.id f
  if j.started || !(if j.op.urgent then before.all fun x => x.cut else before.isEmpty) then s
  else
    if s.cutPending h j.line then s
    else
      let s := if before.isEmpty then s else s.flushJobs j.line
      if j.op = .snpData then
        if s.copyMoves j.line || s.lineKept j.line then s
        else mark (fun x => { x with started := true, cut := true }) s
      else
        match s.treeAt h j.line with
        | none => mark (fun x => { x with started := true, cut := true }) s
        | some _ =>
            let req := match j.op with
              | .own m => m.req
              | .folio _ | .discard | .snoop | .snpData | .inbound _ _ _ => .l2 0 0
            let own := match j.op with
              | .own _ => true
              | .folio _ | .discard | .snoop | .snpData | .inbound _ _ _ => false
            ((mark (fun x => { x with started := true }) s).startCut h j.line req (j.op == .discard) own false).finishCut h j.line

/-- Let every home go on, operation by operation: start what can start, and end what can end. -/
def State.kickHomes (s : State) : State :=
  let now (s : State) (j : HomeJob) : Option HomeJob := s.jobs.find? fun x => x.id = j.id
  s.jobs.foldl (fun s j =>
    let s := match now s j with
      | some x => if x.cut then s else s.startJob x
      | none => s
    match now s j with
    | some x => s.advanceJob x false
    | none => s) s

/-- Add an operation to a home, an urgent one before those that have not started; an NC write commits there without a cut (R175). -/
def State.addJob (s : State) (l : LineId) (op : HomeOp) : State :=
  let nc := match op with
    | .inbound nc _ _ => nc
    | .own _ | .folio _ | .discard | .snoop | .snpData => false
  let j : HomeJob := { id := s.fresh, line := l, op := op, data := none, started := nc, cut := nc }
  let first := if op.urgent then s.jobs.takeWhile fun x => decide (x.line ≠ l) || x.started else s.jobs
  { s.bump with jobs := first ++ j :: s.jobs.drop first.length }

/-- An ownership request at a router: on to the home, which handles one of a line at a time (R161); a cut-pending entry holds it, and so does
the home while it has no entry and waits for the folio (R164, R171). With an entry the cut starts at once (09_program_tree R178). -/
def State.ownership (s : State) (m : Msg) : State :=
  match nextPort (homeOf m.line) m.at' with
  | some p => if s.cutPending m.at' m.line then s.holdMsg m else s.forward m p
  | none =>
      if s.homeBusy m.line || s.cutPending m.at' m.line then s.holdMsg m
      else
        match m.line.mem with
        | .pool =>
            let s := s.want m.line .e
            if (s.treeAt m.at' m.line).isNone && !s.folioOpenE m.line then s.holdMsg m
            else (s.dropMsg m.id).addJob m.line (.own m)
        | .host => (s.dropMsg m.id).addJob m.line (.own m)

/-- Note the loss of an M copy to an ownership request of another die (R166). A delay that has been reached falls to 0 when the next cut
comes more than 1,024 cycles after the last, of which the spec says nothing (DESIGN CHOICE, log 100). -/
def State.noteBounce (s : State) (x : CacheLine) (req : CacheId) : State :=
  let reqDie := match req with
    | .l1 d _ => d
    | .l2 d _ => d
  match x.cache with
  | .l2 _ _ => s
  | .l1 d n =>
      if x.st ≠ .m ∨ reqDie = d then s
      else
        match s.virt d with
        | none => s
        | some v =>
            let now := (s.core { die := v, num := n }).lcyc.toNat
            let mine := s.bounces.filter fun b => decide (b.die = d ∧ b.core = n)
            match s.bounce x.cache x.line with
            | some b =>
                let near (k : Nat) : Bool := decide (now - k ≤ 1024)
                let times := (now :: b.times.filter near).take 3
                let delay :=
                  if b.delay ≠ 0 ∧ (b.times.head?.map near).getD false then min 4096 (2 * b.delay)
                  else if times.length = 3 then 64 else 0
                { s.bump with bounces := s.bounces.map fun y =>
                    if y = b then { b with times := times, since := none, delay := delay, owed := delay != 0, used := s.fresh } else y }
            | none =>
                let oldest := mine.foldl (fun (m : Option Bounce) b => match m with
                  | none => some b
                  | some y => if b.used < y.used then some b else some y) none
                let kept := if mine.length < 8 then s.bounces
                  else s.bounces.filter fun b => some b != oldest
                { s.bump with bounces := kept ++
                    [{ die := d, core := n, line := x.line, times := [now], since := none, delay := 0, owed := false,
                       used := s.fresh }] }

/-- A cut at a router (R161): forward it, invalidate the local holders, and acknowledge when nothing is awaited. It waits at a holder that
an engine write keeps (R163). A router without an entry acknowledges at once, and so does one that the cut reaches by another port than
ROOT, where its own parent cuts it (log 17). A trim in progress becomes this cut's branch, and sends no data of its own. -/
def State.cutStep (s : State) (m : Msg) (discard own : Bool) : State :=
  match s.treeAt m.at' m.line with
  | none => (s.dropMsg m.id).sendOut m.at' m.port m.line m.req (.ack none)
  | some e =>
      let mine := s.localsAt m.at' m.line
      if m.port ≠ e.root then (s.dropMsg m.id).sendOut m.at' m.port m.line m.req (.ack none)
      else if mine.any fun x => x.busy.isSome then s
      else if e.st then
        let s := s.dropMsg m.id
        let s := { s with msgs := s.msgs.filter fun x => !s.isTrimData m.at' m.line x }
        (s.onTree m.at' m.line fun e => { e with trim := false, discard := discard }).finishCut m.at' m.line
      else
        let s := if own then mine.foldl (fun s x => s.noteBounce x m.req) s else s
        (((s.dropMsg m.id).cutLocals m.at' m.line m.req discard own).startCut m.at' m.line m.req discard own false).finishCut
          m.at' m.line

/-- An acknowledgement at a router (R161). Whether the link bit and the hint of a cut-pending entry read 0 as soon as the branch has
acknowledged the spec does not say; the model clears both then (DESIGN CHOICE, log 123). -/
def State.ackStep (s : State) (m : Msg) (d : Option Datum) : State :=
  let s := (s.dropMsg m.id).onTree m.at' m.line fun e =>
    ({ e with pend := e.pend - 1, data := if e.discard then none else mergeData e.data d } : TreeEntry).clearLink m.port
  s.finishCut m.at' m.line

/-! ## Evictions and prunes (R162) -/

/-- Caches and L3 slices that hold more lines than they have room for replace some: a cache whose share of the data array has been lowered,
or whose lines compress no more. -/
def State.relieve (s : State) : State :=
  let s := if s.lines.length ≤ 6144 then s
    else
      match s.lines.find? fun x => s.overfull x.cache with
      | some x => s.shrink x.cache 64
      | none => s
  if s.l3.length ≤ Config.l3Lines then s
  else
    match s.l3.find? fun x => Config.l3Lines < (s.l3.filter fun y => l3Slice y.num = l3Slice x.num).length with
    | some x =>
        match (s.l3.filter fun y => l3Slice y.num = l3Slice x.num).getLast? with
        | some v => s.l3Writeback 0 v.num false
        | none => s
    | none => s

/-- After an event: homes and accesses go on as far as they can. -/
def State.kick (s : State) : State := s.kickHomes.progress.relieve.settleReads

/-- The home acknowledges written-back data: a trim's entry is freed with a prune; an evicting holder's copy leaves. A copy
that a cut has taken meanwhile has nothing left to write. -/
def State.writebackStep (s : State) (m : Msg) (d : Datum) : State :=
  let s := s.dropMsg m.id
  match m.caught with
  | some _ =>
      match s.treeAt m.at' m.line with
      | some e =>
          if e.trim then
            (((s.homeData m.line (some d)).freeTree m.at' m.line).sendOut m.at' e.root m.line m.req .prune).reapply m.at' m.line
          else s
      | none => s
  | none =>
      match s.copy m.req m.line with
      | some x =>
          if x.st = .m ∨ x.st = .o then
            ((s.homeData m.line (some { data := x.data, tag := x.tag })).dropCopy m.req m.line).leaveTree m.req m.line
          else s
      | none => s

/-- Whether the branch behind a port lives again: a reply that splices, or a grant, has gone out by it, and has made an entry there or is on
its way. -/
def State.branchLives (s : State) (r : RouterId) (l : LineId) (p : Port) : Bool :=
  match neighbour r p with
  | none => false
  | some q =>
      ((s.treeAt q l).map fun e => e.root == p.flip).getD false ||
        s.msgs.any fun m => decide (m.line = l ∧ m.at' = q ∧ m.port = p.flip) && match m.kind with
          | .reply _ splice _ _ _ => splice
          | .grant _ => true
          | .catchable | .steered | .direct | .own | .cut _ _ | .ack _ | .prune | .writeback _ => false

/-- A prune at the parent: it clears that port's link and tests its own entry; one that comes through ROOT only asks for the test (log 17). One that has crossed a splicing reply on the link clears nothing:
the branch that the reply makes stays on the tree (R155; DEDUCED, log 118). -/
def State.pruneStep (s : State) (m : Msg) : State :=
  let s := s.dropMsg m.id
  match s.treeAt m.at' m.line with
  | none => s
  | some e =>
      if s.branchLives m.at' m.line m.port then s
      else
      let s := if e.root = m.port then s else s.onTree m.at' m.line fun e => e.clearLink m.port
      let s := if e.st then s else s.pruneTest m.at' m.line
      match e.root with
      | .self => s.reapply m.at' m.line
      | _ => s

/-! ## The events of the trees -/

/-- Act on a message if it is there and no earlier one of its line stands before it on its link (R153). -/
def State.onMsg (s : State) (id : Nat) (f : Msg → State) : State :=
  match s.msg id with
  | some m => if s.firstOn m then (f m).kick else s
  | none => s

/-- CATCHABLE_READ. -/
def execCatchableRead (id : Nat) (s : State) : Out :=
  event (s.onMsg id fun m => if m.kind = .catchable then s.catchable m else s)

/-- STEERED_READ. -/
def execSteeredRead (id : Nat) (s : State) : Out :=
  event (s.onMsg id fun m => if m.kind = .steered then s.steered m else s)

/-- DIRECT_READ. -/
def execDirectRead (id : Nat) (s : State) : Out :=
  event (s.onMsg id fun m => if m.kind = .direct then s.direct m else s)

/-- READ_REPLY. -/
def execReadReply (id : Nat) (s : State) : Out :=
  event (s.onMsg id fun m =>
    match m.kind with
    | .reply d flagged excl hops holder => s.replyStep m d flagged excl hops holder
    | .catchable | .steered | .direct | .own | .grant _ | .cut _ _ | .ack _ | .prune | .writeback _ => s)

/-- OWNERSHIP_REQUEST. -/
def execOwnershipRequest (id : Nat) (s : State) : Out :=
  event (s.onMsg id fun m => if m.kind = .own then s.ownership m else s)

/-- CUT. -/
def execCut (id : Nat) (s : State) : Out :=
  event (s.onMsg id fun m =>
    match m.kind with
    | .cut discard own => s.cutStep m discard own
    | .catchable | .steered | .direct | .own | .reply _ _ _ _ _ | .grant _ | .ack _ | .prune | .writeback _ => s)

/-- CUT_ACKNOWLEDGEMENT. -/
def execCutAcknowledgement (id : Nat) (s : State) : Out :=
  event (s.onMsg id fun m =>
    match m.kind with
    | .ack d => s.ackStep m d
    | .catchable | .steered | .direct | .own | .reply _ _ _ _ _ | .grant _ | .cut _ _ | .prune | .writeback _ => s)

/-- GRANT. -/
def execGrant (id : Nat) (s : State) : Out :=
  event (s.onMsg id fun m =>
    match m.kind with
    | .grant d => s.grantStep m d
    | .catchable | .steered | .direct | .own | .reply _ _ _ _ _ | .cut _ _ | .ack _ | .prune | .writeback _ => s)

/-- HOLDER_EVICTION. -/
def execHolderEviction (cache : CacheId) (line : LineId) (s : State) : Out := event (s.evict cache line).kick

/-- WRITEBACK_ACKNOWLEDGEMENT. -/
def execWritebackAcknowledgement (id : Nat) (s : State) : Out :=
  event (s.onMsg id fun m =>
    match m.kind with
    | .writeback d => s.writebackStep m d
    | .catchable | .steered | .direct | .own | .reply _ _ _ _ _ | .grant _ | .cut _ _ | .ack _ | .prune => s)

/-- PRUNE. -/
def execPrune (id : Nat) (s : State) : Out :=
  event (s.onMsg id fun m => if m.kind = .prune then s.pruneStep m else s)

/-- BACKOFF_RESEND (R164): a returned request starts again from its issuer's router. -/
def execBackoffResend (id : Nat) (s : State) : Out :=
  match s.returned.find? fun m => m.id = id with
  | none => event s
  | some m =>
      let s := { s with returned := s.returned.filter fun x => !decide (x.id = id) }
      event (s.send { m with kind := if m.kind = .own then .own else .catchable, at' := routerOf m.req, port := .self,
                             path := [], caught := none, held := false, way := false })

/-- OWNERSHIP_DELAY_EXPIRY (R166): the delayed request of the miss that serves access `id` is sent. -/
def execOwnershipDelayExpiry (id : Nat) (s : State) : Out :=
  match s.misses.find? fun m => m.acc = id && m.delayed with
  | none => event s
  | some m =>
      let s := { s with misses := s.misses.map fun x => if x = m then { x with delayed := false } else x }
      event (s.sendRequest m.cache m.line true false)

/-- BOUNCE_ENTRY_CLEAR (R166), by physical die: the core has held the line in M for 1,024 cycles. -/
def execBounceEntryClear (die : Fin 8) (core : Fin 64) (line : LineId) (s : State) : Out :=
  match s.bounce (.l1 die core) line, s.virt die with
  | some b, some v =>
      match b.since with
      | some t =>
          let inM := ((s.copy (.l1 die core) line).map fun x => x.st == .m).getD false
          if inM ∧ t + 1024 ≤ (s.core { die := v, num := core }).lcyc.toNat then
            event { s with bounces := s.bounces.filter fun x => !decide (x = b) }
          else event s
      | none => event s
  | _, _ => event s

/-- FAR_ATOMIC (R203): the request has left its core, and is performed once the folio is held in E (R171). -/
def execFarAtomic (id : Nat) (s : State) : Out :=
  match s.acc id with
  | none => event s
  | some a =>
      match a.place with
      | .line l off cls =>
          if a.phase == .missing && !s.blocked a && a.op.isAtomic && cls == 0 && decide (l.mem = .pool) && s.folioOpenE l then
            event (s.performFar a l off).kick
          else event s
      | .spad _ _ | .peer _ _ => event s

end Sys2Proof.Machine
end

