-- ==== Sys2Proof/Machine/Fabric.lean ====
section
/-!
DEFINITION. Beyond the package: requests at the pool ports (21_outside R285, R286), folios at the gates (08_coherence R170 to R172), host
snoops and inbound writes (R174, R175), and the data write and flag increment of STF (R287, R288, 25_ref R447).
-/
namespace Sys2Proof.Machine

/-! ## Pool ports (R284 to R286) -/

/-- Whether an access waits for its folio (R171): for E when it needs M or is a far atomic or an STF's data write, else while nothing is
held. -/
def State.awaitsFolio (s : State) (n : Nat) (a : Acc) : Bool :=
  let far := match a.op with
    | .stf _ _ _ => true
    | .load _ | .loadRef _ _ | .store _ | .atom _ _ _ _ | .cas _ _ _ | .prefetch _ | .engRead _ _ | .engOwn _ | .cmnt _ _
    | .tdesc _ => a.op.isAtomic
  a.pending && match a.place with
    | .line l _ cls =>
        decide (l.mem = .pool ∧ folioOf l = n) && ((if cls = 0 then far else a.op.writes) || decide ((s.folio n).st = .i))
    | .spad _ _ | .peer _ _ => false

/-- Whether an access waits for its line. -/
def State.awaitsLine (s : State) (l : LineId) (a : Acc) : Bool :=
  a.pending && match a.place with
    | .line m _ _ => decide (m = l) && (s.copy (s.cacheFor a l) l).isNone
    | .spad _ _ | .peer _ _ => false

/-- Whether a read of the part's own waits for a folio that is not held. -/
def State.readAwaitsFolio (s : State) (n : Nat) (r : HwRead) : Bool :=
  decide (r.res = .waiting ∧ r.line.mem = .pool ∧ folioOf r.line = n ∧ (s.folio n).st = .i)

/-- Whether a read of the part's own waits for its line. -/
def State.readAwaitsLine (s : State) (l : LineId) (r : HwRead) : Bool :=
  decide (r.res = .waiting ∧ r.line = l) && (s.copy r.cache l).isNone

/-- Operations of a home that cannot have their data any more: what they hold goes to the home. -/
def HomeOp.given (op : HomeOp) : HomeOp :=
  match op with
  | .own _ | .inbound _ _ _ => .snoop
  | .folio _ | .discard | .snoop | .snpData => op

/-- Accesses and reads of the part's own fail with 0x61, and the requests made for them end. -/
def State.failAll (s : State) (failing : List Acc) (rds : List HwRead) : State :=
  let s := failing.foldl (fun s a => s.failAcc a 0x61 a.ea (s.linkExtra a.th.team.core.die))
    { s with misses := s.misses.filter fun m => !(failing.any fun a => a.id = m.acc) && !(rds.any fun r => r.id = m.acc) }
  rds.foldl (fun s r => s.readEnds r.id (.failed 0x61 (s.linkExtra r.die))) s

/-- The read of a line for its L3 slice has completed as a link failure (R286). -/
def State.lineFailed (s : State) (n : Nat) : State :=
  let l : LineId := { mem := .pool, num := n }
  let failing := s.accs.filter fun a => s.awaitsLine l a
  let rds := s.reads.filter fun r => s.readAwaitsLine l r
  ({ s with
    msgs := s.msgs.filter fun m => !(decide (m.line = l ∧ m.at' = homeOf l) && m.kind.isRequest),
    jobs := s.jobs.map fun j => if j.line = l then { j with op := j.op.given } else j } : State).failAll failing rds

/-- A folio request has completed as a link failure (R286): the accesses that wait for the folio fail with 0x61, and what
homes held for it ends without a grant. -/
def State.folioFailed (s : State) (n : Nat) : State :=
  let failing := s.accs.filter fun a => s.awaitsFolio n a
  let rds := s.reads.filter fun r => s.readAwaitsFolio n r
  let mine (l : LineId) : Bool := decide (l.mem = .pool ∧ folioOf l = n)
  let none' := decide ((s.folio n).st = .i)
  let s := s.onFolio n fun f => { f with want := .i, asked := .i }
  ({ s with
    holdq := s.holdq.filter fun m => !(mine m.line && (none' || m.kind == .own)),
    jobs := s.jobs.map fun j => if mine j.line then { j with op := j.op.given } else j } : State).failAll failing rds

/-- A request has completed as a link failure (R286, R288, R447, 16_parcels R253): a parcel's command is marked, and fails when
its engine acts next. The bytes of a write are lost (log 119). -/
def State.linkFailed (s : State) (w : PoolWhat) : State :=
  match w with
  | .folio n => s.folioFailed n
  | .line n => s.lineFailed n
  | .write _ _ _ => s
  | .stf i =>
      match s.acc i with
      | some a => s.failAcc a 0x61 a.ea (s.linkExtra a.th.team.core.die)
      | none => s
  | .flag i =>
      match s.acc i with
      | some a => (s.teamReport a.th.team 0x61 0 true 0xFFFFFFFE).dropAcc i
      | none => s
  | .parcel k => s.onCmd k fun c => { c with err := true }

/-- Make a request for a physical address; with no working port it has failed. -/
def State.poolRequest (s : State) (die : Fin 8) (pa : Nat) (w : PoolWhat) : State :=
  match s.portRequest die pa w with
  | some s => s
  | none => s.linkFailed w

/-- The unanswered request for this, if it has been sent and its port does not retrain. -/
def State.openRequest (s : State) (w : PoolWhat) : Option PoolReq :=
  s.poolReqs.find? fun r => decide (r.what = w) && r.sent && !r.answered && !s.ports[r.port].retrain

/-- The node has performed a request. -/
def State.answer (s : State) (r : PoolReq) : State :=
  { s with poolReqs := s.poolReqs.map fun x => if x.id = r.id then { x with answered := true } else x }

/-- Forget a request. -/
def State.dropReq (s : State) (id : Nat) : State := { s with poolReqs := s.poolReqs.filter fun r => !decide (r.id = id) }

/-- A port has died: its unanswered requests are re-sent on the next working port of the same node, or fail (R286). -/
def State.resendAll (s : State) (p : Fin 48) : State :=
  s.poolReqs.foldl (fun s r =>
    if r.port ≠ p ∨ r.answered then s
    else
      match s.workingPort p with
      | some q =>
          { s with poolReqs := s.poolReqs.map fun x =>
              if x.id = r.id then { x with port := q, sent := false, resent := true } else x }
      | none => (s.dropReq r.id).linkFailed r.what) s

/-- Change one port. -/
def State.onPort (s : State) (p : Fin 48) (f : PoolPort → PoolPort) : State :=
  { s with ports := s.ports.set p (f s.ports[p]) }

/-- The health status word after a change of the ports or cores (R296). -/
def State.healthNow (s : State) : State := s.updateHealth (s.pkg.health.extractLsb' 0 4) false

/-- LANE_FAILURE (R286): x4 to x2 to x1, each with retraining; a port that has no working lane left is dead. -/
def execLaneFailure (port : Fin 48) (s : State) : Out :=
  let w := s.ports[port].width
  if w = 0 then event s
  else
    let s := s.onPort port fun p => { p with width := w / 2, retrain := decide (1 < w) }
    let s := if w = 1 then (s.resendAll port).sendHeld else s
    event s.healthNow.kick

/-- RETRAIN_STEP_COMPLETE (R286): window and timeout (in microseconds) rescaled, then traffic resumes. -/
def execRetrainStepComplete (port : Fin 48) (s : State) : Out :=
  let w := s.ports[port].width
  if s.ports[port].retrain then
    event ((s.onPort port fun p => { p with retrain := false, window := 256 * w, timeout := 200 / w }).sendHeld).kick
  else event s

/-- PORT_RESET (R286): system software resets a narrowed port, which trains at x4 again. -/
def execPortReset (port : Fin 48) (s : State) : Out :=
  let w := s.ports[port].width
  if w = 1 ∨ w = 2 then event (s.onPort port fun p => { p with width := 4, retrain := true }).healthNow
  else event s

/-- The line that a pool node has read reaches its L3 slice, while the folio is held and no cut of it is pending (08_coherence R171); else,
and where the node meets an error, the home asks anew. -/
def State.lineRead (s : State) (n : Nat) : State :=
  let l : LineId := { mem := .pool, num := n }
  if s.folioOpenS l && (s.l3Line n).isNone && !s.damaged (.pool n) then s.l3Put n (s.pool.getLine n) false (s.l3Tag n) else s

/-- A pool node performs a write: a whole line has no error any more (19_faults R281). -/
def State.storePool (s : State) (n : Nat) (new : Line) (mask : BitVec 128) : State :=
  let s : State := { s with pool := s.pool.setLine n (lineMerge (s.pool.getLine n) new mask 128) }
  if mask = BitVec.allOnes 128 then s.repair (.pool n) else s

/-- POOL_RESPONSE (R285): the response of an answered request, or of a line read or write, which the node performs in the order of their
numbers, returns, and frees credit for a held request. -/
def execPoolResponse (id : Nat) (s : State) : Out :=
  match s.poolReqs.find? fun r => decide (r.id = id) && r.sent && !s.ports[r.port].retrain with
  | some r =>
      match r.what with
      | .line n => if s.poolWriting n id then event s else event ((s.dropReq id).lineRead n).sendHeld.kick
      | .write n new mask => if s.poolWriting n id then event s else event ((s.dropReq id).storePool n new mask).sendHeld.kick
      | .folio _ | .stf _ | .flag _ | .parcel _ => if r.answered then event (s.dropReq id).sendHeld.kick else event s
  | none => event s

/-- POOL_REQUEST_TIMEOUT (R286): the timeout of a request that has been re-sent expires. -/
def execPoolRequestTimeout (id : Nat) (s : State) : Out :=
  match s.poolReqs.find? fun r => decide (r.id = id) && r.sent && r.resent && !r.answered with
  | some r => event (((s.dropReq id).linkFailed r.what).sendHeld).kick
  | none => event s

/-! ## Folios (08_coherence R171, R172) -/

/-- The 32 lines of a folio. -/
def folioLines (n : Nat) : List LineId := (List.range 32).map fun i => { mem := .pool, num := 32 * n + i }

/-- The homes of a folio's lines re-apply what they held (R164). -/
def State.reapplyFolio (s : State) (n : Nat) : State :=
  (folioLines n).foldl (fun s l => s.reapply (homeOf l) l) s

/-- The die on whose behalf a gate asks for a folio: that of the first access that waits for it. -/
def State.folioDie (s : State) (n : Nat) : Fin 8 :=
  match s.accs.find? fun a => s.awaitsFolio n a with
  | some a => a.th.team.core.die
  | none => 0

/-- Start a folio cut (R172): cut-pending, and a line cut for each of the 32 lines. -/
def State.startFolioCut (s : State) (n : Nat) (toShared : Bool) : State :=
  let s := s.onFolio n fun f => { f with cut := some (toShared, 32) }
  (folioLines n).foldl (fun s l => s.addJob l (.folio toShared)) s

/-- The I/O die whose gate holds a folio (R170): PA[12], or 0 while I/O die 1 is disabled. -/
def State.gateOf (s : State) (n : Nat) : Nat := if s.pkg.io1 then n % 2 else 0

/-- The folios that a gate has an entry for. -/
def State.gateHolds (s : State) (g : Nat) : List Folio :=
  s.folios.filter fun f => decide (s.gateOf f.num = g ∧ (f.st ≠ .i ∨ f.asked ≠ .i))

/-- FOLIO_REQUEST (R171): what homes want and the gate does not hold is asked of the pool node, unless a request or a cut of the folio is in
progress. A full gate first replaces the entry changed longest ago, as by a cut to I (R172; log 102). -/
def execFolioRequest (folio : Nat) (s : State) : Out :=
  let f := s.folio folio
  let held := s.gateHolds (s.gateOf folio)
  if f.want = .i ∨ f.want = f.st ∨ f.st = .e ∨ f.asked ≠ .i ∨ f.cut.isSome then event s
  else if f.st = .i ∧ Config.gateEntries ≤ held.length then
    match (held.filter fun x => decide (x.st ≠ .i ∧ x.asked = .i ∧ x.cut = none)).getLast? with
    | some v => event (s.startFolioCut v.num false).kick
    | none => event s
  else
    event ((s.onFolio folio fun f => { f with asked := f.want }).poolRequest (s.folioDie folio) (4096 * folio)
      (.folio folio)).kick

/-- FOLIO_GRANT (R171): the pool node grants what was asked; the homes go on. -/
def execFolioGrant (folio : Nat) (s : State) : Out :=
  match s.openRequest (.folio folio), (s.folio folio).cut with
  | some r, none =>
      let s := (s.answer r).onFolio folio fun f =>
        { f with st := f.asked, asked := .i, want := if f.want = f.asked then .i else f.want }
      event (s.reapplyFolio folio).kick
  | _, _ => event s

/-- FOLIO_CUT (R172): a back-invalidate snoop, to S or to I, for a folio that the gate holds. -/
def execFolioCut (folio : Nat) (toShared : Bool) (s : State) : Out :=
  let f := s.folio folio
  if f.st = .i ∨ f.cut.isSome then event s else event (s.startFolioCut folio toShared).kick

/-- FOLIO_LINE_ACK (R172), by line number: the home has completed its cut; returned data goes into L3, a dirty L3 line
to the pool node, and after 32 acknowledgements the folio has its new state. -/
def execFolioLineAck (id : Nat) (s : State) : Out :=
  let l : LineId := { mem := .pool, num := id }
  let n := folioOf l
  match (s.folio n).cut, s.jobs.find? fun j => decide (j.line = l) && j.cut && match j.op with
      | .folio _ => true
      | .own _ | .discard | .snoop | .snpData | .inbound _ _ _ => false with
  | some (toShared, k), some j =>
      let s := ((s.homeData l j.data).l3Writeback 0 l.num toShared).endJob j
      if k ≤ 1 then
        let s := s.onFolio n fun f =>
          { f with st := if toShared then (if f.st = .i then .i else .s) else .i, cut := none }
        event (s.reapplyFolio n).kick
      else event (s.onFolio n fun f => { f with cut := some (toShared, k - 1) }).kick
  | _, _ => event s

/-! ## Hosts (08_coherence R174, R175) -/

/-- A host line. -/
def hostLine (n : Nat) : LineId := { mem := .host, num := n }

/-- SNPINV (Table 8.5): the root cuts the line, with no grant; dirty data goes back to the host. -/
def execSnpInv (line : Nat) (s : State) : Out := event (s.addJob (hostLine line) .snoop).kick

/-- SNPDATA (Table 8.5): the holder in M or O returns data and moves to S; a holder in E moves to S. -/
def execSnpData (line : Nat) (s : State) : Out := event (s.addJob (hostLine line) .snpData).kick

/-- SNPCUR (Table 8.5): the holder in M or O returns data to the host; states unchanged. -/
def execSnpCur (_line : Nat) (s : State) : Out := event s

/-- CXL_CACHE_RESPONSE (R174), by the number of the request that waits at the root: RdShared has been answered and the read
is served, or RdOwn and the request is granted. The gate is on I/O die 0: with that die's host link dead the request fails (21_outside R286,
R292). -/
def execCxlCacheResponse (id : Nat) (s : State) : Out :=
  match s.holdq.find? fun m => decide (m.id = id ∧ m.line.mem = .host ∧ m.at' = homeOf m.line) with
  | some m =>
      if s.homeBusy m.line || (s.treeAt m.at' m.line).isSome then event s
      else if !s.hostUp 0 then
        event (({ s with holdq := s.holdq.filter fun x => !decide (x.id = id) } : State).failRead m 0x61 (s.linkExtra (s.dieOf m.req))).kick
      else
        event (({ s with holdq := s.holdq.filter fun x => !decide (x.id = id), msgs := m :: s.msgs } : State).serveHome m).kick
  | none =>
      match s.jobs.find? fun j => decide (j.line.mem = .host) && match j.op with
          | .own m => decide (m.id = id)
          | .folio _ | .discard | .snoop | .snpData | .inbound _ _ _ => false with
      | some j =>
          match j.op, s.hostUp 0 with
          | .own m, false => event (s.failOwn j m 0x61 (s.linkExtra (s.dieOf m.req))).kick
          | _, _ => event (s.advanceJob j true).kick
      | none => event s

/-- INBOUND_WRITE (R175): a write of a host or peer device, of bytes of one line, commits at the line's home. A host NC line
is not cached; an SC host line is cut first; a DC or SC pool line is cut with the folio in E; an NC pool line is not cut. -/
def execInboundWrite (line : LineId) (cls : BitVec 2) (off : Fin 128) (data : List Byte) (s : State) : Out :=
  if 128 < off.val + data.length then event s
  else
    let s := s.noteClass line cls
    match line.mem, cls == 0 with
    | .host, true =>
        event { s with host := s.host.setLine line.num (lineSetN (s.host.getLine line.num) off.val data) }
    | .host, false => event (s.addJob line (.inbound false off.val data)).kick
    | .pool, nc => event (s.addJob line (.inbound nc off.val data)).kick

/-- INBOUND_READ (R283): the bytes go to the device; nothing in the package changes. -/
def execInboundRead (_line : LineId) (_off : Fin 128) (_len : Nat) (s : State) : Out := event s

/-! ## Remote stores with flags (21_outside R287, 25_ref R447) -/

/-- The data write of an STF has performed and is visible at domain scope: the I/O die sends the flag increment. -/
def State.stfDone (s : State) (a : Acc) (l : LineId) (foff : Nat) : State :=
  let s := match s.poolReqs.find? fun r => r.what = .stf a.id with
    | some r => s.answer r
    | none => s
  (s.onAcc a.id fun x => { x with phase := .done }).poolRequest a.th.team.core.die (128 * l.num + foff) (.flag a.id)

/-- Write bytes of a line of pool memory at its node. -/
def State.poolWrite (s : State) (l : LineId) (off : Nat) (bs : List Byte) : State :=
  { s with pool := s.pool.setN (128 * l.num + off) bs }

/-- The data write of an STF at the place of Table 21.2, when what must come before it has happened; else that is
started. -/
def State.stfWrite (s : State) (a : Acc) (l : LineId) (off : Nat) (cls : BitVec 2) (bs : List Byte) (flag : LineId)
    (foff : Nat) : State :=
  match l.mem with
  | .host =>
      if !s.hostUp (s.hostLink a.th.team.core.die) then s.failAcc a 0x61 a.ea (s.linkExtra a.th.team.core.die)
      else if cls ≠ 0 ∧ ((s.treeAt (homeOf l) l).isSome ∨ s.homeBusy l) then
        if s.homeBusy l then s else s.addJob l .snoop
      else
        ({ s with host := s.host.setLine l.num (lineSetN (s.host.getLine l.num) off bs) } : State).stfDone a flag foff
  | .pool =>
      let die := a.th.team.core.die
      match s.homeDamage l with
      | some code => (s.dropHome die code l).failAcc a 0x60 a.ea code
      | none =>
          if s.poolWriting l.num s.fresh then s
          else if cls = 0 then
            if a.phase = .missing ∧ s.folioOpenE l then
              let s := s.giveUp a.cache l
              match s.fillL3 die l.num a.tag with
              | .got s d =>
                  let new := lineSetN d off bs
                  ((s.l3Put l.num new false a.tag).poolWrite l 0 (lineBytes new 0 128)).stfDone a flag foff
              | .wait s => s
              | .dead => s.failAcc a 0x61 a.ea (s.linkExtra die)
            else s.want l .e
          else
            let f := s.folio (folioOf l)
            if f.cut.isSome then s
            else if f.st = .i then (s.poolWrite l off bs).stfDone a flag foff
            else s.startFolioCut (folioOf l) false

/-- STF_DATA_ACKNOWLEDGEMENT (R287), by access. -/
def execStfDataAcknowledgement (id : Nat) (s : State) : Out :=
  match s.acc id with
  | some a =>
      match a.place, a.op with
      | .line l off cls, .stf bs flag foff =>
          if a.pending && !s.blocked a && (decide (l.mem = .host) || (s.openRequest (.stf id)).isSome) then
            event (s.stfWrite a l off cls bs flag foff).kick
          else event s
      | _, _ => event s
  | none => event s

/-- FLAG_INCREMENT (R287), by access: the node first cuts the flag's folio from the package, then adds 1 modulo 2^64. -/
def execFlagIncrement (id : Nat) (s : State) : Out :=
  match s.acc id, s.openRequest (.flag id) with
  | some a, some r =>
      match a.op with
      | .stf _ flag foff =>
          let f := s.folio (folioOf flag)
          if f.cut.isSome || s.poolWriting flag.num s.fresh then event s
          else if f.st = .i then
            let pa := 128 * flag.num + foff
            let v := s.pool.getNat pa 8
            event (((({ s with pool := s.pool.setN pa (bytesOfNat 8 ((v + 1) % 2 ^ 64)) } : State).answer r).dropAcc
              id)).kick
          else event (s.startFolioCut (folioOf flag) false).kick
      | _ => event s
  | _, _ => event s

end Sys2Proof.Machine
end

