-- ==== Sys2Proof/Machine/Hardware.lean ====
section
/-!
DEFINITION. Accesses that the part makes for itself: coherent reads and writes of the dispatcher (18_scheduling R260, R458), instruction
fetch (02_execution R23, 05_encoding R73). One that cannot be made yet ends in `notYet` and is made again; causes come with EXTRA.
-/
namespace Sys2Proof.Machine

/-! ## Lines -/

/-- A line at its home (08_coherence R160, R171): the folio is asked for, then the line; damage and a dead path fail (19_faults R281,
21_outside R286). -/
def State.homeFetch (s : State) (die : Fin 8) (l : LineId) (tag : BitVec 8) : State × Except (BitVec 8 × Word) Line :=
  if (s.workingPort (poolPort (128 * l.num))).isNone && !s.folioOpenS l then (s, .error (0x61, s.linkExtra die))
  else if !s.folioOpenS l then (s.want l .s, .error (notYet, 0))
  else
    match s.homeDamage l with
    | some code => (s.dropHome die code l, .error (0x60, code))
    | none =>
        match s.fillL3 die l.num tag with
        | .got s d => (s, .ok d)
        | .wait s => (s, .error (notYet, 0))
        | .dead => (s, .error (0x61, s.linkExtra die))

/-- A read that finds a copy: dirty data with an error is lost, a clean copy with one is dropped (19_faults R281). -/
def State.copyFetch (s : State) (die : Fin 8) (x : CacheLine) (tag : BitVec 8) : State × Except (BitVec 8 × Word) Line :=
  if s.damagedDirty x then (s.loseCopy die x, .error (0x60, damageCode x.cache))
  else if s.damaged (.cached x.cache x.line) then (s.scrubCopy x.cache x.line, .error (notYet, 0))
  else (s.retag x.cache x.line tag, .ok x.data)

/-- A read of an NC line as an NC load of a core: L1, L2, then the home (07_memory R128, R145). -/
def State.ncRead (s : State) (die : Fin 8) (l1 : CacheId) (l : LineId) (tag : BitVec 8) : State × Except (BitVec 8 × Word) Line :=
  match s.copy l1 l, s.copy (l2Behind l1 l) l with
  | some x, _ => s.copyFetch die x tag
  | none, some x => s.copyFetch die x tag
  | none, none => s.homeFetch die l tag

/-! ## Reads and writes of the dispatcher -/

/-- Read `n` bytes of global memory with the right that the access needs: as a DC load, or at the home of an NC line. -/
def State.readAs (s : State) (die : Fin 8) (a : TlbAt) (asid : BitVec 16) (needs : Needs) (va : Addr) (n : Nat) :
    State × Except (BitVec 8 × Word) (List Byte) :=
  match s.translateAll die a asid false needs va with
  | (s, .error e) => (s, .error e)
  | (s, .ok (t, win)) =>
      let l := lineOf .pool t.pa
      let (s, r) := if t.cc = 0 then s.homeFetch die l t.tag else s.dcRead die (s.l2Of die l) l t.tag
      (s.overAll die needs win r, r.map fun d => lineBytes d (t.pa % 128) n)

/-- Read `n` bytes of global memory. -/
def State.readGlobal (s : State) (die : Fin 8) (a : TlbAt) (asid : BitVec 16) (va : Addr) (n : Nat) :
    State × Except (BitVec 8 × Word) (List Byte) :=
  s.readAs die a asid .rd va n

/-- Write bytes into a line at its home: its tree is cut first, without a grant (R161, R172), then the bytes are merged into the L3 line
while the folio is in E (R171). The superblock takes the identifier of the leaf (07_memory R132). -/
def State.homeWrite (s : State) (die : Fin 8) (l : LineId) (cls : BitVec 2) (tag : BitVec 8) (off : Nat) (bs : List Byte) :
    State × Except (BitVec 8 × Word) Unit :=
  let s := s.noteClass l cls
  let copies := s.lines.any fun x => decide (x.line = l) && x.tracked
  if cls ≠ 0 ∧ (s.homeBusy l ∨ s.copyMoves l) then (s, .error (notYet, 0))
  else if cls ≠ 0 ∧ ((s.treeAt (homeOf l) l).isSome ∨ copies) then (s.addJob l .snoop, .error (notYet, 0))
  else if (s.workingPort (poolPort (128 * l.num))).isNone && !s.folioOpenE l then (s, .error (0x61, s.linkExtra die))
  else if !s.folioOpenE l then (s.want l .e, .error (notYet, 0))
  else
    match s.homeFetch die l tag with
    | (s, .error e) => (s, .error e)
    | (s, .ok d) => ((s.l3Put l.num (lineSetN d off bs) true tag).retagL3 l.num tag, .ok ())

/-- Write bytes of global memory as the dispatcher does. -/
def State.writeGlobal (s : State) (die : Fin 8) (asid : BitVec 16) (va : Addr) (bs : List Byte) :
    State × Except (BitVec 8 × Word) Unit :=
  match s.translateAll die .die asid false .wr va with
  | (s, .error e) => (s, .error e)
  | (s, .ok (t, win)) =>
      let (s, r) := s.homeWrite die (lineOf .pool t.pa) t.cc t.tag (t.pa % 128) bs
      (s.overAll die .wr win r, r)

/-! ## Instruction fetch (02_execution R23, 05_encoding R73) -/

/-- A fetch copy of a line. -/
def codeCopy (k : CacheId) (l : LineId) (d : Line) (tag : BitVec 8) : CacheLine :=
  { cache := k, line := l, fetch := true, st := .nc, data := d, dirty := 0, tag := tag, busy := none, next := false }

/-- The line of code that a core's fetch uses: its fetch copy in L1 or L2, else a fill of both, which joins no tree. -/
def State.fetchLine (s : State) (c : CoreId) (l : LineId) (cc : BitVec 2) (tag : BitVec 8) : State × Except (BitVec 8 × Word) Line :=
  let l1 := s.l1Of c
  let l2 := s.l2Of c.die l
  match s.fetchCopy l1 l, s.fetchCopy l2 l with
  | some x, _ => (s.retag l1 l tag, .ok x.data)
  | none, some x => ((s.retag l2 l tag).newCopy (codeCopy l1 l x.data tag), .ok x.data)
  | none, none =>
      match if cc = 0 then s.ncRead c.die l1 l tag else s.dcRead c.die l1 l tag with
      | (s, .error e) => (s, .error e)
      | (s, .ok d) => ((s.newCopy (codeCopy l2 l d tag)).newCopy (codeCopy l1 l d tag), .ok d)

/-- Fetch one word for a core. -/
def State.fetchWord (s : State) (c : CoreId) (asid : BitVec 16) (va : Addr) : State × Except (BitVec 8 × Word) Word :=
  match s.translateAll c.die (.core c.num) asid false .fetch va with
  | (s, .error e) => (s, .error e)
  | (s, .ok (t, win)) =>
      let (s, r) := s.fetchLine c (lineOf .pool t.pa) t.cc t.tag
      (s.overAll c.die .fetch win r, r.map fun d => d.extractLsb' (8 * (t.pa % 128)) 32)

/-- The check of a block word (R23), as a cause with EXTRA (R274). -/
def blockCause (w : Word) : Option (BitVec 8) :=
  if fld w 28 4 ≠ 0xF then some 0x17
  else if fld w 0 10 = 0 ∨ flag w 26 ∨ fld w 10 14 ≠ 0 then some 0x10
  else none

/-- The check of a block that a thread is to enter (R23): the block word, or the cause with EXTRA (R274). -/
def State.checkBlock (s : State) (c : CoreId) (asid : BitVec 16) (target : Addr) :
    State × Except (BitVec 8 × Word) Word :=
  match s.fetchWord c asid target with
  | (s, .error e) => (s, .error e)
  | (s, .ok w) =>
      match blockCause w with
      | some k => (s, .error (k, w))
      | none => (s, .ok w)

end Sys2Proof.Machine
end

