-- ==== Sys2Proof/Machine/Mem.lean ====
section
/-!
DEFINITION. Memory instructions: the checks of a thread's access (24_ref R391, 25_ref R428), loads, stores and atomics
(R394 to R396, R444 to R447, 22_ref R306 to R309, R319), the return of loads (02_execution R29, 24_ref R392), peer windows
(01_package R12), prefetch, maintenance, residency, identifiers and discard (R420, R323, R430, R453, R455).
-/
namespace Sys2Proof.Machine

/-! ## Resolving an address -/

/-- Where an access goes, once it has passed its checks. -/
structure Spot where
  place : Place
  ea : Addr
  tag : BitVec 8
  parcel : Option Nat
deriving DecidableEq, Repr

/-- The effective address (07_memory R122 to R124): 64 bits in global, host and parcel space, modulo 2^32 elsewhere. -/
def effAddr (th : Thread) (sp : Space) (base : Opnd) (off : BitVec 14) : Addr :=
  match sp.regs with
  | 2 => th.reg64 base + off.signExtend 64
  | _ => (th.reg base + off.signExtend 32).setWidth 64

/-- The identifier that an access carries (07_memory R132). -/
def carriedTag (th : Thread) (leaf : BitVec 8) : BitVec 8 := if th.tag = 0 then leaf else th.tag

/-- The checks of a global or host address (R391), in their order: canonical and walk, peer-window step 1, the state of a
flat parcel page, scope, atomic type. -/
def State.resolveVa (s : State) (tm : Team) (th : Thread) (host flat : Bool) (va : Addr) (needs : Needs) (ord : Order)
    (sc : Scope) (atomic : Option (Option AtomOp × AtomType)) : State × Except Flt Spot :=
  let die := tm.id.core.die
  match s.translate die (.core tm.id.core.num) tm.asid host needs va with
  | (s, .error e) => (s, .error (fltOf e va))
  | (s, .ok t) =>
      let tag := carriedTag th t.tag
      let peer := !host && isPeer t.pa
      let e := (s.die die).importAt (bitsOf t.pa 40 8)
      let state : Except (BitVec 8) (Option Nat) :=
        match if peer then s.importCheck die t.pa needs else none with
        | some c => .error c
        | none => if flat && t.pcl then ((s.die die).flatAccess tm.asid va).map some else .ok none
      match state with
      | .error c => (s, .error (fltAt c va))
      | .ok h =>
          if peer then (s, .ok { place := .peer e (bitsOf t.pa 0 40), ea := va, tag := tag, parcel := h })
          else
            let typeOk := match atomic with
              | some (o, ty) => atomOk host t.cc o ty
              | none => true
            if ord ≠ .plain ∧ !scopeOk host t.cc atomic.isSome sc then (s, .error (fltAt 0x03 va))
            else if !typeOk then (s, .error (fltAt 0x07 va))
            else
              (s, .ok { place := .line (lineOf (if host then .host else .pool) t.pa) (t.pa % 128) t.cc, ea := va,
                        tag := tag, parcel := h })

/-- The checks of a scratchpad address (07_memory R126, R127, R146). Atomics are performed in program areas only
(Table 7.2). -/
def State.resolveSpad (s : State) (tm : Team) (peer : Bool) (ea : Addr) (n : Nat) (ord : Order) (sc : Scope)
    (atomic : Bool) : Except Flt Spot :=
  let a := ea.toNat
  let owner : Option Team := if peer then s.teamAt tm.cluster (a / 2 ^ 28) else some tm
  let off := if peer then a % 2 ^ 28 else a
  match owner with
  | none => .error (fltAt 0x05 ea)
  | some o =>
      if !(if peer || atomic then o.progOk off n else o.ownOk off n) then .error (fltAt 0x05 ea)
      else if ord ≠ .plain ∧ 3 < sc.code.toNat then .error (fltAt 0x03 ea)
      else .ok { place := .spad o.id off, ea := ea, tag := 0, parcel := none }

/-- The checks of a thread's access (R391, R428), SPACE first. `legal` says whether the instruction may name SPACE. -/
def State.resolve (s : State) (tm : Team) (th : Thread) (sp : Space) (legal : Bool) (base : Opnd) (off : BitVec 14)
    (n : Nat) (needs : Needs) (ord : Order) (sc : Scope) (atomic : Option (Option AtomOp × AtomType)) :
    State × Except Flt Spot :=
  let ea := effAddr th sp base off
  if !legal then (s, .error (fltAt 0x08 ea))
  else if ea.toNat % n ≠ 0 then (s, .error (fltAt 0x01 ea))
  else
    match sp with
    | .own => (s, s.resolveSpad tm false ea n ord sc atomic.isSome)
    | .peer => (s, s.resolveSpad tm true ea n ord sc atomic.isSome)
    | .global => s.resolveVa tm th false true ea needs ord sc atomic
    | .host => s.resolveVa tm th true true ea needs ord sc atomic
    | .accum | .parcel | .res6 | .res7 => (s, .error (fltAt 0x08 ea))

/-- The spaces of loads, stores, atomics, PREF, CMNT and RESQ (05_encoding R88). -/
def Space.ordinary : Space → Bool
  | .global | .own | .peer | .host => true
  | .accum | .parcel | .res6 | .res7 => false

/-! ## Starting an access -/

/-- The access of an instruction word at its spot. -/
def Spot.acc (sp : Spot) (s : State) (i : Instr) (p : Pipe) (th : Thread) (tids : List Nat) (op : MemOp) (n : Nat)
    (ord : Order) (sc : Scope) : Acc :=
  { id := 0, th := th.id, lanes := tids, block := p.block, widx := p.widx, u := i.uni, cache := s.l1Of th.id.team.core,
    place := sp.place, op := op, ea := sp.ea, size := n, tag := sp.tag, ctr := none, dst := [], pred := none, ord := ord,
    scope := sc, cp := 0, run := p.run, ref := false, got := [], nonres := false, written := 0, parcel := sp.parcel.map fun h => (th.id.team.core.die, h), fpar := none,
    fea := none,
    phase := match sp.place with
      | .peer _ _ => .asked
      | .spad _ _ | .line _ _ _ => .gated }

/-- The data write of an STF to pool memory takes a request of its pool port (21_outside R285). -/
def State.askStf (s : State) (id : Nat) : State :=
  match s.acc id with
  | none => s
  | some a =>
      match a.op, a.place with
      | .stf _ _ _, .line l off _ =>
          match l.mem with
          | .pool => s.poolRequest a.th.team.core.die (128 * l.num + off) (.stf id)
          | .host => s
      | _, _ => s

/-- Make an access, count it (02_execution R29), and hold the issue group where R395 or R428 asks for it. -/
def State.launch (s : State) (a : Acc) : State :=
  let id := s.fresh
  let s := match a.ctr with
    | some c => a.lanes.foldl (fun (s : State) tid => s.onThread { team := a.th.team, tid := tid } fun t =>
        { t with ctr := t.ctr.set c (t.ctr[c] + 1) }) s
    | none => s
  let s : State := match a.op with
    | .load _ | .loadRef _ _ => if a.ord = .acqRel1 then s.addHold (.acc id) else s
    | .store _ | .stf _ _ _ => if a.unplaced then s.addHold (.answer id) else s
    | .atom _ _ _ _ | .cas _ _ _ =>
        let s := if a.unplaced then s.addHold (.answer id) else s
        if a.ord = .acqrel then s.addHold (.perf id) else s
    | .prefetch _ | .engRead _ _ | .engOwn _ | .cmnt _ _ | .tdesc _ => s
  (s.newAcc a).askStf id

/-- Whether a spot is a scratchpad unit that a store of `n` bytes must not meet while it is damaged (R428). -/
def State.badUnit (s : State) (sp : Spot) (n : Nat) : Bool :=
  match sp.place with
  | .spad t off => decide (n < 16) && s.spadDamaged t off n
  | .line _ _ _ | .peer _ _ => false

/-! ## LD and LDNR -/

/-- A load of one execution. LDNR at a non-resident page writes zeros and its predicate at once (R396). -/
def loadBody (i : Instr) (d base : Opnd) (cnt : Fin 4) (pred : Option (BitVec 3)) (mc : MemCtl) : Body :=
  fun s th tids =>
    match s.site with
    | none => (s, none)
    | some (p, tm) =>
        let dst := d.regList mc.size.regs
        match s.resolve tm th mc.space (Sys2Proof.Machine.Space.ordinary mc.space) base mc.off mc.size.bytes .rd mc.ord mc.scope none with
        | (s, .error f) =>
            match pred, f.cause == 0x04 with
            | some q, true =>
                ((s.writeRegs th.id.team tids dst fun t => (t.setRegN d mc.size.regs 0).setPred q true).repairPreds th.id.team tids
                  [q], none)
            | _, _ => (s, some f)
        | (s, .ok sp) =>
            (s.launch { sp.acc s i p th tids (.load mc.size) mc.size.bytes mc.ord mc.scope with
                        ctr := some cnt, dst := dst, pred := pred, cp := mc.cp }, none)

/-- LD (R394). -/
def execLd (u : Bool) (d base : Opnd) (cnt : BitVec 2) (mc : MemCtl) (s : State) : Out :=
  execLanes (.ld u d base cnt mc) (some cnt.toFin) (loadBody (.ld u d base cnt mc) d base cnt.toFin none mc) s

/-- LDNR (R396). -/
def execLdnr (u : Bool) (d base : Opnd) (q : BitVec 3) (cnt : BitVec 2) (mc : MemCtl) (s : State) : Out :=
  execLanes (.ldnr u d base q cnt mc) (some cnt.toFin)
    (loadBody (.ldnr u d base q cnt mc) d base cnt.toFin (some q) mc) s

/-! ## ST and STF -/

/-- The low bytes of a data operand. -/
def storeBytes (th : Thread) (d : Opnd) (size : MemSize) : List Byte := bytesOfNat size.bytes (th.regN d size.regs)

/-- A store of one execution (R428). -/
def storeBody (i : Instr) (d base : Opnd) (mc : MemCtl) : Body := fun s th tids =>
  match s.site with
  | none => (s, none)
  | some (p, tm) =>
      match s.resolve tm th mc.space (Sys2Proof.Machine.Space.ordinary mc.space) base mc.off mc.size.bytes .wr mc.ord mc.scope none with
      | (s, .error f) => (s, some f)
      | (s, .ok sp) =>
          if s.badUnit sp mc.size.bytes then (s, some { cause := 0x60, addr := sp.ea, extra := 5 })
          else
            (s.launch { sp.acc s i p th tids (.store (storeBytes th d mc.size)) mc.size.bytes mc.ord mc.scope with cp := mc.cp }, none)

/-- ST (R444, R445). -/
def execSt (u : Bool) (d base : Opnd) (mc : MemCtl) (s : State) : Out :=
  execLanes (.st u d base mc) none (storeBody (.st u d base mc) d base mc) s

/-- The spaces of STF (R446). -/
def Space.stfOk : Space → Bool
  | .global | .host => true
  | .own | .peer | .accum | .parcel | .res6 | .res7 => false

/-- The checks of the flag of an STF (21_outside R288, R446): its line and offset, and the parcel whose page it is. -/
def State.resolveFlag (s : State) (tm : Team) (fa : Addr) : State × Except Flt (LineId × Nat × Option Nat) :=
  if fa.toNat % 8 ≠ 0 then (s, .error (fltAt 0x01 fa))
  else
    match s.translate tm.id.core.die (.core tm.id.core.num) tm.asid false .wr fa with
    | (s, .error e) => (s, .error (fltOf e fa))
    | (s, .ok t) =>
        if isPeer t.pa ∨ t.cc = 0 then (s, .error (fltAt 0x07 fa))
        else
          let state : Except (BitVec 8) (Option Nat) :=
            if t.pcl then ((s.die tm.id.core.die).flatAccess tm.asid fa).map some else .ok none
          match state with
          | .error c => (s, .error (fltAt c fa))
          | .ok h => (s, .ok (lineOf .pool t.pa, t.pa % 128, h))

/-- An STF of one execution (R446): the data is checked, then the flag; the data write goes out. -/
def stfBody (i : Instr) (d base : Opnd) (mc : MemCtl) (fbase : Opnd) (foff : BitVec 16) : Body := fun s th tids =>
  match s.site with
  | none => (s, none)
  | some (p, tm) =>
      match s.resolve tm th mc.space (Sys2Proof.Machine.Space.stfOk mc.space) base mc.off mc.size.bytes .wr mc.ord mc.scope none with
      | (s, .error f) => (s, some f)
      | (s, .ok sp) =>
          let fa := th.reg64 fbase + foff.signExtend 64
          match s.resolveFlag tm fa with
          | (s, .error f) => (s, some f)
          | (s, .ok (fl, fo, h)) =>
              (s.launch { sp.acc s i p th tids (.stf (storeBytes th d mc.size) fl fo) mc.size.bytes mc.ord mc.scope with
                          cp := mc.cp, fpar := h.map fun h => (tm.id.core.die, h), fea := some fa }, none)

/-- STF (R446, R447). -/
def execStf (u : Bool) (d base : Opnd) (mc : MemCtl) (fbase : Opnd) (foff : BitVec 16) (s : State) : Out :=
  execLanes (.stf u d base mc fbase foff) none (stfBody (.stf u d base mc fbase foff) d base mc fbase foff) s

/-! ## Atomics -/

/-- An atomic of one execution (22_ref R306). `mk` gives the operation from the reader's operands. -/
def atomBody (i : Instr) (base : Opnd) (mc : AtomCtl) (op : Option AtomOp) (ctr : Option (Fin 4)) (dst : List Opnd)
    (mk : Thread → MemOp) : Body := fun s th tids =>
  match s.site with
  | none => (s, none)
  | some (p, tm) =>
      match s.resolve tm th mc.space (Sys2Proof.Machine.Space.ordinary mc.space) base mc.off (atomBytes mc.ty) .rw mc.ord mc.scope
          (some (op, mc.ty)) with
      | (s, .error f) => (s, some f)
      | (s, .ok sp) =>
          (s.launch { sp.acc s i p th tids (mk th) (atomBytes mc.ty) mc.ord mc.scope with
                      ctr := ctr, dst := dst, cp := mc.cp }, none)

/-- The operand b of an atomic; inline constants stand by the type's column (05_encoding R77). -/
def atomOperand (th : Thread) (ty : AtomType) (b : Opnd) : BitVec 64 :=
  match ty with
  | .f32 => (th.regF32 b).setWidth 64
  | .f64 => th.regF64 b
  | .i32 | .n32 | .b32 => (th.reg b).setWidth 64
  | .i64 | .n64 | .b64 => th.reg64 b

/-- ATOM (R306 to R308). -/
def execAtom (u : Bool) (d base b : Opnd) (cnt : BitVec 2) (op : AtomOp) (mc : AtomCtl) (s : State) : Out :=
  execLanes (.atom u d base b cnt op mc) (some cnt.toFin)
    (atomBody (.atom u d base b cnt op mc) base mc (some op) (some cnt.toFin) (d.regList mc.ty.regs)
      fun th => .atom op mc.ty (atomOperand th mc.ty b) true) s

/-- ATOMN (R309). -/
def execAtomn (u : Bool) (b base : Opnd) (op : AtomOp) (mc : AtomCtl) (s : State) : Out :=
  execLanes (.atomn u b base op mc) none
    (atomBody (.atomn u b base op mc) base mc (some op) none []
      fun th => .atom op mc.ty (atomOperand th mc.ty b) false) s

/-- CAS (R319): the destination is read as the compare value first. -/
def execCas (u : Bool) (d base b : Opnd) (cnt : BitVec 2) (mc : AtomCtl) (s : State) : Out :=
  execLanes (.cas u d base b cnt mc) (some cnt.toFin)
    (atomBody (.cas u d base b cnt mc) base mc none (some cnt.toFin) (d.regList mc.ty.regs)
      fun th => .cas mc.ty (BitVec.ofNat 64 (th.regN d mc.ty.regs)) (atomOperand th mc.ty b)) s

/-! ## LOAD_RETURN (02_execution R29, 24_ref R392) -/

/-- The value of a load, extended to its registers (05_encoding Table 5.7). -/
def loadValue (size : MemSize) (got : List Byte) : Nat :=
  let v := natOfBytes got
  match size with
  | .i8 => wrapInt 32 (signedOf 8 v)
  | .i16 => wrapInt 32 (signedOf 16 v)
  | .n8 | .n16 | .b32 | .b64 | .b128 => v

/-- A parcel reference (16_parcels R238). -/
def refOf (h : Nat) (gen : BitVec 16) (off : Word) : Addr := BitVec.ofNat 12 h ++ (0xA : BitVec 4) ++ gen ++ off

/-- The value that a read writes to its registers, or the cause that only its value shows: 0x31 of PLDR (R246). -/
def Acc.value (a : Acc) : Except (BitVec 8) Nat :=
  match a.op with
  | .load size => .ok (if a.nonres then 0 else loadValue size a.got)
  | .loadRef base psize =>
      let v := natOfBytes a.got
      if v = 0xFFFFFFFF then .ok 0
      else if psize < v then .error 0x31
      else .ok (refOf (bitsOf base.toNat 52 12) (base.extractLsb' 32 16) (BitVec.ofNat 32 v)).toNat
  | .atom _ _ _ _ | .cas _ _ _ => .ok (natOfBytes a.got)
  | .store _ | .stf _ _ _ | .prefetch _ | .engRead _ _ | .engOwn _ | .cmnt _ _ | .tdesc _ => .ok 0

/-- A read of threads, whose result LOAD_RETURN writes. -/
def Acc.isRead (a : Acc) : Bool := a.ctr.isSome

/-- Decrement the counter of a read for its threads. -/
def State.countDown (s : State) (a : Acc) : State :=
  match a.ctr with
  | some c => a.lanes.foldl (fun s tid => s.onThread { team := a.th.team, tid := tid } fun t =>
      { t with ctr := t.ctr.set c (t.ctr[c] - 1) }) s
  | none => s

/-- A response carries a fault: it is deferred for each of the access's threads (R392). Of a parcel-relative access the extra field is 0, as
17_program_parcel R256 says of it, where Table 19.3 gives other accesses a code (log 104). -/
def State.deferFault (s : State) (a : Acc) (cause : BitVec 8) (addr : Addr) (extra : Word) : State :=
  let f : FaultInfo :=
    { cause := cause, block := a.block, widx := a.widx, addr := addr, extra := if a.ref then 0 else extra, u := a.u }
  ((a.lanes.foldl (fun s tid => s.onThread { team := a.th.team, tid := tid } fun t =>
    if t.st = .exited then t else { t with deferred := t.deferred ++ [(a.id, f)] }) s).countDown a).dropAcc a.id

/-- The response of a read writes some of its registers, and when all are written its predicate; then it is counted. -/
def State.returnLoad (s : State) (a : Acc) (v : Nat) (part : BitVec 4) : State :=
  let idx := (List.range a.dst.length).filter fun j => part.getLsbD j && !a.written.getLsbD j
  let regs := idx.map fun j => a.dst.getD j (.t 0)
  let s := s.writeRegs a.th.team a.lanes regs fun t =>
    idx.foldl (fun t j => t.setReg (a.dst.getD j (.t 0)) (BitVec.ofNat 32 (v / 2 ^ (32 * j)))) t
  let written := a.written ||| part
  if (List.range a.dst.length).all fun j => written.getLsbD j then
    let s := match a.pred with
      | some q => (s.writeRegs a.th.team a.lanes [] fun t => t.setPred q a.nonres).repairPreds a.th.team a.lanes [q]
      | none => s
    (s.countDown a).dropAcc a.id
  else s.onAcc a.id fun x => { x with written := written }

/-- LOAD_RETURN (R29): `part` names the destination registers written now. -/
def execLoadReturn (id : Nat) (part : BitVec 4) (s : State) : Out :=
  match s.acc id with
  | none => event s
  | some a =>
      if !a.isRead then event s
      else
        match a.phase with
        | .done =>
            match a.value with
            | .ok v => event (s.returnLoad a v part)
            | .error c => event (s.deferFault a c a.ea 0)
        | .failed c addr extra => event (s.deferFault a c addr extra)
        | .gated | .asked | .answered _ | .missing => event s

/-! ## Peer windows (01_package R12, R14) -/

/-- What an access needs. -/
def MemOp.needs : MemOp → Needs
  | .load _ | .loadRef _ _ | .engRead _ _ | .tdesc _ => .rd
  | .store _ | .stf _ _ _ | .engOwn _ => .wr
  | .atom _ _ _ _ | .cas _ _ _ => .rw
  | .prefetch own => if own then .wr else .rd
  | .cmnt _ _ => .leaf

/-- The operation and type of an atomic. -/
def MemOp.atomKind : MemOp → Option (Option AtomOp × AtomType)
  | .atom o ty _ _ => some (some o, ty)
  | .cas ty _ _ => some (none, ty)
  | .load _ | .loadRef _ _ | .store _ | .stf _ _ _ | .prefetch _ | .engRead _ _ | .engOwn _ | .cmnt _ _ | .tdesc _ => none

/-- Whether the class of a destination line refuses the command's atomic type (R217, R328). -/
def CmdOp.badClass (op : CmdOp) (cc : BitVec 2) : Bool :=
  match op with
  | .cred ty _ _ _ _ _ => cc == 0 && ty != .i32
  | .cpy _ _ _ _ _ | .cpym _ _ _ _ _ | .cpyt _ _ _ _ _ _ | .post _ _ _ | .precv _ | .incoming _ _ | .jpost _ _ | .mfeed _ _ _ _ _
  | .mloop _ _ _ _ _ _ _ _ | .mdrain _ _ _ _ | .mzero _ _ | .afree _ _ | .orel _ => false

/-- What a command needs of its destination's leaves. -/
def CmdOp.needs : CmdOp → Needs
  | .cred _ _ _ _ _ _ => .rw
  | .cpy _ _ _ _ _ | .cpym _ _ _ _ _ | .cpyt _ _ _ _ _ _ | .post _ _ _ | .precv _ | .incoming _ _ | .jpost _ _ | .mfeed _ _ _ _ _
  | .mloop _ _ _ _ _ _ _ _ | .mdrain _ _ _ _ | .mzero _ _ | .afree _ _ | .orel _ => .wr

/-- Note a destination page of a command. -/
def State.addPage (s : State) (id : Nat) (p : Page) : State := s.onCmd id fun c => { c with pages := c.pages ++ [p] }

/-- An owner has accepted a destination block of an engine, through an import entry (01_package R12). -/
def State.acceptBlock (s : State) (a : Acc) (id : Nat) (entry : BitVec 64) (pa : Nat) (cc : BitVec 2) : State :=
  match s.cmd id with
  | none => s.dropAcc a.id
  | some c =>
      if c.op.badClass cc then s.onAcc a.id fun x => { x with phase := .failed 0x07 a.ea 0 }
      else if s.pathDead (lineOf .pool pa) then s.onAcc a.id fun x => { x with phase := .failed 0x61 a.ea 0 }
      else
        (s.dropAcc a.id).addPage id { vpn := a.ea.toNat / 4096, pa := pa / 4096 * 4096, cc := cc, tag := a.tag, host := false,
                                      parcels := (a.parcel.map fun x => [x]).getD [], entry := some entry }

/-- What an access needs at its owner: an engine's destination what its command needs. -/
def State.accNeeds (s : State) (a : Acc) : Needs :=
  match a.op with
  | .engOwn k =>
      match s.cmd k with
      | some c => c.op.needs
      | none => .wr
  | .load _ | .loadRef _ _ | .engRead _ _ | .store _ | .stf _ _ _ | .atom _ _ _ _ | .cas _ _ _ | .prefetch _
  | .cmnt _ _ | .tdesc _ => a.op.needs

/-- PEER_WINDOW_REQUEST (R12, steps 2 to 4): an owner on this accelerator checks the request, with the handle and the ASID that the import
entry held at step 1, and translates it; one that has become absent has not accepted it (R14). A request to another accelerator leaves the
package. -/
def execPeerWindowRequest (id : Nat) (s : State) : Out :=
  match s.acc id with
  | none => event s
  | some a =>
      match a.phase, a.place with
      | .asked, .peer e off =>
          let answer (s : State) (x : PeerAnswer) (h : Option (Fin 8 × Nat)) : Out :=
            event (s.onAcc id fun y => { y with phase := .answered x, parcel := if y.parcel.isSome then y.parcel else h })
          if e.extractLsb' 8 8 ≠ s.pkg.accNum then event s
          else if (s.phys (importVdie e)).isNone then answer s .lost none
          else
            match s.ownerCheck (importVdie e) (e.extractLsb' 32 32) (e.extractLsb' 16 16) off (s.accNeeds a) a.ord a.scope
                a.op.isAtomic a.op.atomKind with
            | (s, .ok t) => answer s (.accepted t.pa t.cc) t.parcel
            | (s, .error e) => if e.1 = notYet then event s else answer s (.refused e.1) none
      | _, _ => event s

/-- Whether an access is the first of its thread, of its word and of its place in the window that waits for an owner. -/
def State.firstAsked (s : State) (a : Acc) : Bool :=
  !s.accs.any fun b => decide (b.id < a.id) && b.unplaced && (a.sameThread b || a.sameWord b || a.sameSite b)

/-- The lanes of an access whose threads have not been ended meanwhile. -/
def State.liveLanes (s : State) (a : Acc) : List Nat :=
  a.lanes.filter fun tid => match s.thread { team := a.th.team, tid := tid } with
    | some t => t.st != .exited
    | none => false

/-- The owner refused: a load's cause is deferred, LDNR takes 0x04 as non-resident, a store's or atomic's cause is raised at its word (R12,
25_ref R428). A prefetch ends. A CMNT has no fault but 0x02 (22_ref Table 22.19), and does not hold its group: that cause is deferred as a
load's (log 103). -/
def State.refuseAcc (s : State) (a : Acc) (c : BitVec 8) : State :=
  match a.op with
  | .load _ | .loadRef _ _ =>
      if a.pred.isSome ∧ c = 0x04 then s.onAcc a.id fun x => { x with phase := .done, nonres := true }
      else s.onAcc a.id fun x => { x with phase := .failed c a.ea 0 }
  | .engRead _ _ | .engOwn _ | .tdesc _ => s.onAcc a.id fun x => { x with phase := .failed c a.ea 0 }
  | .prefetch _ => s.dropAcc a.id
  | .cmnt _ _ => if c = 0x02 then s.deferFault a c a.ea 0 else s.dropAcc a.id
  | .store _ | .stf _ _ _ | .atom _ _ _ _ | .cas _ _ _ =>
      (s.liveLanes a).foldl (fun s tid => s.takeFault { team := a.th.team, tid := tid }
        { cause := c, block := a.block, widx := a.widx, addr := a.ea, extra := 0, u := a.u })
        ((s.countDown a).dropAcc a.id)

/-- The access goes on as one to the physical line that the owner translated it to (R12, step 5). -/
def State.placeAcc (s : State) (a : Acc) (pa : Nat) (cls : BitVec 2) : State :=
  (s.onAcc a.id fun x =>
    { x with place := .line (lineOf .pool pa) (pa % 128) cls, phase := .gated,
             cache := match x.cache with
               | .l1 d c => .l1 d c
               | .l2 d _ => .l2 d (l2Slice (pa / 128)) }).askStf a.id

/-- An owner on another accelerator answers what the part itself has asked (R12). -/
def State.answerAsk (s : State) (id : Nat) (x : PeerAnswer) : State :=
  { s with asks := s.asks.map fun k => if k.id = id ∧ k.answer = none then { k with answer := some x } else k }

/-- PEER_WINDOW_RESPONSE (R12, R14): the answer reaches the importer; that of another accelerator comes with the event. -/
def execPeerWindowResponse (id : Nat) (answer : PeerAnswer) (s : State) : Out :=
  match s.acc id with
  | none => event (s.answerAsk id answer)
  | some a =>
      match a.place with
      | .peer e _ =>
          let ans : Option PeerAnswer := match a.phase with
            | .answered x => some x
            | .asked => if e.extractLsb' 8 8 == s.pkg.accNum then none else some answer
            | .gated | .missing | .done | .failed _ _ _ => none
          if !s.firstAsked a then event s
          else
            match ans with
            | none => event s
            | some (.accepted pa cls) =>
                let s := s.noteImport a.th.team.core.die e pa
                match a.op with
                | .engOwn k => event (s.acceptBlock a k e pa cls).kick
                | .load _ | .loadRef _ _ | .engRead _ _ | .store _ | .stf _ _ _ | .atom _ _ _ _ | .cas _ _ _ | .prefetch _
                | .cmnt _ _ | .tdesc _ => event (s.placeAcc a pa cls).kick
            | some (.refused c) => event (s.refuseAcc a c).kick
            | some .lost => event (s.failAcc a 0x61 a.ea (peerExtra e)).kick
      | .spad _ _ | .line _ _ _ => event s

/-! ## PREF, CMNT, TTAG -/

/-- A prefetch of one execution (R420): a check that fails drops it. -/
def prefBody (i : Instr) (base : Opnd) (kind : PrefKind) (sp : Space) (off : BitVec 14) : Body := fun s th tids =>
  match s.site with
  | none => (s, none)
  | some (p, tm) =>
      let ea := effAddr th sp base off
      let needs : Needs := if kind = .own then .wr else .rd
      match sp with
      | .own | .peer => (s, none)
      | .accum | .parcel | .res6 | .res7 => (s, some (fltAt 0x08 ea))
      | .global | .host =>
          match s.resolveVa tm th (sp == Space.host) true ea needs .plain .thread none with
          | (s, .error f) => (s, if f.cause = notYet then some f else none)
          | (s, .ok spot) =>
              let host : Bool := match spot.place with
                | .line l _ cls => l.mem == Backing.host && cls == 0
                | .spad _ _ | .peer _ _ => false
              let nc : Bool := match spot.place with
                | .line _ _ cls => cls == 0
                | .spad _ _ | .peer _ _ => false
              if host then (s, none)
              else
                let a := spot.acc s i p th tids (.prefetch (kind == PrefKind.own && !nc)) 1 .plain .thread
                let cache := match kind, spot.place with
                  | .l2, .line l _ _ => s.l2Of tm.id.core.die l
                  | .l2, _ => s.l2Of tm.id.core.die (lineOf .pool 0)
                  | .l1, _ | .own, _ => a.cache
                (s.launch { a with lanes := [], cache := cache }, none)

/-- PREF (R420). -/
def execPref (u : Bool) (base : Opnd) (kind : PrefKind) (sp : Space) (off : BitVec 14) (s : State) : Out :=
  execLanes (.pref u base kind sp off) none (prefBody (.pref u base kind sp off) base kind sp off) s

/-- A CMNT of one execution (22_ref R323, 07_memory R148). -/
def cmntBody (i : Instr) (base : Opnd) (op : CmntOp) (reach : Reach) (sp : Space) (off : BitVec 14) : Body :=
  fun s th tids =>
    match s.site with
    | none => (s, none)
    | some (p, tm) =>
        let ea := effAddr th sp base off
        match sp with
        | .own | .peer => (s, none)
        | .accum | .parcel | .res6 | .res7 => (s, some (fltAt 0x08 ea))
        | .global | .host =>
            match s.resolveVa tm th (sp == Space.host) false ea .leaf .plain .thread none with
            | (s, .error f) => if f.cause = 0x04 ∨ f.cause = 0x06 then (s, none) else (s, some f)
            | (s, .ok spot) => (s.launch (spot.acc s i p th tids (.cmnt op reach) 1 .plain .thread), none)

/-- CMNT (R323). -/
def execCmnt (u : Bool) (base : Opnd) (op : CmntOp) (reach : Reach) (sp : Space) (off : BitVec 14) (s : State) : Out :=
  execLanes (.cmnt u base op reach sp off) none (cmntBody (.cmnt u base op reach sp off) base op reach sp off) s

/-- Set the current identifier of the target threads (R455). -/
def State.setTag (s : State) (team : TeamId) (tids : List Nat) (id : BitVec 8) : State :=
  tids.foldl (fun s tid => s.onThread { team := team, tid := tid } fun t => { t with tag := id }) s

/-- TTAG with an immediate (R455). -/
def execTtagImmediate (u : Bool) (id : BitVec 8) (s : State) : Out :=
  execLanes (.ttagImmediate u id) none (fun s th tids => (s.setTag th.id.team tids id, none)) s

/-- TTAG with a register (R455). -/
def execTtagRegister (u : Bool) (a : Opnd) (s : State) : Out :=
  execLanes (.ttagRegister u a) none (fun s th tids =>
    if 255 < (th.reg a).toNat then (s, some (fltWord 0x11 (.ttagRegister u a)))
    else (s.setTag th.id.team tids ((th.reg a).setWidth 8), none)) s

/-! ## TDROP (R453, 07_memory R133) -/

/-- Copies of a die, or of the package, that carry an identifier; SC lines are skipped. -/
def State.tagged (s : State) (tag : BitVec 8) (die : Option (Fin 8)) : List CacheLine :=
  s.lines.filter fun x =>
    !x.fetch && decide (x.tag = tag ∧ x.line.mem = .pool) && !s.scLines.contains x.line &&
      match die, x.cache with
      | none, _ => true
      | some d, .l1 c _ => decide (s.phys d = some c)
      | some d, .l2 c _ => decide (s.phys d = some c)

/-- The lines of the L3 slices that carry an identifier; SC lines are skipped. -/
def State.deepTagged (s : State) (tag : BitVec 8) : List LineId :=
  (s.l3.filter fun x => decide (x.tag = tag) && !s.scLines.contains { mem := .pool, num := x.num }).map fun x =>
    ({ mem := .pool, num := x.num } : LineId)

/-- Drop one copy without writeback; a tracked one leaves its tree (08_coherence R163). -/
def State.discardCopy (s : State) (x : CacheLine) : State :=
  if x.busy.isSome then s
  else
    let s := s.dropCopy x.cache x.line
    if x.st = .nc then s else s.leaveTree x.cache x.line

/-- One attempt of a discard: copies go now, except those that an engine write keeps; at package scope the trees of tracked
lines are cut by their homes, and L3 lines are invalidated. -/
def State.discard (s : State) (tag : BitVec 8) (die : Option (Fin 8)) : State :=
  match die with
  | some _ => (s.tagged tag die).foldl (fun s x => s.discardCopy x) s
  | none =>
      let xs := s.tagged tag none
      let tracked := (xs.filter fun x => x.st != .nc).map fun x => x.line
      let s := (xs.filter fun x => x.st == .nc).foldl (fun s x => s.discardCopy x) s
      (tracked ++ s.deepTagged tag).eraseDups.foldl (fun s l =>
        if s.jobs.any fun j => j.line = l ∧ j.op = .discard then s else s.addJob l .discard) s

/-- Whether a discard has completed: at package scope no L3 slice holds a line of it either (Table 7.4). -/
def State.discarded (s : State) (tag : BitVec 8) (die : Option (Fin 8)) : Bool :=
  (s.tagged tag die).isEmpty && (die.isSome || ((s.deepTagged tag).isEmpty && !s.jobs.any fun j => j.op == .discard))

/-- The writes of some threads that have not performed: they happen before a TDROP that follows them (R134). -/
def State.writesOf (s : State) (team : TeamId) (tids : List Nat) : List Nat :=
  (s.accs.filter fun a => decide (a.th.team = team) && a.pending && a.op.writes && tids.any fun l => a.lanes.contains l).map
    fun a => a.id

/-- TDROP (R453): the issue group is held until the threads' earlier writes have performed (R134) and the discard has completed. -/
def execTdrop (u : Bool) (a : Opnd) (pkg : Bool) (s : State) : Out :=
  execLanes (.tdrop u a pkg) none (fun s th tids =>
    let v := th.reg a
    if v = 0 ∨ 255 < v.toNat then (s, some (fltWord 0x11 (.tdrop u a pkg)))
    else
      let tag := v.setWidth 8
      let die := if pkg then none else some th.id.team.core.die
      let before := s.writesOf th.id.team tids
      let s := before.foldl (fun s id => s.addHold (.perf id)) s
      ((if before.isEmpty then (s.discard tag die).kick else s).addHold (.discard tag die), none)) s

/-! ## Slate operands and RESQ -/

/-- The check of a slate operand (R427) in one team's program area. -/
def Team.slateCheck (t : Team) (off : Nat) (addr : Addr) : Option Flt :=
  if off % 16 ≠ 0 then some (fltAt 0x01 addr) else if t.progOk off 16 then none else some (fltAt 0x05 addr)

/-- Send a credit to a slate; `after` are the accesses that it waits for. -/
def State.creditAt (s : State) (a : SlateAt) (bytes arrivals : Nat) (err : Bool) (after : List Nat) : State :=
  { s.bump with credits := s.credits ++
    [{ id := s.fresh, at' := a, bytes := bytes, arrivals := arrivals, err := err, cmd := none, dest := 0, after := after }] }

/-- Send a credit to a team's slate logic. -/
def State.sendCredit (s : State) (t : TeamId) (off bytes arrivals : Nat) (err : Bool) (after : List Nat) : State :=
  s.creditAt (.team t off) bytes arrivals err after

/-- A residency request record (07_memory Table 7.11). -/
def residencyRec (seq : Nat) (wr : Bool) (tm : Team) (tid : Nat) (slate : Word) (va : Addr) : BitVec 256 :=
  BitVec.ofNat 64 seq ++ (0 : BitVec 52) ++ BitVec.ofBool wr ++ BitVec.ofNat 11 tid ++ slate ++ (0 : BitVec 4)
    ++ BitVec.ofNat 6 tm.id.slot.val ++ BitVec.ofNat 6 tm.id.core.num.val ++ tm.asid ++ va

/-- Write a residency request record, or credit the slate with ERR while the ring is full (R143). -/
def State.requestResidency (s : State) (tm : Team) (tid : Nat) (wr : Bool) (slate : Word) (va : Addr) : State :=
  let d := s.die tm.id.core.die
  let n := d.resSeq
  if Config.residencyRing ≤ n ∧ d.residency.any fun r => r.seq + Config.residencyRing = n then
    s.sendCredit tm.id slate.toNat 0 1 true []
  else
    let r := residencyRec n wr tm tid slate va
    s.onDie tm.id.core.die fun d =>
      { d with
        resSeq := n + 1,
        residency := d.residency ++ [{ seq := n, rec' := r, at' := .team tm.id slate.toNat }],
        resRing := (n % Config.residencyRing, r) :: d.resRing.filter fun x => !decide (x.1 = n % Config.residencyRing),
        interrupts := d.interrupts + 1 }

/-- A RESQ of one execution (R430). -/
def resqBody (base b : Opnd) (wr : Bool) (sp : Space) (off : BitVec 14) : Body := fun s th _ =>
  match s.site with
  | none => (s, none)
  | some (_, tm) =>
      let ea := effAddr th sp base off
      let slate := th.reg b
      let now (s : State) : State := s.sendCredit tm.id slate.toNat 0 1 false []
      if !Sys2Proof.Machine.Space.ordinary sp then (s, some (fltAt 0x08 ea))
      else
        match tm.slateCheck slate.toNat (slate.setWidth 64) with
        | some f => (s, some f)
        | none =>
            match sp with
            | .own | .peer =>
                match s.resolveSpad tm (sp == Space.peer) ea 1 .plain .thread false with
                | .error f => (s, some f)
                | .ok _ => (now s, none)
            | .global | .host | .accum | .parcel | .res6 | .res7 =>
                match s.translate tm.id.core.die (.core tm.id.core.num) tm.asid (sp == Space.host) .leaf ea with
                | (s, .ok _) => (now s, none)
                | (s, .error e) =>
                    if e.1 = 0x04 then (s.requestResidency tm th.id.tid wr slate ea, none) else (s, some (fltOf e ea))

/-- RESQ (R430). -/
def execResq (u : Bool) (base b : Opnd) (wr : Bool) (sp : Space) (off : BitVec 14) (s : State) : Out :=
  execLanes (.resq u base b wr sp off) none (resqBody base b wr sp off) s

end Sys2Proof.Machine
end

