-- ==== Sys2Proof/Machine/Control.lean ====
section
/-!
DEFINITION. Control: terminators and their target checks (02_execution R23, R24, 22_ref R313 to R318, R320, 23_ref R349,
25_ref R431 to R433, R448, R449, R454), BKPT and NOP apart, what a drain ends in (R30), fault records, barrier arrivals, and
the return from a handler (19_faults R277, R432).
-/
namespace Sys2Proof.Machine

/-! ## Leaving a block -/

/-- Threads end their block: they leave the issue group and drain (R30). -/
def State.leaveTo (s : State) (team : TeamId) (tids : List Nat) (a : After) : State :=
  tids.foldl (fun s tid =>
    let i : ThreadId := { team := team, tid := tid }
    (s.onThread i fun t => { t with st := .draining, after := a, arrived := false }).leavePipe i) s

/-- The address of the word that executes. -/
def Pipe.wordAddr (p : Pipe) : Addr := p.block + BitVec.ofNat 64 (4 * p.widx)

/-- The physically next block (R24). -/
def Pipe.nextBlock (p : Pipe) : Addr := p.block + BitVec.ofNat 64 (4 * p.len)

/-- The checks of a target address that a register or a link holds (22_ref R316), then R23. -/
def State.checkTarget (s : State) (tm : Team) (target : Addr) : State × Except Flt Word :=
  if target.toNat % 4 ≠ 0 then (s, .error (fltAt 0x01 target))
  else
    match s.checkBlock tm.id.core tm.asid target with
    | (s, .error (c, x)) => (s, .error { cause := c, addr := target, extra := x })
    | (s, .ok w) => (s, .ok w)

/-- A target whose check has failed; lanes whose target cannot be fetched yet execute the word again (05_encoding R73). -/
def State.targetFails (s : State) (f : Flt) : State × Option Flt :=
  if f.cause = notYet then (s.addHold .fetch, none) else (s, some f)

/-- A branch of one execution to the target that `tgt` gives; a call writes its link after the check. -/
def branchBody (link : Bool) (tgt : Pipe → Thread → Addr) : Body := fun s th tids =>
  match s.site with
  | none => (s, none)
  | some (p, tm) =>
      let target := tgt p th
      match s.checkTarget tm target with
      | (s, .error f) => s.targetFails f
      | (s, .ok w) =>
          let s := if link then
              s.writeRegs th.id.team tids [.k 62, .k 63] fun t => t.setReg64 (.k 62) (p.wordAddr + 4)
            else s
          (s.leaveTo th.id.team tids (.enrol target w), none)

/-- The target of a direct terminator (R313). -/
def directTarget (off : BitVec 19) (p : Pipe) : Addr := p.wordAddr + 4 * off.signExtend 64

/-- BRA (R313). -/
def execBra (u : Bool) (off : BitVec 19) (s : State) : Out :=
  execLanes (.bra u off) none (branchBody false fun p _ => directTarget off p) s

/-- BRC (R314). -/
def execBrc (u : Bool) (q : BitVec 3) (sn : Bool) (off : BitVec 19) (s : State) : Out :=
  execLanes (.brc u q sn off) none
    (branchBody false fun p th => if th.pred q = sn then directTarget off p else p.nextBlock) s

/-- BRX (R316). -/
def execBrx (u : Bool) (a : Opnd) (s : State) : Out :=
  execLanes (.brx u a) none (branchBody false fun _ th => th.reg64 a) s

/-- CALL (R317). -/
def execCall (u : Bool) (off : BitVec 19) (s : State) : Out :=
  execLanes (.call u off) none (branchBody true fun p _ => directTarget off p) s

/-- CALLX (R318). -/
def execCallx (u : Bool) (a : Opnd) (s : State) : Out :=
  execLanes (.callx u a) none (branchBody true fun _ th => th.reg64 a) s

/-- RET (R433). -/
def execRet (u : Bool) (s : State) : Out :=
  execLanes (.ret u) none (branchBody false fun _ th => th.reg64 (.k 62)) s

/-- EXIT (R349). -/
def execExit (u : Bool) (s : State) : Out :=
  execLanes (.exit u) none (fun s th tids => (s.leaveTo th.id.team tids .exit, none)) s

/-- TRAP (R454): 0x50 at its own word, after the drain. -/
def execTrap (imm : BitVec 16) (s : State) : Out :=
  execLanes (.trap imm) none (fun s _ _ => (s, some { cause := 0x50, addr := 0, extra := imm.setWidth 32 })) s

/-- BKPT (R312): 0x51 at its own word. -/
def execBkpt (imm : BitVec 16) (s : State) : Out :=
  execLanes (.bkpt imm) none (fun s _ _ => (s, some { cause := 0x51, addr := 0, extra := imm.setWidth 32 })) s

/-! ## Waits -/

/-- A wait terminator whose own checks have passed: the physically next block is checked, then the threads drain. -/
def waitBody (k : WaitKind) : Body := fun s th tids =>
  match s.site with
  | none => (s, none)
  | some (p, tm) =>
      match s.checkTarget tm p.nextBlock with
      | (s, .error f) => s.targetFails f
      | (s, .ok w) => (s.leaveTo th.id.team tids (.wait k p.nextBlock w), none)

/-- CBAR (R320). -/
def execCbar (u : Bool) (s : State) : Out := execLanes (.cbar u) none (waitBody .cluster) s

/-- TBAR (R449). -/
def execTbar (u : Bool) (s : State) : Out := execLanes (.tbar u) none (waitBody .team) s

/-- SWAIT (R448). It reads its slate, which may be damaged (R281). -/
def execSwait (u : Bool) (a : Opnd) (v : Bool) (s : State) : Out :=
  execLanes (.swait u a v) none (fun s th tids =>
    match s.site with
    | none => (s, none)
    | some (_, tm) =>
        let sl := th.reg a
        match tm.slateCheck sl.toNat (sl.setWidth 64) with
        | some f => (s, some f)
        | none =>
            if s.spadDamaged tm.id sl.toNat 16 then (s, some { cause := 0x60, addr := sl.setWidth 64, extra := 5 })
            else if slateMagic (s.slateVal tm.id sl.toNat) then waitBody (.slate sl.toNat v) s th tids
            else (s, some (fltAt 0x20 (sl.setWidth 64)))) s

/-- Whether the condition of a wait holds, barriers apart. -/
def State.waitDone (s : State) (t : TeamId) (k : WaitKind) : Bool :=
  match k with
  | .slate off v => slatePh (s.slateVal t off) != v
  | .team | .cluster => false
  | .parcel r =>
      let h := (s.die t.core.die).handle (bitsOf r.toNat 52 12)
      decide (h.st = .arrived ∧ h.gen = r.extractLsb' 32 16)

/-- A slot that a thread waits on has been freed (16_parcels R254): its reference as the PWAIT named it. -/
def State.waitFreed (s : State) (t : TeamId) (k : WaitKind) : Option Addr :=
  match k with
  | .slate _ _ | .team | .cluster => none
  | .parcel r => if ((s.die t.core.die).handle (bitsOf r.toNat 52 12)).gen = r.extractLsb' 32 16 then none else some r

/-- A wait passes through WAITING (03_selector R44): it ends at once when its condition holds already, or when its slot has
been freed, which the thread learns at its next block. -/
def State.tryWait (s : State) (i : ThreadId) (k : WaitKind) : State :=
  if s.waitDone i.team k then s.release i
  else
    match s.waitFreed i.team k with
    | some r => (s.onThread i fun t => { t with freedRef := some r }).release i
    | none => s

/-! ## RESUME (R277, R431, R432) -/

/-- RESUME (R431): outside handler mode 0x10; else it acts when its thread has drained. -/
def execResume (s : State) : Out :=
  execLanes .resume none (fun s th tids =>
    match s.site with
    | none => (s, none)
    | some (p, _) =>
        if th.hm then (s.leaveTo th.id.team tids (.resume false p.widx), none) else (s, some (fltWord 0x10 .resume))) s

/-- RESUME.skip (R431). -/
def execResumeSkip (s : State) : Out :=
  execLanes .resumeSkip none (fun s th tids =>
    match s.site with
    | none => (s, none)
    | some (p, _) =>
        if th.hm then (s.leaveTo th.id.team tids (.resume true p.widx), none)
        else (s, some (fltWord 0x10 .resumeSkip))) s

/-- A word of a block, fetched. -/
def State.wordAt (s : State) (tm : Team) (block : Addr) (i : Nat) : State × Except (BitVec 8 × Word) Word :=
  s.fetchWord tm.id.core tm.asid (block + BitVec.ofNat 64 (4 * i))

/-- The clause header that governs word `w` of a block, at most `fuel` headers from index `h` on: its index and word, none where there is
none; an error says that a word cannot be fetched yet. -/
def State.headerOf (s : State) (tm : Team) (block : Addr) (w : Nat) : Nat → Nat → State × Except Unit (Option (Nat × Word))
  | 0, _ => (s, .ok none)
  | fuel + 1, h =>
      if w < h then (s, .ok none)
      else
        match s.wordAt tm block h with
        | (s, .error (c, _)) => (s, if c = notYet then .error () else .ok none)
        | (s, .ok x) =>
            let next := h + 1 + (fld x 28 4).toNat
            if w < next then (s, .ok (some (h, x))) else s.headerOf tm block w fuel next

/-- Opcodes of the terminators (02_execution Table 2.5). -/
def isTermOp (op : BitVec 8) : Bool :=
  let n := op.toNat
  (0x63 ≤ n && n ≤ 0x65) || (0x70 ≤ n && n ≤ 0x78) || n == 0xA4

/-- The frame of a blotter entry as it stands now. -/
def Team.entryFrame (t : Team) (e : Nat) : Vector Word 32 :=
  Vector.ofFn fun i => BitVec.ofNat 32 (t.spad.getNat (t.entryAt e + 64 + 4 * i.val) 4)

/-- The check of a block that RESUME sends a thread to, as a fault of the RESUME word. -/
def State.checkResume (s : State) (tm : Team) (block : Addr) : State × Except Flt Word :=
  match s.checkBlock tm.id.core tm.asid block with
  | (s, .error (c, x)) => (s, .error { cause := c, addr := block, extra := x })
  | (s, .ok w) => (s, .ok w)

/-- The checks of R277 and R432 on entry `e`, and where they send the thread: the block, its word, and the resume point.
`own` is the word of the instruction that acts. A header or frame that is damaged raises 0x60 (R281). -/
def State.resumePoint (s : State) (tm : Team) (tid e : Nat) (skip : Bool) (own : Word) :
    State × Except Flt (Addr × Word × Option Resume) :=
  let illegal : Flt := { cause := 0x10, addr := 0, extra := own }
  let widx := tm.entryField e 168 10
  let block := BitVec.ofNat 64 (tm.entryField e 0 64)
  if s.spadDamaged tm.id (tm.entryAt e) 192 then (s, .error { cause := 0x60, addr := BitVec.ofNat 64 (tm.entryAt e), extra := 5 })
  else if !tm.entryV e ∨ tm.entryField e 178 11 ≠ tid then (s, .error illegal)
  else
    match s.checkResume tm block with
    | (s, .error f) => (s, .error f)
    | (s, .ok bw) =>
        if flag bw 27 then (s, .error illegal)
        else if !skip then (s, .ok (block, bw, some { widx := widx, frame := tm.entryFrame e }))
        else
          match s.headerOf tm block widx 1024 1 with
          | (s, .error _) => (s, .error { illegal with cause := notYet })
          | (s, .ok h) =>
              if widx = 0 ∨ (h.map fun x => x.1) = some widx then (s, .error illegal)
              else
                let (s, r) := s.wordAt tm block widx
                let op := match r with
                  | .ok w => fld w 24 8
                  | .error _ => 0xFF
                if (match r with
                    | .ok _ => false
                    | .error (c, _) => c == notYet) then (s, .error { illegal with cause := notYet })
                else if isTermOp op then
                  let next := block + 4 * (fld bw 0 10).setWidth 64
                  match s.checkResume tm next with
                  | (s, .error f) => (s, .error f)
                  | (s, .ok w) => (s, .ok (next, w, none))
                else
                  (s, .ok (block, bw, some { widx := widx + opcodeWords op, frame := tm.entryFrame e }))

/-- RESUME acts (R277): the entry is freed, handler mode ends, and the thread enrols; or it faults at its own word. It acts later where a
word that it checks cannot be fetched yet. -/
def State.resumeNow (s : State) (th : Thread) (skip : Bool) (widx : Nat) : State :=
  match s.team th.id.team with
  | none => s
  | some tm =>
      let own := if skip then Instr.resumeSkip.word0 else Instr.resume.word0
      let fail (s : State) (f : Flt) : State :=
        s.takeFault th.id
          { cause := f.cause, block := th.block, widx := widx, addr := f.addr, extra := f.extra, u := false }
      match th.handEntry with
      | none => fail s { cause := 0x10, addr := 0, extra := own }
      | some e =>
          match s.resumePoint tm th.id.tid e skip own with
          | (s, .error f) => if f.cause = notYet then s else fail s f
          | (s, .ok (block, w, r)) =>
              let s := s.onTeam tm.id fun t => t.freeEntry e
              let s := s.onThread th.id fun t => { t with hm := false, handEntry := none }
              s.enrolNext th.id block w r

/-! ## DRAIN_COMPLETE (R30) -/

/-- Whether a drained thread has nothing to record and nothing of its own to wait for. -/
def State.mayMove (s : State) (th : Thread) : Bool :=
  th.st == .draining && s.drained th.id && th.faultNow.isNone &&
    match th.after with
    | .resume _ _ => !s.storesPending th.id
    | .none => false
    | .enrol _ _ | .wait _ _ _ | .exit | .step _ _ => true

/-- What follows a drain. A wait whose condition holds already passes through WAITING (03_selector R44). The block of a thread stays the one
that it has run until it enrols (20_program_divergent Table 20.1). -/
def State.afterDrain (s : State) (th : Thread) : State :=
  match th.after with
  | .none => s
  | .enrol block w => s.enrolNext th.id block w none
  | .exit => s.exitThread th.id
  | .wait k _ _ =>
      (s.onThread th.id fun t => { t with st := .waiting }).tryWait th.id k
  | .resume skip widx => s.resumeNow th skip widx
  | .step block widx =>
      s.onThread th.id fun t =>
        { t with after := .none,
                 fault := some { cause := 0x52, block := block, widx := widx, addr := 0, extra := 0, u := false } }

/-- DRAIN_COMPLETE (R30). -/
def execDrainComplete (th : ThreadId) (s : State) : Out :=
  match s.thread th with
  | some t => if s.mayMove t then event (s.afterDrain t) else event s
  | none => event s

/-! ## FAULT_RECORD (19_faults R271 to R278) -/

/-- Whether a thread's fault gives way to another: to one of the same cycle and core with a lower slot (R271), or to a FAULT-PENDING
thread of the team for which an entry is free (R272). `age` counts the cycles since the fault. -/
def State.faultBehind (s : State) (th : Thread) : Bool :=
  (s.threads.any fun u => decide (u.id.team.core = th.id.team.core ∧ u.age = th.age ∧ s.slot u.id < s.slot th.id) &&
      u.st == .draining && u.hasFault) ||
    match s.team th.id.team with
    | some t => t.freeSlot.isSome && (s.threadsOf t.id).any fun u => u.st == .faultPending
    | none => false

/-- Whether a fault of a thread is due to be recorded: its loads have returned; a FAULT-PENDING thread waits for an entry,
and the oldest of a team goes first (R272). -/
def State.mayRecord (s : State) (th : Thread) : Bool :=
  th.faultNow.isSome && s.drained th.id &&
    match th.st with
    | .draining => !s.faultBehind th
    | .faultPending =>
        match s.team th.id.team with
        | some t => t.freeSlot.isSome && !(s.threadsOf t.id).any fun u =>
            u.st == .faultPending && decide (th.age < u.age ∨ (th.age = u.age ∧ s.slot u.id < s.slot th.id))
        | none => false
    | .enrolled | .issuing | .waiting | .parked | .exited => false

/-- The word of a team's handler block, read as the fetch reads it; one that cannot be read counts as an ordinary block, and none says that
it cannot be read yet. -/
def State.handlerWord (s : State) (t : TeamId) : State × Option Word :=
  match s.team t with
  | some tm =>
      match tm.handler with
      | some h =>
          match s.fetchWord t.core tm.asid h with
          | (s, .ok w) => (s, some w)
          | (s, .error (c, _)) => (s, if c = notYet then none else some 0)
      | none => (s, some 0)
  | none => (s, some 0)

/-- FAULT_RECORD: record, then re-test the group that the thread has left (03_selector R49). -/
def execFaultRecord (th : ThreadId) (s : State) : Out :=
  match s.thread th with
  | some t =>
      if s.mayRecord t then
        match s.handlerWord th.team with
        | (s, some w) => event (s.recordFault th w)
        | (s, none) => event s.kick
      else event s
  | none => event s

/-! ## BARRIER_ARRIVAL (22_ref R321, 25_ref R449) -/

/-- Whether a thread that waits at a barrier may arrive: its stores, and every other event that the arrival releases, have performed
(10_ordering R193). A SINIT has been applied when its word is done (R443). -/
def State.mayArrive (s : State) (th : Thread) : Bool :=
  !th.arrived && !s.eventsPending th.id && (th.waitsFor .cluster || th.waitsFor .team)

/-- BARRIER_ARRIVAL: the thread arrives; when every thread has, all are released. -/
def execBarrierArrival (th : ThreadId) (s : State) : Out :=
  match s.thread th with
  | some t =>
      if s.mayArrive t then
        let s := s.onThread th fun t => { t with arrived := true }
        if t.waitsFor .team then event (s.teamBarrier th.team)
        else
          match s.team th.team with
          | some tm => event (s.clusterBarrier tm.cluster)
          | none => event s
      else event s
  | none => event s

end Sys2Proof.Machine
end

