-- ==== Sys2Proof/Machine/Sync.lean ====
section
/-!
DEFINITION. Slates (13_copy R211 to R213, 25_ref R427, R436, R439, R443), guard slots (R214, 23_ref R368, R373), and fences
(10_ordering R197 to R199).
-/
namespace Sys2Proof.Machine

/-! ## The slate logic -/

/-- The 16-byte value of a slate with these fields (Table 13.5) and MAGIC; `res` are the reserved bits. -/
def slateOf (res : BitVec 14) (err ph : Bool) (arra expa arrb expb : Nat) : BitVec 128 :=
  (0xC1A9 : BitVec 16) ++ res ++ BitVec.ofBool err ++ BitVec.ofBool ph ++ BitVec.ofNat 16 arra
    ++ BitVec.ofNat 16 expa ++ BitVec.ofNat 32 arrb ++ BitVec.ofNat 32 expb

/-- Write a slate of a team as one unit. -/
def State.putSlate (s : State) (t : TeamId) (off : Nat) (v : BitVec 128) : State :=
  s.spadWrite t off (bytesOfNat 16 v.toNat)

/-- Release the threads of a team that wait on a slate whose phase now differs from their value (R213), in thread-slot
order. -/
def State.releaseSlate (s : State) (t : TeamId) (off : Nat) : State :=
  (s.threadsOf t).foldl (fun s u =>
    match u.after with
    | .wait (.slate o v) _ _ =>
        if u.st == .waiting && decide (o = off) && s.waitDone t (.slate o v) then s.release u.id else s
    | .none | .enrol _ _ | .wait _ _ _ | .exit | .resume _ _ | .step _ _ => s) s

/-- A counter as its field holds it: a free value where the exact count leaves the field (log 3). -/
def fieldOf (w x fresh : Nat) : Nat := if x < 2 ^ w then x else (Config.freeValue fresh).toNat % 2 ^ w

/-- A slate after one credit (R212), and whether its phase has flipped. The counts are exact (00_scope R5): what is compared is the sum, and
what a flip leaves may fit its field again. What a credit, or SEXP, leaves in the reserved bits [111:98] the spec does not say (00_scope R4: the
device reads them as zero); the model writes them back as found (DESIGN CHOICE, log 124). -/
def creditSlate (v bytes arrivals : Nat) (err : Bool) (fresh : Nat) : BitVec 128 × Bool :=
  let expb := bitsOf v 0 32
  let expa := bitsOf v 64 16
  let arrb := bitsOf v 32 32 + bytes
  let arra := bitsOf v 80 16 + arrivals
  let err := err || bitsOf v 97 1 == 1
  let ph := bitsOf v 96 1 == 1
  let res := BitVec.ofNat 14 (bitsOf v 98 14)
  let out (ph : Bool) (arra arrb : Nat) : BitVec 128 :=
    slateOf res err ph (fieldOf 16 arra (fresh + 1)) expa (fieldOf 32 arrb fresh) expb
  if expb ≤ arrb ∧ expa ≤ arra then (out (!ph) (arra - expa) (arrb - expb), true) else (out ph arra arrb, false)

/-- Apply one credit to a team's slate (R212). A slate without MAGIC loses it: 0x20 is recorded as a team event, and the
command's NOSL bit is set. -/
def State.applyCredit (s : State) (t : TeamId) (off : Nat) (c : Credit) : State :=
  let v := s.slateVal t off
  if !slateMagic v then
    let s := s.teamReport t 0x20 0 true (BitVec.ofNat 32 off)
    match c.cmd with
    | some k => s.onCmd k fun x => { x with nosl := x.nosl ||| (1#12 <<< c.dest) }
    | none => s
  else
    let r := creditSlate v c.bytes c.arrivals c.err s.freed
    let s := ({ s with freed := s.freed + 2 } : State).putSlate t off r.1
    if r.2 then s.releaseSlate t off else s

/-- Whether the accesses that a credit waits for have performed. -/
def State.creditReady (s : State) (c : Credit) : Bool :=
  c.after.all fun i => match s.acc i with
    | some a => !a.pending
    | none => true

/-! ## SINIT, SARV, SEXP -/

/-- SINIT (R443): applied as one update in the step in which the word executes. It releases waiters where it changes PH from 1 (R213). -/
def execSinit (u : Bool) (a b c : Opnd) (s : State) : Out :=
  execLanes (.sinit u a b c) none (fun s th _ =>
    match s.site with
    | none => (s, none)
    | some (_, tm) =>
        let off := (th.reg a).toNat
        let bytes := (th.reg b).toNat
        let arrivals := (th.reg c).toNat
        if (bytes = 0 ∧ arrivals = 0) ∨ 0xFFFF < arrivals then (s, some (fltWord 0x11 (.sinit u a b c)))
        else
          match tm.slateCheck off ((th.reg a).setWidth 64) with
          | some f => (s, some f)
          | none =>
              let t := s.putSlate tm.id off (slateOf 0 false false 0 arrivals 0 bytes)
              (if slatePh (s.slateVal tm.id off) then t.releaseSlate tm.id off else t, none)) s

/-- The accesses of some threads of a team that have not performed. -/
def State.pendingOf (s : State) (t : TeamId) (tids : List Nat) : List Nat :=
  (s.accs.filter fun a => decide (a.th.team = t) && a.pending && a.lanes.any fun l => tids.contains l).map fun a => a.id

/-- The owner and offset of a slate operand (R427): own scratchpad, or a peer's by its position. -/
def State.slateOwner (s : State) (tm : Team) (ps : Bool) (v : Word) : Except Flt (TeamId × Nat) :=
  let addr : Addr := v.setWidth 64
  let off := if ps then v.toNat % 2 ^ 28 else v.toNat
  if off % 16 ≠ 0 then .error (fltAt 0x01 addr)
  else
    match (if ps then s.teamAt tm.cluster (v.toNat / 2 ^ 28) else some tm) with
    | none => .error (fltAt 0x05 addr)
    | some o =>
        match o.slateCheck off addr with
        | some f => .error f
        | none => .ok (o.id, off)

/-- SARV (R436): one arrival, once the thread's earlier accesses have performed, which it releases (10_ordering R193). -/
def execSarv (u : Bool) (a : Opnd) (ps : Bool) (s : State) : Out :=
  execLanes (.sarv u a ps) none (fun s th tids =>
    match s.site with
    | none => (s, none)
    | some (_, tm) =>
        match s.slateOwner tm ps (th.reg a) with
        | .error f => (s, some f)
        | .ok (t, off) => (s.sendCredit t off 0 1 false (s.pendingOf tm.id tids), none)) s

/-- SEXP (R439): the addition is applied in the step in which the word executes. It reads its slate, which may be damaged (R281). -/
def execSexp (u : Bool) (bytes slate : Opnd) (s : State) : Out :=
  execLanes (.sexp u bytes slate) none (fun s th _ =>
    match s.site with
    | none => (s, none)
    | some (_, tm) =>
        let w := th.reg slate
        match tm.slateCheck w.toNat (w.setWidth 64) with
        | some f => (s, some f)
        | none =>
            let v := s.slateVal tm.id w.toNat
            let sum := bitsOf v 0 32 + (th.reg bytes).toNat
            if s.spadDamaged tm.id w.toNat 16 then (s, some { cause := 0x60, addr := w.setWidth 64, extra := 5 })
            else if !slateMagic v then (s, some (fltAt 0x20 (w.setWidth 64)))
            else if 0xFFFFFFFF < sum then (s, some (fltWord 0x11 (.sexp u bytes slate)))
            else (s.putSlate tm.id w.toNat (BitVec.ofNat 128 (v / 2 ^ 32 * 2 ^ 32 + sum)), none)) s

/-! ## Guard slots -/

/-- A thread sets a guard slot of its team; `rel` are the accesses that the setting releases (R374). -/
def State.setGuard (s : State) (i : ThreadId) (slot : BitVec 4) (g : Guard) (rel : List Nat) : State :=
  s.onTeam i.team fun x =>
    { x with guards := x.guards.set slot.toFin g, guardRel := x.guardRel.set slot.toFin rel,
             guardBy := x.guardBy.set slot.toFin
               (s.focus.map fun f => (max (s.slot i) ((x.guardBy[slot.toFin].map fun y => y.1).getD 0), f)) }

/-- Whether an issue group must leave its update of a guard slot to the next cycle: the updates of one cycle count in ascending thread-slot
order, and another group's higher slot has updated it in this one (R369; log 132). -/
def State.guardLate (s : State) (p : Pipe) (tm : Team) (slot : BitVec 4) : Bool :=
  match tm.guardBy[slot.toFin] with
  | some (k, f) => f != p.id && p.lanes.any fun l => decide (s.slot (tidOf p l) < k)
  | none => false

/-- Note that an issue group has come to a guard slot in this cycle, by its highest thread slot. -/
def State.noteGuard (s : State) (p : Pipe) (tm : Team) (slot : BitVec 4) : State :=
  s.onTeam tm.id fun x =>
    let old := (x.guardBy[slot.toFin].map fun y => y.1).getD 0
    let top := p.lanes.foldl (fun k l => max k (s.slot (tidOf p l))) old
    { x with guardBy := x.guardBy.set slot.toFin (some (top, p.id)) }

/-- A word that updates a guard slot: in this cycle, or held until the next. One that will find the slot IDLE has come to it too: a lower
slot's GARM of the same cycle would come first. -/
def execGuard (i : Instr) (slot : BitVec 4) (body : Body) (s : State) : Out :=
  match s.site with
  | none => .fault .noIssueGroup
  | some (p, tm) =>
      if s.guardLate p tm slot then
        .next { (s.addHold (.cycle p.id.core (s.core p.id.core).lcyc)).keepWord p.id i with focus := none }
      else execLanes i none body (if tm.guards[slot.toFin] = .idle then s.noteGuard p tm slot else s)

/-- GARM (23_ref R368). -/
def execGarm (u : Bool) (slot : BitVec 4) (s : State) : Out :=
  execGuard (.garm u slot) slot (fun s th _ => (s.setGuard th.id slot .unresolved [], none)) s

/-- GSET (23_ref R373): TRUE releases the thread's earlier accesses to the commands that it lets run. -/
def execGset (u : Bool) (a : Opnd) (slot : BitVec 4) (s : State) : Out :=
  execGuard (.gset u a slot) slot (fun s th tids =>
    match s.team th.id.team with
    | none => (s, none)
    | some tm =>
        if tm.guards[slot.toFin] = .idle then (s, some { cause := 0x22, addr := 0, extra := slot.setWidth 32 })
        else if th.reg a = 0 then (s.setGuard th.id slot .isFalse [], none)
        else (s.setGuard th.id slot .isTrue (s.pendingOf tm.id tids), none)) s

/-! ## FENCE (10_ordering R197 to R199, 23_ref R356) -/

/-- The accesses of some threads that a fence waits for: reads for an acquire fence, every access for the others; at thread scope a fence
orders nothing beyond po (R197; log 26). -/
def State.fenced (s : State) (t : TeamId) (tids : List Nat) (scope : Scope) (kind : FenceKind) : List Nat :=
  (s.accs.filter fun a => decide (a.th.team = t) && a.pending && a.lanes.any (fun l => tids.contains l) &&
    scope != .thread && (a.op.reads || kind != .acq)).map fun a => a.id

/-- FENCE: the issue group goes on once those accesses have performed. -/
def execFence (u : Bool) (scope : Scope) (kind : FenceKind) (s : State) : Out :=
  execLanes (.fence u scope kind) none (fun s th tids =>
    ((s.fenced th.id.team tids scope kind).foldl (fun s i => s.addHold (.perf i)) s, none)) s

end Sys2Proof.Machine
end

