-- ==== Sys2Proof/Machine/Engine.lean ====
section
/-!
DEFINITION. The copy engine (13_copy R205 to R218, 22_ref R324 to R328, 25_ref R451, R452): checks at issue, the queue, the
units of a command, what a running command reads and writes, failure and the completion record. The start of a command
(COMMAND_START) stands in Start.lean.
-/
namespace Sys2Proof.Machine

/-! ## Accumulator memory (07_memory R122, 14_matrix 14.4) -/

/-- The physical byte address of a team's accumulator byte, if its granule number is held. -/
def Team.accPhys (t : Team) (a : Nat) : Option Nat :=
  (t.gran.find? fun g => g.1 = a / 1024).map fun g => g.2 * 1024 + a % 1024

/-- Whether a byte range of accumulator space lies in held granules. -/
def Team.accOk (t : Team) (a n : Nat) : Bool :=
  n == 0 || (List.range ((a + n - 1) / 1024 + 1 - a / 1024)).all fun k => (t.accPhys (1024 * (a / 1024 + k))).isSome

/-- Bytes of accumulator memory; a 16-byte unit never crosses a granule. -/
def State.accRead (s : State) (t : Team) (a n : Nat) : List Byte :=
  (s.core t.id.core).acc.getN ((t.accPhys a).getD 0) n

/-- Write bytes of accumulator memory; a write of a whole damaged unit repairs it (19_faults R281). -/
def State.accWrite (s : State) (t : Team) (a : Nat) (bs : List Byte) : State :=
  match t.accPhys a with
  | none => s
  | some p =>
      let s := s.onCore t.id.core fun c => { c with acc := c.acc.setN p bs }
      { s with damage := s.damage.filter fun d =>
          match d with
          | .acc c u => !decide (c = t.id.core ∧ p ≤ 16 * u ∧ 16 * u + 16 ≤ p + bs.length)
          | _ => true }

/-- Whether an accumulator unit is damaged. -/
def State.accDamaged (s : State) (t : Team) (a : Nat) : Bool :=
  match t.accPhys a with
  | some p => s.damaged (.acc t.id.core (p / 16))
  | none => false

/-! ## Parcel references (16_parcels R238) -/

/-- The handle index of a reference: TAG is 0b1010 and HIDX is below the handle count. -/
def Die.refIndex (d : Die) (r : Addr) : Option Nat :=
  match d.pool with
  | some c =>
      let h := bitsOf r.toNat 52 12
      if r.extractLsb' 48 4 = 0xA ∧ h < c.handles then some h else none
  | none => none

/-- The handle of a current reference. -/
def Die.current (d : Die) (asid : BitVec 16) (r : Addr) : Option Handle :=
  match d.refIndex r with
  | some i =>
      let h := d.handle i
      if h.gen = r.extractLsb' 32 16 ∧ h.asid = asid then some h else none
  | none => none

/-- The flat base address of a handle (R237). -/
def Die.flatBase (d : Die) (h : Handle) : Nat :=
  match d.pool with
  | some c => c.arena.toNat + 4096 * h.efirst
  | none => 0

/-- The checks of an engine's range in space 101: reference, extent, state (R241, R246). -/
def Die.engineParcel (d : Die) (asid : BitVec 16) (r : Addr) (n : Nat) (write : Bool) : Except (BitVec 8) Handle :=
  match d.current asid r with
  | none => .error 0x33
  | some h =>
      if h.size < bitsOf r.toNat 0 32 + n then .error 0x31
      else
        match parcelCheck h.st write with
        | some c => .error c
        | none => .ok h

/-! ## Tiles (R209, R210) -/

/-- Nibbles of one element. -/
def Fmt.nibbles : Fmt → Nat
  | .f64 | .i64 | .n64 => 16
  | .f32 | .i32 | .n32 => 8
  | .bf16 | .h16 | .i16 | .n16 => 4
  | .e4m3 | .e5m2 | .q8 => 2
  | .q4 => 1

/-- A field of a tile descriptor (Table 13.4). -/
def tileField (d : BitVec 512) (lo len : Nat) : Nat := bitsOf d.toNat lo len
/-- BASE. -/
def tileBase (d : BitVec 512) : Nat := tileField d 0 64
/-- DIM0. -/
def tileDim0 (d : BitVec 512) : Nat := tileField d 64 32
/-- DIM1. -/
def tileDim1 (d : BitVec 512) : Nat := tileField d 96 32
/-- STRIDE1. -/
def tileStride (d : BitVec 512) : Nat := tileField d 128 64
/-- BOX0. -/
def tileBox0 (d : BitVec 512) : Nat := tileField d 192 16
/-- BOX1. -/
def tileBox1 (d : BitVec 512) : Nat := tileField d 208 16
/-- FMT. -/
def tileFmt (d : BitVec 512) : Option Fmt := Sys2Proof.Fmt.ofCode (d.extractLsb' 224 4)
/-- TID. -/
def tileTid (d : BitVec 512) : BitVec 8 := d.extractLsb' 232 8
/-- Nibbles of one element of the tile. -/
def tileNib (d : BitVec 512) : Nat :=
  match tileFmt d with
  | some f => Sys2Proof.Machine.Fmt.nibbles f
  | none => 0

/-- The checks of TDLD on a descriptor (R209). -/
def tileOk (d : BitVec 512) : Bool :=
  match tileFmt d with
  | none => false
  | some f =>
      tileBox0 d != 0 && tileBox1 d != 0 && !(f == .q4 && tileBox0 d % 2 == 1) &&
        canonical (d.extractLsb' 0 64) && tileBase d % 16 == 0 && tileStride d % 16 == 0

/-- Nibbles of one tile row. -/
def tileRow (d : BitVec 512) : Nat := tileBox0 d * tileNib d
/-- Bytes of the whole tile. -/
def tileBytes (d : BitVec 512) : Nat := tileBox1 d * tileRow d / 2

/-- Whether element (r, j) of a tile at origin (c0, c1) lies inside the tensor. -/
def tileInside (d : BitVec 512) (c0 c1 : Int) (r j : Nat) : Bool :=
  decide (0 ≤ c0 + j ∧ c0 + j < tileDim0 d ∧ 0 ≤ c1 + r ∧ c1 + r < tileDim1 d)

/-- Twice the address of element (r, 0) less c0 elements: where row r of the tensor starts, in nibbles. -/
def tileRowAt (d : BitVec 512) (c1 : Int) (r : Nat) : Nat :=
  2 * (((tileBase d : Int) + (c1 + r) * tileStride d) % (2 ^ 64 : Nat)).toNat

/-- The nibble address of a nibble of the packed tile; none for an outside element. -/
def tileSrc (d : BitVec 512) (c0 c1 : Int) (q : Nat) : Option Nat :=
  let r : Nat := q / tileRow d
  let j : Nat := q % tileRow d / tileNib d
  if tileInside d c0 c1 r j then
    some ((tileRowAt d c1 r + (c0 + j).toNat * tileNib d + q % tileNib d) % 2 ^ 65)
  else none

/-- The nibble of the packed tile that lands at a nibble address: of the last row that has one there. -/
def tileHit (d : BitVec 512) (c0 c1 : Int) (n : Nat) : Option Nat :=
  (List.range (tileBox1 d)).reverse.findSome? fun (r : Nat) =>
    let off := (n + 2 ^ 65 - tileRowAt d c1 r) % 2 ^ 65
    let j : Int := (off / tileNib d : Nat) - c0
    if 0 ≤ j ∧ j < tileBox0 d ∧ tileInside d c0 c1 r j.toNat then
      some (r * tileRow d + j.toNat * tileNib d + off % tileNib d)
    else none

/-- The lines that hold inside elements of a tile, in row order. -/
def tileLines (d : BitVec 512) (c0 c1 : Int) : List Nat :=
  ((List.range (tileBox1 d)).flatMap fun (r : Nat) =>
    let lo := (max 0 c0).toNat
    let hi := (min (tileDim0 d : Int) (c0 + tileBox0 d)).toNat
    if 0 ≤ c1 + r ∧ c1 + r < tileDim1 d ∧ lo < hi then
      let a := tileRowAt d c1 r
      let first := (a + lo * tileNib d) / 256
      (List.range ((a + hi * tileNib d - 1) / 256 + 1 - first)).map fun k => first + k
    else []).eraseDups

/-! ## The units of a command (R181, R210, R324 to R328) -/

/-- Whether a command is a copy command. -/
def CmdOp.isCopy : CmdOp → Bool
  | .cpy _ _ _ _ _ | .cpym _ _ _ _ _ | .cpyt _ _ _ _ _ _ | .cred _ _ _ _ _ _ => true
  | .post _ _ _ | .precv _ | .incoming _ _ | .jpost _ _ | .mfeed _ _ _ _ _ | .mloop _ _ _ _ _ _ _ _ | .mdrain _ _ _ _ | .mzero _ _
  | .afree _ _ | .orel _ => false

/-- Whether a command belongs to the matrix unit. -/
def CmdOp.isMatrix : CmdOp → Bool
  | .mfeed _ _ _ _ _ | .mloop _ _ _ _ _ _ _ _ | .mdrain _ _ _ _ | .mzero _ _ | .afree _ _ | .orel _ => true
  | .cpy _ _ _ _ _ | .cpym _ _ _ _ _ | .cpyt _ _ _ _ _ _ | .cred _ _ _ _ _ _ | .post _ _ _ | .precv _ | .incoming _ _
  | .jpost _ _ => false

/-- Bytes of a format in memory, Q4 apart. -/
def fmtBytes (f : Fmt) : Nat := Sys2Proof.Machine.Fmt.nibbles f / 2

/-- The rows or columns that a code names. -/
def Rows.num : Rows → Nat
  | .r16 => 16
  | .r32 => 32
  | .r64 => 64

/-- The bytes that a command delivers to each destination. -/
def CmdOp.bytes : CmdOp → Nat
  | .cpy _ _ _ _ len | .cpym _ _ _ _ len | .cred _ _ _ _ _ len => len
  | .cpyt _ _ _ _ _ desc => tileBytes desc
  | .mfeed _ _ _ _ len => len
  | .mdrain _ _ _ r => Sys2Proof.Machine.Rows.num r.m * (Sys2Proof.Machine.Rows.num r.n * fmtBytes r.ofmt)
  | .jpost _ _ => 64
  | .post _ _ _ | .precv _ | .incoming _ _ | .mloop _ _ _ _ _ _ _ _ | .mzero _ _ | .afree _ _ | .orel _ => 0

/-- What stands at one nibble of a destination line: not written, or written with zero or a source nibble. -/
abbrev Cell := Option (Option Nat)

/-- The cells of line `g` of a linear destination. -/
def linCells (d len g : Nat) (src : Nat → Option Nat) : List Cell :=
  (List.range 256).map fun n =>
    let b := 128 * (d / 128 + g) + n / 2
    if d ≤ b ∧ b < d + len then some (src (2 * (b - d) + n % 2)) else none

/-- The source nibble of a CPY: where source and destination overlap, a source unit that lies in the same line group is the
unit that ascending copying would have put there (R325). -/
def copySrc (same : Bool) (d a g q : Nat) : Nat :=
  let g0 := (128 * (d / 128 + g) - d) / 16
  let i := q / 32
  let dist := (d - a) / 16
  let j := if same && decide (a < d ∧ g0 + dist ≤ i) then g0 + (i - g0) % dist else i
  2 * a + 32 * j + q % 32

/-- Lines of a linear range. -/
def lineCount (d len : Nat) : Nat := if len = 0 then 0 else (d + len - 1) / 128 + 1 - d / 128

/-- Bytes of one output row of MDRAIN. -/
def Drain.rowBytes (r : Drain) : Nat := Sys2Proof.Machine.Rows.num r.n * fmtBytes r.ofmt

/-- The lines of MDRAIN's output rows, in row order (14_matrix R230). -/
def Drain.lines (r : Drain) (d : Nat) : List Nat :=
  ((List.range (Sys2Proof.Machine.Rows.num r.m)).flatMap fun m =>
    let a := d + m * r.dstride.toNat
    (List.range (lineCount a r.rowBytes)).map fun k => a / 128 + k).eraseDups

/-- The nibble of MDRAIN's packed output that lands at a nibble address: of the last row that has one there. -/
def Drain.hit (r : Drain) (d n : Nat) : Option Nat :=
  (List.range (Sys2Proof.Machine.Rows.num r.m)).reverse.findSome? fun m =>
    let a := 2 * (d + m * r.dstride.toNat)
    if a ≤ n ∧ n < a + 2 * r.rowBytes then some (2 * m * r.rowBytes + (n - a)) else none

/-- The number of destination lines of a copy command or an MDRAIN. -/
def CmdOp.groups : CmdOp → Nat
  | .cpy _ _ d _ len | .cred _ _ _ d _ len => lineCount d.toNat len
  | .cpym d _ _ _ len => lineCount d len
  | .cpyt st _ d c0 c1 desc =>
      if st then (tileLines desc c0.toInt c1.toInt).length else lineCount d.toNat (tileBytes desc)
  | .mdrain _ d _ r => (r.lines d.toNat).length
  | .mfeed _ _ _ _ len => len / 128
  | .post _ _ _ | .precv _ | .incoming _ _ | .jpost _ _ | .mloop _ _ _ _ _ _ _ _ | .mzero _ _ | .afree _ _ | .orel _ => 0

/-- The destination address of line `g`. -/
def CmdOp.groupAt (op : CmdOp) (g : Nat) : Nat :=
  match op with
  | .cpy _ _ d _ _ | .cred _ _ _ d _ _ => 128 * (d.toNat / 128 + g)
  | .cpym d _ _ _ _ => 128 * (d / 128 + g)
  | .cpyt st _ d c0 c1 desc =>
      if st then 128 * (tileLines desc c0.toInt c1.toInt).getD g 0 else 128 * (d.toNat / 128 + g)
  | .mdrain _ d _ r => 128 * (r.lines d.toNat).getD g 0
  | .post _ _ _ | .precv _ | .incoming _ _ | .jpost _ _ | .mfeed _ _ _ _ _ | .mloop _ _ _ _ _ _ _ _ | .mzero _ _ | .afree _ _ | .orel _ =>
      0

/-- The cells of line `g`; those of MDRAIN name nibbles of its packed output, and MFEED's lines are those of its stream. -/
def CmdOp.cells (op : CmdOp) (g : Nat) : List Cell :=
  match op with
  | .cpy dsp ssp d a len => linCells d.toNat len g fun q => some (copySrc (dsp == ssp) d.toNat a.toNat g q)
  | .cred _ _ _ d a len => linCells d.toNat len g fun q => some (2 * a.toNat + q)
  | .cpym d _ a _ len => linCells d len g fun q => some (2 * a.toNat + q)
  | .cpyt st _ d c0 c1 desc =>
      if st then
        (List.range 256).map fun n =>
          (tileHit desc c0.toInt c1.toInt (2 * op.groupAt g + n)).map fun q => some (2 * d.toNat + q)
      else linCells d.toNat (tileBytes desc) g fun q => tileSrc desc c0.toInt c1.toInt q
  | .mdrain _ d _ r => (List.range 256).map fun n => (r.hit d.toNat (2 * op.groupAt g + n)).map fun q => some q
  | .mfeed _ ssp a desc len =>
      linCells 0 len g fun q =>
        if ssp = .global then tileSrc desc (a.setWidth 32).toInt (a.extractLsb' 32 32).toInt q else some (2 * a.toNat + q)
  | .post _ _ _ | .precv _ | .incoming _ _ | .jpost _ _ | .mloop _ _ _ _ _ _ _ _ | .mzero _ _ | .afree _ _ | .orel _ => []

/-- The 16-byte source units that cells need, by address divided by 16. -/
def cellUnits (cs : List Cell) : List Nat :=
  (cs.filterMap fun c => match c with
    | some (some n) => some (n / 32)
    | some none | none => none).eraseDups

/-- One nibble of a list of bytes. -/
def nibAt (bs : List Byte) (k : Nat) : Nat := bitsOf (bs.getD (k / 2) 0).toNat (4 * (k % 2)) 4

/-- The nibble that a cell writes; `look` finds a source nibble. -/
def cellVal (look : Nat → Nat) (c : Cell) : Option Nat :=
  match c with
  | some (some n) => some (look n)
  | some none => some 0
  | none => none

/-- A source nibble among source units that were read. -/
def unitNib (us : List Nat) (buf : List Byte) (n : Nat) : Nat := nibAt buf (32 * us.idxOf (n / 32) + n % 32)

/-- One destination unit of 16 bytes. -/
structure Piece where
  off : Nat
  low : List (Option Nat)
deriving DecidableEq, Repr

/-- The written units of a line: offset in the line and 32 nibbles. -/
def makePieces (cs : List Cell) (look : Nat → Nat) : List Piece :=
  ((List.range 8).map fun u =>
    ({ off := 16 * u, low := (List.range 32).map fun k => cellVal look (cs.getD (32 * u + k) none) } : Piece)).filter
    fun p => p.low.any fun x => x.isSome

/-- The bytes of a unit after a copy: what is not written stays. -/
def Piece.over (p : Piece) (old : List Byte) : List Byte :=
  (List.range 16).map fun b =>
    let nib (k : Nat) : Nat := (p.low.getD k none).getD (nibAt old k)
    BitVec.ofNat 8 (nib (2 * b) + 16 * nib (2 * b + 1))

/-- The elements of CRED: patterns added one by one (R217). -/
def credBytes (ty : CredType) : Nat → List Byte → List Byte → List Byte × Word
  | 0, _, _ => ([], 0)
  | n + 1, old, src =>
      let w := match ty with
        | .bf16 => 2
        | .f32 | .i32 => 4
      let x := natOfBytes (old.take w)
      let y := natOfBytes (src.take w)
      let r : Nat × Word := match ty with
        | .f32 => fp32.add .rn (fp32.read x) (fp32.read y)
        | .bf16 => bf16.add .rn (bf16.read x) (bf16.read y)
        | .i32 => ((x + y) % 2 ^ 32, 0)
      let rest := credBytes ty n (old.drop w) (src.drop w)
      (bytesOfNat w r.1 ++ rest.1, r.2 ||| rest.2)

/-- What a command writes to a unit, and its flags. -/
def CmdOp.unit (op : CmdOp) (p : Piece) (old : List Byte) : List Byte × Word :=
  match op with
  | .cred ty _ _ _ _ _ =>
      credBytes ty (match ty with
        | .bf16 => 8
        | .f32 | .i32 => 4) old (p.over old)
  | .cpy _ _ _ _ _ | .cpym _ _ _ _ _ | .cpyt _ _ _ _ _ _ | .post _ _ _ | .precv _ | .incoming _ _ | .jpost _ _ | .mfeed _ _ _ _ _
  | .mloop _ _ _ _ _ _ _ _ | .mdrain _ _ _ _ | .mzero _ _ | .afree _ _ | .orel _ => (p.over old, 0)

/-- Source space, and whether the source is a tile. -/
def CmdOp.source : CmdOp → Space × Bool
  | .cpy _ ssp _ _ _ | .cpym _ ssp _ _ _ | .cred _ _ ssp _ _ _ => (ssp, false)
  | .cpyt st dsp _ _ _ _ => if st then (dsp, false) else (.global, true)
  | .mfeed _ ssp _ _ _ => (ssp, ssp == .global)
  | .post _ _ _ | .precv _ | .incoming _ _ | .jpost _ _ | .mloop _ _ _ _ _ _ _ _ | .mdrain _ _ _ _ | .mzero _ _ | .afree _ _ | .orel _ =>
      (.global, false)

/-- Destination space, and whether the destination is a tile. -/
def CmdOp.target : CmdOp → Space × Bool
  | .cpy dsp _ _ _ _ | .cred _ dsp _ _ _ _ => (dsp, false)
  | .cpym _ _ _ _ _ => (.own, false)
  | .cpyt st dsp _ _ _ _ => if st then (.global, true) else (dsp, false)
  | .mdrain dsp _ _ _ => (dsp, false)
  | .mfeed _ _ _ _ _ | .post _ _ _ | .precv _ | .incoming _ _ | .jpost _ _ | .mloop _ _ _ _ _ _ _ _ | .mzero _ _ | .afree _ _ | .orel _ =>
      (.own, false)

/-- The descriptor of a tile command. -/
def CmdOp.desc : CmdOp → BitVec 512
  | .cpyt _ _ _ _ _ desc | .mfeed _ _ _ desc _ => desc
  | .cpy _ _ _ _ _ | .cpym _ _ _ _ _ | .cred _ _ _ _ _ _ | .post _ _ _ | .precv _ | .incoming _ _ | .jpost _ _
  | .mloop _ _ _ _ _ _ _ _ | .mdrain _ _ _ _ | .mzero _ _ | .afree _ _ | .orel _ => 0

/-! ## Destinations, credits and failure (R206, R212, R215) -/

/-- The destinations of a command: cluster positions for CPYM, 0 otherwise. -/
def Cmd.dests (c : Cmd) : List Nat :=
  match c.op with
  | .cpym _ _ _ mask _ => (List.range 12).filter fun q => mask.getLsbD q
  | .cpy _ _ _ _ _ | .cpyt _ _ _ _ _ _ | .cred _ _ _ _ _ _ | .post _ _ _ | .precv _ | .incoming _ _ | .jpost _ _ | .mfeed _ _ _ _ _
  | .mloop _ _ _ _ _ _ _ _ | .mdrain _ _ _ _ | .mzero _ _ | .afree _ _ | .orel _ => [0]

/-- The team of a command's issuer. -/
def State.cmdTeam (s : State) (c : Cmd) : Option Team := s.team c.team

/-- The slate of a destination: at the member for CPYM. -/
def State.slateAt (s : State) (c : Cmd) (q : Nat) : Option SlateAt :=
  match c.op with
  | .cpym _ _ _ _ _ =>
      match s.cmdTeam c with
      | some tm => (s.teamAt tm.cluster q).map fun o => .team o.id c.soff
      | none => none
  | .cpy _ _ _ _ _ | .cpyt _ _ _ _ _ _ | .cred _ _ _ _ _ _ | .post _ _ _ | .precv _ | .incoming _ _ | .jpost _ _ | .mfeed _ _ _ _ _
  | .mloop _ _ _ _ _ _ _ _ | .mdrain _ _ _ _ | .mzero _ _ | .afree _ _ | .orel _ => some c.slate

/-- Send a credit of a command to a destination's slate. Nothing is sent for nothing delivered, but for ERR. -/
def State.cmdCredit (s : State) (c : Cmd) (q bytes arrivals : Nat) (err : Bool) : State :=
  if bytes = 0 ∧ arrivals = 0 ∧ !err then s
  else
    match s.slateAt c q with
    | some a =>
        { s.bump with credits := s.credits ++
          [{ id := s.fresh, at' := a, bytes := bytes, arrivals := arrivals, err := err, cmd := some c.id, dest := q,
             after := [] }] }
    | none => s

/-- A destination has failed: its FAIL bit, CAUSE if it is the first failure, and what it has not been credited with ERR;
`slate` false sends no credit (R215). -/
def State.failDest (s : State) (id q : Nat) (cause : BitVec 8) (slate : Bool) : State :=
  match s.cmd id with
  | none => s
  | some c =>
      let s := if slate then s.cmdCredit c q (c.op.bytes - c.credited) 0 true else s
      s.onCmd id fun x => { x with fail := x.fail ||| (1#12 <<< q), cause := if x.fail = 0 then cause else x.cause }

/-- Give up the lines and accesses of a command. -/
def State.releaseLines (s : State) (id : Nat) : State :=
  { s with
    accs := s.accs.filter fun a => match a.op with
      | .engRead k _ | .engOwn k => k != id
      | .load _ | .loadRef _ _ | .store _ | .stf _ _ _ | .atom _ _ _ _ | .cas _ _ _ | .prefetch _ | .cmnt _ _ | .tdesc _ => true,
    lines := s.lines.map fun x => if x.busy = some id then { x with busy := none } else x }

/-- The destinations that have not failed. -/
def Cmd.alive (c : Cmd) : List Nat := c.dests.filter fun q => !c.fail.getLsbD q

/-- A failure that stops a command: units already written stand, and every destination is marked failed. -/
def State.stopCmd (s : State) (id : Nat) (cause : BitVec 8) : State :=
  match s.cmd id with
  | none => s
  | some c =>
      let s := c.alive.foldl (fun s q => s.failDest id q cause true) s
      (s.releaseLines id).onCmd id fun x => { x with phase := .finished }

/-- A command has done its last unit: what it has not credited yet is credited, and it waits for its record. -/
def State.finishCmd (s : State) (id : Nat) : State :=
  match s.cmd id with
  | none => s
  | some c =>
      let s := c.alive.foldl (fun s q => s.cmdCredit c q (c.op.bytes - c.credited) 0 false) s
      (s.releaseLines id).onCmd id fun x => { x with phase := .finished, credited := c.op.bytes }

/-- A false guard discards a command: full credits without ERR, DISC (R214). -/
def State.discardCmd (s : State) (id : Nat) : State := (s.onCmd id fun x => { x with disc := true }).finishCmd id

/-! ## Checks at issue (R207) -/

/-- The first fault of a list of checks. -/
def firstFlt (cs : List (Bool × Flt)) : Option Flt := (cs.find? fun c => c.1).map fun c => c.2

/-- The address in an operand of a format E command. -/
def engAddr (th : Thread) (sp : Space) (o : Opnd) : Addr :=
  match sp.regs with
  | 2 => th.reg64 o
  | _ => (th.reg o).setWidth 64

/-- The slate owner of a destination space (Table 13.3). -/
def State.ownerOf (s : State) (tm : Team) (dsp : Space) (d : Addr) : Option Team :=
  if dsp = .peer then s.teamAt tm.cluster (bitsOf d.toNat 28 4) else some tm

/-- The checks of a slate offset in its owner. -/
def slateChecks (o : Option Team) (sl : Word) : List (Bool × Flt) :=
  [(sl.toNat % 16 != 0, fltAt 0x01 (sl.setWidth 64)),
   (match o with
    | some t => !t.progOk sl.toNat 16
    | none => true, fltAt 0x05 (sl.setWidth 64))]

/-- The checks of a status offset. -/
def statusChecks (tm : Team) (st : Option Word) : List (Bool × Flt) :=
  match st with
  | some v => [(v.toNat % 8 != 0, fltAt 0x01 (v.setWidth 64)), (!tm.progOk v.toNat 8, fltAt 0x05 (v.setWidth 64))]
  | none => []

/-- The status operand. -/
def statusOf (e : EngCtl) (th : Thread) : Option Word := if e.st then some (th.reg e.c) else none

/-- What a flat access of a team at an address meets (16_parcels R241): the handle of its parcel, or the cause; none where the address
does not translate to a parcel page. -/
def State.flatAt (s : State) (tm : Team) (needs : Needs) (va : Nat) : Option (Except (BitVec 8) Nat) :=
  match s.leafAt tm.id.core.die (.core tm.id.core.num) tm.asid false needs (BitVec.ofNat 64 va) with
  | some t => if t.pcl then some ((s.die tm.id.core.die).flatAccess tm.asid (BitVec.ofNat 64 va)) else none
  | none => none

/-- The first addresses of the 4 KiB blocks that a range meets. -/
def rangeBlocks (d n : Nat) : List Nat :=
  if n = 0 then []
  else (List.range ((d + n - 1) / 4096 + 1 - d / 4096)).map fun k => if k = 0 then d else 4096 * (d / 4096 + k)

/-- The same for the lines of a tile. -/
def tileBlocks (desc : BitVec 512) (c0 c1 : Word) : List Nat :=
  ((tileLines desc c0.toInt c1.toInt).map fun l => l * 128 / 4096).eraseDups.map fun b => 4096 * b

/-- The state check at issue of the flat pages that an engine's range meets (16_parcels R241); `a` is the operand's address. -/
def State.flatChecks (s : State) (tm : Team) (needs : Needs) (a : Addr) (vas : List Nat) : List (Bool × Flt) :=
  match vas.findSome? fun va => match s.flatAt tm needs va with
      | some (.error c) => some c
      | some (.ok _) | none => none with
  | some c => [(true, fltAt c a)]
  | none => []

/-- The checks of one range: own scratchpad, accumulator, parcel, flat parcel pages (R207, 16_parcels R241). -/
def State.rangeChecks (s : State) (i : Instr) (tm : Team) (sp : Space) (a : Addr) (n : Nat) (write : Bool) :
    List (Bool × Flt) :=
  match sp with
  | .own => [(n != 0 && !tm.progOk a.toNat n, fltAt 0x05 a)]
  | .accum => [(!tm.accOk a.toNat n, fltWord 0x42 i)]
  | .parcel =>
      match (s.die tm.id.core.die).engineParcel tm.asid a n write with
      | .error c => [(true, fltAt c a)]
      | .ok _ => []
  | .global => s.flatChecks tm (if write then .wr else .rd) a (rangeBlocks a.toNat n)
  | .peer | .host | .res6 | .res7 => []

/-- The check of a guard slot. -/
def guardChecks (tm : Team) (g : BitVec 4) : List (Bool × Flt) :=
  [(g != 0 && tm.guards[g.toFin] == .idle, { cause := 0x22, addr := 0, extra := g.setWidth 32 })]

/-- The spaces of copy commands (Table 13.3). -/
def Space.copyOk (sp : Space) (acc : Bool) : Bool :=
  match sp with
  | .global | .own | .peer | .host | .parcel => true
  | .accum => acc
  | .res6 | .res7 => false

/-- The blocks of global memory that a command reads. -/
def CmdOp.sourceBlocks (op : CmdOp) : List Nat :=
  match op with
  | .cpy _ .global _ a len | .cpym _ .global a _ len | .cred _ _ .global _ a len => rangeBlocks a.toNat len
  | .cpyt true .global d _ _ desc => rangeBlocks d.toNat (tileBytes desc)
  | .cpyt false _ _ c0 c1 desc => tileBlocks desc c0 c1
  | .mfeed _ .global a desc _ => tileBlocks desc (a.setWidth 32) (a.extractLsb' 32 32)
  | .jpost card _ => rangeBlocks card.toNat 64
  | .cpy _ _ _ _ _ | .cpym _ _ _ _ _ | .cred _ _ _ _ _ _ | .cpyt true _ _ _ _ _ | .mfeed _ _ _ _ _ | .post _ _ _ | .precv _
  | .incoming _ _ | .mloop _ _ _ _ _ _ _ _ | .mdrain _ _ _ _ | .mzero _ _ | .afree _ _ | .orel _ => []

/-- The parcels whose flat pages a command reads, which its issue has accepted (16_parcels R241, R242). -/
def State.flatSources (s : State) (tm : Team) (op : CmdOp) : List Nat :=
  (op.sourceBlocks.filterMap fun va => match s.flatAt tm .rd va with
    | some (.ok h) => some h
    | some (.error _) | none => none).eraseDups

/-- A command as it is issued. -/
def newCmd (s : State) (tm : Team) (th : Thread) (tids : List Nat) (op : CmdOp) (guard : BitVec 4) (scope : Scope)
    (slate : SlateAt) (soff : Nat) (status : Option Word) (phase : CmdPhase) : Cmd :=
  { id := s.fresh, core := tm.id.core, team := tm.id, th := th.id, lanes := tids, asid := tm.asid, tag := th.tag, op := op,
    guard := guard, scope := scope, slate := slate, soff := soff, status := status.map fun v => v.toNat, phase := phase,
    pos := 0, rd := 0, buf := [], locked := [], fail := 0, nosl := 0, cause := 0, disc := false, err := false,
    credited := 0, pages := [], srcs := s.flatSources tm op, claim := none, psums := [], bad := false, ruled := none }

/-- A command joins the list, and its issue group waits until it has entered the queue (R208). -/
def State.issue (s : State) (c : Cmd) : State :=
  let s : State := { s.bump with cmds := s.cmds ++ [c] }
  if c.phase = .entering then s.addHold (.enter c.id) else s

/-- One execution of a copy command: the checks, then the command or the first fault. -/
def engBody (e : EngCtl) (checks : State → Team → Thread → List (Bool × Flt)) (owner : State → Team → Thread → Option Team)
    (op : Team → Thread → CmdOp) : Body := fun s th tids =>
  match s.site with
  | none => (s, none)
  | some (_, tm) =>
      match firstFlt (checks s tm th) with
      | some f => (s, some f)
      | none =>
          let soff := (th.reg e.l).toNat
          let slate : SlateAt := .team (match owner s tm th with
            | some o => o.id
            | none => tm.id) soff
          (s.issue (newCmd s tm th tids (op tm th) e.guard e.scope slate soff (statusOf e th) .entering), none)

/-- The checks of CPY and CRED (R324, R328). -/
def copyChecks (i : Instr) (acc : Bool) (d a b : Opnd) (e : EngCtl) (s : State) (tm : Team) (th : Thread) :
    List (Bool × Flt) :=
  let da := engAddr th e.dsp d
  let sa := engAddr th e.ssp a
  let n := (th.reg b).toNat
  [(decide (16777216 < n), fltWord 0x11 i), (!Sys2Proof.Machine.Space.copyOk e.dsp acc, fltAt 0x08 da),
   (!Sys2Proof.Machine.Space.copyOk e.ssp acc, fltAt 0x08 sa), (da.toNat % 16 != 0, fltAt 0x01 da),
   (sa.toNat % 16 != 0 || n % 16 != 0, fltAt 0x01 sa)]
    ++ slateChecks (s.ownerOf tm e.dsp da) (th.reg e.l) ++ statusChecks tm (statusOf e th)
    ++ s.rangeChecks i tm e.ssp sa n false ++ s.rangeChecks i tm e.dsp da n true ++ guardChecks tm e.guard

/-- CPY (R324). -/
def execCpy (u : Bool) (d a b : Opnd) (e : EngCtl) (s : State) : Out :=
  execLanes (.cpy u d a b e) none
    (engBody e (copyChecks (.cpy u d a b e) true d a b e) (fun s tm th => s.ownerOf tm e.dsp (engAddr th e.dsp d))
      fun _ th => .cpy e.dsp e.ssp (engAddr th e.dsp d) (engAddr th e.ssp a) (th.reg b).toNat) s

/-- CRED (R328). -/
def execCred (u : Bool) (d a b : Opnd) (ty : CredType) (e : EngCtl) (s : State) : Out :=
  execLanes (.cred u d a b ty e) none
    (engBody e (copyChecks (.cred u d a b ty e) false d a b e) (fun s tm th => s.ownerOf tm e.dsp (engAddr th e.dsp d))
      fun _ th => .cred ty e.dsp e.ssp (engAddr th e.dsp d) (engAddr th e.ssp a) (th.reg b).toNat) s

/-- The checks of CPYM (R326): the members' slates and destinations are checked at the start. -/
def multiChecks (i : Instr) (d a b : Opnd) (e : EngCtl) (s : State) (tm : Team) (th : Thread) : List (Bool × Flt) :=
  let da := (th.reg d).setWidth 64
  let sa := engAddr th e.ssp a
  let m := fld (th.reg b) 20 12
  let n := (fld (th.reg b) 0 20).toNat
  [(m == 0, fltWord 0x11 i), (e.dsp != .own, fltAt 0x08 da),
   (!Sys2Proof.Machine.Space.copyOk e.ssp false, fltAt 0x08 sa), (da.toNat % 16 != 0, fltAt 0x01 da),
   (sa.toNat % 16 != 0 || n % 16 != 0, fltAt 0x01 sa)]
    ++ statusChecks tm (statusOf e th) ++ s.rangeChecks i tm e.ssp sa n false
    ++ [(decide (2 ^ s.teamCount tm.cluster ≤ m.toNat), fltAt 0x05 da)] ++ guardChecks tm e.guard

/-- CPYM (R326). -/
def execCpym (u : Bool) (d a b : Opnd) (e : EngCtl) (s : State) : Out :=
  execLanes (.cpym u d a b e) none
    (engBody e (multiChecks (.cpym u d a b e) d a b e) (fun _ tm _ => some tm)
      fun _ th => .cpym (th.reg d).toNat e.ssp (engAddr th e.ssp a) (fld (th.reg b) 20 12) (fld (th.reg b) 0 20).toNat) s

/-- The descriptor that a slot operand names, if it is loaded (R207). -/
def Team.tile (t : Team) (v : Word) : Option (BitVec 512) :=
  if v.toNat < 16 then t.tiles[(fld v 0 4).toFin] else none

/-- The checks of CPYT (R327). -/
def tileChecks (i : Instr) (st : Bool) (d a b : Opnd) (e : EngCtl) (s : State) (tm : Team) (th : Thread) :
    List (Bool × Flt) :=
  let da := engAddr th e.dsp d
  match tm.tile (th.reg b) with
  | none => [(true, fltWord 0x11 i)]
  | some desc =>
      let n := tileBytes desc
      [(!Sys2Proof.Machine.Space.copyOk e.dsp false, fltAt 0x08 da), (e.ssp != .global, fltAt 0x08 da),
       (da.toNat % 16 != 0 || tileRow desc % 32 != 0, fltAt 0x01 da)]
        ++ slateChecks (if st then some tm else s.ownerOf tm e.dsp da) (th.reg e.l) ++ statusChecks tm (statusOf e th)
        ++ s.rangeChecks i tm e.dsp da n (!st)
        ++ s.flatChecks tm (if st then .wr else .rd) (BitVec.ofNat 64 (tileBase desc))
            (tileBlocks desc ((th.reg64 a).setWidth 32) ((th.reg64 a).extractLsb' 32 32)) ++ guardChecks tm e.guard

/-- CPYT (R327, 25_ref R452): the descriptor is copied into the command. -/
def execCpyt (u : Bool) (d a b : Opnd) (st : Bool) (e : EngCtl) (s : State) : Out :=
  execLanes (.cpyt u d a b st e) none
    (engBody e (tileChecks (.cpyt u d a b st e) st d a b e)
      (fun s tm th => if st then some tm else s.ownerOf tm e.dsp (engAddr th e.dsp d))
      fun tm th => .cpyt st e.dsp (engAddr th e.dsp d) ((th.reg64 a).setWidth 32) ((th.reg64 a).extractLsb' 32 32)
        ((tm.tile (th.reg b)).getD 0)) s

/-- TDLD of one execution (R209): its checks, then 64 bytes as a DC load; the group is held until the slot is written. -/
def tdldBody (i : Instr) (a b : Opnd) (dsp ssp : Space) : Body := fun s th tids =>
  match s.site with
  | none => (s, none)
  | some (p, tm) =>
      let va := th.reg64 a
      let v := th.reg b
      match firstFlt [(decide (15 < v.toNat), fltWord 0x11 i),
          (dsp != .global || ssp != .global, fltAt 0x08 va), (va.toNat % 64 != 0, fltAt 0x01 va)] with
      | some f => (s, some f)
      | none =>
          match s.resolveVa tm th false true va .rd .plain .thread none with
          | (s, .error f) => (s, some f)
          | (s, .ok sp) =>
              let id := s.fresh
              ((s.launch (sp.acc s i p th tids (.tdesc (fld v 0 4).toFin) 64 .plain .thread)).addHold (.tile id i.word0), none)

/-- TDLD (25_ref R451). -/
def execTdld (u : Bool) (a b : Opnd) (dsp ssp : Space) (s : State) : Out :=
  execLanes (.tdld u a b dsp ssp) none (tdldBody (.tdld u a b dsp ssp) a b dsp ssp) s

/-- What TDLD has read reaches its slot, or faults its lanes: the load's own cause, or 0x11 for a descriptor that R209 refuses. -/
def State.tileLoaded (s : State) (a : Acc) (slot : Fin 16) (word : Word) : State :=
  let fault (s : State) (k : BitVec 8) (addr : Addr) (extra : Word) : State :=
    a.lanes.foldl (fun s tid => s.takeFault { team := a.th.team, tid := tid }
      { cause := k, block := a.block, widx := a.widx, addr := addr, extra := extra, u := a.u }) s
  let s := s.dropAcc a.id
  match a.phase with
  | .done =>
      let d := BitVec.ofNat 512 (natOfBytes a.got)
      if tileOk d then s.onTeam a.th.team fun t => { t with tiles := t.tiles.set slot (some d) }
      else fault s 0x11 0 word
  | .failed k addr extra => fault s k addr extra
  | .gated | .asked | .answered _ | .missing => s

/-! ## The queue (R208) -/

/-- Whether no command of a lower lane of the same word has still to be accepted: commands enter in lane order (R208). -/
def Pipe.mayEnter (p : Pipe) (id : Nat) : Bool :=
  !p.hold.contains (.enter id) || (p.hold.takeWhile fun h => h != .enter id).all fun h => match h with
    | .post _ _ _ _ => false
    | .counter _ _ | .acc _ | .perf _ | .answer _ | .enter _ | .seal _ _ _ | .free _ _ _ | .discard _ _ | .earlier _ | .fetch | .cycle _ _ | .tile _ _ => true

/-- A command stands at the end of the queues: it has entered now (R208). -/
def State.enterNow (s : State) (id : Nat) : State :=
  { s with cmds := (s.cmds.filter fun x => !decide (x.id = id)) ++
      (s.cmds.filter fun x => decide (x.id = id)).map fun x => { x with phase := .queued } }

/-- COMMAND_ENTER (R208): the oldest command that waits for an entry enters while one is free. -/
def execCommandEnter (core : CoreId) (s : State) : Out :=
  let held := s.cmds.filter fun c => decide (c.core = core) && !c.op.isMatrix && (c.phase == .queued || c.phase == .running)
  match s.cmds.find? fun c => decide (c.core = core ∧ c.phase = .entering) && s.pipes.all fun p => p.mayEnter c.id with
  | some c => if held.length < Config.engineQueue then event (s.enterNow c.id) else event s
  | none => event s

/-! ## Accesses of engines (R218) -/

/-- An access of a command at a place. -/
def Cmd.acc (c : Cmd) (s : State) (place : Place) (op : MemOp) (ea : Addr) (tag : BitVec 8) (parcel : Option Nat) : Acc :=
  { id := 0, th := c.th, lanes := [], block := 0, widx := 0, u := false,
    cache := s.l2Of c.core.die (match place with
      | .line l _ _ => l
      | .spad _ _ | .peer _ _ => lineOf .pool 0),
    place := place, op := op, ea := ea, size := 16, tag := tag, ctr := none, dst := [], pred := none, ord := .plain,
    scope := c.scope, cp := 0, run := 0, ref := false, got := [], nonres := false, written := 0, fea := none,
    parcel := parcel.map fun h => (c.core.die, h), fpar := none,
    phase := match place with
      | .peer _ _ => .asked
      | .spad _ _ | .line _ _ _ => .gated }

/-- The identifier that an engine's access carries (07_memory R132). -/
def Cmd.carried (c : Cmd) (tile : Bool) (leaf : BitVec 8) : BitVec 8 :=
  let own : BitVec 8 := if tile then tileTid c.op.desc
    else match c.op with
      | .cpy _ _ _ _ _ | .cpym _ _ _ _ _ | .cred _ _ _ _ _ _ => c.tag
      | .cpyt _ _ _ _ _ _ | .post _ _ _ | .precv _ | .incoming _ _ | .jpost _ _ | .mfeed _ _ _ _ _ | .mloop _ _ _ _ _ _ _ _
      | .mdrain _ _ _ _ | .mzero _ _ | .afree _ _ | .orel _ => 0
  if own = 0 then leaf else own

/-- The state check of an engine's flat access: a read of a parcel that the command's issue has accepted is accepted (16_parcels R241). -/
def State.engFlat (s : State) (c : Cmd) (va : Addr) (needs : Needs) : Except (BitVec 8) Nat :=
  let d := s.die c.core.die
  match if needs = .rd then d.holderOf c.asid va else none with
  | some h => if c.srcs.contains h.idx then .ok h.idx else d.flatAccess c.asid va
  | none => d.flatAccess c.asid va

/-- Where an engine's access to a virtual address goes: translation, peer window, flat parcel page (R215). Tile traffic
translates through the walk-ahead TLB (07_memory R141). -/
def State.engPlace (s : State) (c : Cmd) (host tile flat : Bool) (va : Addr) (needs : Needs) :
    State × Except (BitVec 8) Spot :=
  let die := c.core.die
  match s.translate die (if tile then .walk c.core.num else .core c.core.num) c.asid host needs va with
  | (s, .error k) => (s, .error k.1)
  | (s, .ok t) =>
      let tag := c.carried tile t.tag
      let peer := !host && isPeer t.pa
      let state : Except (BitVec 8) (Option Nat) :=
        match if peer then s.importCheck die t.pa needs else none with
        | some k => .error k
        | none => if flat && t.pcl then (s.engFlat c va needs).map some else .ok none
      match state with
      | .error k => (s, .error k)
      | .ok h =>
          (s, .ok { place := if peer then .peer ((s.die die).importAt (bitsOf t.pa 40 8)) (bitsOf t.pa 0 40)
                      else .line (lineOf (if host then .host else .pool) t.pa) (t.pa % 128) t.cc,
                    ea := va, tag := tag, parcel := h })

/-- What a source read gives: bytes at once, or an access in flight. -/
abbrev Got := Except (BitVec 8) (Option (List Byte))

/-- Read 16 bytes of a scratchpad for an engine. -/
def State.spadSource (s : State) (t : Option Team) (off : Nat) : Got :=
  match t with
  | none => .error 0x05
  | some x =>
      if !x.progOk off 16 then .error 0x05
      else if s.spadDamaged x.id off 16 then .error 0x60 else .ok (some (x.spad.getN off 16))

/-- Start an engine's read of a virtual address. A parcel that it reads is its source from then on (16_parcels R242). -/
def State.vaSource (s : State) (c : Cmd) (host tile flat : Bool) (va : Addr) (h : Option Nat) : State × Got :=
  match s.engPlace c host tile flat va .rd with
  | (s, .error k) => (s, .error k)
  | (s, .ok sp) =>
      let s := match sp.parcel with
        | some x => if c.srcs.contains x then s else s.onCmd c.id fun y => { y with srcs := y.srcs ++ [x] }
        | none => s
      (s.newAcc (c.acc s sp.place (.engRead c.id 16) va sp.tag (if h.isSome then h else sp.parcel)), .ok none)

/-- Read the 16-byte source unit at an address of the command's source space. The state of a source's parcel has been checked at issue
(16_parcels R241), and does not change while the command reads it (R242); a page that did not translate then is checked as it is read. -/
def State.readSource (s : State) (c : Cmd) (a : Nat) : State × Got :=
  match s.cmdTeam c with
  | none => (s, .error 0x05)
  | some tm =>
      let va := BitVec.ofNat 64 a
      match c.op.source with
      | (.own, _) => (s, s.spadSource (some tm) a)
      | (.peer, _) => (s, s.spadSource (s.teamAt tm.cluster (a / 2 ^ 28)) (a % 2 ^ 28))
      | (.accum, _) =>
          if !tm.accOk a 16 then (s, .error 0x42)
          else if s.accDamaged tm a then (s, .error 0x60) else (s, .ok (some (s.accRead tm a 16)))
      | (.parcel, _) =>
          let h := (s.die c.core.die).handle (bitsOf a 52 12)
          s.vaSource c false false false (BitVec.ofNat 64 ((s.die c.core.die).flatBase h + a % 2 ^ 32)) (some h.idx)
      | (.host, tile) => s.vaSource c true tile true va none
      | (.global, tile) => s.vaSource c false tile true va none
      | (.res6, _) | (.res7, _) => (s, .error 0x08)

/-- The access of a command that reads its current source unit. -/
def State.reading (s : State) (id : Nat) : Option Acc :=
  s.accs.find? fun a => match a.op with
    | .engRead k _ => k == id
    | .load _ | .loadRef _ _ | .store _ | .stf _ _ _ | .atom _ _ _ _ | .cas _ _ _ | .prefetch _ | .engOwn _
    | .cmnt _ _ | .tdesc _ => false

/-- A source unit has been read. -/
def State.gotSource (s : State) (id : Nat) (bs : List Byte) : State :=
  s.onCmd id fun c => { c with buf := c.buf ++ bs, rd := c.rd + 1 }

/-- A source read has failed: MFEED still owes its lines, as failed ones (14_matrix R223); any other command stops. -/
def State.sourceFailed (s : State) (id : Nat) (k : BitVec 8) : State :=
  match s.cmd id with
  | none => s
  | some c =>
      match c.op with
      | .mfeed _ _ _ _ _ => (s.releaseLines id).onCmd id fun x => { x with bad := true, fail := 1, cause := k }
      | .cpy _ _ _ _ _ | .cpym _ _ _ _ _ | .cpyt _ _ _ _ _ _ | .cred _ _ _ _ _ _ | .mdrain _ _ _ _ | .post _ _ _ | .precv _ | .incoming _ _
      | .jpost _ _ | .mloop _ _ _ _ _ _ _ _ | .mzero _ _ | .afree _ _ | .orel _ => s.stopCmd id k

/-- One step of reading source unit `a` of a command: start it, or take what has returned. A failed read stops
the command (R215). -/
def State.sourceStep (s : State) (c : Cmd) (a : Nat) : State :=
  match s.reading c.id with
  | some x =>
      match x.phase with
      | .done => (s.dropAcc x.id).gotSource c.id x.got
      | .failed k _ _ => (s.dropAcc x.id).sourceFailed c.id k
      | .gated | .asked | .answered _ | .missing => s
  | none =>
      match s.readSource c a with
      | (s, .error k) => if k = notYet then s else s.sourceFailed c.id k
      | (s, .ok (some bs)) => s.gotSource c.id bs
      | (s, .ok none) => s

/-- The source units of the line that a copy command writes, or an MFEED enters, next; MDRAIN has read its source. -/
def Cmd.units (c : Cmd) : List Nat :=
  match c.op with
  | .mdrain _ _ _ _ => []
  | .cpy _ _ _ _ _ | .cpym _ _ _ _ _ | .cpyt _ _ _ _ _ _ | .cred _ _ _ _ _ _ | .mfeed _ _ _ _ _ | .post _ _ _ | .precv _ | .incoming _ _
  | .jpost _ _ | .mloop _ _ _ _ _ _ _ _ | .mzero _ _ | .afree _ _ | .orel _ => cellUnits (c.op.cells c.pos)

/-- The written units of the line that a command writes next. -/
def Cmd.pieces (c : Cmd) : List Piece :=
  makePieces (c.op.cells c.pos) (match c.op with
    | .mdrain _ _ _ _ => nibAt c.buf
    | .cpy _ _ _ _ _ | .cpym _ _ _ _ _ | .cpyt _ _ _ _ _ _ | .cred _ _ _ _ _ _ | .mfeed _ _ _ _ _ | .post _ _ _ | .precv _ | .incoming _ _
    | .jpost _ _ | .mloop _ _ _ _ _ _ _ _ | .mzero _ _ | .afree _ _ | .orel _ => unitNib c.units c.buf)

/-- The pages of a tile that is a command's source, in the descriptor's traversal order. -/
def CmdOp.tilePages (op : CmdOp) : List Nat :=
  let pages (desc : BitVec 512) (c0 c1 : Word) : List Nat :=
    ((tileLines desc c0.toInt c1.toInt).map fun l => l / 512).eraseDups
  match op with
  | .cpyt false _ _ c0 c1 desc => pages desc c0 c1
  | .mfeed _ .global a desc _ => pages desc (a.setWidth 32) (a.extractLsb' 32 32)
  | .cpyt true _ _ _ _ _ | .mfeed _ _ _ _ _ | .cpy _ _ _ _ _ | .cpym _ _ _ _ _ | .cred _ _ _ _ _ _ | .post _ _ _ | .precv _
  | .incoming _ _ | .jpost _ _ | .mloop _ _ _ _ _ _ _ _ | .mdrain _ _ _ _ | .mzero _ _ | .afree _ _ | .orel _ => []

/-- The walk-ahead TLB translates up to 64 pages ahead of the page that the tile engine reads; a walk that fails is not reported
(07_memory R141). -/
def State.walkAhead (s : State) (c : Cmd) (page : Nat) : State :=
  let ahead := ((c.op.tilePages.dropWhile fun p => p != page).drop 1).take 64
  ahead.foldl (fun s p =>
    (s.translate c.core.die (.walk c.core.num) c.asid false .rd (BitVec.ofNat 64 (65536 * p))).1) s

/-- The reading of a copy command or MFEED: the next source unit of the line that is to be written or entered. -/
def State.copyRead (s : State) (c : Cmd) : State :=
  if c.phase = .running ∧ !c.bad then
    match c.units[c.rd]? with
    | some u => (if c.rd = 0 then s.walkAhead c (u / 4096) else s).sourceStep c (16 * u)
    | none => s
  else s

/-! ## Destinations (R215) -/

/-- The first addresses of the 4 KiB blocks that a destination in memory meets. -/
def CmdOp.blocks (op : CmdOp) (d : Nat) : List Nat :=
  match op with
  | .cpyt true _ _ c0 c1 desc => tileBlocks desc c0 c1
  | .mdrain _ _ _ r =>
      ((r.lines d).map fun l => l * 128 / 4096).eraseDups.map fun b => if b = d / 4096 then d else 4096 * b
  | .cpy _ _ _ _ _ | .cpym _ _ _ _ _ | .cpyt false _ _ _ _ _ | .cred _ _ _ _ _ _ | .post _ _ _ | .precv _ | .incoming _ _ | .jpost _ _
  | .mfeed _ _ _ _ _ | .mloop _ _ _ _ _ _ _ _ | .mzero _ _ | .afree _ _ | .orel _ =>
      rangeBlocks d op.bytes

/-- Whether a block of a destination has been translated, or its owner asked. -/
def State.opened (s : State) (id va : Nat) : Bool :=
  (match s.cmd id with
    | some c => c.pages.any fun p => p.vpn == va / 4096
    | none => false) || s.accs.any fun a => decide (a.op = .engOwn id ∧ a.ea.toNat = va)

/-- Translate one block of a destination, to whose memory a path must work (R215); a peer window's owner is asked by an access of its
own. -/
def State.openBlock (s : State) (c : Cmd) (host tile flat : Bool) (h : Option Nat) (va : Nat) :
    State × Option (BitVec 8) :=
  if s.opened c.id va then (s, none)
  else
  match s.engPlace c host tile flat (BitVec.ofNat 64 va) c.op.needs with
  | (s, .error k) => (s, some k)
  | (s, .ok sp) =>
      match sp.place with
      | .line l off cc =>
          if c.op.badClass cc then (s, some 0x07)
          else if s.pathDead l || (host && !s.hostUp (s.hostLink c.core.die)) then (s, some 0x61)
          else
            (s.addPage c.id { vpn := va / 4096, pa := (128 * l.num + off) / 4096 * 4096, cc := cc, tag := sp.tag, host := host,
                              parcels := ((if h.isSome then h else sp.parcel).map fun x => [(c.core.die, x)]).getD [],
                              entry := none }, none)
      | .peer _ _ =>
          (s.newAcc (c.acc s sp.place (.engOwn c.id) (BitVec.ofNat 64 va) sp.tag sp.parcel), none)
      | .spad _ _ => (s, none)

/-- Translate every block of a destination, up to the first that fails, or that must wait for a table entry: `notYet` (07_memory R135). -/
def State.openBlocks (s : State) (c : Cmd) (host tile flat : Bool) (h : Option Nat) : List Nat → State × Option (BitVec 8)
  | [] => (s, none)
  | va :: rest =>
      match s.openBlock c host tile flat h va with
      | (s, some k) => (s, some k)
      | (s, none) => s.openBlocks c host tile flat h rest

/-- The destination address of a command, as a number. -/
def CmdOp.destAddr : CmdOp → Nat
  | .cpy _ _ d _ _ | .cred _ _ _ d _ _ | .cpyt _ _ d _ _ _ | .mdrain _ d _ _ => d.toNat
  | .cpym d _ _ _ _ => d
  | .post _ _ _ | .precv _ | .incoming _ _ | .jpost _ _ | .mfeed _ _ _ _ _ | .mloop _ _ _ _ _ _ _ _ | .mzero _ _ | .afree _ _ | .orel _ => 0

/-- The extent of a destination from its address on, in bytes (the last row of MDRAIN included). -/
def CmdOp.span : CmdOp → Nat
  | .mdrain _ _ _ r =>
      (Sys2Proof.Machine.Rows.num r.m - 1) * r.dstride.toNat + r.rowBytes
  | .cpy a b c d e => CmdOp.bytes (.cpy a b c d e)
  | .cpym a b c d e => CmdOp.bytes (.cpym a b c d e)
  | .cred a b c d e f => CmdOp.bytes (.cred a b c d e f)
  | .cpyt a b c d e f => CmdOp.bytes (.cpyt a b c d e f)
  | .post _ _ _ | .precv _ | .incoming _ _ | .jpost _ _ | .mfeed _ _ _ _ _ | .mloop _ _ _ _ _ _ _ _ | .mzero _ _ | .afree _ _ | .orel _ => 0

/-- The check of a destination as a whole (R215), CPYM's members apart: its cause if it fails. -/
def State.checkDest (s : State) (c : Cmd) (tm : Team) : State × Option (BitVec 8) :=
  let d := c.op.destAddr
  let n := c.op.span
  match c.op.target with
  | (.own, _) => (s, if tm.progOk d n then none else some 0x05)
  | (.peer, _) =>
      (s, match s.teamAt tm.cluster (d / 2 ^ 28) with
        | some o => if o.progOk (d % 2 ^ 28) n then none else some 0x05
        | none => some 0x05)
  | (.accum, _) => (s, if tm.accOk d n then none else some 0x42)
  | (.parcel, _) =>
      match (s.die c.core.die).engineParcel c.asid (BitVec.ofNat 64 d) n true with
      | .error k => (s, some k)
      | .ok h =>
          s.openBlocks c false false false (some h.idx) (c.op.blocks ((s.die c.core.die).flatBase h + d % 2 ^ 32))
  | (.host, tile) => s.openBlocks c true tile true none (c.op.blocks d)
  | (.global, tile) => s.openBlocks c false tile true none (c.op.blocks d)
  | (.res6, _) | (.res7, _) => (s, some 0x08)

/-- The check of one member of a CPYM: destination, then slate (R207, R215). -/
def State.checkMember (s : State) (c : Cmd) (tm : Team) (q : Nat) : State :=
  match s.teamAt tm.cluster q with
  | none => s.failDest c.id q 0x05 false
  | some o =>
      let slateBad : Option (BitVec 8) := if c.soff % 16 ≠ 0 then some 0x01 else if o.progOk c.soff 16 then none else some 0x05
      let destBad := !o.progOk c.op.destAddr c.op.bytes
      if destBad then s.failDest c.id q 0x05 slateBad.isNone
      else
        match slateBad with
        | some k => s.failDest c.id q k false
        | none => s

/-- The physical place of a destination address in memory. -/
def Cmd.pageOf (c : Cmd) (va : Nat) : Option Page := c.pages.find? fun p => p.vpn = va / 4096

/-- The virtual address of a destination address: a parcel's flat address. -/
def State.destVa (s : State) (c : Cmd) (a : Nat) : Nat :=
  match c.op.target with
  | (.parcel, _) =>
      let d := s.die c.core.die
      d.flatBase (d.handle (bitsOf c.op.destAddr 52 12)) + a % 2 ^ 32
  | _ => a

/-- The line of a destination address in memory. -/
def State.destLine (s : State) (c : Cmd) (a : Nat) : Option (LineId × Page) :=
  let va := s.destVa c a
  (c.pageOf va).map fun p => (lineOf (if p.host then .host else .pool) (p.pa + va % 4096), p)

/-- The die's L2 slice obtains every tracked line of a destination as the command starts, or as the owner of a peer window has answered, and
keeps each for the command's write (R218, 08_coherence R163; log 46). -/
def State.obtainLines (s : State) (id : Nat) : State :=
  match s.cmd id with
  | none => s
  | some c =>
      let lines := ((List.range c.op.groups).filterMap fun g => s.destLine c (c.op.groupAt g)).filter fun x =>
        x.2.cc != 0 && !c.locked.contains x.1
      lines.foldl (fun s x =>
        (s.onCmd id fun y => { y with locked := y.locked ++ [x.1] }).newAcc
          (c.acc s (.line x.1 0 x.2.cc) (.engOwn id) 0 x.2.tag none)) s

/-- A copy command starts: its destinations are checked (R215). A command of no bytes is done at once. One whose translation must wait for a table
entry starts when it is asked to again (07_memory R135). -/
def State.startCopy (s : State) (id : Nat) : State :=
  let run (s : State) : State := s.onCmd id fun x => { x with phase := .running }
  match s.cmd id with
  | none => s
  | some c =>
      if c.op.bytes = 0 then s.finishCmd id
      else
        match s.cmdTeam c with
        | none => s.stopCmd id 0x05
        | some tm =>
            let multi := match c.op with
              | .cpym _ _ _ _ _ => true
              | .cpy _ _ _ _ _ | .cpyt _ _ _ _ _ _ | .cred _ _ _ _ _ _ | .post _ _ _ | .precv _ | .incoming _ _ | .jpost _ _
              | .mfeed _ _ _ _ _ | .mloop _ _ _ _ _ _ _ _ | .mdrain _ _ _ _ | .mzero _ _ | .afree _ _ | .orel _ => false
            if multi then
              let s := c.dests.foldl (fun s q => s.checkMember c tm q) (run s)
              match s.cmd id with
              | some x => if x.alive.isEmpty then s.onCmd id fun y => { y with phase := .finished } else s
              | none => s
            else
              match s.checkDest c tm with
              | (s, some k) => if k = notYet then s else s.stopCmd id k
              | (s, none) => if c.op.groups = 0 then s.finishCmd id else (run s).obtainLines id

/-! ## Writing units (R181, R218) -/

/-- The remote blocks of a command whose owners have not answered, and a refusal among those that have. -/
def State.openAccs (s : State) (id : Nat) : List Acc :=
  s.accs.filter fun a => match a.op, a.place with
    | .engOwn k, .peer _ _ => k == id
    | _, _ => false

/-- The bytes that the rest of a copy command still writes at a line: whether a later command of the core must wait (R208). -/
def State.stillWrites (s : State) (c : Cmd) (l : LineId) (bytes : List Nat) : Bool :=
  (List.range c.op.groups).any fun g =>
    decide (c.pos ≤ g) && match s.destLine c (c.op.groupAt g) with
      | some (m, _) =>
          decide (m = l) && bytes.any fun b =>
            ((c.op.cells g).getD (2 * b) none).isSome || ((c.op.cells g).getD (2 * b + 1) none).isSome
      | none => false

/-- The destination of a copy command in a scratchpad or the accumulator, as a kind, an owner and a range. -/
def State.destRange (s : State) (c : Cmd) (q : Nat) : Option (Bool × TeamId × Nat) :=
  match s.cmdTeam c with
  | none => none
  | some tm =>
      let d := c.op.destAddr
      match c.op, c.op.target with
      | .cpym _ _ _ _ _, _ => (s.teamAt tm.cluster q).map fun o => (false, o.id, d)
      | _, (.own, _) => some (false, tm.id, d)
      | _, (.peer, _) => (s.teamAt tm.cluster (d / 2 ^ 28)).map fun o => (false, o.id, d % 2 ^ 28)
      | _, (.accum, _) => some (true, tm.id, d)
      | _, _ => none

/-- Where in memory a JPOST writes its card, if it goes to a queue (18_scheduling R265) and the place is known. -/
def State.cardPlace (s : State) (c : Cmd) : Option (LineId × Nat) :=
  match c.op with
  | .jpost _ target =>
      let die := c.core.die
      let q := (s.die die).queue (fld target 0 6).toNat
      let va := q.cfg.base + BitVec.ofNat 64 (64 * (q.tail % q.cfg.size))
      if flag target 31 then none
      else
        (s.leafAt die .die q.cfg.asid false .wr va).bind fun t =>
          if isPeer t.pa then
            match (s.ask die (t.pa / 4096) .wr).bind fun k => k.answer with
            | some (.accepted p _) => some (lineOf .pool (p / 4096 * 4096 + t.pa % 4096), t.pa % 128)
            | some (.refused _) | some .lost | none => none
          else some (lineOf .pool t.pa, t.pa % 128)
  | .cpy _ _ _ _ _ | .cpym _ _ _ _ _ | .cpyt _ _ _ _ _ _ | .cred _ _ _ _ _ _ | .post _ _ _ | .precv _ | .incoming _ _
  | .mfeed _ _ _ _ _ | .mloop _ _ _ _ _ _ _ _ | .mdrain _ _ _ _ | .mzero _ _ | .afree _ _ | .orel _ => none

/-- Whether an earlier command of the core, in queue order, still has to write one of some bytes of a line; it may be any byte while the owner
of a peer window has not answered for a block of the earlier one (R208). -/
def State.earlierWrites (s : State) (c : Cmd) (l : LineId) (bytes : List Nat) : Bool :=
  (s.cmds.takeWhile fun e => e.id != c.id).any fun e =>
    decide (e.core = c.core ∧ e.phase = .running) &&
      ((e.op.isCopy && (!(s.openAccs e.id).isEmpty || s.stillWrites e l bytes)) ||
        match s.cardPlace e with
        | some (m, off) => decide (m = l) && bytes.any fun b => decide (off ≤ b ∧ b < off + 64)
        | none => false)

/-- The same for what a copy command writes now: units of a line of memory, or of a scratchpad or the accumulator. -/
def State.mustWait (s : State) (c : Cmd) (l : Option LineId) (ps : List Piece) : Bool :=
  c.op.isCopy &&
    match l with
    | some l =>
        s.earlierWrites c l (ps.flatMap fun p => (List.range 16).filterMap fun b =>
          if (p.low.getD (2 * b) none).isSome || (p.low.getD (2 * b + 1) none).isSome then some (p.off + b) else none)
    | none =>
        (s.cmds.takeWhile fun e => e.id != c.id).any fun e =>
          decide (e.core = c.core ∧ e.phase = .running) && e.op.isCopy &&
            c.alive.any fun q => e.alive.any fun r =>
              match s.destRange c q, s.destRange e r with
              | some (k, t, d), some (k', t', d') =>
                  let lo := d + c.op.groupAt c.pos + (ps.head?.map fun p => p.off).getD 0 - c.op.destAddr
                  decide (k = k' ∧ t = t' ∧ lo < d' + e.op.bytes ∧ d' + e.credited < lo + 16 * ps.length)
              | _, _ => false

/-- Apply a command's units to a line: its new value, the bytes written, and the flags. -/
def CmdOp.overLine (op : CmdOp) (ps : List Piece) (d : Line) : Line × BitVec 128 × Word :=
  ps.foldl (fun r p =>
    let x := op.unit p (lineBytes r.1 p.off 16)
    let m := (List.range 16).foldl (fun (m : BitVec 128) b =>
      if (p.low.getD (2 * b) none).isSome || (p.low.getD (2 * b + 1) none).isSome then m ||| dirtyMask (p.off + b) 1
      else m) 0
    (lineSetN r.1 p.off x.1, r.2.1 ||| m, r.2.2 ||| x.2)) (d, 0, 0)

/-- Whether a command's writes perform as atomics do (R217). -/
def CmdOp.isCred : CmdOp → Bool
  | .cred _ _ _ _ _ _ => true
  | .cpy _ _ _ _ _ | .cpym _ _ _ _ _ | .cpyt _ _ _ _ _ _ | .post _ _ _ | .precv _ | .incoming _ _ | .jpost _ _ | .mfeed _ _ _ _ _
  | .mloop _ _ _ _ _ _ _ _ | .mdrain _ _ _ _ | .mzero _ _ | .afree _ _ | .orel _ => false

/-- What an attempt to write units comes to: whether they were written, or a cause. -/
abbrev Wrote := Except (BitVec 8) Bool

/-- The flags of units that have been written. -/
def State.wrote (s : State) (c : Cmd) (fl : Word) : State × Wrote := (s.setFlags c.team fl, .ok true)

/-- Add into an NC line at its home, as a far atomic does (R217, 12_program_atomics R203). -/
def State.credFar (s : State) (c : Cmd) (l : LineId) (p : Page) (ps : List Piece) : State × Wrote :=
  let die := c.core.die
  if !s.folioOpenE l then (if s.pathDead l then s else s.want l .e, if s.pathDead l then .error 0x61 else .ok false)
  else
    let s := s.giveUp (s.l1Of c.core) l
    match s.homeDamage l with
    | some code => (s.dropHome die code l, .error 0x60)
    | none =>
        match s.fillL3 die l.num p.tag with
        | .got s d =>
            let r := c.op.overLine ps d
            ((s.l3Put l.num r.1 true p.tag).retagL3 l.num p.tag).wrote c r.2.2
        | .wait s => (s, .ok false)
        | .dead => (s, .error 0x61)

/-- Write into an NC line in the die's L2 slice (R151). Its own core's L1 gives up its copy, as the engine's accesses agree with those of its
core (10_ordering R188). -/
def State.writeNc (s : State) (c : Cmd) (l : LineId) (p : Page) (ps : List Piece) : State × Wrote :=
  let die := c.core.die
  let k := s.l2Of die l
  match s.shareNc c.core l with
  | none => (s.want l .e, .ok false)
  | some s =>
      let s := (s.dropCopy (s.l1Of c.core) l).scrubCopy k l
      match s.brokenNc k l, (s.copy k l).isSome, s.homeDamage l with
      | some x, _, _ => (s.loseCopy die x, .error 0x60)
      | none, false, some code => (s.dropHome die code l, .error 0x60)
      | none, _, _ =>
          if s.pathDead l && (s.copy k l).isNone && !s.folioOpenS l then (s, .error 0x61)
          else
            match s.ncFill die k l p.tag false with
            | .wait s => (s, .ok false)
            | .got s x =>
                let r := c.op.overLine ps x.data
                (s.putCopy { x with data := r.1, dirty := x.dirty ||| r.2.1, tag := p.tag }).wrote c r.2.2
            | .dead => (s, .error 0x61)

/-- Whether a command still asks for the ownership of a line. -/
def State.ownAsked (s : State) (id : Nat) (l : LineId) : Bool :=
  s.accs.any fun a => decide (a.op = .engOwn id) && match a.place with
    | .line m _ _ => decide (m = l)
    | .spad _ _ | .peer _ _ => false

/-- The command that a line is kept for once `c` has written it: a later one of the queue that had obtained it before `c` took it over. -/
def State.keepsNext (s : State) (c : Cmd) (l : LineId) : Option Nat :=
  (s.cmds.find? fun e =>
    s.ahead c.id e.id && e.phase == .running && e.locked.contains l && s.stillWrites e l (List.range 128) &&
      !s.ownAsked e.id l).map fun e => e.id

/-- Write into a tracked line that the die's L2 slice has obtained for the command, and kept (R163, R218). -/
def State.writeOwned (s : State) (c : Cmd) (l : LineId) (p : Page) (ps : List Piece) : State × Wrote :=
  match (s.copy (s.l2Of c.core.die l) l).bind fun x => if x.busy = some c.id then some x else none with
  | some x =>
      let r := c.op.overLine ps x.data
      (s.putCopy { x with data := r.1, dirty := x.dirty ||| r.2.1, st := .m, busy := s.keepsNext c l, tag := p.tag }).wrote c r.2.2
  | none =>
      (if s.ownAsked c.id l then s else s.newAcc (c.acc s (.line l 0 p.cc) (.engOwn c.id) 0 p.tag none), .ok false)

/-- Write units into a line of memory. A tracked line is first obtained by the die's L2 slice (R218); host NC memory takes them at once. -/
def State.writeLine (s : State) (c : Cmd) (l : LineId) (p : Page) (ps : List Piece) : State × Wrote :=
  if p.cc ≠ 0 then s.writeOwned c l p ps
  else
    match l.mem with
    | .host =>
        if !s.hostUp (s.hostLink c.core.die) then (s, .error 0x61)
        else
          let r := c.op.overLine ps (s.host.getLine l.num)
          ({ s with host := s.host.setLine l.num r.1 } : State).wrote c r.2.2
    | .pool => if c.op.isCred then s.credFar c l p ps else s.writeNc c l p ps

/-- Write units into a scratchpad or the accumulator; `base` is the address of the line. -/
def State.writeLocal (s : State) (c : Cmd) (acc : Bool) (t : TeamId) (base : Nat) (ps : List Piece) : State :=
  ps.foldl (fun s p =>
    match s.team t with
    | none => s
    | some tm =>
        let old := if acc then s.accRead tm (base + p.off) 16 else tm.spad.getN (base + p.off) 16
        let r := c.op.unit p old
        let s := if acc then s.accWrite tm (base + p.off) r.1 else s.spadWrite t (base + p.off) r.1
        s.setFlags c.team r.2) s

/-- Whether a CRED would read a damaged unit of a scratchpad. -/
def State.badLocal (s : State) (c : Cmd) (t : TeamId) (base : Nat) (ps : List Piece) : Bool :=
  match c.op with
  | .cred _ _ _ _ _ _ => ps.any fun p => s.spadDamaged t (base + p.off) 16
  | .cpy _ _ _ _ _ | .cpym _ _ _ _ _ | .cpyt _ _ _ _ _ _ | .post _ _ _ | .precv _ | .incoming _ _ | .jpost _ _ | .mfeed _ _ _ _ _
  | .mloop _ _ _ _ _ _ _ _ | .mdrain _ _ _ _ | .mzero _ _ | .afree _ _ | .orel _ => false

/-- The 16-byte units of its packed data that a command has delivered with its current line. A row of a stored tile may straddle destination
units: a packed unit counts with the last line that takes a part of it (R212; log 46). -/
def Cmd.unitsDone (c : Cmd) (ps : List Piece) : Nat :=
  match c.op with
  | .cpyt true _ _ _ _ _ =>
      ((cellUnits (c.op.cells c.pos)).filter fun u =>
        !((List.range c.op.groups).drop (c.pos + 1)).any fun g => (cellUnits (c.op.cells g)).contains u).length
  | .cpyt false _ _ _ _ _ | .cpy _ _ _ _ _ | .cpym _ _ _ _ _ | .cred _ _ _ _ _ _ | .post _ _ _ | .precv _ | .incoming _ _ | .jpost _ _
  | .mfeed _ _ _ _ _ | .mloop _ _ _ _ _ _ _ _ | .mdrain _ _ _ _ | .mzero _ _ | .afree _ _ | .orel _ => ps.length

/-- A line of a copy command has been written: its units are credited, 16 bytes each, and the next line is begun (R212). -/
def State.lineDone (s : State) (id units : Nat) : State :=
  match s.cmd id with
  | none => s
  | some c =>
      let n := min units ((c.op.bytes - c.credited) / 16)
      let s := c.alive.foldl (fun s q => (List.range n).foldl (fun s _ => s.cmdCredit c q 16 0 false) s) s
      let s := s.onCmd id fun x =>
        { x with credited := x.credited + 16 * n, pos := x.pos + 1, rd := 0, buf := if x.op.isCopy then [] else x.buf }
      if c.pos + 1 = c.op.groups then s.finishCmd id else s

/-- The cause of a line that a command could not obtain. -/
def State.ownFailed (s : State) (id : Nat) : Option (BitVec 8) :=
  s.accs.findSome? fun x => match decide (x.op = .engOwn id), x.phase with
    | true, .failed k _ _ => some k
    | _, _ => none

/-- Write the units of a copy command's current line, when no earlier command of the core has to write them first. -/
def State.writeGroup (s : State) (c : Cmd) : State :=
  let ps := c.pieces
  let a := c.op.groupAt c.pos
  match s.destRange c (c.alive.headD 0) with
  | some _ =>
      if s.mustWait c none ps then s
      else
        let sites := c.alive.filterMap fun q => s.destRange c q
        if sites.any fun x => !x.1 && s.badLocal c x.2.1 (x.2.2 + a - c.op.destAddr) ps then s.stopCmd c.id 0x60
        else (sites.foldl (fun s x => s.writeLocal c x.1 x.2.1 (x.2.2 + a - c.op.destAddr) ps) s).lineDone c.id (c.unitsDone ps)
  | none =>
      match s.destLine c a with
      | none => s.stopCmd c.id 0x02
      | some (l, p) =>
          if s.mustWait c (some l) ps then s
          else
            match s.ownFailed c.id with
            | some k => s.stopCmd c.id k
            | none =>
                match s.writeLine c l p ps with
                | (s, .error k) => s.stopCmd c.id k
                | (s, .ok false) => s
                | (s, .ok true) => s.lineDone c.id (c.unitsDone ps)

/-- Whether a running command waits for owners of peer windows, and the cause of one that refused. -/
def State.openState (s : State) (id : Nat) : Option (Option (BitVec 8)) :=
  match s.openAccs id with
  | [] => none
  | as =>
      some (as.findSome? fun a => match a.phase with
        | .failed k _ _ => some k
        | .gated | .asked | .answered _ | .missing | .done => none)

/-- One step of the writing of a running copy command or MDRAIN. -/
def State.copyStep (s : State) (c : Cmd) : State :=
  match s.openState c.id with
  | some (some k) => s.stopCmd c.id k
  | some none => s.obtainLines c.id
  | none =>
      let s := if c.pages.any fun p => p.entry.isSome then s.obtainLines c.id else s
      if c.rd = c.units.length then s.writeGroup c else s

/-! ## Guards and the issue release (R192, R214, 23_ref R374) -/

/-- Whether the accesses of a command's threads that came before it have performed (R192). -/
def State.issueReleased (s : State) (c : Cmd) : Bool :=
  s.accs.all fun a => !(decide (a.th.team = c.team ∧ a.id < c.id) && a.pending && a.lanes.any fun l => c.lanes.contains l)

/-- The team whose guard slot a command names: that of its issuer, which may be saved (16_parcels R251). -/
def State.guardTeam (s : State) (c : Cmd) : Option Team :=
  match c.slate with
  | .saved k p _ => (s.contexts.find? fun x => x.cluster.id = k).bind fun x => x.teams.find? fun t => t.cpos = p
  | .team _ _ | .grid _ => s.cmdTeam c

/-- What a command's guard slot says at the end of a cycle in which the command stands at the head of its queue: nothing while it is
UNRESOLVED (23_ref R369), else TRUE, with the accesses that the GSET releases (R374), or FALSE. -/
def State.guardRule (s : State) (c : Cmd) : Option (Bool × List Nat) :=
  match s.guardTeam c with
  | none => some (true, [])
  | some tm =>
      match tm.guards[c.guard.toFin] with
      | .isTrue => some (true, tm.guardRel[c.guard.toFin])
      | .isFalse => some (false, [])
      | .idle | .unresolved => none

/-- The state of a command's guard: TRUE without one. What the slot has said stays, whatever it is set to later (23_ref R368, R373), and TRUE
counts once the accesses that the GSET releases have performed (R374). -/
def State.guardNow (s : State) (c : Cmd) : Guard :=
  if c.guard = 0 then .isTrue
  else
    match c.ruled with
    | none => .unresolved
    | some (true, rel) => if s.accs.any fun a => rel.contains a.id && a.pending then .unresolved else .isTrue
    | some (false, _) => .isFalse

/-- The guards of some commands that stand at the heads of their queues, as a cycle ends. -/
def State.ruleGuards (s : State) (ids : List Nat) : State :=
  { s with cmds := s.cmds.map fun c =>
      if c.guard ≠ 0 ∧ c.ruled.isNone ∧ ids.contains c.id then { c with ruled := s.guardRule c } else c }

/-! ## The completion record (R216) -/

/-- The record of a command (Table 13.6). -/
def Cmd.record (c : Cmd) : BitVec 64 :=
  (1 : BitVec 1) ++ BitVec.ofBool c.disc ++ (0 : BitVec 22) ++ c.cause ++ (0 : BitVec 4) ++ c.nosl ++ (0 : BitVec 4) ++ c.fail

/-- Whether a slate belongs to a context that is saved now (18_scheduling R270). -/
def State.slateSaved (s : State) (a : SlateAt) : Bool :=
  match a with
  | .saved k _ _ => s.contexts.any fun x => x.cluster.id = k
  | .team _ _ | .grid _ => false

/-- ENGINE_COMPLETION_RECORD (R216), by command: after every credit, the record if ST = 1; then the command is gone. The record of
a POST waits while its team is saved (16_parcels R251). -/
def execEngineCompletionRecord (id : Nat) (s : State) : Out :=
  match s.cmd id with
  | none => event s
  | some c =>
      if c.phase = .finished ∧ !(s.credits.any fun x => x.cmd = some id) ∧ !s.slateSaved c.slate then
        let s := match c.status with
          | some off => s.spadWrite c.team off (bytesOfNat 8 c.record.toNat)
          | none => s
        event { s with cmds := s.cmds.filter fun x => !decide (x.id = id) }
      else event s

end Sys2Proof.Machine
end

