-- ==== Sys2Proof/Machine/System.lean ====
section
/-!
DEFINITION. Special registers (02_execution R31, R32, 06_arithmetic R109, R110, 23_ref R370, 25_ref R438).
-/
namespace Sys2Proof.Machine

/-- The value of a special register for a thread (Table 2.8); none for a number that is not in the table. -/
def State.special (s : State) (tm : Team) (th : Thread) (n : Nat) : Option Word :=
  let clk := (s.core tm.id.core).lcyc
  match n with
  | 0x000 => some (BitVec.ofNat 32 th.id.tid)
  | 0x001 => some (BitVec.ofNat 32 (th.id.tid % 32))
  | 0x002 => some (BitVec.ofNat 32 (th.id.tid / 32))
  | 0x003 => some (BitVec.ofNat 32 tm.index)
  | 0x004 => some (BitVec.ofNat 32 tm.cpos)
  | 0x005 => some (BitVec.ofNat 32 tm.id.core.num.val)
  | 0x006 => some (BitVec.ofNat 32 tm.id.core.die.val)
  | 0x007 => some (BitVec.ofNat 32 tm.nthr)
  | 0x008 => some (clk.setWidth 32)
  | 0x009 => some (clk.extractLsb' 32 32)
  | 0x010 => some tm.tctl
  | 0x011 => some tm.tstat
  | _ => none

/-- The first floating-point atomic of a lane that has not performed: a GETS of %tstat comes after it, since it returns every flag that
the thread's earlier instructions set (06_arithmetic R110). -/
def State.beforeFlags (s : State) (p : Pipe) (num : BitVec 9) : Option Acc :=
  if num.toNat = 0x011 then
    s.accs.find? fun a => decide (a.th.team = p.team) && a.pending && (p.lanes.any fun tid => a.lanes.contains tid) &&
      match a.op with
      | .atom _ ty _ _ => ty == .f32 || ty == .f64
      | .load _ | .loadRef _ _ | .store _ | .stf _ _ _ | .cas _ _ _ | .prefetch _ | .engRead _ _ | .engOwn _ | .cmnt _ _
      | .tdesc _ => false
  else none

/-- A team as the words of an issued clause see it: the team control word is that of the time when the clause issued (R32). -/
def Team.inClause (tm : Team) (p : Pipe) : Team :=
  match p.clause with
  | some c => { tm with tctl := c.tctl }
  | none => tm

/-- GETS (R370). -/
def execGets (u : Bool) (d : Opnd) (num : BitVec 9) (s : State) : Out :=
  match s.site with
  | none => .fault .noIssueGroup
  | some (p, _) =>
      match s.beforeFlags p num with
      | some x => .next { (s.addHold (.earlier x.id)).keepWord p.id (.gets u d num) with focus := none }
      | none =>
          execLanes (.gets u d num) none (fun s th tids =>
            match s.site with
            | none => (s, none)
            | some (p, tm) =>
                match s.special (tm.inClause p) th num.toNat with
                | none => (s, some (fltWord 0x11 (.gets u d num)))
                | some v => (s.writeRegs tm.id tids [d] fun t => t.setReg d v, none)) s

/-- The sticky flags of a team that its other issue groups, its accesses or its commands have set in this cycle: they stay on what a SETS
writes (R110). -/
def State.flagsBeside (s : State) (team : TeamId) : Word :=
  s.flagsNow.foldl (fun w x => if x.1 = team ∧ x.2.1 ≠ s.focus then w ||| x.2.2 else w) 0

/-- SETS (R438): a nonzero reserved field, POL 0b11, a read-only or absent register raises 0x11 and changes nothing. -/
def execSets (u : Bool) (a : Opnd) (num : BitVec 9) (s : State) : Out :=
  execLanes (.sets u a num) none (fun s th _ =>
    let v := th.reg a
    match num.toNat with
    | 0x010 =>
        if fld v 3 29 ≠ 0 ∨ fld v 1 2 = 3 then (s, some (fltWord 0x11 (.sets u a num)))
        else (s.onTeam th.id.team fun t => { t with tctl := v }, none)
    | 0x011 =>
        if fld v 6 26 ≠ 0 then (s, some (fltWord 0x11 (.sets u a num)))
        else (s.onTeam th.id.team fun t => { t with tstat := v ||| s.flagsBeside th.id.team }, none)
    | _ => (s, some (fltWord 0x11 (.sets u a num)))) s

end Sys2Proof.Machine
end

