-- ==== Sys2Proof/Machine/Matrix.lean ====
section
/-!
DEFINITION. The matrix unit (14_matrix R219 to R233, 06_arithmetic R119 to R121, 22_ref R301 to R304, 24_ref R389, R397 to
R408): reservations, feeds, K-steps, granules, the epilogue, reset and watchdog.
-/
namespace Sys2Proof.Machine

/-! ## Granules (R225, R227) -/

/-- A matrix command executes once for its group; a fault at issue faults every active lane (R389). -/
def matrixBody (op : State → Pipe → Team → Thread → List Nat → State × Option Flt) : Body := fun s th tids =>
  match s.site with
  | none => (s, none)
  | some (p, tm) => op s p tm th tids

/-- Granules of one output shape. -/
def granCount (m n : Rows) (f64 : Bool) : Nat :=
  Sys2Proof.Machine.Rows.num m / 16 * (Sys2Proof.Machine.Rows.num n / 16) * (if f64 then 2 else 1)

/-- Whether a team holds `n` granule numbers from `g` on. -/
def Team.holds (t : Team) (g n : Nat) : Bool := (List.range n).all fun k => t.gran.any fun x => x.1 = g + k

/-- The accumulator address of element (m, n) of an output of `cols` columns (R225). -/
def elemAddr (gran cols : Nat) (f64 : Bool) (m n : Nat) : Nat :=
  let b := m / 16 * (cols / 16) + n / 16
  let e := m % 16 * 16 + n % 16
  if f64 then (gran + 2 * b) * 1024 + 8 * e else (gran + b) * 1024 + 4 * e

/-- Physical granules of a core that no team holds. -/
def State.freeGranules (s : State) (core : CoreId) : List Nat :=
  let used := (s.teams.filter fun t => t.id.core = core).flatMap fun t => t.gran.map fun g => g.2
  (List.range Config.granules).filter fun g => !used.contains g

/-- Zero one physical granule. -/
def State.zeroGranule (s : State) (core : CoreId) (g : Nat) : State :=
  let s := s.onCore core fun c => { c with acc := c.acc.clear (1024 * g) 1024 }
  { s with damage := s.damage.filter fun d =>
      match d with
      | .acc c u => !decide (c = core ∧ u / 64 = g)
      | _ => true }

/-- Whether an MLOOP sums into FP64: its A stream's format. -/
def Team.loop64 (t : Team) (arid : BitVec 3) : Bool :=
  match t.resv[arid.toFin] with
  | some r => r.fmt == .f64
  | none => false

/-- The granule numbers that a command names: the first and how many (R231). -/
def Cmd.grans (c : Cmd) (t : Team) : Option (Nat × Nat) :=
  match c.op with
  | .mloop _ g arid _ m n _ _ => some (g, granCount m n (t.loop64 arid))
  | .mdrain _ _ g r => some (g, granCount r.m r.n r.f64)
  | .mzero g n | .afree g n => some (g, n)
  | .cpy _ _ _ _ _ | .cpym _ _ _ _ _ | .cpyt _ _ _ _ _ _ | .cred _ _ _ _ _ _ | .post _ _ _ | .precv _ | .incoming _ _ | .jpost _ _
  | .mfeed _ _ _ _ _ | .orel _ => none

/-- Whether two granule ranges meet. -/
def meet (a b : Option (Nat × Nat)) : Bool :=
  match a, b with
  | some (g, n), some (h, m) => decide (g < h + m ∧ h < g + n)
  | _, _ => false

/-- Commands of a team that stand before one in issue order and have not finished (R231). -/
def State.earlier (s : State) (c : Cmd) : List Cmd :=
  (s.cmds.takeWhile fun e => e.id != c.id).filter fun e => decide (e.team = c.team ∧ e.phase ≠ .finished)

/-- Whether an earlier matrix command of the team names a common granule. -/
def State.granWaits (s : State) (c : Cmd) (tm : Team) : Bool :=
  (s.earlier c).any fun e => e.op.isMatrix && meet (e.grans tm) (c.grans tm)

/-- Remove a command. -/
def State.dropCmd (s : State) (id : Nat) : State := { s with cmds := s.cmds.filter fun c => !decide (c.id = id) }

/-- Whether a copy command accepted earlier reads or writes accumulator space in a granule range (R304). -/
def State.copyInRange (s : State) (c : Cmd) (g n : Nat) : Bool :=
  (s.earlier c).any fun e =>
    match e.op with
    | .cpy dsp ssp d a len =>
        let hit (sp : Space) (x : Addr) : Bool :=
          sp == .accum && decide (x.toNat < 1024 * (g + n) ∧ 1024 * g < x.toNat + len)
        hit dsp d || hit ssp a
    | _ => false

/-- Whether an AFREE waits for nothing any more (R228, R304). -/
def State.afreeReady (s : State) (c : Cmd) (tm : Team) (g n : Nat) : Bool := !s.granWaits c tm && !s.copyInRange c g n

/-- Let an AFREE take effect if it may: the numbers are unheld, and the command is gone. -/
def State.afreeStep (s : State) (c : Cmd) : State :=
  match c.op, s.cmdTeam c with
  | .afree g n, some tm =>
      if s.afreeReady c tm g n then
        (s.onTeam tm.id fun t => { t with gran := t.gran.filter fun x => !decide (g ≤ x.1 ∧ x.1 < g + n) }).dropCmd c.id
      else s
  | _, _ => s

/-- The AFREEs of a core that have come before an AALLOC, and wait for nothing, take effect first, in their order (R302). -/
def State.settleFrees (s : State) (core : CoreId) : State :=
  s.cmds.foldl (fun s c => if c.core = core then s.afreeStep c else s) s

/-- Whether a granule number is unheld: not mapped, and named by no AFREE of the team that has still to take effect (R302). -/
def State.unheld (s : State) (t : Team) (g : Nat) : Bool :=
  !(t.gran.any fun x => x.1 = g) && !s.cmds.any fun c => decide (c.team = t.id) && match c.op with
    | .afree h n => decide (h ≤ g ∧ g < h + n)
    | _ => false

/-- The map of an allocation: `c` consecutive unheld numbers to free physical granules, which are zeroed; none where either lacks. -/
def State.allocGranules (s : State) (t : Team) (c : Nat) : State × Option Nat :=
  let free := s.freeGranules t.id.core
  match (List.range (257 - c)).find? fun g => (List.range c).all fun k => s.unheld t (g + k) with
  | some g =>
      if c ≤ free.length then
        let s := s.onTeam t.id fun t => { t with gran := t.gran ++ (List.range c).map fun k => (g + k, free.getD k 0) }
        ((free.take c).foldl (fun s k => s.zeroGranule t.id.core k) s, some g)
      else (s, none)
  | none => (s, none)

/-- AALLOC (R301, R302). -/
def execAalloc (d c : Opnd) (s : State) : Out :=
  execLanes (.aalloc d c) none (matrixBody fun s _ tm th tids =>
    let n := (th.reg c).toNat
    if n < 1 ∨ 256 < n then (s, some (fltWord 0x11 (.aalloc d c)))
    else
      let s := s.settleFrees tm.id.core
      let r := s.allocGranules ((s.team tm.id).getD tm) n
      let v : Word := match r.2 with
        | some g => BitVec.ofNat 32 g
        | none => 0xFFFFFFFF
      (r.1.writeRegs tm.id tids [d] fun t => t.setReg d v, none)) s

/-- A matrix command that has passed its checks is entered into the unit, and the group goes on (R389). -/
def State.enterMatrix (s : State) (tm : Team) (th : Thread) (tids : List Nat) (op : CmdOp) (guard : BitVec 4) (scope : Scope)
    (slate : SlateAt) (status : Option Word) : State :=
  s.issue (newCmd s tm th tids op guard scope slate (match slate with
    | .team _ o => o
    | .grid _ | .saved _ _ _ => 0) status .queued)

/-- The checks of a granule range (R228). -/
def granFault (i : Instr) (tm : Team) (g n : Nat) : Option Flt :=
  if n < 1 ∨ 256 < n then some (fltWord 0x11 i) else if tm.holds g n then none else some (fltWord 0x42 i)

/-- AFREE (R303). -/
def execAfree (g : Opnd) (count : BitVec 9) (s : State) : Out :=
  execLanes (.afree g count) none (matrixBody fun s _ tm th tids =>
    match granFault (.afree g count) tm (th.reg g).toNat count.toNat with
    | some f => (s, some f)
    | none =>
        (s.enterMatrix tm th tids (.afree (th.reg g).toNat count.toNat) 0 .thread (.team tm.id 0) none, none)) s

/-- MZERO (R404). -/
def execMzero (g : Opnd) (count : BitVec 9) (s : State) : Out :=
  execLanes (.mzero g count) none (matrixBody fun s _ tm th tids =>
    match granFault (.mzero g count) tm (th.reg g).toNat count.toNat with
    | some f => (s, some f)
    | none =>
        (s.enterMatrix tm th tids (.mzero (th.reg g).toNat count.toNat) 0 .thread (.team tm.id 0) none, none)) s

/-! ## Reservations (R219 to R222) -/

/-- Whether an OREL of a reservation waits to take effect: commands issued after it find the RID not live (R407). -/
def State.releasing (s : State) (t : TeamId) (rid : BitVec 3) : Bool :=
  s.cmds.any fun c => decide (c.team = t ∧ c.op = .orel rid)

/-- The reservation that a command names, if it is live for it. -/
def State.liveResv (s : State) (tm : Team) (rid : BitVec 3) : Option Resv :=
  if s.releasing tm.id rid then none else tm.resv[rid.toFin]

/-- Whether an extent overlaps a live reservation of the core. -/
def State.extentTaken (s : State) (core : CoreId) (start len : Nat) : Bool :=
  (s.teams.filter fun t => t.id.core = core).any fun t =>
    t.resv.toList.any fun r => match r with
      | some x => decide (start < x.start + x.len ∧ x.start < start + len)
      | none => false

/-- ORES (R219). A RID whose OREL has still to take effect raises 0x41, even where that OREL waits for nothing: when it takes effect against
a later ORES the spec does not say (DESIGN CHOICE, log 128). -/
def execOres (a b c : Opnd) (fmt : Fmt) (gl : GroupLen) (rid : BitVec 3) (rw : Rows) (s : State) : Out :=
  execLanes (.ores a b c fmt gl rid rw) none (matrixBody fun s _ tm th _ =>
    let i : Instr := .ores a b c fmt gl rid rw
    let x := th.reg a
    let len := (fld x 16 10).toNat
    let start := (fld x 0 9).toNat
    let so := th.reg b
    let zo := th.reg c
    let q := fmt == .q8 || fmt == .q4
    match firstFlt
        [(fld x 26 6 != 0 || fld x 9 7 != 0 || decide (len = 0 ∨ 512 < start + len), fltWord 0x11 i),
         (Sys2Proof.Machine.Fmt.plainInt fmt, fltWord 0x11 i),
         (tm.resv[rid.toFin].isSome || s.extentTaken tm.id.core start len, fltWord 0x41 i),
         (q && so.toNat % 2 != 0, fltAt 0x01 (so.setWidth 64)),
         (q && !tm.progOk so.toNat 1, fltAt 0x05 (so.setWidth 64)),
         (q && !tm.progOk zo.toNat 1, fltAt 0x05 (zo.setWidth 64))] with
    | some f => (s, some f)
    | none =>
        let r : Resv := { start := start, len := len, fmt := fmt, gl := gl, rw := rw, gcnt := 0, fill := 0, rcur := 0,
                          soff := if q then so else 0, zoff := if q then zo else 0 }
        (s.onTeam tm.id fun t => { t with resv := t.resv.set rid.toFin (some r) }, none)) s

/-- OREL (R407). -/
def execOrel (rid : BitVec 3) (s : State) : Out :=
  execLanes (.orel rid) none (matrixBody fun s _ tm th tids =>
    if (s.liveResv tm rid).isNone then (s, some (fltWord 0x41 (.orel rid)))
    else (s.enterMatrix tm th tids (.orel rid) 0 .thread (.team tm.id 0) none, none)) s

/-! ## MFEED (R223, R398) -/

/-- The checks of MFEED. Of several causes of one word the first of this order is raised, of which R223 and R35 say nothing (DESIGN CHOICE,
log 129). -/
def feedChecks (i : Instr) (a b : Opnd) (rid : BitVec 3) (e : EngCtl) (s : State) (tm : Team) (th : Thread) :
    List (Bool × Flt) :=
  let tile := e.ssp == .global
  let sa : Addr := if tile then th.reg64 a else (th.reg a).setWidth 64
  let slot := tm.tile (th.reg b)
  let desc := slot.getD 0
  let n := if tile then tileBytes desc else (th.reg b).toNat
  let r := s.liveResv tm rid
  [(tile && slot.isNone, fltWord 0x11 i), (decide (n % 128 ≠ 0 ∨ 65536 < n), fltWord 0x11 i),
   (e.dsp != .global, fltAt 0x08 0), (!(tile || e.ssp == .own || e.ssp == .peer), fltAt 0x08 sa),
   (!tile && sa.toNat % 16 != 0, fltAt 0x01 sa), (tile && tileRow desc % 32 != 0, fltAt 0x01 (tileBase desc))]
    ++ slateChecks (some tm) (th.reg e.l) ++ statusChecks tm (statusOf e th)
    ++ (if tile then s.flatChecks tm .rd (BitVec.ofNat 64 (tileBase desc))
            (tileBlocks desc (sa.setWidth 32) (sa.extractLsb' 32 32))
        else s.rangeChecks i tm e.ssp sa n false)
    ++ [(match r with
        | none => true
        | some x => tile && tileFmt desc != some x.fmt, fltWord 0x41 i)]
    ++ guardChecks tm e.guard

/-- MFEED (R398). -/
def execMfeed (a b : Opnd) (rid : BitVec 3) (e : EngCtl) (s : State) : Out :=
  execLanes (.mfeed a b rid e) none (matrixBody fun s _ tm th tids =>
    match firstFlt (feedChecks (.mfeed a b rid e) a b rid e s tm th) with
    | some f => (s, some f)
    | none =>
        let tile := e.ssp == .global
        let desc := if tile then (tm.tile (th.reg b)).getD 0 else 0
        let op : CmdOp := .mfeed rid e.ssp (if tile then th.reg64 a else (th.reg a).setWidth 64) desc
          (if tile then tileBytes desc else (th.reg b).toNat)
        (s.enterMatrix tm th tids op e.guard e.scope (.team tm.id (th.reg e.l).toNat) (statusOf e th), none)) s

/-! ## MLOOP (R224 to R226, R399) -/

/-- Elements of one K-step (Table 6.11); 0 for a format that no step takes. -/
def kStep : Fmt → Nat
  | .f64 => 4
  | .bf16 | .h16 => 16
  | .e4m3 | .e5m2 | .q8 => 32
  | .q4 => 64
  | .f32 | .i32 | .n32 | .i16 | .n16 | .i64 | .n64 => 0

/-- Whether two stream formats may be paired (R119). -/
def pairOk (a b : Fmt) : Bool :=
  (a == b && kStep a != 0) || ((a == .e4m3 || a == .e5m2) && (b == .e4m3 || b == .e5m2))

/-- The length of a Q group. -/
def GroupLen.num : GroupLen → Nat
  | .g32 => 32
  | .g64 => 64
  | .g128 => 128

/-- Whether a format is one of the Q formats. -/
def Fmt.isQuant (f : Fmt) : Bool := f == .q8 || f == .q4

/-- Whether the reservations of an MLOOP do not fit it (R224). -/
def loopMismatch (steps : Nat) (lc : LoopCtl) (ra rb : Option Resv) : Bool :=
  match ra, rb with
  | some a, some b =>
      let q := Sys2Proof.Machine.Fmt.isQuant a.fmt
      let fits (r : Resv) (keep : Bool) : Bool :=
        decide ((if keep then steps else 1) * (Sys2Proof.Machine.Rows.num r.rw / 4) ≤ r.len)
      !pairOk a.fmt b.fmt || a.rw != lc.m || b.rw != lc.n ||
        (q && (a.gl != b.gl || steps * kStep a.fmt % Sys2Proof.Machine.GroupLen.num a.gl != 0)) ||
        !fits a lc.ak || !fits b lc.bk
  | _, _ => true

/-- MLOOP (R399). -/
def execMloop (a b c : Opnd) (lc : LoopCtl) (s : State) : Out :=
  execLanes (.mloop a b c lc) none (matrixBody fun s _ tm th tids =>
    let i : Instr := .mloop a b c lc
    let steps := (th.reg a).toNat
    let g := (th.reg b).toNat
    let ra := s.liveResv tm lc.arid
    let f64 := match ra with
      | some r => r.fmt == .f64
      | none => false
    match firstFlt ([(decide (steps = 0 ∨ 65535 < steps), fltWord 0x11 i),
        (loopMismatch steps lc ra (s.liveResv tm lc.brid), fltWord 0x41 i),
        ((f64 && g % 2 != 0) || !tm.holds g (granCount lc.m lc.n f64), fltWord 0x42 i)]
        ++ slateChecks (some tm) (th.reg c) ++ guardChecks tm lc.guard) with
    | some f => (s, some f)
    | none =>
        (s.enterMatrix tm th tids (.mloop steps g lc.arid lc.brid lc.m lc.n lc.ak lc.bk) lc.guard .thread
          (.team tm.id (th.reg c).toNat) none, none)) s

/-- Whether the guard of a command discards it, as far as it stands now: by what the slot has said at the head, else by the slot. -/
def State.guardDiscards (s : State) (c : Cmd) : Bool :=
  c.guard != 0 && match c.ruled with
    | some (yes, _) => !yes
    | none => (s.guardRule c).any fun x => !x.1

/-- Whether a command that is issued now will find an FP64 accumulator in granule `g` (R229): by the latest MLOOP in issue order that names
`g` and that no guard discards as it stands, else by the one that has written `g` (log 50). -/
def State.holds64 (s : State) (tm : Team) (g : Nat) : Bool :=
  match (s.cmds.filter fun c => decide (c.team = tm.id ∧ c.phase ≠ .finished) && !s.guardDiscards c && (match c.op with
      | .mloop _ _ _ _ _ _ _ _ => true
      | _ => false) && meet (c.grans tm) (some (g, 1))).getLast? with
  | some c => match c.op with
    | .mloop _ _ arid _ _ _ _ _ => tm.loop64 arid
    | _ => false
  | none => tm.f64.contains g

/-! ## One step -/

/-- An operand-buffer line of a stream: its data, and whether it is a failed line. -/
def Core.bufLine (c : Core) (n : Nat) : Line × Bool :=
  match c.opbuf.find? fun x => x.1 = n with
  | some x => x.2
  | none => (0, false)

/-- Where the slab of step `k` starts in a reservation, and whether it is in place (R226). -/
def Resv.slab (r : Resv) (keep : Bool) (k : Nat) : Nat × Bool :=
  let w := Sys2Proof.Machine.Rows.num r.rw / 4
  if keep then (r.rcur + k * w, decide ((k + 1) * w ≤ r.fill)) else (r.rcur, decide (w ≤ r.fill))

/-- The 32 bytes of one row of a slab, and whether its line failed (R222). -/
def Core.slabRow (c : Core) (r : Resv) (at' row : Nat) : List Byte × Bool :=
  let l := c.bufLine (r.start + (at' + row / 4) % r.len)
  (lineBytes l.1 (32 * (row % 4)) 32, l.2)

/-- Elements of `w` bytes of a row. -/
def rowElems (w : Nat) (bs : List Byte) : List Nat := (List.range (bs.length / w)).map fun k => natOfBytes ((bs.drop (w * k)).take w)

/-- The values of a row of a floating-point stream. -/
def rowVals (f : Fmt) (bs : List Byte) : List FVal :=
  match fmtLayout f with
  | some l => (rowElems (l.width / 8) bs).map fun x => l.read x
  | none => []

/-- The codes of a row of a Q stream. -/
def rowCodes (f : Fmt) (bs : List Byte) : List Nat :=
  if f = .q4 then (List.range 64).map fun k => nibAt bs k else bs.map fun b => b.toNat

/-- One floating-point step of one element (R119); `bad` is a failed line (R226). -/
def floatStep (f : FFmt) (acc : Nat) (as bs : List FVal) (bad : Bool) : Nat × Word :=
  if (f.read acc).isNan then (acc, 0)
  else if bad || as.any FVal.isNan || bs.any FVal.isNan then f.invalid 1
  else
    let ps := List.zipWith exactMul as bs
    if ps.any fun p => p.isNone then f.invalid 4 else f.sum .rn (f.read acc :: ps.filterMap id)

/-- One group's update of an element (R120); a scale that cannot be read is none. -/
def quantStep (acc : Nat) (sa sb : Option Nat) (p : Int) (bad : Bool) : Nat × Word :=
  if (fp32.read acc).isNan then (acc, 0)
  else if bad then fp32.invalid 1
  else
    match sa.map fp16.read, sb.map fp16.read with
    | some x, some y =>
        if x.isNan || y.isNan then fp32.invalid 2
        else
          let w := fp32.mul .rn x y
          let term := fp32.mul .rn (fp32.read w.1) (.fin (decide (p < 0)) p.natAbs 0)
          if (fp32.read term.1).isNan then (term.1, term.2 ||| (w.2 &&& flNV))
          else fp32.add .rn (fp32.read acc) (fp32.read term.1)
    | _, _ => fp32.invalid 2

/-- Scale and zero point of group `j` for a row of a stream: none outside the program area (R226). -/
def State.quantPar (s : State) (tm : Team) (r : Resv) (j row : Nat) : Option Nat × Nat :=
  let k := (r.gcnt.toNat + j) * Sys2Proof.Machine.Rows.num r.rw + row
  let so := r.soff.toNat + 2 * k
  let zo := r.zoff.toNat + k
  if !tm.progOk so 2 || !tm.progOk zo 1 || s.spadDamaged tm.id so 2 || s.spadDamaged tm.id zo 1 then (none, 0)
  else
    let z := tm.spad.getNat zo 1
    (some (tm.spad.getNat so 2), if r.fmt = .q4 then z % 16 else z)

/-- An accumulator element's bytes. -/
def accWidth (f64 : Bool) : Nat := if f64 then 8 else 4

/-- Update one element by a function of its pattern; an element that is not held or is damaged fails. -/
def State.onElem (s : State) (tm : Team) (a w : Nat) (f : Nat → Nat × Word) : State × Word × Bool :=
  if (tm.accPhys a).isNone || s.accDamaged tm a then (s, 0, true)
  else
    let r := f (natOfBytes (s.accRead tm a w))
    (s.accWrite tm a (bytesOfNat w r.1), r.2, false)

/-- Run over every element of a shape: the flags, and whether any failed. -/
def State.overShape (s : State) (m n : Nat) (f : State → Nat → Nat → State × Word × Bool) : State × Word × Bool :=
  (List.range (m * n)).foldl (fun (a : State × Word × Bool) k =>
    let r := f a.1 (k / n) (k % n)
    (r.1, a.2.1 ||| r.2.1, a.2.2 || r.2.2)) (s, 0, false)

/-- Whether a step reads a failed line (R226). -/
def Core.slabFailed (c : Core) (ra rb : Resv) (sa sb m n : Nat) : Bool :=
  (List.range m).any (fun i => (c.slabRow ra sa i).2) || (List.range n).any fun j => (c.slabRow rb sb j).2

/-- One floating-point step of an MLOOP: a failed line spoils every element (R226). -/
def State.stepFloat (s : State) (tm : Team) (g m n : Nat) (ra rb : Resv) (sa sb : Nat) : State × Word × Bool :=
  let core := s.core tm.id.core
  let f64 := ra.fmt == .f64
  let lay := if f64 then fp64 else fp32
  let bad := core.slabFailed ra rb sa sb m n
  s.overShape m n fun s i j =>
    let r := s.onElem tm (elemAddr g n f64 i j) (accWidth f64) fun acc =>
      floatStep lay acc (rowVals ra.fmt (core.slabRow ra sa i).1) (rowVals rb.fmt (core.slabRow rb sb j).1) bad
    (r.1, r.2.1, r.2.2 || bad)

/-- The part of a group that lies in one step. -/
def groupPart (l : List Nat) (lo span : Nat) : List Nat := (l.drop lo).take span

/-- One group's exact partial sum over part of a step (R120). -/
def partSum (xa xb : List Nat) (za zb : Nat) : Int :=
  (List.zipWith (fun (x y : Nat) => ((x : Int) - za) * ((y : Int) - zb)) xa xb).foldl (fun a v => a + v) 0

/-- One Q step of an MLOOP (R121): the groups that end in it update their elements; the sums of one that does not are
kept, with whether it has met a failed line. `k` is the step, `old` the sums held and `oldBad` their failure. -/
def State.stepQuant (s : State) (tm : Team) (g m n k : Nat) (ra rb : Resv) (sa sb : Nat) (old : List Int) (oldBad : Bool) :
    State × Word × Bool × List Int × Bool :=
  let core := s.core tm.id.core
  let kst := kStep ra.fmt
  let gl := Sys2Proof.Machine.GroupLen.num ra.gl
  let span := min gl kst
  let sums (lo i j : Nat) (old : List Int) : Int :=
    let grp := (k * kst + lo) / gl
    old.getD (i * n + j) 0 + partSum (groupPart (rowCodes ra.fmt (core.slabRow ra sa i).1) lo span)
      (groupPart (rowCodes rb.fmt (core.slabRow rb sb j).1) lo span) (s.quantPar tm ra grp i).2 (s.quantPar tm rb grp j).2
  let bad := core.slabFailed ra rb sa sb m n
  if ((k + 1) * kst) % gl ≠ 0 then
    (s, 0, bad, (List.range (m * n)).map fun x => sums 0 (x / n) (x % n) old, oldBad || bad)
  else
    let r := (List.range (kst / span)).foldl (fun (a : State × Word × Bool) b =>
      let lo := span * b
      let grp := (k * kst + lo) / gl
      let poison := bad || (oldBad && b == 0)
      let x := a.1.overShape m n fun s i j =>
        let pa := s.quantPar tm ra grp i
        let pb := s.quantPar tm rb grp j
        let e := s.onElem tm (elemAddr g n false i j) 4 fun acc =>
          quantStep acc pa.1 pb.1 (sums lo i j (if b = 0 then old else [])) poison
        (e.1, e.2.1, e.2.2 || poison || pa.1.isNone || pb.1.isNone)
      (x.1, a.2.1 ||| x.2.1, a.2.2 || x.2.2)) (s, 0, false)
    (r.1, r.2.1, r.2.2, [], false)

/-- A consumed stream advances by one slab (R226). -/
def Resv.consume (r : Resv) : Resv :=
  let w := Sys2Proof.Machine.Rows.num r.rw / 4
  { r with rcur := (r.rcur + w) % r.len, fill := r.fill - w }

/-- Change a live reservation of a team. -/
def State.onResv (s : State) (t : TeamId) (rid : BitVec 3) (f : Resv → Resv) : State :=
  s.onTeam t fun x => { x with resv := x.resv.set rid.toFin (x.resv[rid.toFin].map f) }

/-- The matrix unit has made progress (R232). -/
def State.madeProgress (s : State) (core : CoreId) : State := s.onCore core fun c => { c with progress := 0 }

/-- An MLOOP has run its last step: GCNT of consumed Q streams, and the arrival (R226). -/
def State.finishLoop (s : State) (c : Cmd) (steps : Nat) (arid brid : BitVec 3) (ak bk : Bool) : State :=
  let adv (r : Resv) : Resv :=
    if Sys2Proof.Machine.Fmt.isQuant r.fmt then
      { r with gcnt := r.gcnt + BitVec.ofNat 16 (steps * kStep r.fmt / Sys2Proof.Machine.GroupLen.num r.gl) }
    else r
  let s := if ak then s else s.onResv c.team arid adv
  let s := if bk then s else s.onResv c.team brid adv
  match s.cmd c.id with
  | some x => (s.cmdCredit x 0 0 1 x.err).onCmd c.id fun y => { y with phase := .finished }
  | none => s

/-- An MLOOP has written granules: they hold an FP64 accumulator, or no longer one (R229). -/
def State.noteFormat (s : State) (tm : Team) (g n : Nat) (f64 : Bool) : State :=
  let rng := (List.range n).map fun k => g + k
  s.onTeam tm.id fun t => { t with f64 := (t.f64.filter fun x => !rng.contains x) ++ if f64 then rng else [] }

/-- One step of an MLOOP whose slabs are in place. -/
def State.loopStep (s : State) (c : Cmd) (tm : Team) (steps g : Nat) (arid brid : BitVec 3) (m n : Rows) (ak bk : Bool)
    (ra rb : Resv) : State :=
  let sa := ra.slab ak c.pos
  let sb := rb.slab bk c.pos
  if !sa.2 || !sb.2 then s
  else
    let q := Sys2Proof.Machine.Fmt.isQuant ra.fmt
    let mm := Sys2Proof.Machine.Rows.num m
    let nn := Sys2Proof.Machine.Rows.num n
    let r : State × Word × Bool × List Int × Bool :=
      if q then s.stepQuant tm g mm nn c.pos ra rb sa.1 sb.1 c.psums c.bad
      else
        let x := s.stepFloat tm g mm nn ra rb sa.1 sb.1
        (x.1, x.2.1, x.2.2, [], false)
    let s := (r.1.setFlags c.team (r.2.1 &&& (flNV ||| flOF))).madeProgress c.core
    let s := if c.pos = 0 then s.noteFormat tm g (granCount m n (tm.loop64 arid)) (tm.loop64 arid) else s
    let s := if ak then s else s.onResv c.team arid Resv.consume
    let s := if bk then s else s.onResv c.team brid Resv.consume
    let s := s.onCmd c.id fun x =>
      { x with pos := x.pos + 1, err := x.err || r.2.2.1, psums := r.2.2.2.1, bad := r.2.2.2.2 }
    if c.pos + 1 = steps then s.finishLoop c steps arid brid ak bk else s

/-- MLOOP_STEP (R226), by command. -/
def execMloopStep (id : Nat) (s : State) : Out :=
  match s.cmd id with
  | none => event s
  | some c =>
      match c.op, s.cmdTeam c with
      | .mloop steps g arid brid m n ak bk, some tm =>
          match tm.resv[arid.toFin], tm.resv[brid.toFin] with
          | some ra, some rb =>
              if c.phase = .running then event (s.loopStep c tm steps g arid brid m n ak bk ra rb) else event s
          | _, _ => event s
      | _, _ => event s

/-! ## MFEED lines (R223) -/

/-- Whether an earlier unfinished feed of the same reservation still enters its lines. -/
def State.feedWaits (s : State) (c : Cmd) (rid : BitVec 3) : Bool :=
  (s.earlier c).any fun e => match e.op with
    | .mfeed r _ _ _ _ => r == rid
    | _ => false

/-- The 128 bytes of the line that a feed enters next. -/
def Cmd.feedLine (c : Cmd) : Line :=
  BitVec.ofNat 1024 (natOfBytes (c.pieces.flatMap fun p => p.over (List.replicate 16 0)))

/-- Enter the next line of a feed into its reservation, failed or not, and credit its bytes. -/
def State.enterLine (s : State) (c : Cmd) (rid : BitVec 3) (r : Resv) : State :=
  let at' := r.start + (r.rcur + r.fill) % r.len
  let s := s.onCore c.core fun k =>
    { k with opbuf := (at', if c.bad then 0 else c.feedLine, c.bad) :: k.opbuf.filter fun x => !decide (x.1 = at') }
  let s := (s.onResv c.team rid fun r => { r with fill := r.fill + 1 }).madeProgress c.core
  let s := s.cmdCredit c 0 128 0 c.bad
  let s := s.onCmd c.id fun x => { x with credited := x.credited + 128, pos := x.pos + 1, rd := 0, buf := [] }
  if c.pos + 1 = c.op.groups then (s.releaseLines c.id).onCmd c.id fun x => { x with phase := .finished } else s

/-- MFEED_LINE_ENTER (R223), by command. -/
def execMfeedLineEnter (id : Nat) (s : State) : Out :=
  match s.cmd id with
  | none => event s
  | some c =>
      match c.op, s.cmdTeam c with
      | .mfeed rid _ _ _ _, some tm =>
          match tm.resv[rid.toFin] with
          | some r =>
              if c.phase = .running ∧ r.fill < r.len ∧ (c.bad ∨ c.rd = c.units.length) ∧ !s.feedWaits c rid then
                event (s.enterLine c rid r)
              else event s
          | none => event s
      | _, _ => event s

/-! ## MDRAIN (R229, R230, R397) -/

/-- A vector of the drain record: absent, or its offset. -/
def vecOf (w : Nat) : Option Nat := if w = 0xFFFFFFFF then none else some w

/-- An output format code of a drain record. -/
def drainFmt (v : BitVec 256) : Option Fmt := if bitsOf v.toNat 8 4 ≤ 6 then Sys2Proof.Fmt.ofCode (v.extractLsb' 8 4) else none

/-- The rows or columns of a drain record. -/
def drainRows (c : Nat) : Option Rows :=
  match c with
  | 0 => some .r16
  | 1 => some .r32
  | 2 => some .r64
  | _ => none

/-- Rounding codes of a drain record (Table 5.4). -/
def drainRnd (c : Nat) : Rnd :=
  match c with
  | 0 => .rn
  | 1 => .rz
  | 2 => .ru
  | _ => .rd

/-- The transform of a drain record (Table 14.9); none when a field is reserved. -/
def drainOf (v : BitVec 256) (zero f64 : Bool) : Option Drain :=
  let x := v.toNat
  match drainFmt v, drainRows (bitsOf x 2 2), drainRows (bitsOf x 0 2) with
  | some o, some m, some n =>
      if bitsOf x 12 52 ≠ 0 then none
      else
        some { rs := vecOf (bitsOf x 224 32), cs := vecOf (bitsOf x 192 32), bias := vecOf (bitsOf x 160 32),
               hi := v.extractLsb' 128 32, lo := v.extractLsb' 96 32, dstride := (v.extractLsb' 64 32).setWidth 64,
               ofmt := o, rnd := drainRnd (bitsOf x 6 2), clamp := v.getLsbD 5, sat := v.getLsbD 4, m := m, n := n,
               zero := zero, f64 := f64 }
  | _, _, _ => none

/-- Whether the clamp limits are no numbers or out of order. -/
def Drain.badClamp (r : Drain) : Bool :=
  r.clamp && ((fp32.read r.lo.toNat).isNan || (fp32.read r.hi.toNat).isNan ||
    decide (fp32.key false r.hi.toNat < fp32.key false r.lo.toNat))

/-- The checks of one vector of a drain record. -/
def vecChecks (tm : Team) (v : Option Nat) (n : Nat) : List (Bool × Flt) :=
  match v with
  | none => []
  | some o =>
      [(o % 4 != 0, fltAt 0x01 (BitVec.ofNat 64 o)), (!tm.progOk o (4 * n), fltAt 0x05 (BitVec.ofNat 64 o))]

/-- The checks of MDRAIN on a record that has been read (R229). Of several causes the first of this order is raised (DESIGN CHOICE, log 129). -/
def drainChecks (i : Instr) (d : Addr) (g : Nat) (e : EngCtl) (r : Drain) (s : State) (tm : Team) (th : Thread) :
    List (Bool × Flt) :=
  let m := Sys2Proof.Machine.Rows.num r.m
  let n := Sys2Proof.Machine.Rows.num r.n
  [(r.ofmt == .f64 && !r.f64, fltWord 0x11 i), (r.badClamp, fltWord 0x11 i),
   (e.ssp != .accum || e.dsp == .accum || !Sys2Proof.Machine.Space.copyOk e.dsp false || e.dsp == .parcel, fltAt 0x08 d),
   (d.toNat % 16 != 0 || r.dstride.toNat % 16 != 0 || r.rowBytes % 16 != 0, fltAt 0x01 d)]
    ++ slateChecks (s.ownerOf tm e.dsp d) (th.reg e.l) ++ statusChecks tm (statusOf e th)
    ++ (if e.dsp = .global then s.flatChecks tm .wr d ((CmdOp.mdrain e.dsp d g r).blocks d.toNat)
        else s.rangeChecks i tm e.dsp d ((m - 1) * r.dstride.toNat + r.rowBytes) true)
    ++ vecChecks tm r.rs m ++ vecChecks tm r.cs n ++ vecChecks tm r.bias n
    ++ [((r.f64 && g % 2 != 0) || !tm.holds g (granCount r.m r.n r.f64), fltWord 0x42 i)] ++ guardChecks tm e.guard

/-- MDRAIN (R397): the drain record is read at issue. -/
def execMdrain (d a b : Opnd) (zero : Bool) (e : EngCtl) (s : State) : Out :=
  execLanes (.mdrain d a b zero e) none (matrixBody fun s _ tm th tids =>
    let i : Instr := .mdrain d a b zero e
    let off := (th.reg b).toNat
    let da := engAddr th e.dsp d
    let g := (th.reg a).toNat
    match firstFlt [(off % 16 != 0, fltAt 0x01 ((th.reg b).setWidth 64)), (!tm.progOk off 32, fltAt 0x05 ((th.reg b).setWidth 64)),
        (s.spadDamaged tm.id off 32, { cause := 0x60, addr := (th.reg b).setWidth 64, extra := 5 })] with
    | some f => (s, some f)
    | none =>
        match drainOf (BitVec.ofNat 256 (tm.spad.getNat off 32)) zero (s.holds64 tm g) with
        | none => (s, some (fltWord 0x11 i))
        | some r =>
            match firstFlt (drainChecks i da g e r s tm th) with
            | some f => (s, some f)
            | none =>
                let slate : SlateAt := .team (match s.ownerOf tm e.dsp da with
                  | some o => o.id
                  | none => tm.id) (th.reg e.l).toNat
                (s.enterMatrix tm th tids (.mdrain e.dsp da g r) e.guard e.scope slate (statusOf e th), none)) s

/-- One factor or addend of the epilogue: a NaN gives qnan(2) or qnan(1); a NaN accumulator is kept (R230). -/
def drainTerm (f : FFmt) (scale : Bool) (x : Nat × Word) (v : Option Nat) : Nat × Word :=
  match v with
  | none => x
  | some y =>
      let w := fp32.read y
      if (f.read x.1).isNan then x
      else
        let r := if w.isNan then f.invalid (if scale then 2 else 1)
          else if scale then f.mul .rn (f.read x.1) w else f.add .rn (f.read x.1) w
        (r.1, x.2 ||| r.2)

/-- The epilogue of one element (R230): the output pattern and the flags. -/
def drainElem (r : Drain) (x : Nat) (rs cs b : Option Nat) : Nat × Word :=
  let f := if r.f64 then fp64 else fp32
  let sf : Fmt := if r.f64 then .f64 else .f32
  let y := drainTerm f false (drainTerm f true (drainTerm f true (x, 0) rs) cs) b
  let lim (w : Word) : Nat := (convert sf .f32 .rn false w.toNat).1
  let z := if r.clamp && !(f.read y.1).isNan then
      (f.minmax false (f.minmax true y.1 (lim r.lo)).1 (lim r.hi)).1
    else y.1
  let o := convert r.ofmt sf r.rnd r.sat z
  (o.1, y.2 ||| o.2)

/-- A value of a vector in the scratchpad. -/
def Team.vecVal (t : Team) (v : Option Nat) (k : Nat) : Option Nat := v.map fun o => t.spad.getNat (o + 4 * k) 4

/-- Whether something that MDRAIN reads is damaged or not held: its cause. -/
def State.drainBad (s : State) (tm : Team) (g : Nat) (r : Drain) : Option (BitVec 8) :=
  let n := granCount r.m r.n r.f64
  let vec (v : Option Nat) (k : Nat) : Bool := match v with
    | some o => s.spadDamaged tm.id o (4 * k)
    | none => false
  if (r.f64 && g % 2 != 0) || !tm.holds g n then some 0x42
  else if ((List.range (64 * n)).any fun u => s.accDamaged tm (1024 * g + 16 * u)) ||
      vec r.rs (Sys2Proof.Machine.Rows.num r.m) || vec r.cs (Sys2Proof.Machine.Rows.num r.n) ||
      vec r.bias (Sys2Proof.Machine.Rows.num r.n) then some 0x60
  else none

/-- Read and transform every element of an MDRAIN, row by row; Z zeroes each after it is read. -/
def State.drainRead (s : State) (c : Cmd) (tm : Team) (g : Nat) (r : Drain) : State :=
  let m := Sys2Proof.Machine.Rows.num r.m
  let n := Sys2Proof.Machine.Rows.num r.n
  let out := (List.range (m * n)).map fun k =>
    let x := natOfBytes (s.accRead tm (elemAddr g n r.f64 (k / n) (k % n)) (accWidth r.f64))
    drainElem r x (tm.vecVal r.rs (k / n)) (tm.vecVal r.cs (k % n)) (tm.vecVal r.bias (k % n))
  let s := s.setFlags c.team (out.foldl (fun a x => a ||| x.2) 0)
  let s := if r.zero then
      (List.range (granCount r.m r.n r.f64)).foldl (fun s k =>
        match tm.accPhys (1024 * (g + k)) with
        | some p => s.zeroGranule tm.id.core (p / 1024)
        | none => s) s
    else s
  s.onCmd c.id fun x => { x with buf := out.flatMap fun y => bytesOfNat (fmtBytes r.ofmt) y.1 }

/-- An MDRAIN starts: its destination is checked, then its elements are read, as FP64 where the MLOOP that wrote them was FP64. -/
def State.startDrain (s : State) (c : Cmd) (tm : Team) (dsp : Space) (d : Addr) (g : Nat) (r : Drain) : State :=
  let s := (s.onCmd c.id fun x => { x with op := .mdrain dsp d g r }).startCopy c.id
  match s.cmd c.id with
  | some x =>
      if x.phase ≠ .running then s
      else
        match s.drainBad tm g r with
        | some k => s.stopCmd c.id k
        | none => s.drainRead c tm g r
  | none => s

/-! ## Order and effects (R228, R231) -/

/-- Whether the order of R231 lets a matrix command start: MLOOPs of one RID in issue order, MFEEDs of one RID, and common granules. -/
def State.matrixTurn (s : State) (c : Cmd) (tm : Team) : Bool :=
  match c.op with
  | .mfeed rid _ _ _ _ => !(s.earlier c).any fun e => match e.op with
      | .mfeed r _ _ _ _ => r == rid && e.phase != .running
      | _ => false
  | .mloop _ _ a b _ _ _ _ => !s.granWaits c tm && !(s.earlier c).any fun e => match e.op with
      | .mloop _ _ x y _ _ _ _ => x == a || x == b || y == a || y == b
      | _ => false
  | .mdrain _ _ _ _ => !s.granWaits c tm
  | _ => false

/-- Whether a matrix command may start: it is its turn, and its issuers' earlier accesses have performed (10_ordering R192). -/
def State.matrixReady (s : State) (c : Cmd) (tm : Team) : Bool := s.issueReleased c && s.matrixTurn c tm

/-- A command of the unit is discarded by its guard: an MLOOP credits its arrival (R226), the others their bytes. -/
def State.discardMatrix (s : State) (c : Cmd) : State :=
  match c.op with
  | .mloop _ _ _ _ _ _ _ _ =>
      (s.cmdCredit c 0 0 1 false).onCmd c.id fun x => { x with disc := true, phase := .finished }
  | _ => s.discardCmd c.id

/-- A command of the unit starts. -/
def State.startMatrix (s : State) (c : Cmd) (tm : Team) : State :=
  match c.op with
  | .mfeed _ _ _ _ len =>
      s.onCmd c.id fun x => { x with phase := if len = 0 then .finished else .running }
  | .mloop _ _ _ _ _ _ _ _ => s.onCmd c.id fun x => { x with phase := .running }
  | .mdrain dsp d g r => s.startDrain c tm dsp d g { r with f64 := tm.f64.contains g }
  | _ => s

/-- MZERO_EFFECT (R228), by command. -/
def execMzeroEffect (id : Nat) (s : State) : Out :=
  match s.cmd id with
  | none => event s
  | some c =>
      match c.op, s.cmdTeam c with
      | .mzero g n, some tm =>
          if s.granWaits c tm then event s
          else
            let s := (List.range n).foldl (fun s k =>
              match tm.accPhys (1024 * (g + k)) with
              | some p => s.zeroGranule tm.id.core (p / 1024)
              | none => s) s
            event (s.dropCmd id)
      | _, _ => event s

/-- AFREE_EFFECT (R228, R304), by command. -/
def execAfreeEffect (id : Nat) (s : State) : Out :=
  match s.cmd id with
  | none => event s
  | some c => event (s.afreeStep c)

/-- OREL_EFFECT (R221), by command: after the team's earlier MFEEDs and MLOOPs of the RID. -/
def execOrelEffect (id : Nat) (s : State) : Out :=
  match s.cmd id with
  | none => event s
  | some c =>
      match c.op, s.cmdTeam c with
      | .orel rid, some tm =>
          if (s.earlier c).any fun e => match e.op with
              | .mfeed r _ _ _ _ => r == rid
              | .mloop _ _ a b _ _ _ _ => a == rid || b == rid
              | _ => false then event s
          else event ((s.onTeam tm.id fun t => { t with resv := t.resv.set rid.toFin none }).dropCmd id)
      | _, _ => event s

/-! ## Reset (R232, R403) -/

/-- Apply a credit to a team's slate now, wherever it stands. -/
def State.creditNow (s : State) (c : Credit) : State :=
  match c.at' with
  | .team t off => if (s.team t).isSome then s.applyCredit t off c else s
  | .grid _ | .saved _ _ _ => s

/-- Apply every credit of a command that is on its way. -/
def State.flushCredits (s : State) (id : Nat) : State :=
  let cs := s.credits.filter fun x => x.cmd = some id
  let s : State := { s with credits := s.credits.filter fun x => !decide (x.cmd = some id) }
  cs.foldl (fun s c => s.creditNow c) s

/-- A reset discards one command: its slate is credited with ERR, and its record is written (R232). -/
def State.resetCmd (s : State) (c : Cmd) : State :=
  let s := match c.op with
    | .mloop _ _ _ _ _ _ _ _ => s.cmdCredit c 0 0 1 true
    | _ => s.cmdCredit c 0 (c.op.bytes - c.credited) 0 true
  let s := s.flushCredits c.id
  match s.cmd c.id with
  | some x =>
      let r := { x with disc := false, cause := 0x40, fail := 1 }
      let s := match c.status with
        | some off => s.spadWrite c.team off (bytesOfNat 8 r.record.toNat)
        | none => s
      (s.releaseLines c.id).dropCmd c.id
  | none => s

/-- Reset a core's matrix unit (R232). -/
def State.matrixReset (s : State) (core : CoreId) : State :=
  let gone := s.cmds.filter fun c => decide (c.core = core ∧ c.phase ≠ .finished) && match c.op with
    | .mfeed _ _ _ _ _ | .mloop _ _ _ _ _ _ _ _ | .mdrain _ _ _ _ => true
    | _ => false
  let s := gone.foldl (fun s c => s.resetCmd c) s
  let s : State := { s with
    cmds := s.cmds.filter fun c => !(decide (c.core = core) && match c.op with
      | .orel _ => true
      | _ => false),
    teams := s.teams.map fun t =>
      if t.id.core = core then
        { t with resv := Vector.replicate 8 none, mrst := t.mrst || !t.gran.isEmpty }
      else t,
    damage := s.damage.filter fun d => match d with
      | .acc c _ => !decide (c = core)
      | _ => true }
  s.onCore core fun c => { c with opbuf := [], acc := [], progress := 0 }

/-- MRST (R403): one reset of the core's unit for each issue group. -/
def execMrst (u : Bool) (s : State) : Out :=
  execLanes (.mrst u) none (fun s th _ => (s.matrixReset th.id.team.core, none)) s

/-- MATRIX_WATCHDOG_EXPIRY (R232): the dispatcher resets a unit without progress for a whole window. -/
def execMatrixWatchdogExpiry (core : CoreId) (s : State) : Out :=
  if (s.die core.die).watchdog ≤ (s.core core).progress then event (s.matrixReset core) else event s

end Sys2Proof.Machine
end

