-- ==== Sys2Proof/Machine/Parcels.lean ====
section
/-!
DEFINITION. Parcels (16_parcels R237 to R254, 17_program_parcel R255, R256, 24_ref R390, R409 to R412, R415, R417 to R419,
R421 to R425): references, state changes, parcel-relative accesses, POST and its transport, arrival and failure.
-/
namespace Sys2Proof.Machine

/-! ## Handles and extents (R237, R239) -/

/-- The code of a handle state (Table 16.2). -/
def HState.code : HState → Nat
  | .free => 0
  | .open' => 1
  | .sealed => 2
  | .transit => 3
  | .receiving => 4
  | .arrived => 5

/-- A handle entry as its 32 bytes are read (Table 16.2). -/
def Handle.record (h : Handle) : BitVec 256 :=
  BitVec.ofNat 32 h.size ++ h.route ++ h.dref ++ h.asid ++ h.gen ++ BitVec.ofNat 32 h.slate ++ BitVec.ofNat 21 h.efirst
    ++ BitVec.ofNat 19 h.ecount ++ (0 : BitVec 8) ++ BitVec.ofNat 6 h.team.val ++ BitVec.ofNat 6 h.core.val
    ++ BitVec.ofBool h.clm ++ BitVec.ofNat 3 h.st.code

/-- The extents that handles hold, as ranges. -/
def Die.held (d : Die) : List (Nat × Nat) :=
  (d.handles.filter fun h => h.st != .free).map fun h => (h.efirst, h.efirst + h.ecount)

/-- The first run of `n` free extents: it starts at 0 or where a held range ends (R237). -/
def Die.firstFit (d : Die) (total n : Nat) : Option Nat :=
  let starts := 0 :: d.held.map fun r => r.2
  (starts.filter fun e => decide (e + n ≤ total) && d.held.all fun r => decide (e + n ≤ r.1 ∨ r.2 ≤ e)).min?

/-- The lowest FREE handle. -/
def Die.freeHandle (d : Die) (count : Nat) : Option Nat := (List.range count).find? fun i => (d.handle i).st == .free

/-! ## Accepted accesses (R242) -/

/-- The address of a command's source. -/
def CmdOp.sourceAddr : CmdOp → Addr
  | .cpy _ _ _ a _ | .cpym _ _ a _ _ | .cred _ _ _ _ a _ | .mfeed _ _ a _ _ => a
  | .cpyt _ _ d _ _ _ => d
  | .post _ _ _ | .precv _ | .incoming _ _ | .jpost _ _ | .mloop _ _ _ _ _ _ _ _ | .mdrain _ _ _ _ | .mzero _ _
  | .afree _ _ | .orel _ => 0

/-- Whether a command that has not finished reads or writes a parcel that it was accepted for: its source, in space 101 or flat, from its
issue on, its destination from its start on. -/
def Cmd.uses (c : Cmd) (die : Fin 8) (h : Nat) : Bool :=
  c.phase != .finished &&
    ((decide (c.core.die = die) && (c.srcs.contains h ||
        (c.op.source.1 == Space.parcel && decide (bitsOf c.op.sourceAddr.toNat 52 12 = h)))) ||
      c.pages.any fun p => p.parcels.contains (die, h))

/-- Whether an access that a parcel's state has accepted has yet to perform; the flag increment of an STF is one after its data write. -/
def State.parcelBusy (s : State) (die : Fin 8) (h : Nat) : Bool :=
  (s.accs.any fun a => (a.pending && decide (a.parcel = some (die, h))) || decide (a.fpar = some (die, h))) ||
    s.cmds.any fun c => c.uses die h

/-! ## Changes of state (Table 16.3) -/

/-- Change a handle of a die. -/
def State.onHandle (s : State) (die : Fin 8) (h : Nat) (f : Handle → Handle) : State :=
  s.onDie die fun d => d.onHandle h f

/-- Let the threads of a die that wait on a slot try again, in thread-slot order (R252, R254). -/
def State.wakeParcel (s : State) (die : Fin 8) (h : Nat) : State :=
  (s.threads.filter fun t => decide (t.id.team.core.die = die)).foldl (fun s t =>
    match t.after with
    | .wait (.parcel r) _ _ =>
        if t.st == .waiting && decide (bitsOf r.toNat 52 12 = h) then s.tryWait t.id (.parcel r) else s
    | .none | .enrol _ _ | .wait _ _ _ | .exit | .resume _ _ | .step _ _ => s) s

/-- A handle becomes FREE: its generation advances and its extents return. EFIRST and ECOUNT read as 0 then, and the fields that the spec
does not name keep their values (DESIGN CHOICE, log 97). -/
def Handle.freed (h : Handle) : Handle :=
  { h with st := .free, gen := h.gen + 1, clm := false, efirst := 0, ecount := 0 }

/-- Free a parcel, and release the threads that wait on it (R254). -/
def State.freeParcel (s : State) (die : Fin 8) (h : Nat) : State := (s.onHandle die h Handle.freed).wakeParcel die h

/-- Seal a parcel. -/
def State.sealParcel (s : State) (die : Fin 8) (h : Nat) : State := s.onHandle die h fun x => { x with st := .sealed }

/-- Whether a PFREE may take effect: nothing accepted is outstanding, and no parcel has claimed the slot (R242, R245). -/
def State.mayFree (s : State) (die : Fin 8) (h : Nat) : Bool :=
  !s.parcelBusy die h && !((s.die die).handle h).clm

/-- The reference of an operand and its handle, or 0x33. -/
def State.parcelRef (s : State) (tm : Team) (r : Addr) : Except Flt Handle :=
  match (s.die tm.id.core.die).current tm.asid r with
  | some h => .ok h
  | none => .error (fltAt 0x33 r)

/-! ## PNEW, PADD, PQRY, PSEAL, PFREE -/

/-- Allocate a parcel (R244): the new reference, or the null reference. -/
def State.allocParcel (s : State) (tm : Team) (size : Nat) : State × Addr :=
  let die := tm.id.core.die
  let d := s.die die
  match d.pool with
  | none => (s, 0)
  | some cfg =>
      let n := (size + 4095) / 4096
      match d.freeHandle cfg.handles, d.firstFit cfg.extents n with
      | some i, some e =>
          let s := s.onHandle die i fun h =>
            { h with st := .open', size := size, asid := tm.asid, efirst := e, ecount := n, clm := false }
          (s, refOf i (d.handle i).gen 0)
      | _, _ => (s, 0)

/-- PNEW (R244, R415): once the pool is exhausted, the lanes that follow in lane order receive the null reference too. -/
def execPnew (u : Bool) (d a : Opnd) (s : State) : Out :=
  execLanes (.pnew u d a) none (fun s th tids =>
    match s.site with
    | none => (s, none)
    | some (p, tm) =>
        let n := (th.reg a).toNat
        if n = 0 ∨ 2 ^ 30 < n then (s, some (fltWord 0x11 (.pnew u d a)))
        else
          let out := !u && (p.lanes.takeWhile fun l => l != th.id.tid).any fun l => match s.thread (tidOf p l) with
            | some t => t.reg64 d == 0
            | none => false
          let r := if out then (s, 0) else s.allocParcel tm ((n + 15) / 16 * 16)
          (r.1.writeRegs tm.id tids (d.regList 2) fun t => t.setReg64 d r.2, none)) s

/-- PADD (R247). -/
def execPadd (u : Bool) (d a b : Opnd) (s : State) : Out :=
  execLanes (.padd u d a b) none (fun s th tids =>
    match s.site with
    | none => (s, none)
    | some (_, tm) =>
        let r := th.reg64 a
        match s.parcelRef tm r with
        | .error f => (s, some f)
        | .ok h =>
            let o : Int := (bitsOf r.toNat 0 32 : Nat) + (th.reg b).toInt
            if o < 0 ∨ (h.size : Int) < o then (s, some (fltAt 0x31 r))
            else
              (s.writeRegs tm.id tids (d.regList 2) fun t => t.setReg64 d (refOf h.idx h.gen (BitVec.ofInt 32 o)), none)) s

/-- PQRY (R248): the handle is read once. -/
def execPqry (u : Bool) (d a : Opnd) (fn : BitVec 2) (s : State) : Out :=
  execLanes (.pqry u d a fn) none (fun s th tids =>
    match s.site with
    | none => (s, none)
    | some (_, tm) =>
        let r := th.reg64 a
        let die := s.die tm.id.core.die
        let put (v : Nat) : State × Option Flt := (s.writeRegs tm.id tids [d] fun t => t.setReg d (BitVec.ofNat 32 v), none)
        match die.refIndex r, die.current tm.asid r with
        | none, _ => (s, some (fltAt 0x33 r))
        | some _, none => if fn = 0 then put 7 else (s, some (fltAt 0x33 r))
        | some _, some h =>
            match fn.toNat with
            | 0 => put h.st.code
            | 1 => put h.size
            | 2 => put (die.flatBase h)
            | _ => put (die.flatBase h / 2 ^ 32)) s

/-- What PSEAL finds at a reference (R243): the handle, or the cause. -/
def State.sealCheck (s : State) (tm : Team) (r : Addr) : Except Flt Handle :=
  match s.parcelRef tm r with
  | .error f => .error f
  | .ok h =>
      if h.st = .open' ∨ h.st = .arrived then .ok h else .error (fltAt (if h.st = .transit then 0x30 else 0x32) r)

/-- What PFREE finds at a reference (R243). -/
def State.freeCheck (s : State) (tm : Team) (r : Addr) : Except Flt Handle :=
  match s.parcelRef tm r with
  | .error f => .error f
  | .ok h =>
      if h.st = .transit then .error (fltAt 0x30 r) else if h.st = .free then .error (fltAt 0x32 r) else .ok h

/-- What POST finds at its parcel's reference (R250). -/
def State.postCheck (s : State) (tm : Team) (r : Addr) : Except Flt Handle :=
  match s.parcelRef tm r with
  | .error f => .error f
  | .ok h => if h.st = .sealed then .ok h else .error (fltAt (if h.st = .transit then 0x30 else 0x32) r)

/-- PSEAL (R243, R245): the parcel is sealed once the accepted accesses have performed; until then the group is held, and the state is
looked at again (R240). -/
def execPseal (u : Bool) (a : Opnd) (s : State) : Out :=
  execLanes (.pseal u a) none (fun s th tids =>
    match s.site with
    | none => (s, none)
    | some (_, tm) =>
        let r := th.reg64 a
        match s.sealCheck tm r with
        | .error f => (s, some f)
        | .ok h =>
            if s.parcelBusy tm.id.core.die h.idx then (s.addHold (.seal tids r u), none)
            else (s.sealParcel tm.id.core.die h.idx, none)) s

/-- PFREE (R243, R245, R410): of two lanes that name one parcel the higher finds a stale reference. -/
def execPfree (u : Bool) (a : Opnd) (s : State) : Out :=
  execLanes (.pfree u a) none (fun s th tids =>
    match s.site with
    | none => (s, none)
    | some (_, tm) =>
        let r := th.reg64 a
        match s.freeCheck tm r with
        | .error f => (s, some f)
        | .ok h =>
            if s.mayFree tm.id.core.die h.idx then (s.freeParcel tm.id.core.die h.idx, none)
            else (s.addHold (.free tids r u), none)) s

/-! ## Parcel-relative accesses (R246, R256, R390) -/

/-- The checks of a parcel-relative access: SPACE, reference, bounds, alignment, state; then `more`, then the global access to
the arena page. Faults after the stale check record the base with its offset moved (R256). An offset that is negative or reaches 2 ^ 32 has
no place in OFF, of which the spec says nothing: the record holds it modulo 2 ^ 32 (DESIGN CHOICE, log 130). -/
def State.resolveParcel (s : State) (tm : Team) (th : Thread) (sp : Space) (base : Opnd) (off : BitVec 14) (n : Nat)
    (needs : Needs) (ord : Order) (sc : Scope) (more : Handle → Addr → Bool) : State × Except Flt (Spot × Handle) :=
  let b := th.reg64 base
  if sp ≠ .parcel then (s, .error (fltAt 0x08 (b + off.signExtend 64)))
  else
    match s.parcelRef tm b with
    | .error f => (s, .error f)
    | .ok h =>
        let o : Int := (bitsOf b.toNat 0 32 : Nat) + off.toInt
        let r := refOf h.idx h.gen (BitVec.ofInt 32 o)
        if o < 0 ∨ (h.size : Int) < o + n then (s, .error (fltAt 0x31 r))
        else if o.toNat % n ≠ 0 then (s, .error (fltAt 0x01 r))
        else
          match parcelCheck h.st needs.isWrite with
          | some c => (s, .error (fltAt c r))
          | none =>
              if more h b then (s, .error (fltAt 0x31 r))
              else
                let va := BitVec.ofNat 64 ((s.die tm.id.core.die).flatBase h + o.toNat)
                match s.resolveVa tm th false false va needs ord sc none with
                | (s, .error f) => (s, .error { f with addr := r })
                | (s, .ok spot) => (s, .ok ({ spot with ea := r, parcel := some h.idx }, h))

/-- A parcel-relative load of one execution. -/
def parcelLoadBody (i : Instr) (d base : Opnd) (cnt : Fin 4) (mc : MemCtl) (refs : Bool) : Body := fun s th tids =>
  match s.site with
  | none => (s, none)
  | some (p, tm) =>
      match s.resolveParcel tm th mc.space base mc.off mc.size.bytes .rd mc.ord mc.scope fun _ _ => false with
      | (s, .error f) => (s, some f)
      | (s, .ok (sp, h)) =>
          let op : MemOp := if refs then .loadRef (th.reg64 base) h.size else .load mc.size
          (s.launch { sp.acc s i p th tids op mc.size.bytes mc.ord mc.scope with
                      ctr := some cnt, dst := d.regList (if refs then 2 else mc.size.regs), cp := mc.cp, ref := true }, none)

/-- PLD (R411). -/
def execPld (u : Bool) (d base : Opnd) (cnt : BitVec 2) (mc : MemCtl) (s : State) : Out :=
  execLanes (.pld u d base cnt mc) (some cnt.toFin)
    (parcelLoadBody (.pld u d base cnt mc) d base cnt.toFin mc false) s

/-- PLDR (R412). -/
def execPldr (u : Bool) (d base : Opnd) (cnt : BitVec 2) (mc : MemCtl) (s : State) : Out :=
  execLanes (.pldr u d base cnt mc) (some cnt.toFin)
    (parcelLoadBody (.pldr u d base cnt mc) d base cnt.toFin mc true) s

/-- Whether a reference to be stored leaves its parcel (R246). -/
def Die.escapes (d : Die) (h : Handle) (base v : Addr) : Bool :=
  v != 0 && ((d.refIndex v).isNone || bitsOf v.toNat 52 12 != bitsOf base.toNat 52 12 ||
    v.extractLsb' 32 16 != base.extractLsb' 32 16 || decide (h.size < bitsOf v.toNat 0 32))

/-- A parcel-relative store of one execution. -/
def parcelStoreBody (i : Instr) (base : Opnd) (mc : MemCtl) (bytes : Thread → List Byte)
    (bad : State → Team → Thread → Handle → Addr → Bool) : Body := fun s th tids =>
  match s.site with
  | none => (s, none)
  | some (p, tm) =>
      match s.resolveParcel tm th mc.space base mc.off mc.size.bytes .wr mc.ord mc.scope (bad s tm th) with
      | (s, .error f) => (s, some f)
      | (s, .ok (sp, _)) =>
          (s.launch { sp.acc s i p th tids (.store (bytes th)) mc.size.bytes mc.ord mc.scope with cp := mc.cp, ref := true }, none)

/-- PST (R422). -/
def execPst (u : Bool) (d base : Opnd) (mc : MemCtl) (s : State) : Out :=
  execLanes (.pst u d base mc) none
    (parcelStoreBody (.pst u d base mc) base mc (fun th => storeBytes th d mc.size) fun _ _ _ _ _ => false) s

/-- PSTR (R424): the offset of the reference, or all ones for the null reference. -/
def execPstr (u : Bool) (d base : Opnd) (mc : MemCtl) (s : State) : Out :=
  execLanes (.pstr u d base mc) none
    (parcelStoreBody (.pstr u d base mc) base mc
      (fun th => bytesOfNat 4 (if th.reg64 d = 0 then 0xFFFFFFFF else bitsOf (th.reg64 d).toNat 0 32))
      fun s tm th h b => (s.die tm.id.core.die).escapes h b (th.reg64 d)) s

/-- The sender's handle number and route of a POST. -/
def CmdOp.posted : CmdOp → Option (Nat × Addr × Word)
  | .post r sr w => some (bitsOf r.toNat 52 12, sr, w)
  | .cpy _ _ _ _ _ | .cpym _ _ _ _ _ | .cpyt _ _ _ _ _ _ | .cred _ _ _ _ _ _ | .precv _ | .incoming _ _ | .jpost _ _
  | .mfeed _ _ _ _ _ | .mloop _ _ _ _ _ _ _ _ | .mdrain _ _ _ _ | .mzero _ _ | .afree _ _ | .orel _ => none

/-- A POST is accepted (Table 16.3): its parcel is TRANSIT, with ROUTE, DREF and SLATE recorded. -/
def State.acceptPost (s : State) (tm : Team) (h sl : Nat) (w : Word) (sr : Addr) : State :=
  s.onHandle tm.id.core.die h fun x =>
    { x with st := .transit, route := w, dref := sr, slate := sl, team := tm.id.slot, core := tm.id.core.num }

/-! ## What ends a hold (R242, R245) -/

/-- Lanes of a held group take a fault at the instruction of `words` words that holds it. -/
def State.faultHeld (s : State) (p : Pipe) (words : Nat) (u : Bool) (f : Flt) (tids : List Nat) : State :=
  s.faultLanes { p with widx := p.widx - words } u f tids

/-- A PSEAL, PFREE or POST that has waited looks at the state again, and takes effect or faults (R240, R243). -/
def State.parcelEffect (s : State) (p : Pipe) (tm : Team) (h : Hold) : State :=
  let die := p.id.core.die
  match h with
  | .seal tids r u =>
      match s.sealCheck tm r with
      | .ok x => s.sealParcel die x.idx
      | .error f => s.faultHeld p 1 u f tids
  | .free tids r u =>
      match s.freeCheck tm r with
      | .ok x => s.freeParcel die x.idx
      | .error f => s.faultHeld p 1 u f tids
  | .post tids r u id =>
      match s.postCheck tm r, (s.cmd id).bind fun c => c.op.posted.map fun x => (c.soff, x.2) with
      | .ok x, some (sl, sr, w) =>
          (s.acceptPost tm x.idx sl w sr).onCmd id fun c => { c with phase := .entering }
      | .error f, _ => (s.dropCmd id).faultHeld p 2 u f tids
      | .ok _, none => s
  | .counter _ _ | .acc _ | .perf _ | .answer _ | .enter _ | .discard _ _ | .earlier _ | .fetch | .cycle _ _ | .tile _ _ => s

/-- Whether what such a hold waits for is over: nothing accepted is outstanding, and for PFREE no parcel has claimed the slot. -/
def State.parcelDone (s : State) (p : Pipe) (h : Hold) : Bool :=
  let die := p.id.core.die
  match h with
  | .seal _ r _ | .post _ r _ _ => !s.parcelBusy die (bitsOf r.toNat 52 12)
  | .free _ r _ => s.mayFree die (bitsOf r.toNat 52 12)
  | .counter _ _ | .acc _ | .perf _ | .answer _ | .enter _ | .discard _ _ | .earlier _ | .fetch | .cycle _ _ | .tile _ _ => true

/-! ## PWAIT and PRECV (R252, R254, R255) -/

/-- PWAIT (R254, R425). -/
def execPwait (u : Bool) (a : Opnd) (s : State) : Out :=
  execLanes (.pwait u a) none (fun s th tids =>
    match s.site with
    | none => (s, none)
    | some (_, tm) =>
        let r := th.reg64 a
        match s.parcelRef tm r with
        | .error f => (s, some f)
        | .ok h =>
            if h.st = .receiving ∨ h.st = .arrived then waitBody (.parcel r) s th tids else (s, some (fltAt 0x32 r))) s

/-- PRECV (R419): the slot is RECEIVING at issue, and the command then enters the queue, carrying only its slate. -/
def execPrecv (u : Bool) (a l : Opnd) (dsp ssp : Space) (s : State) : Out :=
  execLanes (.precv u a l dsp ssp) none (fun s th tids =>
    match s.site with
    | none => (s, none)
    | some (_, tm) =>
        let r := th.reg64 a
        let sl := th.reg l
        if dsp ≠ .parcel ∨ ssp ≠ .parcel then (s, some (fltAt 0x08 r))
        else
          match s.parcelRef tm r with
          | .error f => (s, some f)
          | .ok h =>
              match firstFlt ([(h.st == .transit, fltAt 0x30 r), (h.st != .open', fltAt 0x32 r)]
                  ++ slateChecks (some tm) sl) with
              | some f => (s, some f)
              | none =>
                  let s := s.onHandle tm.id.core.die h.idx fun x =>
                    { x with st := .receiving, clm := false, slate := sl.toNat, team := tm.id.slot, core := tm.id.core.num }
                  (s.issue (newCmd s tm th tids (.precv h.idx) 0 .thread (.team tm.id sl.toNat) sl.toNat none .entering),
                   none)) s

/-! ## POST at issue (R249, R250) -/

/-- NET of a route word. -/
def routeNet (w : Word) : Bool := flag w 31
/-- EP. -/
def routeEp (w : Word) : Nat := (fld w 16 12).toNat
/-- ACC. -/
def routeAcc (w : Word) : BitVec 8 := fld w 8 8
/-- VDIE. -/
def routeVdie (w : Word) : Fin 8 := (fld w 5 3).toFin

/-- A malformed route word (Table 16.6). -/
def routeBad (w : Word) : Bool := fld w 28 3 != 0 || fld w 0 5 != 0 || (!routeNet w && routeEp w != 0)

/-- An entry of the endpoint table (21_outside Table 21.4). -/
def State.endpoint (s : State) (i : Nat) : BitVec 256 :=
  match s.pkg.endpoints.find? fun e => e.1 = i with
  | some e => e.2
  | none => 0

/-- Whether the destination of a POST cannot be reached (Table 1.4, 21_outside R290). -/
def State.routeFails (s : State) (die : Fin 8) (w : Word) : Bool :=
  if routeNet w then
    let e := s.endpoint (routeEp w)
    !e.getLsbD 0 || (e.extractLsb' 84 4 &&& s.pkg.eth) == 0
  else s.unreachable die (routeAcc w) (routeVdie w)

/-- Where a POST goes. -/
inductive Way where
  | same
  | inPackage (die : Fin 8)
  | inDomain
  | network
deriving DecidableEq, Repr

/-- The way of a route word from a die. -/
def State.way (s : State) (die : Fin 8) (w : Word) : Way :=
  if routeNet w then .network
  else if routeAcc w ≠ s.pkg.accNum then .inDomain
  else if routeVdie w = die then .same else .inPackage (routeVdie w)

/-- Whether the operand B of a POST is no reference (R238): its TAG, and on the same die its index; that of another die's slot is checked
there, as its generation is (R252). -/
def State.noSlotRef (s : State) (die : Fin 8) (w : Word) (sr : Addr) : Bool :=
  sr.extractLsb' 48 4 != 0xA || (!routeBad w && s.way die w == Way.same && ((s.die die).refIndex sr).isNone)

/-- The checks of POST in the order of R250, with SPACE first, and slate, status and guard last. -/
def postChecks (i : Instr) (d a b : Opnd) (e : EngCtl) (s : State) (tm : Team) (th : Thread) : List (Bool × Flt) :=
  let pr := th.reg64 a
  let sr := th.reg64 b
  let w := th.reg d
  let h := (s.die tm.id.core.die).current tm.asid pr
  let st : HState := match h with
    | some x => x.st
    | none => .free
  [(e.dsp != Space.parcel || e.ssp != Space.parcel, fltAt 0x08 pr), (h.isNone, fltAt 0x33 pr),
   (s.noSlotRef tm.id.core.die w sr, fltAt 0x33 sr), (routeBad w, fltWord 0x11 i),
   (s.routeFails tm.id.core.die w, fltAt 0x06 pr), (st == .transit, fltAt 0x30 pr), (st != .sealed, fltAt 0x32 pr)]
    ++ slateChecks (some tm) (th.reg e.l) ++ statusChecks tm (statusOf e th) ++ guardChecks tm e.guard

/-- POST (R417): the parcel is TRANSIT from the issue on, once the accesses that it has accepted have performed (R242); until then the
group is held, and the command does not enter. -/
def execPost (u : Bool) (d a b : Opnd) (e : EngCtl) (s : State) : Out :=
  execLanes (.post u d a b e) none (fun s th tids =>
    match s.site with
    | none => (s, none)
    | some (_, tm) =>
        match firstFlt (postChecks (.post u d a b e) d a b e s tm th) with
        | some f => (s, some f)
        | none =>
            let pr := th.reg64 a
            let sr := th.reg64 b
            let w := th.reg d
            let sl := (th.reg e.l).toNat
            let h := bitsOf pr.toNat 52 12
            let scope : Scope := if routeNet w then .sys else .domain
            let cmd := newCmd s tm th tids (.post pr sr w) e.guard scope (.team tm.id sl) sl (statusOf e th)
            if s.parcelBusy tm.id.core.die h then
              ((s.issue (cmd .stopped)).addHold (.post tids pr u s.fresh), none)
            else ((s.acceptPost tm h sl w sr).issue (cmd .entering), none)) s

/-! ## The transport of a POST (R251) -/

/-- Bytes of the parcel that a POST or an incoming parcel carries. -/
def State.carriedSize (s : State) (c : Cmd) : Nat :=
  match c.op with
  | .post r _ _ => ((s.die c.core.die).handle (bitsOf r.toNat 52 12)).size
  | .incoming size _ => size
  | .cpy _ _ _ _ _ | .cpym _ _ _ _ _ | .cpyt _ _ _ _ _ _ | .cred _ _ _ _ _ _ | .precv _ | .jpost _ _
  | .mfeed _ _ _ _ _ | .mloop _ _ _ _ _ _ _ _ | .mdrain _ _ _ _ | .mzero _ _ | .afree _ _ | .orel _ => 0

/-- Lines of a parcel of `size` bytes. -/
def parcelLines (size : Nat) : Nat := (size + 127) / 128

/-- The command is done: what it holds is given up. -/
def State.endCarry (s : State) (id : Nat) : State :=
  let s := (s.releaseLines id).onCmd id fun c => { c with phase := .finished, locked := [], buf := [] }
  { s with nets := s.nets.filter fun n => !decide (n.cmd = id),
           poolReqs := s.poolReqs.filter fun r => !decide (r.what = .parcel id) }

/-- Bytes that nobody determines any more, in every copy of a line (R240). -/
def State.scrambleLine (s : State) (l : LineId) : State :=
  let d := lineSetN 0 0 ((List.range 128).map fun k => Config.freeByte (s.freed + k))
  let s : State :=
    { s with freed := s.freed + 128,
             lines := s.lines.map fun (x : CacheLine) => if x.line = l then { x with data := d } else x }
  match l.mem with
  | .pool =>
      { s with l3 := s.l3.map fun (x : L3Line) => if x.num = l.num then { x with data := d } else x,
               pool := s.pool.setLine l.num d }
  | .host => { s with host := s.host.setLine l.num d }

/-- After a failed incoming parcel a claimed slot is RECEIVING with CLM 0 and undefined contents (Table 16.3). -/
def State.unclaim (s : State) (die : Fin 8) (h : Nat) : State :=
  let d := s.die die
  let x := d.handle h
  let s := (List.range (parcelLines x.size)).foldl (fun s k =>
    match s.leafAt die .die x.asid false .leaf (BitVec.ofNat 64 (d.flatBase x + 128 * k)) with
    | some t => if isPeer t.pa then s else s.scrambleLine (lineOf .pool t.pa)
    | none => s) s
  s.onHandle die h fun x => { x with clm := false }

/-- A POST fails after issue (R253): SEALED again, its slate credited SIZE bytes with ERR, CAUSE and FAIL; the slot is not
credited. An incoming parcel that fails leaves its slot RECEIVING. -/
def State.failPost (s : State) (c : Cmd) (cause : BitVec 8) : State :=
  let s := match c.claim with
    | some (die, h) => s.unclaim die h
    | none => s
  match c.op.posted with
  | none => { s.endCarry c.id with cmds := (s.endCarry c.id).cmds.filter fun x => !decide (x.id = c.id) }
  | some (h, _, _) =>
      let s := s.onHandle c.core.die h fun x => { x with st := .sealed }
      let s := s.cmdCredit c 0 (s.carriedSize c) 0 true
      (s.endCarry c.id).onCmd c.id fun x => { x with fail := 1, cause := cause }

/-- A POST whose guard is FALSE (R253): SEALED again, credited without ERR, DISC. -/
def State.discardPost (s : State) (c : Cmd) (h : Nat) : State :=
  let s := s.onHandle c.core.die h fun x => { x with st := .sealed }
  let s := s.cmdCredit c 0 (s.carriedSize c) 0 false
  (s.endCarry c.id).onCmd c.id fun x => { x with disc := true }

/-- The slate of a receive slot: of the team that registered it, which may be saved (18_scheduling R270). -/
def State.slotSlate (s : State) (die : Fin 8) (h : Nat) : SlateAt :=
  let x := (s.die die).handle h
  match s.contexts.findSome? fun c =>
      if c.cluster.die = die then
        (c.slots.find? fun y => decide (y.1 = h ∧ y.2.1 = x.gen)).map fun y => (c.cluster.id, y.2.2)
      else none with
  | some (k, p) => .saved k p x.slate
  | none => .team { core := { die := die, num := x.core }, slot := x.team } x.slate

/-- A claimed slot becomes ARRIVED with the parcel's size; its slate receives one arrival, and its waiters go on (R252). -/
def State.slotArrives (s : State) (die : Fin 8) (h size : Nat) : State :=
  let a := s.slotSlate die h
  let s := s.onHandle die h fun x => { x with st := .arrived, clm := false, size := size }
  (s.creditAt a 0 1 false []).wakeParcel die h

/-- Arrival (R252), all at one moment. On one die the slot takes over the sender's extents (R251). -/
def State.arrivePost (s : State) (c : Cmd) : State :=
  let size := s.carriedSize c
  match c.op.posted with
  | none =>
      let s := match c.claim with
        | some (die, h) => s.slotArrives die h size
        | none => s
      { s.endCarry c.id with cmds := (s.endCarry c.id).cmds.filter fun x => !decide (x.id = c.id) }
  | some (h, _, w) =>
      let me := (s.die c.core.die).handle h
      let s := s.onHandle c.core.die h Handle.freed
      let s := match c.claim with
        | some (die, k) =>
            let s := if s.way c.core.die w = Way.same then
                s.onHandle die k fun x => { x with efirst := me.efirst, ecount := me.ecount }
              else s
            s.slotArrives die k size
        | none => s
      (s.cmdCredit c 0 size 0 false).endCarry c.id

/-- The slot that a parcel may claim at a die (R252). -/
def Die.claimable (d : Die) (sref : Addr) (size : Nat) : Option Nat :=
  match d.refIndex sref with
  | none => none
  | some i =>
      let h := d.handle i
      if h.gen = sref.extractLsb' 32 16 ∧ h.st = .receiving ∧ !h.clm ∧ size ≤ h.size then some i else none

/-- A parcel claims a slot, or is refused. -/
def State.claimSlot (s : State) (c : Cmd) (die : Fin 8) (sref : Addr) : State :=
  match (s.die die).claimable sref (s.carriedSize c) with
  | some h => (s.onHandle die h fun x => { x with clm := true }).onCmd c.id fun x => { x with claim := some (die, h), bad := true }
  | none => s.failPost c 0x34

/-- The packets of a parcel on the network (Table 21.4, MTU). -/
def packetBytes (e : BitVec 256) : Nat := if e.extractLsb' 80 4 = 1 then 8192 else 4096

/-- The start of an incoming parcel's life: a command of the die that carries it. -/
def incomingCmd (s : State) (i : Incoming) : Cmd :=
  let t : TeamId := { core := { die := i.die, num := 0 }, slot := 0 }
  { id := s.fresh, core := t.core, team := t, th := { team := t, tid := 0 }, lanes := [], asid := 0, tag := 0,
    op := .incoming i.size i.mtu, guard := 0, scope := .domain, slate := .team t 0, soff := 0, status := none,
    phase := .running, pos := 0, rd := 0, buf := [], locked := [], fail := 0, nosl := 0, cause := 0, disc := false, err := false,
    credited := 0, pages := [], srcs := [], claim := none, psums := [], bad := false, ruled := none }

/-- PARCEL_CLAIM (R252). A running POST whose slot has not been checked reaches its destination: a die of the package checks
itself; another accelerator's or machine's answer comes with the event. With `inc`, a parcel from outside reaches a die here. -/
def execParcelClaim (id : Nat) (accept : Bool) (inc : Option Incoming) (s : State) : Out :=
  match inc with
  | some i =>
      if i.size = 0 ∨ i.size % 16 ≠ 0 then event s
      else
        let c := incomingCmd s i
        let s := { s.bump with cmds := s.cmds ++ [c] }
        let s := if i.mtu = 0 then s
          else { s with nets := s.nets ++ [{ cmd := c.id, packets := (i.size + i.mtu - 1) / i.mtu, via := [], placed := [], acked := [],
                                             again := [] }] }
        event (s.claimSlot c i.die i.sref).kick
  | none =>
      match s.cmd id with
      | none => event s
      | some c =>
          match c.op.posted with
          | none => event s
          | some (_, sr, w) =>
              if c.phase ≠ .running ∨ c.bad then event s
              else
                let onDie (die : Fin 8) : Out :=
                  if (s.phys die).isNone then event (s.failPost c 0x61).kick else event (s.claimSlot c die sr).kick
                match s.way c.core.die w with
                | .same => onDie c.core.die
                | .inPackage die => onDie die
                | .inDomain | .network =>
                    if accept then event (s.onCmd id fun x => { x with bad := true }) else event (s.failPost c 0x34).kick

/-! ## Reading the sender's extents, writing the slot's -/

/-- The line of a parcel's extents at an offset, for a parcel engine (R251): by the address space of the handle, and through a peer window
where the page maps one (01_package R12): with the window address of a request that stands until the access is over. -/
def State.parcelLine (s : State) (die : Fin 8) (h k : Nat) (needs : Needs) :
    State × Except (BitVec 8 × Word) (Trans × Option Nat) :=
  let d := s.die die
  let x := d.handle h
  match s.translate die .die x.asid false needs (BitVec.ofNat 64 (d.flatBase x + 128 * k)) with
  | (s, .error c) => (s, .error c)
  | (s, .ok t) =>
      if isPeer t.pa then
        match s.peerNow die t.pa needs with
        | (s, .ok w) => (s, .ok ({ w with tag := t.tag }, some t.pa))
        | (s, .error c) => (s, .error c)
      else (s, .ok (t, none))

/-- Read line `c.pos` of the sender's extents (R251): the line is cut first, then read at its home. -/
def State.readParcel (s : State) (c : Cmd) (h : Nat) : State × Got :=
  let die := c.core.die
  let n := min 128 (((s.die die).handle h).size - 128 * c.pos)
  match s.parcelLine die h c.pos .rd with
  | (s, .error k) => if k.1 = notYet then (s, .ok none) else (s, .error k.1)
  | (s, .ok (t, win)) =>
      let l := lineOf .pool t.pa
      if s.homeBusy l || s.copyMoves l then (s, .ok none)
      else if (s.treeAt (homeOf l) l).isSome || s.lines.any fun x => decide (x.line = l) && x.tracked then
        (s.addJob l .snoop, .ok none)
      else
        let (s, r) := s.homeFetch die l t.tag
        let s := s.overAll die .rd win r
        match r with
        | .ok d => (s, .ok (some (lineBytes d 0 n)))
        | .error e => if e.1 = notYet then (s, .ok none) else (s, .error e.1)

/-- Whether the next line of a running POST is to be read now: its slot is claimed, it copies bytes, and its last line has
gone on. -/
def State.mayReadParcel (s : State) (c : Cmd) (w : Word) : Bool :=
  c.phase == .running && c.bad && c.buf.isEmpty && s.way c.core.die w != .same &&
    decide (c.pos < parcelLines (s.carriedSize c))

/-- One step of a POST's reading. Lines for the network stay with the engine until their packets go. -/
def State.postRead (s : State) (c : Cmd) (h : Nat) (w : Word) : State :=
  if c.err then s.failPost c 0x61
  else if !s.mayReadParcel c w then s
  else
    match s.readParcel c h with
    | (s, .error k) => s.failPost c k
    | (s, .ok none) => s
    | (s, .ok (some bs)) =>
        if s.way c.core.die w = .network then s.onCmd c.id fun x => { x with pos := x.pos + 1 }
        else s.onCmd c.id fun x => { x with buf := bs }

/-- Units of a line that a parcel engine writes. -/
def linePieces (bs : List Byte) : List Piece :=
  (List.range (bs.length / 16)).map fun u =>
    ({ off := 16 * u, low := (List.range 32).map fun k => some (nibAt bs (32 * u + k)) } : Piece)

/-- Write line number `k` of a claimed slot (R218, R251): whether it is written, or the cause. -/
def State.writeSlot (s : State) (c : Cmd) (die : Fin 8) (h k : Nat) (bs : List Byte) : State × Except (BitVec 8) Bool :=
  match s.ownFailed c.id with
  | some k => (s, .error k)
  | none =>
      match s.parcelLine die h k .wr with
      | (s, .error k) => if k.1 = notYet then (s, .ok false) else (s, .error k.1)
      | (s, .ok (t, win)) =>
          let page : Page := { vpn := 0, pa := t.pa, cc := t.cc, tag := t.tag, host := false, parcels := [], entry := none }
          match s.writeLine { c with core := { die := die, num := 0 } } (lineOf .pool t.pa) page (linePieces bs), win with
          | (s, .ok false), _ => (s, .ok false)
          | (s, r), some pa => (s.endAsk die pa .wr, r)
          | (s, r), none => (s, r)

/-- One step of a parcel engine's writing of line `c.pos`, from what it has read or received. A destination that cannot be written
refuses the parcel; a failed link keeps its cause (R253). -/
def State.slotStep (s : State) (c : Cmd) (die : Fin 8) (h : Nat) (bs : List Byte) : State :=
  match s.writeSlot c die h c.pos bs with
  | (s, .error k) => s.failPost c (if k = 0x61 then 0x61 else 0x34)
  | (s, .ok false) => s
  | (s, .ok true) => s.onCmd c.id fun x => { x with buf := x.buf.drop 128, pos := x.pos + 1 }

/-- A line of a POST leaves for another accelerator through a pool node (R251): a request that the node then performs. -/
def State.lineOut (s : State) (c : Cmd) (h : Nat) : State :=
  match s.openRequest (.parcel c.id) with
  | some r => (s.answer r).onCmd c.id fun x => { x with buf := [], pos := x.pos + 1 }
  | none =>
      if s.poolReqs.any fun r => decide (r.what = .parcel c.id) && !r.answered then s
      else
        match s.parcelLine c.core.die h c.pos .rd with
        | (s, .ok (t, win)) =>
            (match win with
              | some pa => s.endAsk c.core.die pa .rd
              | none => s).poolRequest c.core.die t.pa (.parcel c.id)
        | (s, .error k) => if k.1 = notYet then s else s.failPost c k.1

/-- One step of a POST's writing. -/
def State.postWrite (s : State) (c : Cmd) (h : Nat) (w : Word) : State :=
  if c.err then s.failPost c 0x61
  else if c.buf.isEmpty then s
  else
    match s.way c.core.die w, c.claim with
    | .inPackage _, some (die, k) => s.slotStep c die k c.buf
    | .inDomain, _ => s.lineOut c h
    | _, _ => s

/-- One step of the writing of an incoming parcel: `data` is the line that has come through the pool nodes; a packet's lines are
taken from the packet. -/
def State.incomingWrite (s : State) (c : Cmd) (size mtu : Nat) (data : List Byte) : State :=
  match c.claim with
  | none => s
  | some (die, h) =>
      let n := min 128 (size - 128 * c.pos)
      let bs := if mtu = 0 ∧ c.buf.isEmpty then data else c.buf.take n
      if parcelLines size ≤ c.pos ∨ bs.length ≠ n then s
      else (s.onCmd c.id fun x => { x with buf := if x.buf.isEmpty then bs else x.buf }).slotStep c die h bs

/-- PARCEL_ARRIVAL (R252): every byte has been written, and the parcel arrives whole; a parcel for another accelerator or machine
arrives there once all of it has gone out. -/
def execParcelArrival (id : Nat) (s : State) : Out :=
  match s.cmd id with
  | none => event s
  | some c =>
      let n := parcelLines (s.carriedSize c)
      let net := (s.nets.find? fun x => x.cmd = id).map fun x => decide (x.placed.length = x.packets)
      let ready := c.phase == .running && c.bad && !c.err && match c.op with
        | .post _ _ w => s.way c.core.die w == .same || (decide (n ≤ c.pos) && net.getD true)
        | .incoming _ _ => if net.isSome then net.getD false && c.buf.isEmpty else decide (n ≤ c.pos)
        | .cpy _ _ _ _ _ | .cpym _ _ _ _ _ | .cpyt _ _ _ _ _ _ | .cred _ _ _ _ _ _ | .precv _ | .jpost _ _
        | .mfeed _ _ _ _ _ | .mloop _ _ _ _ _ _ _ _ | .mdrain _ _ _ _ | .mzero _ _ | .afree _ _ | .orel _ => false
      if ready then event (s.arrivePost c).kick else event s

/-! ## The network engine (21_outside R289 to R291) -/

/-- Change one network transfer. -/
def State.onNet (s : State) (id : Nat) (f : NetParcel → NetParcel) : State :=
  { s with nets := s.nets.map fun n => if n.cmd = id then f n else n }

/-- The working Ethernet ports that the endpoint of a POST permits (R289, Table 21.4). -/
def State.permitted (s : State) (w : Word) : List (Fin 4) :=
  (List.finRange 4).filter fun p => (((s.endpoint (routeEp w)).extractLsb' 84 4) &&& s.pkg.eth).getLsbD p.val

/-- Packets are sprayed: packet number `k` goes by the permitted ports in turn, the `n`-th time by the next (R289). -/
def sprayPort (ports : List (Fin 4)) (k n : Nat) : Option (Fin 4) := ports[(k + n) % ports.length]?

/-- Whether the port by which a packet of a POST has gone works; one that comes from outside needs some working port. -/
def State.portOpen (s : State) (n : NetParcel) (packet : Nat) (post : Bool) : Bool :=
  if post then (n.via.find? fun x => x.1 = packet).any fun x => s.pkg.eth.getLsbD x.2.val else s.pkg.eth != 0

/-- PACKET_ARRIVAL (R291): a packet is placed at the receiver, while the port that it goes by works. Of a POST, once its lines have been
read; of an incoming parcel, whose bytes come with the event, once the packet before it has been written. -/
def execPacketArrival (id : Nat) (packet : Nat) (data : List Byte) (s : State) : Out :=
  match s.cmd id, s.nets.find? fun n => n.cmd = id with
  | some c, some n =>
      if n.packets ≤ packet ∨ n.placed.contains packet ∨ c.phase ≠ .running ∨ !c.bad ∨ !s.portOpen n packet c.op.posted.isSome then
        event s
      else
        let size := s.carriedSize c
        let place (s : State) : State := s.onNet id fun n => { n with placed := n.placed ++ [packet] }
        match c.op with
        | .post _ _ w =>
            let mtu := packetBytes (s.endpoint (routeEp w))
            if parcelLines (min size ((packet + 1) * mtu)) ≤ c.pos then event (place s) else event s
        | .incoming _ mtu =>
            if !c.buf.isEmpty ∨ data.length ≠ min mtu (size - packet * mtu) then event s
            else event ((place s).onCmd id fun x => { x with buf := data, pos := packet * mtu / 128 }).kick
        | .cpy _ _ _ _ _ | .cpym _ _ _ _ _ | .cpyt _ _ _ _ _ _ | .cred _ _ _ _ _ _ | .precv _ | .jpost _ _
        | .mfeed _ _ _ _ _ | .mloop _ _ _ _ _ _ _ _ | .mdrain _ _ _ _ | .mzero _ _ | .afree _ _ | .orel _ => event s
  | _, _ => event s

/-- SELECTIVE_ACKNOWLEDGEMENT (R289): the receiver acknowledges a packet that it has placed. -/
def execSelectiveAcknowledgement (id : Nat) (packet : Nat) (s : State) : Out :=
  event (s.onNet id fun n =>
    if n.placed.contains packet && !n.acked.contains packet then { n with acked := n.acked ++ [packet] } else n)

/-- PACKET_RETRANSMIT (R291): a packet without acknowledgement is sent again, up to 16 times, by the next permitted port (R289). -/
def execPacketRetransmit (id : Nat) (packet : Nat) (s : State) : Out :=
  let ports := match (s.cmd id).bind fun c => c.op.posted with
    | some (_, _, w) => s.permitted w
    | none => []
  event (s.onNet id fun n =>
    let k := match n.again.find? fun x => x.1 = packet with
      | some x => x.2
      | none => 0
    if packet < n.packets ∧ !n.acked.contains packet ∧ k < Config.retransmits then
      let n := { n with again := (packet, k + 1) :: n.again.filter fun x => !decide (x.1 = packet) }
      match sprayPort ports packet (k + 1) with
      | some p => { n with via := (packet, p) :: n.via.filter fun x => !decide (x.1 = packet) }
      | none => n
    else n)

/-- NETWORK_TMO_EXPIRY (R291): a parcel that has not been fully acknowledged fails with 0x61; a transfer from outside that has
failed leaves its slot RECEIVING. -/
def execNetworkTmoExpiry (id : Nat) (s : State) : Out :=
  match s.cmd id with
  | none => event s
  | some c =>
      let full := match s.nets.find? fun n => n.cmd = id with
        | some n => decide (n.acked.length = n.packets)
        | none => false
      let mine : Bool := match c.op with
        | .post _ _ w => s.way c.core.die w == .network
        | .incoming _ _ => true
        | .cpy _ _ _ _ _ | .cpym _ _ _ _ _ | .cpyt _ _ _ _ _ _ | .cred _ _ _ _ _ _ | .precv _ | .jpost _ _
        | .mfeed _ _ _ _ _ | .mloop _ _ _ _ _ _ _ _ | .mdrain _ _ _ _ | .mzero _ _ | .afree _ _ | .orel _ => false
      if mine ∧ c.phase = .running ∧ !full then event (s.failPost c 0x61).kick else event s

/-- ETHERNET_PORT_FAILURE (R290): the port is no longer a working one. -/
def execEthernetPortFailure (port : Fin 4) (s : State) : Out :=
  event { s with pkg := { s.pkg with eth := s.pkg.eth &&& ~~~ (1#4 <<< port.val) } }

/-- POST starts (R214, R242, R251): the engine goes to the destination; a transfer over the network is prepared. -/
def State.startPost (s : State) (c : Cmd) (w : Word) : State :=
  let s := s.onCmd c.id fun x => { x with phase := .running }
  if routeNet w then
    let mtu := packetBytes (s.endpoint (routeEp w))
    let packets := (s.carriedSize c + mtu - 1) / mtu
    let via := (List.range packets).filterMap fun k => (sprayPort (s.permitted w) k 0).map fun p => (k, p)
    { s with nets := s.nets ++ [{ cmd := c.id, packets := packets, via := via, placed := [], acked := [], again := [] }] }
  else s

end Sys2Proof.Machine
end

