-- ==== Sys2Proof/Machine/Jobs.lean ====
section
/-!
DEFINITION. Queues, cards, placement, completion and JPOST (18_scheduling R257 to R266, R458, 24_ref R393, 15_program R235).
-/
namespace Sys2Proof.Machine

/-! ## Cores (R262, 21_outside R295) -/

/-- Whether a core works: its die is present, and it is neither fused off nor retired. The lists name physical dies. -/
def State.coreWorks (s : State) (c : CoreId) : Bool :=
  match s.phys c.die with
  | some p => !(s.pkg.fused ++ s.pkg.retiredCores).contains { die := p, num := c.num }
  | none => false

/-- Whether a core is fused off (R265). -/
def State.coreFused (s : State) (c : CoreId) : Bool :=
  match s.phys c.die with
  | some p => s.pkg.fused.contains { die := p, num := c.num }
  | none => true

/-- The core in a direction of Table 18.5: 0 own, 1 N, 2 E, 3 S, 4 W. -/
def coreBeside (c : CoreId) (dir : Nat) : Option CoreId :=
  let port : Option Port := match dir with
    | 1 => some .n
    | 2 => some .e
    | 3 => some .s
    | 4 => some .w
    | _ => none
  match port with
  | none => some c
  | some p =>
      match neighbour (routerOf (.l1 c.die c.num)) p with
      | some (.compute _ x y) => some { die := c.die, num := Fin.ofNat 64 (8 * y.val + x.val) }
      | some (.base _ _) | none => none

/-! ## JPOST (R265, R393) -/

/-- A malformed target (R265). -/
def targetBad (w : Word) : Bool :=
  if flag w 31 then fld w 3 28 != 0 || decide (4 < (fld w 0 3).toNat) else fld w 6 25 != 0

/-- The core of a LOCAL target. -/
def targetCore (c : CoreId) (w : Word) : Option CoreId := coreBeside c (fld w 0 3).toNat

/-- The checks of JPOST at issue: 0x06 is that of a neighbour, outside the mesh or fused off. -/
def jpostChecks (i : Instr) (a b : Opnd) (e : EngCtl) (s : State) (tm : Team) (th : Thread) : List (Bool × Flt) :=
  let va := th.reg64 a
  let w := th.reg b
  let away := flag w 31 && match targetCore tm.id.core w with
    | some c => fld w 0 3 != 0 && s.coreFused c
    | none => true
  [(targetBad w, fltWord 0x11 i), (e.dsp != Space.global || e.ssp != Space.global, fltAt 0x08 va),
   (va.toNat % 64 != 0, fltAt 0x01 va)]
    ++ slateChecks (some tm) (th.reg e.l) ++ statusChecks tm (statusOf e th)
    ++ s.flatChecks tm .rd va (rangeBlocks va.toNat 64) ++ [(away, fltAt 0x06 va)] ++ guardChecks tm e.guard

/-- JPOST (R393): the command enters the queue. -/
def execJpost (u : Bool) (a b : Opnd) (e : EngCtl) (s : State) : Out :=
  execLanes (.jpost u a b e) none
    (engBody e (jpostChecks (.jpost u a b e) a b e) (fun _ tm _ => some tm)
      fun _ th => .jpost (th.reg64 a) (th.reg b)) s

/-- The queue that a team's work was issued under. -/
def State.issuingQueue (s : State) (t : TeamId) : Fin 64 :=
  match s.team t with
  | some tm =>
      match s.cluster tm.cluster with
      | some c =>
          match s.grid c.grid with
          | some g => g.queue
          | none => 0
      | none => 0
  | none => 0

/-- Whether a queue's ring is full (R265). -/
def Queue.full (q : Queue) : Bool := decide (q.cfg.size ≤ q.tail - q.head)

/-- The engine enters the card that it has read (R265): at the tail of a queue, written through the queue's ASID, or of a local
task queue. -/
def State.enterCard (s : State) (c : Cmd) (target : Word) : State :=
  let card := BitVec.ofNat 512 (natOfBytes c.buf)
  let die := c.core.die
  if flag target 31 then
    match targetCore c.core target with
    | none => s.stopCmd c.id 0x34
    | some k =>
        if Config.localCards ≤ (s.core k).cards.length then s.stopCmd c.id 0x34
        else
          (s.onCore k fun x => { x with cards := x.cards ++ [(s.issuingQueue c.team, c.asid, card)] }).finishCmd c.id
  else
    let n := (fld target 0 6).toNat
    let q := (s.die die).queue n
    if !q.cfg.en ∨ q.full ∨ q.cfg.asid ≠ c.asid then s.stopCmd c.id 0x34
    else if (s.cardPlace c).any fun x => s.earlierWrites c x.1 ((List.range 64).map fun b => x.2 + b) then s
    else
      match s.writeGlobal die q.cfg.asid (q.cfg.base + BitVec.ofNat 64 (64 * (q.tail % q.cfg.size))) c.buf with
      | (s, .error (k, _)) => if k = notYet then s else s.stopCmd c.id k
      | (s, .ok _) => (s.onDie die fun d => d.onQueue n fun q => { q with tail := q.tail + 1 }).finishCmd c.id

/-! ## Cards (R259) -/

/-- A field of a card. -/
def cardNat (v : BitVec 512) (lo len : Nat) : Nat := bitsOf v.toNat lo len
/-- ENTRY. -/
def cardEntry (v : BitVec 512) : Addr := v.extractLsb' 0 64
/-- ARGS. -/
def cardArgs (v : BitVec 512) : BitVec 64 := v.extractLsb' 64 64
/-- WSLATE with WPH in bit 0. -/
def cardWslate (v : BitVec 512) : Addr := v.extractLsb' 128 64
/-- SSLATE. -/
def cardSslate (v : BitVec 512) : Addr := v.extractLsb' 192 64
/-- GRID. -/
def cardGrid (v : BitVec 512) : Nat := cardNat v 256 32
/-- SCRATCH. -/
def cardScratch (v : BitVec 512) : Nat := cardNat v 288 32
/-- ROLES. -/
def cardRoles (v : BitVec 512) : BitVec 32 := v.extractLsb' 320 32
/-- TEAM. -/
def cardTeam (v : BitVec 512) : Nat := cardNat v 352 12
/-- CW. -/
def cardCw (v : BitVec 512) : Nat := cardNat v 364 4
/-- CH. -/
def cardCh (v : BitVec 512) : Nat := cardNat v 368 4
/-- KC. -/
def cardKc (v : BitVec 512) : Nat := cardNat v 372 2
/-- PRIO. -/
def cardPrio (v : BitVec 512) : Nat := cardNat v 374 2
/-- BLOT. -/
def cardBlot (v : BitVec 512) : Nat := cardNat v 376 8
/-- ACCUM. -/
def cardAccum (v : BitVec 512) : Nat := cardNat v 384 9
/-- PRIV. -/
def cardPriv (v : BitVec 512) : Bool := v.getLsbD 393
/-- HANDLER. -/
def cardHandler (v : BitVec 512) : Word := v.extractLsb' 416 32

/-- The handler block's address, if the card names one. -/
def cardHandlerAt (v : BitVec 512) : Option Addr :=
  if cardHandler v = 0 then none else some (cardEntry v + (cardHandler v).signExtend 64)

/-- The rows of R259 that the card alone decides. -/
def cardBad (v : BitVec 512) (priv : Bool) : Bool :=
  cardNat v 448 64 != 0 || cardNat v 394 22 != 0 || cardGrid v == 0 || cardTeam v == 0 || decide (2048 < cardTeam v) ||
    cardCw v == 0 || decide (8 < cardCw v) || cardCh v == 0 || decide (8 < cardCh v) || decide (12 < cardCw v * cardCh v) ||
    decide (256 < cardAccum v) || cardScratch v % 16 != 0 || decide (1310720 < cardScratch v) ||
    ((List.range 16).any fun i => cardNat v (320 + 2 * i) 2 == 3) ||
    (cardHandler v != 0 && (cardKc v != 3 || cardBlot v == 0)) || (cardPriv v && !priv)

/-- The bytes of a team's scratchpad allocation (07_memory Table 7.2). -/
def cardAlloc (v : BitVec 512) : Nat :=
  ((cardScratch v + 255) / 256 * 256 + 256 * cardBlot v + 8 * cardTeam v + 4095) / 4096 * 4096

/-- The word of a block that passes R23, read coherently by the dispatcher; an error says that it cannot be read yet. A block whose read fails,
with 0x60 or 0x61 too, makes its card invalid, which R23, R259 and R458 leave open (DESIGN CHOICE, log 131). -/
def State.blockWord (s : State) (die : Fin 8) (asid : BitVec 16) (va : Addr) : State × Except Unit (Option Word) :=
  if va.toNat % 4 ≠ 0 then (s, .ok none)
  else
    match s.readAs die .die asid .fetch va 4 with
    | (s, .error (k, _)) => (s, if k = notYet then .error () else .ok none)
    | (s, .ok bs) =>
        let w := BitVec.ofNat 32 (natOfBytes bs)
        (s, .ok (if (blockCause w).isNone then some w else none))

/-! ## Placement (R262, 03_selector R40, 07_memory R125) -/

/-- What one team takes of its core. -/
structure Room where
  threads : Nat
  bytes : Nat
  granules : Nat
deriving DecidableEq, Repr

/-- The room that a card's teams take. -/
def cardRoom (v : BitVec 512) : Room := { threads := cardTeam v, bytes := cardAlloc v, granules := cardAccum v }

/-- The teams of a core, those of clusters that are leaving apart. -/
def State.teamsOn (s : State) (c : CoreId) (gone : Nat → Bool) : List Team :=
  s.teams.filter fun t => decide (t.id.core = c) && !gone t.cluster

/-- The lowest run of free static groups (R40). -/
def freeGroups (ts : List Team) (n : Nat) : Option Nat :=
  (List.range (65 - n)).find? fun g => ts.all fun t => decide (g + n ≤ t.g0 ∨ t.g0 + (t.nthr + 31) / 32 ≤ g)

/-- The lowest free team slot (R40). -/
def freeTeamSlot (ts : List Team) : Option (Fin 64) := (List.finRange 64).find? fun i => ts.all fun t => t.id.slot != i

/-- Whether a core has room for one more team beside those that stay (R262). -/
def State.coreFits (s : State) (c : CoreId) (r : Room) (gone : Nat → Bool) : Bool :=
  let ts := s.teamsOn c gone
  let bytes := (ts.map fun t => t.size).sum
  let held := (ts.map fun t => t.gran.length).sum
  s.coreWorks c && (freeTeamSlot ts).isSome && (freeGroups ts ((r.threads + 31) / 32)).isSome &&
    decide (bytes + r.bytes ≤ Config.dataArray - Config.minL1 ∧ held + r.granules ≤ Config.granules)

/-- The core at a position of a rectangle. -/
def coreAt (die : Fin 8) (x0 y0 w p : Nat) : CoreId := { die := die, num := Fin.ofNat 64 (8 * (y0 + p / w) + x0 + p % w) }

/-- The fitting rectangle with the lowest origin (R262); `ok` is asked of each position and its core. -/
def findRect (die : Fin 8) (w h : Nat) (ok : Nat → CoreId → Bool) : Option (Nat × Nat) :=
  ((List.range 64).map fun i => (i % 8, i / 8)).find? fun o =>
    decide (o.1 + w ≤ 8 ∧ o.2 + h ≤ 8) && (List.range (w * h)).all fun p => ok p (coreAt die o.1 o.2 w p)

/-- The rectangle for a cluster of a card; a local card's is its own core (R266). -/
def State.rectFor (s : State) (die : Fin 8) (src : CardSrc) (v : BitVec 512) (gone : Nat → Bool) : Option (Nat × Nat) :=
  match src with
  | .queue _ _ => findRect die (cardCw v) (cardCh v) fun _ c => s.coreFits c (cardRoom v) gone
  | .localQ k _ =>
      if s.coreFits { die := die, num := k } (cardRoom v) gone then some (k.val % 8, k.val / 8) else none

/-- The checks of R259 on a card: the word of its entry block if it is valid; an error says that it cannot be checked yet. -/
def State.cardCheck (s : State) (die : Fin 8) (asid : BitVec 16) (priv : Bool) (src : CardSrc) (v : BitVec 512) :
    State × Except Unit (Option Word) :=
  if cardBad v priv || (s.rectFor die src v fun _ => true).isNone then (s, .ok none)
  else
    match s.blockWord die asid (cardEntry v), cardHandlerAt v with
    | (s, .ok (some w)), some h =>
        match s.blockWord die asid h with
        | (s, .error e) => (s, .error e)
        | (s, .ok x) => (s, .ok (x.map fun _ => w))
    | r, _ => r

/-- The largest L1 share that leaves room for some scratchpad bytes (R125). -/
def l1For (bytes : Nat) : Nat :=
  ([1572864, 1310720, 1048576].find? fun k => decide (bytes + k ≤ Config.dataArray)).getD Config.minL1

/-- The lines of a core's L1. -/
def State.l1Lines (s : State) (c : CoreId) : List CacheLine := s.lines.filter fun x => x.cache = s.l1Of c

/-- Whether a core's L1 holds no more lines than its share. -/
def State.l1Fits (s : State) (c : CoreId) : Bool := decide ((s.l1Lines c).length ≤ s.room (s.l1Of c))

/-- The lines beyond an L1's share leave it, in the order of replacement; dirty ones are written back first (R125, R149). -/
def State.shrinkL1 (s : State) (c : CoreId) : State :=
  let mine := s.l1Lines c
  let going := mine.filter fun x => s.writingBack x.cache x.line
  let stay := mine.filter fun x => x.busy.isNone && !s.writingBack x.cache x.line
  let victims := (stay.filter fun x => x.next) ++ (stay.filter fun x => !x.next).reverse
  (victims.take (mine.length - going.length - s.room (s.l1Of c))).foldl (fun s x =>
    if x.fetch then { s with lines := s.lines.erase x } else s.evict x.cache x.line) s

/-- The L1 share of a core for a placement of some scratchpad bytes: lowered only as far as all its teams need, and what it gives up is
written back and invalidated (R125). -/
def State.lowerL1 (s : State) (c : CoreId) (bytes : Nat) : State :=
  let held := ((s.teamsOn c fun _ => false).map fun t => t.size).sum
  (s.onCore c fun x => { x with l1share := min x.l1share (l1For (held + bytes)) }).shrinkL1 c

/-- The L1 share of a core after a retirement (R125): the largest that its remaining teams leave room for, of which the spec says nothing
(DESIGN CHOICE, log 125). -/
def State.raiseL1 (s : State) (c : CoreId) : State :=
  let bytes := ((s.teamsOn c fun _ => false).map fun t => t.size).sum
  s.onCore c fun x => { x with l1share := l1For bytes }

/-- A team as it is launched (R17, R28, R126, R259, Table 2.9). -/
def launchTeam (g : Grid) (cl cpos index : Nat) (id : TeamId) (g0 : Nat) (gran : List (Nat × Nat)) : Team :=
  let v := g.card
  { id := id, cluster := cl, cpos := cpos, index := index, g0 := g0, nthr := cardTeam v, kcount := 16 * (cardKc v + 1),
    roles := cardRoles v, scratch := cardScratch v, blot := cardBlot v, handler := cardHandlerAt v, priv := cardPriv v,
    asid := g.asid, tctl := 0, tstat := 0, seq := 0, guards := Vector.replicate 16 .idle,
    guardRel := Vector.replicate 16 [], guardBy := Vector.replicate 16 none, tiles := Vector.replicate 16 none, spad := [], gran := gran, f64 := [],
    resv := Vector.replicate 8 none, mrst := false }

/-- A thread as it is launched (R17): ENROLLED at the entry block by the enrolment that follows. -/
def launchThread (id : ThreadId) (args : BitVec 64) : Thread :=
  let k : Vector Word 64 := ((Vector.replicate 64 (0 : Word)).set 0 (args.setWidth 32)).set 1 (args.extractLsb' 32 32)
  { id := id, st := .enrolled, block := 0, coll := false, after := .none, arrived := false, t := Vector.replicate 32 0,
    k := k, p := 0, ctr := Vector.replicate 4 0, hm := false, mark := false, tag := 0, age := 0, resume := none,
    fault := none, deferred := [], parkEntry := none, handEntry := none, parkInfo := none, freedRef := none }

/-- The marks that a team's slot may still carry from a team before it go, and those of a new team come. -/
def State.marksFor (s : State) (id : TeamId) (new : List Damage) : State :=
  { s with damage := (s.damage.filter fun d => match d with
      | .spad t _ => t != id
      | .kreg i _ => i.team != id
      | .preg i _ => i.team != id
      | .cached _ _ | .l3 _ | .pool _ | .acc _ _ => true) ++ new }

/-- Put one team of a cluster on its core (R40, R126, R17): slot, groups, granules, threads. -/
def State.placeTeam (s : State) (g : Grid) (cl idx n cpos : Nat) (c : CoreId) : State :=
  let ts := s.teamsOn c fun _ => false
  let ng := (cardTeam g.card + 31) / 32
  match freeTeamSlot ts, freeGroups ts ng with
  | some slot, some g0 =>
      let id : TeamId := { core := c, slot := slot }
      let gran := ((s.freeGranules c).take (cardAccum g.card)).zipIdx.map fun x => (x.2, x.1)
      let s := gran.foldl (fun s x => s.zeroGranule c x.2) s
      let s := ({ s with teams := s.teams ++ [launchTeam g cl cpos (idx * n + cpos) id g0 gran] } : State).marksFor id []
      let ids : List ThreadId := (List.range (cardTeam g.card)).map fun k => { team := id, tid := k }
      let s : State := { s with threads := s.threads ++ ids.map fun i => launchThread i (cardArgs g.card) }
      ids.foldl (fun s i => s.enrol i (cardEntry g.card) g.word none) s
  | _, _ => s

/-- Place the next cluster of a grid in a rectangle (R262). -/
def State.placeCluster (s : State) (g : Grid) (o : Nat × Nat) : State :=
  let w := cardCw g.card
  let h := cardCh g.card
  let cl := s.fresh
  let s : State := { s.bump with clusters := s.clusters ++
    [{ id := cl, grid := g.id, die := g.die, index := g.placed, x0 := o.1, y0 := o.2, w := w, h := h, prio := g.prio,
       stopping := false }] }
  let s := (List.range (w * h)).foldl (fun s p => s.placeTeam g cl g.placed (w * h) p (coreAt g.die o.1 o.2 w p)) s
  s.onGrid g.id fun x => { x with placed := x.placed + 1 }

/-- Whether grid `a` is served before grid `b`: local work first, then effective priority, then age (R258, R266). -/
def Grid.before (a b : Grid) : Bool :=
  let loc (g : Grid) : Nat := match g.src with
    | .queue _ _ => 0
    | .localQ _ _ => 1
  if loc a ≠ loc b then decide (loc b < loc a)
  else if a.prio ≠ b.prio then decide (b.prio < a.prio)
  else decide (a.id < b.id)

/-- The grid of a die whose next cluster fits now, and where. -/
def State.nextPlace (s : State) (die : Fin 8) : Option (Grid × Nat × Nat) :=
  let gs := s.grids.filter fun g => decide (g.die = die ∧ g.placed < cardGrid g.card) && !g.ended && !g.complete
  let fit := gs.filterMap fun g => (s.rectFor die g.src g.card fun _ => false).map fun o => (g, o.1, o.2)
  fit.foldl (fun m x => match m with
    | none => some x
    | some y => if x.1.before y.1 then some x else some y) none

/-- The cores of a rectangle. -/
def rectCores (die : Fin 8) (o : Nat × Nat) (w h : Nat) : List CoreId := (List.range (w * h)).map fun p => coreAt die o.1 o.2 w p

/-- The L1s of some cores are made ready for teams of some scratchpad bytes (R125): whether they are. -/
def State.readyL1 (s : State) (cores : List CoreId) (bytes : Nat) : State × Bool :=
  let s := cores.foldl (fun s c => s.lowerL1 c bytes) s
  (s, cores.all fun c => s.l1Fits c)

/-- CLUSTER_PLACEMENT (R262), once the L1s have given up what the split takes from them (R125). -/
def execClusterPlacement (die : Fin 8) (s : State) : Out :=
  match s.nextPlace die with
  | some (g, x, y) =>
      match s.readyL1 (rectCores g.die (x, y) (cardCw g.card) (cardCh g.card)) (cardAlloc g.card) with
      | (s, true) => event (s.placeCluster g (x, y))
      | (s, false) => event s.kick
  | none => event s

/-! ## Completion (R260, R263, R264) -/

/-- A record of the dispatcher: KIND 1, CORE 0, TEAM 0, TID 0. -/
def State.dieReport (s : State) (die : Fin 8) (index : BitVec 64) (cause : BitVec 8) (data : Word) : State :=
  s.onDie die fun d => d.report (reportRec index cause 0 0 0 true data)

/-- A grid completes (R263): its outcome waits for its record, and its signal slate is credited one arrival. -/
def State.completeGrid (s : State) (g : Grid) (status : BitVec 2) : State :=
  let s := match g.src with
    | .queue q n =>
        if g.orphan then s
        else s.onDie g.die fun d => d.onQueue q.val fun x => { x with done := x.done ++ [(n, status, 0)] }
    | .localQ _ _ => s
  if cardSslate g.card = 0 then { s with grids := s.grids.filter fun x => !decide (x.id = g.id) }
  else (s.onGrid g.id fun x => { x with complete := true }).creditAt (.grid g.id) 0 1 (status == 2) []

/-- The credit of a signal slate has been applied, or is lost and reported (R260): the grid is over. -/
def State.gridOver (s : State) (g : Grid) (c : Credit) (lost : Option (BitVec 8)) : State :=
  let s := match lost with
    | some cause => s.dieReport g.die g.src.index cause 0xFFFFFFFD
    | none => s
  { s with grids := s.grids.filter fun x => !decide (x.id = g.id),
           credits := s.credits.filter fun x => !decide (x.id = c.id) }

/-- The credit of a signal slate (R260, R212), read and written as the dispatcher reads and writes. -/
def State.gridCredit (s : State) (g : Grid) (c : Credit) : State :=
  let va := cardSslate g.card &&& ~~~ 0xF#64
  match s.readGlobal g.die .die g.asid va 16 with
  | (s, .error (k, _)) => if k = notYet then s else s.gridOver g c (some k)
  | (s, .ok bs) =>
      let v := natOfBytes bs
      if !slateMagic v then s.gridOver g c (some 0x20)
      else
        match s.writeGlobal g.die g.asid va (bytesOfNat 16 (creditSlate v c.bytes c.arrivals c.err s.freed).1.toNat) with
        | (s, .error (k, _)) => if k = notYet then s else s.gridOver g c (some k)
        | (s, .ok _) => ({ s with freed := s.freed + 2 } : State).gridOver g c none

/-- SLATE_CREDIT (R212), by credit. Credits of a saved context are held (R270); those of a team that has gone are lost. -/
def execSlateCredit (id : Nat) (s : State) : Out :=
  match s.credits.find? fun c => c.id = id with
  | none => event s
  | some c =>
      if !s.creditReady c ∨ s.slateSaved c.at' then event s
      else
        let gone : State := { s with credits := s.credits.filter fun x => !decide (x.id = id) }
        match c.at' with
        | .team _ _ | .saved _ _ _ => event (gone.creditNow c)
        | .grid g =>
            match s.grid g with
            | some x => event (s.gridCredit x c).kick
            | none => event gone

/-- A queue fault (R458). -/
def State.queueFault (s : State) (die : Fin 8) (q : Nat) (work : QueueWork) (num : Nat) (cause : BitVec 8) : State :=
  (s.onDie die fun d => d.onQueue q fun x => { x with stopped := some work }).dieReport die (BitVec.ofNat 64 num) cause
    0xFFFFFFFC

/-- A completion record (Table 18.3). -/
def completionRec (num : Nat) (status : BitVec 2) (cause : BitVec 8) : BitVec 128 :=
  (0 : BitVec 54) ++ status ++ cause ++ BitVec.ofNat 64 num

/-- Write the next completion record of a queue, if its outcome is known (R264). -/
def State.writeRecord (s : State) (die : Fin 8) (q : Nat) : State :=
  let x := (s.die die).queue q
  match x.done.find? fun d => d.1 = x.rec' with
  | none => s
  | some d =>
      match s.writeGlobal die x.cfg.asid (x.cfg.cring + BitVec.ofNat 64 (16 * (d.1 % x.cfg.size)))
          (bytesOfNat 16 (completionRec d.1 d.2.1 d.2.2).toNat) with
      | (s, .error (k, _)) => if k = notYet then s else s.queueFault die q .record d.1 k
      | (s, .ok _) =>
          s.onDie die fun y => y.onQueue q fun x =>
            { x with rec' := x.rec' + 1, done := x.done.filter fun e => !decide (e.1 = d.1) }

/-- QUEUE_COMPLETION_RECORD (R264). -/
def execQueueCompletionRecord (die : Fin 8) (q : Fin 64) (s : State) : Out :=
  let x := (s.die die).queue q.val
  if x.cfg.en ∧ x.stopped = none then event (s.writeRecord die q.val).kick else event s

/-! ## Taking cards (R258, R259, R266, R269) -/

/-- Read card number `n` of a queue. -/
def State.readCard (s : State) (die : Fin 8) (q n : Nat) : State × Except (BitVec 8) (BitVec 512) :=
  let x := (s.die die).queue q
  match s.readGlobal die .die x.cfg.asid (x.cfg.base + BitVec.ofNat 64 (64 * (n % x.cfg.size))) 64 with
  | (s, .error (k, _)) => (s, .error k)
  | (s, .ok bs) => (s, .ok (BitVec.ofNat 512 (natOfBytes bs)))

/-- Whether a card's wait slate is satisfied (R260); one without MAGIC never is. -/
def State.waitOk (s : State) (die : Fin 8) (asid : BitVec 16) (v : BitVec 512) : State × Except (BitVec 8) Bool :=
  let w := cardWslate v
  if w = 0 then (s, .ok true)
  else
    match s.readGlobal die .die asid (w &&& ~~~ 0xF#64) 16 with
    | (s, .error (k, _)) => (s, .error k)
    | (s, .ok bs) => (s, .ok (slateMagic (natOfBytes bs) && slatePh (natOfBytes bs) == w.getLsbD 0))

/-- A queue's next card, as the dispatcher finds it. -/
structure NextCard where
  q : Fin 64
  num : Nat
  card : BitVec 512
  prio : Nat
  word : Option Word
  fits : Bool
deriving DecidableEq, Repr

/-- A read of the dispatcher for a queue has failed, which is a queue fault (R458), or cannot be made yet. -/
def State.queueRead (s : State) (die : Fin 8) (q : Nat) (work : QueueWork) (num : Nat) (k : BitVec 8) : State :=
  if k = notYet then s else s.queueFault die q work num k

/-- The next card of a queue (R258): none while there is none, the queue is stopped, or the reorder window is full (R264), or its
wait slate is not satisfied, which holds it whatever it says; a failed access is a queue fault. -/
def State.nextCard (s : State) (die : Fin 8) (q : Fin 64) : State × Option NextCard :=
  let x := (s.die die).queue q.val
  if !x.cfg.en ∨ x.stopped ≠ none ∨ x.tail ≤ x.head ∨ x.rec' + 255 < x.head then (s, none)
  else
    match s.readCard die q.val x.head with
    | (s, .error k) => (s.queueRead die q.val .card x.head k, none)
    | (s, .ok v) =>
        let prio := min (cardPrio v) x.cfg.ceil.val
        match s.waitOk die x.cfg.asid v with
        | (s, .error k) => (s.queueRead die q.val .wslate x.head k, none)
        | (s, .ok false) => (s, none)
        | (s, .ok true) =>
            match s.cardCheck die x.cfg.asid x.cfg.priv (.queue q x.head) v with
            | (s, .error _) => (s, none)
            | (s, .ok w) =>
                (s, some { q := q, num := x.head, card := v, prio := prio, word := w,
                           fits := w.isNone || (s.rectFor die (.queue q x.head) v fun _ => false).isSome })

/-- The next cards of all queues, in the order of rotation: from the queue after the last one served (R258). -/
def State.nextCards (s : State) (die : Fin 8) : State × List NextCard :=
  (List.range 64).foldl (fun r k =>
    match r.1.nextCard die (Fin.ofNat 64 ((s.die die).turn + k)) with
    | (s, some c) => (s, r.2 ++ [c])
    | (s, none) => (s, r.2)) (s, [])

/-- The first of the cards with the highest effective priority. -/
def bestCard (cs : List NextCard) : Option NextCard :=
  cs.foldl (fun m c => match m with
    | none => some c
    | some x => if x.prio < c.prio then some c else some x) none

/-- Take a card (R258, R259): an invalid one launches nothing and completes with STATUS 1 and 0x62. -/
def State.takeCard (s : State) (die : Fin 8) (c : NextCard) : State :=
  let x := (s.die die).queue c.q.val
  let s := s.onDie die fun d =>
    { d.onQueue c.q.val (fun x => { x with head := x.head + 1 }) with turn := c.q.val + 1 }
  match c.word with
  | none => s.onDie die fun d => d.onQueue c.q.val fun x => { x with done := x.done ++ [(c.num, 1, 0x62)] }
  | some w =>
      { s.bump with grids := s.grids ++
        [{ id := s.fresh, die := die, src := .queue c.q c.num, queue := c.q, prio := c.prio, card := c.card, word := w,
           asid := x.cfg.asid, placed := 0, retired := 0, ended := false, complete := false, orphan := false }] }

/-- Insert a cluster into a list: lower priority first, then the more recently placed. -/
def insertCluster (c : Cluster) : List Cluster → List Cluster
  | [] => [c]
  | d :: ds => if c.prio < d.prio ∨ (c.prio = d.prio ∧ d.id ≤ c.id) then c :: d :: ds else d :: insertCluster c ds

/-- The clusters that a pre-empting card may displace, in order: lowest effective priority first, then the most recently placed
(R269). -/
def State.displaceable (s : State) (die : Fin 8) (prio : Nat) : List Cluster :=
  (s.clusters.filter fun c => decide (c.die = die ∧ c.prio < prio)).foldr insertCluster []

/-- The shortest run of displaceable clusters without which a card fits. -/
def State.displace (s : State) (die : Fin 8) (c : NextCard) : Option (List Nat) :=
  let ids := (s.displaceable die c.prio).map fun x => x.id
  ((List.range (ids.length + 1)).map fun n => ids.take n).find? fun gone =>
    (s.rectFor die (.queue c.q c.num) c.card fun k => gone.contains k).isSome

/-- Whether system software has ended a grid (R263). -/
def State.gridEnded (s : State) (gid : Nat) : Bool := (s.grid gid).any fun g => g.ended

/-- Start the pre-emption of clusters: the selector stops dispatch for their teams (R269). Those of an ended grid retire without a save
(R263). -/
def State.stopClusters (s : State) (ids : List Nat) : State :=
  { s with clusters := s.clusters.map fun c => if ids.contains c.id ∧ !s.gridEnded c.grid then { c with stopping := true } else c }

/-- Whether a card's cluster is 1 × 1 (R266). -/
def oneByOne (v : BitVec 512) : Bool := cardCw v == 1 && cardCh v == 1

/-- Whether the first card of a local task queue could be taken now, as far as it can be read yet: those go before any hardware queue
(R266). -/
def State.localWaits (s : State) (core : CoreId) : Bool :=
  let k := s.core core
  match k.cards with
  | [] => false
  | (q, asid, v) :: _ =>
      let src : CardSrc := .localQ core.num k.cardNum
      match s.waitOk core.die asid v with
      | (s, .ok true) =>
          match s.cardCheck core.die asid ((s.die core.die).queue q.val).cfg.priv src v with
          | (s, .ok (some _)) => (s.rectFor core.die src v fun _ => false).isSome || !oneByOne v
          | (_, .ok none) | (_, .error _) => true
      | (_, .ok false) => false
      | (_, .error k) => k == notYet

/-- A card of a PREEMPT queue that cannot be placed starts pre-emption (R269): the first of the highest effective priority among those for which
some clusters can make room. -/
def State.preemptFor (s : State) (die : Fin 8) (cs : List NextCard) : State :=
  match bestCard (cs.filter fun c => !c.fits && ((s.die die).queue c.q.val).cfg.preempt && (s.displace die c).isSome) with
  | none => s
  | some c =>
      match s.displace die c with
      | some ids => s.stopClusters ids
      | none => s

/-- CARD_TAKE (R258): a card of a PREEMPT queue that cannot be placed starts pre-emption (R269), and the placeable card of highest
effective priority is taken. -/
def execCardTake (die : Fin 8) (s : State) : Out :=
  if (List.finRange 64).any fun n => s.localWaits { die := die, num := n } then event s
  else
    let (s, cs) := s.nextCards die
    let s := s.preemptFor die cs
    match bestCard (cs.filter fun c => c.fits) with
    | some c => event (s.takeCard die c).settleReads
    | none => event s.settleReads

/-- The grid of a local card. -/
def localGrid (s : State) (core : CoreId) (q : Fin 64) (asid : BitVec 16) (v : BitVec 512) (num : Nat) (w : Word)
    (bad : Bool) : Grid :=
  { id := s.fresh, die := core.die, src := .localQ core.num num, queue := q,
    prio := min (cardPrio v) ((s.die core.die).queue q.val).cfg.ceil.val, card := v, word := w, asid := asid, placed := 0,
    retired := 0, ended := bad, complete := bad, orphan := false }

/-- The first card leaves a local task queue. -/
def State.popCard (s : State) (core : CoreId) : State :=
  s.onCore core fun x => { x with cards := x.cards.drop 1, cardNum := x.cardNum + 1 }

/-- A local card that launches nothing: 0x62 is reported, and its signal slate is credited with ERR (R266). -/
def State.refuseCard (s : State) (core : CoreId) (q : Fin 64) (asid : BitVec 16) (v : BitVec 512) (num : Nat) : State :=
  let s := (s.popCard core).onDie core.die fun d =>
    d.report (reportRec (CardSrc.index (.localQ core.num num)) 0x62 core.num.val 0 0 true 0xFFFFFFFF)
  if cardSslate v = 0 then s
  else
    let g := localGrid s core q asid v num 0 true
    ({ s.bump with grids := s.grids ++ [g] } : State).creditAt (.grid g.id) 0 1 true []

/-- LOCAL_CARD_TAKE (R266): in the order in which they were entered, and placed only on that core; a card whose wait slate is not satisfied
holds the later ones. An invalid card, or one whose cluster is not 1 × 1, launches nothing. -/
def execLocalCardTake (core : CoreId) (s : State) : Out :=
  let k := s.core core
  match k.cards with
  | [] => event s
  | (q, asid, v) :: _ =>
      let src : CardSrc := .localQ core.num k.cardNum
      match s.waitOk core.die asid v with
      | (s, .ok false) | (s, .error _) => event s.settleReads
      | (s, .ok true) =>
          match s.cardCheck core.die asid ((s.die core.die).queue q.val).cfg.priv src v with
          | (s, .error _) => event s.settleReads
          | (s, .ok w) =>
              match if oneByOne v then w else none with
              | none => event (s.refuseCard core q asid v k.cardNum).settleReads
              | some w =>
                  if (s.rectFor core.die src v fun _ => false).isSome then
                    let s := s.popCard core
                    event ({ s.bump with grids := s.grids ++ [localGrid s core q asid v k.cardNum w false] } : State).settleReads
                  else event s.settleReads

/-! ## Queue registers (R257, R458, R269) -/

/-- QUEUE_CONFIGURATION (R257): enabling starts the card numbers at 0; disabling abandons a failed access (R458). -/
def execQueueConfiguration (die : Fin 8) (q : Fin 64) (cfg : QueueConfig) (s : State) : Out :=
  let old := (s.die die).queue q.val
  let s := s.onDie die fun d => d.onQueue q.val fun x =>
    if cfg.en ∧ !x.cfg.en then { queueReset with cfg := cfg }
    else if cfg.en then { x with cfg := cfg } else { x with cfg := cfg, stopped := none }
  if cfg.en ∧ !old.cfg.en then
    event { s with grids := s.grids.map fun g => match g.src with
      | .queue k _ => if g.die = die ∧ k = q then { g with orphan := true } else g
      | .localQ _ _ => g }
  else event s

/-- A stopped queue resumes: the failed access is made again first (R458). -/
def State.retryQueue (s : State) (die : Fin 8) (q : Fin 64) (w : QueueWork) : State :=
  match w with
  | .card | .wslate => (s.nextCard die q).1
  | .record => s.writeRecord die q.val

/-- QUEUE_DOORBELL (R257): the new tail number; a stopped queue resumes (R458). -/
def execQueueDoorbell (die : Fin 8) (q : Fin 64) (tail : Nat) (s : State) : Out :=
  let x := (s.die die).queue q.val
  if !x.cfg.en then event s
  else
    let s := s.onDie die fun d => d.onQueue q.val fun x => { x with tail := tail, stopped := none }
    match x.stopped with
    | none => event s
    | some w => event (s.retryQueue die q w).kick

/-- QUEUE_PREEMPTION (R269): every resident cluster of the queue stops. -/
def execQueuePreemption (die : Fin 8) (q : Fin 64) (s : State) : Out :=
  let mine (c : Cluster) : Bool := decide (c.die = die) && match s.grid c.grid with
    | some g => match g.src with
        | .queue k _ => k == q
        | .localQ _ _ => false
    | none => false
  event (s.stopClusters ((s.clusters.filter mine).map fun c => c.id))

/-! ## Ending and retiring (R235, R263, 12_program_atomics R204, 23_ref R350) -/

/-- The teams of a cluster. -/
def State.clusterTeams (s : State) (k : Nat) : List Team := s.teams.filter fun t => t.cluster = k

/-- Whether nothing of a cluster is outstanding: its threads have exited, its commands have completed, its accesses have performed,
and its teams' credits are applied. -/
def State.mayRetire (s : State) (k : Nat) : Bool :=
  let ids := (s.clusterTeams k).map fun t => t.id
  !ids.isEmpty && (s.threads.all fun t => !ids.contains t.id.team || t.st == .exited) &&
    (s.cmds.all fun c => !ids.contains c.team) && (s.accs.all fun a => !ids.contains a.th.team) &&
    s.credits.all fun c => match c.at' with
      | .team t _ => !ids.contains t
      | .grid _ | .saved _ _ _ => true

/-- Remove the teams of a cluster from their cores. -/
def State.removeTeams (s : State) (k : Nat) : State :=
  let ts := s.clusterTeams k
  let ids := ts.map fun t => t.id
  { s with
    teams := s.teams.filter fun t => !ids.contains t.id,
    threads := s.threads.filter fun t => !ids.contains t.id.team,
    sheet := s.sheet.filter fun e => !ids.contains { core := e.core, slot := e.team },
    flagsNow := s.flagsNow.filter fun x => !ids.contains x.1,
    clusters := s.clusters.filter fun c => !decide (c.id = k) }

/-- A grid whose next cluster no rectangle of its die can hold any more, because cores have been retired, and none of whose clusters
is resident or saved, becomes invalid (R262, 21_outside R295): as an invalid card, it completes with STATUS 1 and 0x62, and a
local one is reported and credits its signal slate with ERR (R266). -/
def State.dropUnplaceable (s : State) (gid : Nat) : State :=
  match s.grid gid with
  | none => s
  | some g =>
      if g.complete ∨ g.ended ∨ g.placed = cardGrid g.card ∨ g.retired ≠ g.placed then s
      else if (s.rectFor g.die g.src g.card fun _ => true).isSome then s
      else
        match g.src with
        | .queue q n =>
            let s := if g.orphan then s
              else s.onDie g.die fun d => d.onQueue q.val fun x => { x with done := x.done ++ [(n, 1, 0x62)] }
            { s with grids := s.grids.filter fun x => !decide (x.id = gid) }
        | .localQ k _ =>
            (s.onDie g.die fun d => d.report (reportRec g.src.index 0x62 k.val 0 0 true 0xFFFFFFFF)).completeGrid g 2

/-- A cluster of a grid has retired: the grid completes when all have (R263). -/
def State.countRetired (s : State) (gid n : Nat) : State :=
  let s := s.onGrid gid fun g => { g with retired := g.retired + n }
  match s.grid gid with
  | none => s
  | some g =>
      if g.complete then s
      else if g.ended then (if g.retired = g.placed then s.completeGrid g 2 else s)
      else if g.retired = cardGrid g.card then s.completeGrid g 0 else s.dropUnplaceable gid

/-- CLUSTER_RETIRE (R235). -/
def execClusterRetire (cluster : Nat) (s : State) : Out :=
  match s.cluster cluster with
  | none => event s
  | some c =>
      if !s.mayRetire cluster then event s
      else
        let cores := (s.clusterTeams cluster).map fun t => t.id.core
        let s := s.removeTeams cluster
        let s := cores.foldl (fun s k => s.raiseL1 k) s
        event (s.countRetired c.grid 1)

/-- Whether a grid has a PARKED or FAULT-PENDING thread, resident or saved (R263). -/
def State.gridStuck (s : State) (gid : Nat) : Bool :=
  let stuck (t : Thread) : Bool := t.st == .parked || t.st == .faultPending
  (s.clusters.any fun c => decide (c.grid = gid) && (s.clusterTeams c.id).any fun t => (s.threadsOf t.id).any stuck) ||
    s.contexts.any fun x => decide (x.cluster.grid = gid) && x.threads.any stuck

/-- What a hold of a group that ends comes to: a change that waited for accepted accesses takes effect if it may, and a POST that could not
be accepted yet is none. -/
def State.endHold (s : State) (p : Pipe) (tm : Team) (h : Hold) : State :=
  if s.parcelDone p h then s.parcelEffect p tm h
  else
    match h with
    | .post _ _ _ id => s.dropCmd id
    | .counter _ _ | .acc _ | .perf _ | .answer _ | .enter _ | .seal _ _ _ | .free _ _ _ | .discard _ _ | .earlier _ | .fetch | .cycle _ _
    | .tile _ _ => s

/-- A thread that system software has ended: it exits without a save. -/
def Thread.ended (u : Thread) : Thread :=
  { u with st := .exited, after := .none, fault := none, deferred := [], hm := false, handEntry := none, parkEntry := none, coll := false }

/-- No thread will set a guard slot of an ended team any more: a slot that is UNRESOLVED counts as FALSE, so that what waits on it is
discarded and the cluster can retire, of which the spec says nothing (DESIGN CHOICE, log 106). -/
def Team.endGuards (t : Team) : Team := { t with guards := t.guards.map fun g => if g = .unresolved then .isFalse else g }

/-- End the threads of a team: its accepted commands run on after their issuers' accesses (R192, R235), and loads owe nobody a register. -/
def State.endTeam (s : State) (t : TeamId) : State :=
  let ps := s.pipes.filter fun p => p.team = t
  let s : State := match s.team t with
    | some tm => ps.foldl (fun (s : State) (p : Pipe) => p.hold.foldl (fun s h => s.endHold p tm h) s) s
    | none => s
  let s := s.onTeam t Team.endGuards
  let tile (a : Acc) : Bool := match a.op with
    | .tdesc _ => true
    | .load _ | .loadRef _ _ | .store _ | .stf _ _ _ | .atom _ _ _ _ | .cas _ _ _ | .prefetch _ | .engRead _ _ | .engOwn _ | .cmnt _ _ => false
  { s with
    pipes := s.pipes.filter fun p => !decide (p.team = t),
    ended := s.ended ++ ps.map fun p => p.id,
    focus := match s.focus with
      | some f => if ps.any fun p => p.id = f then none else some f
      | none => none,
    threads := s.threads.map fun u => if u.id.team = t then u.ended else u,
    sheet := s.sheet.filter fun e => !decide (e.core = t.core ∧ e.team = t.slot),
    accs := (s.accs.filter fun a => !(decide (a.th.team = t) && tile a)).map fun a =>
      if a.th.team = t then { a with dst := [], pred := none } else a }

/-- Whether something of a saved cluster is outstanding: a kept command, a POST in flight, a credit (R235, R270). -/
def State.contextBusy (s : State) (x : Context) : Bool :=
  let mine (a : SlateAt) : Bool := match a with
    | .saved k _ _ => k == x.cluster.id
    | .team _ _ | .grid _ => false
  !x.cmds.isEmpty || (s.cmds.any fun c => mine c.slate) || s.credits.any fun c => mine c.at'

/-- A saved cluster of an ended grid that is to resume, so that its commands complete (R235). -/
def Context.ended (x : Context) : Context :=
  { x with teams := x.teams.map Team.endGuards, threads := x.threads.map Thread.ended, sheet := [] }

/-- END_GRID (R263): only a grid with a PARKED or FAULT-PENDING thread. Its threads end, and its clusters retire when their commands have
completed (R235), a saved one that has none at once. -/
def execEndGrid (grid : Nat) (s : State) : Out :=
  match s.grid grid with
  | none => event s
  | some g =>
      if g.ended ∨ g.complete ∨ !s.gridStuck grid then event s
      else
        let ids := (s.clusters.filter fun c => c.grid = grid).map fun c => c.id
        let ts := (s.teams.filter fun t => ids.contains t.cluster).map fun t => t.id
        let (keep, go) := (s.contexts.filter fun x => x.cluster.grid = grid).partition fun x => s.contextBusy x
        let s := ts.foldl (fun s t => s.endTeam t) s
        let s : State := { s with
          contexts := (s.contexts.filter fun x => !decide (x.cluster.grid = grid)) ++ keep.map Context.ended,
          clusters := s.clusters.map fun c => if c.grid = grid then { c with stopping := false } else c }
        let s := s.onGrid grid fun g => { g with ended := true }
        event (s.countRetired grid go.length).kick

end Sys2Proof.Machine
end

