-- ==== Sys2Proof/Machine/Contexts.lean ====
section
/-!
DEFINITION. Pre-emption: saving and resuming the context of a cluster (18_scheduling R269, R270, 14_matrix R233). The save area's
layout belongs to the implementation: a saved context is kept as data beside memory, and the area's bytes in memory are free values.
-/
namespace Sys2Proof.Machine

/-! ## CONTEXT_SAVE (R269) -/

/-- Whether a command is a POST. -/
def Cmd.isPost (c : Cmd) : Bool := c.op.posted.isSome

/-- Whether a command may be saved: it has not started, or it is an MFEED, which stops between lines, or an MLOOP, which stops at a step
that leaves no partial sum (06_arithmetic R121). A POST stays in flight, whether its engine has started or not (16_parcels R251). -/
def Cmd.savable (c : Cmd) : Bool :=
  match c.phase, c.op with
  | .queued, _ => !c.isPost
  | .running, .mfeed _ _ _ _ _ => true
  | .running, .mloop _ _ _ _ _ _ _ _ => c.psums.isEmpty
  | _, _ => false

/-- Whether a stopping cluster has come to rest: no issue group, no drain, no enrolment under way, no access, no started copy command. -/
def State.atRest (s : State) (k : Nat) : Bool :=
  let ids := (s.clusterTeams k).map fun t => t.id
  (s.pipes.all fun p => !ids.contains p.team) && (ids.all fun t => (s.core t.core).due.all fun x => x.1.team != t) &&
    (s.threads.all fun t => !ids.contains t.id.team || (t.st != .issuing && t.st != .draining)) &&
    (s.accs.all fun a => !ids.contains a.th.team) &&
    s.cmds.all fun c => !ids.contains c.team || c.savable || c.isPost

/-- The operand-buffer lines of a team's live reservations (R233). -/
def State.teamLines (s : State) (t : Team) : List (Nat × Nat × Line × Bool) :=
  (s.core t.id.core).opbuf.filterMap fun x =>
    if t.resv.toList.any fun r => match r with
        | some r => decide (r.start ≤ x.1 ∧ x.1 < r.start + r.len)
        | none => false
    then some (t.cpos, x.1, x.2.1, x.2.2) else none

/-- The bytes of a team's granules, by accumulator address (R233). -/
def State.teamAcc (s : State) (t : Team) : List (Nat × Nat × Byte) :=
  (s.core t.id.core).acc.filterMap fun c =>
    (t.gran.find? fun g => decide (g.2 = c.1 / 1024)).map fun g => (t.cpos, 1024 * g.1 + c.1 % 1024, c.2)

/-- A slate address of a team that is being saved. -/
def SlateAt.save (ts : List Team) (k : Nat) (a : SlateAt) : SlateAt :=
  match a with
  | .team t off =>
      match ts.find? fun x => x.id = t with
      | some x => .saved k x.cpos off
      | none => a
  | .grid _ | .saved _ _ _ => a

/-- A mark on something of a team that is saved (19_faults R281): that on accumulator memory goes by the team's own address. -/
def Damage.save (ts : List Team) (d : Damage) : Option Damage :=
  match d with
  | .spad t _ => if ts.any fun x => x.id = t then some d else none
  | .kreg i _ | .preg i _ => if ts.any fun x => x.id = i.team then some d else none
  | .acc c u =>
      (ts.filter fun x => x.id.core = c).findSome? fun x =>
        (x.gran.find? fun g => decide (g.2 = u / 64)).map fun g => .acc c (64 * g.1 + u % 64)
  | .cached _ _ | .l3 _ | .pool _ => none

/-- The context of a cluster. -/
def State.contextOf (s : State) (c : Cluster) : Context :=
  let ts := s.clusterTeams c.id
  let ids := ts.map fun t => t.id
  { cluster := c,
    teams := ts,
    threads := s.threads.filter fun t => ids.contains t.id.team,
    sheet := s.sheet.filter fun e => ids.contains { core := e.core, slot := e.team },
    cmds := s.cmds.filter fun x => ids.contains x.team && x.savable,
    lines := ts.flatMap fun t => s.teamLines t,
    acc := ts.flatMap fun t => s.teamAcc t,
    slots := (s.die c.die).handles.filterMap fun h =>
      if h.st = .receiving then
        (ts.find? fun t => decide (t.id = { core := { die := c.die, num := h.core }, slot := h.team })).map fun t =>
          (h.idx, h.gen, t.cpos)
      else none,
    damage := s.damage.filterMap fun d => d.save ts }

/-- One line of a save area: its translation, through a peer window where its page is one (01_package R12), or that it must be waited for; a
page that the queue's address space does not reach is left out (log 70). -/
structure SaveLine where
  line : Option LineId
  win : Option Nat
  wait : Bool
deriving DecidableEq, Repr

/-- The line of a save area at an address. -/
def State.saveLine (s : State) (die : Fin 8) (asid : BitVec 16) (va : Addr) : State × SaveLine :=
  match s.translateAll die .die asid false .wr va with
  | (s, .ok (t, win)) => (s, { line := some (lineOf .pool t.pa), win := win, wait := false })
  | (s, .error e) => (s, { line := none, win := none, wait := e.1 == notYet })

/-- The lines of a save area, from line `k` of the context area on. -/
def State.saveLines (s : State) (die : Fin 8) (q : QueueConfig) (k : Nat) : Nat → State × List SaveLine
  | 0 => (s, [])
  | n + 1 =>
      let (s, x) := s.saveLine die q.asid (q.ctx + BitVec.ofNat 64 (128 * k))
      let (s, xs) := s.saveLines die q (k + 1) n
      (s, x :: xs)

/-- The context of a cluster is written to CTX of the queue that its work was issued under, through the queue's address space (R269): what
the bytes there read as nobody determines. The function reports the size of the area. False while a line of it must be waited for. -/
def State.writeSaveArea (s : State) (c : Cluster) : State × Bool :=
  match s.grid c.grid with
  | none => (s, true)
  | some g =>
      let q := ((s.die c.die).queue g.queue.val).cfg
      let n := Config.saveBytes g.card
      let (s, xs) := s.saveLines c.die q (Config.saveLine g.card c.index) ((n + 127) / 128)
      if xs.any fun x => x.wait then (s, false)
      else
        let s := xs.foldl (fun (s : State) x =>
          let s := match x.line with
            | some l => s.scrambleLine l
            | none => s
          match x.win with
          | some pa => s.endAsk c.die pa .wr
          | none => s) s
        (s.onDie c.die fun d => { d with saves := (c.id, n) :: d.saves.filter fun x => !decide (x.1 = c.id) }, true)

/-- CONTEXT_SAVE (R269), but for a cluster of an ended grid (R263): credits on their way to the cluster's slates are held by the dispatcher
(R270). -/
def execContextSave (cluster : Nat) (s : State) : Out :=
  match s.cluster cluster with
  | none => event s
  | some c =>
      if !c.stopping ∨ s.gridEnded c.grid ∨ !s.atRest cluster then event s
      else
        let (s, ready) := s.writeSaveArea c
        if !ready then event s.kick
        else
        let x := s.contextOf c
        let ids := x.teams.map fun t => t.id
        let s := s.removeTeams cluster
        let s : State := { s with
          contexts := s.contexts ++ [x],
          damage := s.damage.filter fun d => (d.save x.teams).isNone,
          cmds := (s.cmds.filter fun y => !(ids.contains y.team && y.savable)).map fun y =>
            { y with slate := y.slate.save x.teams cluster },
          credits := s.credits.map fun y => { y with at' := y.at'.save x.teams cluster } }
        event (s.onDie c.die fun d =>
          { d with residency := d.residency.map fun r => { r with at' := r.at'.save x.teams cluster } })

/-! ## CONTEXT_RESUME (R270) -/

/-- The room that a saved team takes. -/
def Team.room (t : Team) : Room := { threads := t.nthr, bytes := t.size, granules := t.gran.length }

/-- Whether the team at a position of a context fits a core: its room, and its operand-buffer extents free (R233). -/
def State.teamFits (s : State) (x : Context) (p : Nat) (c : CoreId) : Bool :=
  match x.teams.find? fun t => t.cpos = p with
  | none => false
  | some t =>
      s.coreFits c t.room (fun _ => false) && t.resv.toList.all fun r => match r with
        | some r => !s.extentTaken c r.start r.len
        | none => true

/-- The new name of a saved team. -/
def renameTeam (m : List (TeamId × TeamId)) (t : TeamId) : TeamId :=
  match m.find? fun x => x.1 = t with
  | some x => x.2
  | none => t

/-- A slate address of a saved team after its resumption. -/
def SlateAt.restore (m : List (Nat × TeamId)) (k : Nat) (a : SlateAt) : SlateAt :=
  match a with
  | .saved j p off =>
      if j = k then
        match m.find? fun x => x.1 = p with
        | some x => .team x.2 off
        | none => a
      else a
  | .team _ _ | .grid _ => a

/-- A mark on something of a saved team, at the team's new place; none for another team's. -/
def Damage.restore (old new : Team) (d : Damage) : Option Damage :=
  match d with
  | .spad t u => if t = old.id then some (.spad new.id u) else none
  | .kreg i n => if i.team = old.id then some (.kreg { i with team := new.id } n) else none
  | .preg i n => if i.team = old.id then some (.preg { i with team := new.id } n) else none
  | .acc c u => if c = old.id.core then (new.accPhys (16 * u)).map fun p => .acc new.id.core (p / 16) else none
  | .cached _ _ | .l3 _ | .pool _ => none

/-- Put a saved team on a core: its slot, groups and granules are new, its contents and their damage as saved. -/
def State.restoreTeam (s : State) (x : Context) (t : Team) (c : CoreId) : State :=
  let ts := s.teamsOn c fun _ => false
  match freeTeamSlot ts, freeGroups ts ((t.nthr + 31) / 32) with
  | some slot, some g0 =>
      let gran := ((t.gran.zip (s.freeGranules c)).map fun y => (y.1.1, y.2))
      let new : Team := { t with id := { core := c, slot := slot }, g0 := g0, gran := gran,
                                 guardRel := Vector.replicate 16 [], guardBy := Vector.replicate 16 none }
      let s := gran.foldl (fun s y => s.zeroGranule c y.2) s
      let s := ({ s with teams := s.teams ++ [new] } : State).marksFor new.id (x.damage.filterMap fun d => d.restore t new)
      s.onCore c fun k =>
        { k with
          acc := x.acc.foldl (fun m y =>
            if y.1 = t.cpos then
              match new.accPhys y.2.1 with
              | some p => m.set p y.2.2
              | none => m
            else m) k.acc,
          opbuf := (x.lines.filterMap fun y => if y.1 = t.cpos then some y.2 else none) ++ k.opbuf.filter fun z =>
            !x.lines.any fun y => decide (y.1 = t.cpos ∧ y.2.1 = z.1) }
  | _, _ => s

/-- A thread of a saved context enrols again at its block at the end of this cycle (03_selector R43), as its saved entry gives C and PRIO; a
spilled one stays spilled. -/
def State.restoreEnrolment (s : State) (x : Context) (m : List (TeamId × TeamId)) (u : Thread) : State :=
  let i : ThreadId := { u.id with team := renameTeam m u.id.team }
  let spilled : Bool := match s.team i.team with
    | some t => t.spilled u.id.tid
    | none => false
  if u.st ≠ .enrolled ∨ spilled then s
  else
    let e := x.sheet.find? fun e => decide (e.core = u.id.team.core ∧ e.team = u.id.team.slot ∧ e.block = u.block)
    let w : Word := match e with
      | some e => (0 : BitVec 4) ++ BitVec.ofBool e.coll ++ (0 : BitVec 1) ++ e.prio ++ (0 : BitVec 24)
      | none => (0 : BitVec 4) ++ BitVec.ofBool u.coll ++ (0 : BitVec 27)
    s.onCore i.team.core fun c => { c with due := c.due ++ [(i, u.block, w)] }

/-- Put a context back in a rectangle (R270). Wait ages start at 0; that of a FAULT-PENDING thread, which orders its team's faults
(19_faults R272), stays. -/
def State.restoreContext (s : State) (x : Context) (o : Nat × Nat) : State :=
  let c := x.cluster
  let at' (p : Nat) : CoreId := coreAt c.die o.1 o.2 c.w p
  let s : State := { s with
    contexts := s.contexts.filter fun y => !decide (y.cluster.id = c.id),
    clusters := s.clusters ++ [{ c with x0 := o.1, y0 := o.2, stopping := false }] }
  let s := x.teams.foldl (fun s t => s.restoreTeam x t (at' t.cpos)) s
  let m := x.teams.filterMap fun t => (s.teamAt c.id t.cpos).map fun n => (t.id, n.id)
  let mp := x.teams.filterMap fun t => (s.teamAt c.id t.cpos).map fun n => (t.cpos, n.id)
  let new (t : TeamId) : TeamId := renameTeam m t
  let slate (a : SlateAt) : SlateAt := match a with
    | .team t off => .team (new t) off
    | .grid _ | .saved _ _ _ => a
  let s : State := { s with
    threads := s.threads ++ x.threads.map fun u =>
      { u with id := { u.id with team := new u.id.team }, age := if u.st = .faultPending then u.age else 0 },
    cmds := (s.cmds.map fun y =>
        if y.slate.restore mp c.id = y.slate then y
        else { y with slate := y.slate.restore mp c.id, team := new y.team, th := { y.th with team := new y.team } })
      ++ x.cmds.map fun y =>
        { y with core := (new y.team).core, team := new y.team, th := { y.th with team := new y.team },
                 slate := slate y.slate } }
  let s := s.onDie c.die fun d =>
    { d with
      residency := d.residency.map fun r => { r with at' := r.at'.restore mp c.id },
      handles := d.handles.map fun h =>
        match x.slots.find? fun y => decide (y.1 = h.idx ∧ y.2.1 = h.gen), h.st with
        | some y, .receiving =>
            match mp.find? fun z => z.1 = y.2.2 with
            | some z => { h with core := z.2.core.num, team := z.2.slot }
            | none => h
        | _, _ => h }
  let s := x.threads.foldl (fun s u => s.restoreEnrolment x m u) s
  -- credits that were held are applied before the first dispatch; then waits are tested again
  let held := (s.credits.map fun y => { y with at' := y.at'.restore mp c.id }).filter fun y =>
    s.credits.all fun z => z.id != y.id || z.at' != y.at'
  let s : State := { s with credits := s.credits.filter fun y => !held.any fun z => z.id = y.id }
  let s := held.foldl (fun s y => s.creditNow y) s
  (x.threads.map fun u => ({ u.id with team := new u.id.team } : ThreadId)).foldl (fun s i =>
    match s.thread i with
    | some t =>
        match t.st, t.after with
        | .waiting, .wait k _ _ => s.tryWait i k
        | _, _ => s
    | none => s) s

/-- CONTEXT_RESUME (R270): on the fitting rectangle with the lowest origin, on the virtual die that it left. -/
def execContextResume (cluster : Nat) (s : State) : Out :=
  match s.contexts.find? fun x => x.cluster.id = cluster with
  | none => event s
  | some x =>
      match findRect x.cluster.die x.cluster.w x.cluster.h fun p c => s.teamFits x p c with
      | some o =>
          match s.readyL1 (rectCores x.cluster.die o x.cluster.w x.cluster.h) ((x.teams.map fun t => t.size).foldl max 0) with
          | (s, true) => event (s.restoreContext x o)
          | (s, false) => event s.kick
      | none => event s

end Sys2Proof.Machine
end

