-- ==== Sys2Proof/Machine/Start.lean ====
section
/-!
DEFINITION. The engines' steps over all their commands: start or discard (13_copy R214), reading, writing (R215, R218, 16_parcels
R251, R253, 18_scheduling R265).
-/
namespace Sys2Proof.Machine

/-- The oldest command of a core's copy-engine queue (13_copy R208). -/
def State.queueHead (s : State) (core : CoreId) : Option Cmd :=
  s.cmds.find? fun c => decide (c.core = core ∧ c.phase = .queued) && !c.op.isMatrix

/-- A command at the head of the queue starts: a copy checks its destinations, a POST goes to its slot, PRECV is done, JPOST begins to read its card. -/
def State.startCmd (s : State) (c : Cmd) : State :=
  match c.op with
  | .cpy _ _ _ _ _ | .cpym _ _ _ _ _ | .cpyt _ _ _ _ _ _ | .cred _ _ _ _ _ _ => s.startCopy c.id
  | .post _ _ w => s.startPost c w
  | .precv _ => s.dropCmd c.id
  | .jpost _ _ => s.onCmd c.id fun x => { x with phase := .running }
  | .incoming _ _ | .mfeed _ _ _ _ _ | .mloop _ _ _ _ _ _ _ _ | .mdrain _ _ _ _ | .mzero _ _ | .afree _ _ | .orel _ => s

/-- A command at the head of the queue is discarded by its guard. -/
def State.discardHead (s : State) (c : Cmd) : State :=
  match c.op.posted with
  | some (h, _, _) => s.discardPost c h
  | none => s.discardCmd c.id

/-- What the head of the copy-engine queue does now. -/
def State.stepHead (s : State) (c : Cmd) : State :=
  if !s.issueReleased c then s
  else
    match s.guardNow c with
    | .isTrue => s.startCmd c
    | .isFalse => s.discardHead c
    | .idle | .unresolved => s

/-- The oldest command of the matrix unit that its guard and the order of R231 let start, or that its guard discards. -/
def State.matrixHead (s : State) (core : CoreId) : Option Cmd :=
  s.cmds.find? fun c => decide (c.core = core ∧ c.phase = .queued) && c.op.isMatrix && match s.cmdTeam c, s.guardNow c with
    | some tm, .isTrue => s.matrixReady c tm
    | some _, .isFalse => s.issueReleased c
    | _, _ => false

/-- What that command does now. -/
def State.stepMatrix (s : State) (core : CoreId) : State :=
  match s.matrixHead core with
  | none => s
  | some c =>
      match s.cmdTeam c, s.guardNow c with
      | some tm, .isTrue => s.startMatrix c tm
      | some _, .isFalse => s.discardMatrix c
      | _, _ => s

/-- The guarded commands of a core that stand at the heads of their queues: that of the copy engine, and those of the matrix unit whose turn it is. -/
def State.guardHeads (s : State) (core : CoreId) : List Nat :=
  ((s.queueHead core).map fun c => c.id).toList ++ (s.cmds.filter fun c => decide (c.core = core ∧ c.phase = .queued) && c.op.isMatrix &&
    (s.cmdTeam c).any fun tm => s.matrixTurn c tm).map fun c => c.id

/-- COMMAND_START (R214): the copy engine's head, then the matrix unit's. -/
def execCommandStart (core : CoreId) (s : State) : Out :=
  let s := match s.queueHead core with
    | some c => s.stepHead c
    | none => s
  event (s.stepMatrix core).kick

/-- ENGINE_SOURCE_READ (R215, R218, 16_parcels R251), by command. -/
def execEngineSourceRead (id : Nat) (s : State) : Out :=
  match s.cmd id with
  | none => event s
  | some c =>
      match c.op with
      | .post r _ w => event (s.postRead c (bitsOf r.toNat 52 12) w).kick
      | .jpost card _ =>
          if c.phase = .running ∧ c.rd < 4 then event (s.sourceStep c (card.toNat + 16 * c.rd)).kick else event s
      | .cpy _ _ _ _ _ | .cpym _ _ _ _ _ | .cpyt _ _ _ _ _ _ | .cred _ _ _ _ _ _ | .mfeed _ _ _ _ _ | .mdrain _ _ _ _ =>
          event (s.copyRead c).kick
      | .precv _ | .incoming _ _ | .mloop _ _ _ _ _ _ _ _ | .mzero _ _ | .afree _ _ | .orel _ => event s

/-- One step of the writing of an MDRAIN: a line that it has written is progress of its unit (14_matrix R232). -/
def State.drainStep (s : State) (c : Cmd) : State :=
  let t := s.copyStep c
  if ((t.cmd c.id).map fun x => x.pos) = some c.pos then t else t.madeProgress c.core

/-- ENGINE_UNIT_WRITE (R181, R218, 16_parcels R251, 18_scheduling R265), by command; `data` is the line of an incoming parcel that
comes from outside. -/
def execEngineUnitWrite (id : Nat) (data : List Byte) (s : State) : Out :=
  match s.cmd id with
  | none => event s
  | some c =>
      if c.phase ≠ .running then event s
      else
        match c.op with
        | .post r _ w => event (s.postWrite c (bitsOf r.toNat 52 12) w).kick
        | .incoming size mtu => event (s.incomingWrite c size mtu data).kick
        | .jpost _ target => if c.rd = 4 then event (s.enterCard c target).kick else event s
        | .mdrain _ _ _ _ => event (s.drainStep c).kick
        | .cpy _ _ _ _ _ | .cpym _ _ _ _ _ | .cpyt _ _ _ _ _ _ | .cred _ _ _ _ _ _ => event (s.copyStep c).kick
        | .precv _ | .mfeed _ _ _ _ _ | .mloop _ _ _ _ _ _ _ _ | .mzero _ _ | .afree _ _ | .orel _ => event s

end Sys2Proof.Machine
end

