-- ==== Sys2Proof/Machine/Selector.lean ====
section
/-!
DEFINITION. The block selector (03_selector R45 to R54, 19_faults R277, R280), the issue of clauses (02_execution R22, R23, R29,
R32, 24_ref R392), and the passing of a core cycle (03_selector R42).
-/
namespace Sys2Proof.Machine

/-! ## Older and younger (R42) -/

/-- The member of a list that is before every other one. -/
def best (before : α → α → Bool) (xs : List α) : Option α :=
  xs.foldl (fun m x => match m with
    | none => some x
    | some y => if before x y then some x else some y) none

/-- Wait age and slot: the larger age is older; equal ages go to the lower slot. -/
def older (a b : Nat × Nat) : Bool := decide (b.1 < a.1) || (a.1 == b.1 && decide (a.2 < b.2))

/-- A thread's wait age and slot. -/
def State.ageKey (s : State) (t : Thread) : Nat × Nat := (t.age, s.slot t.id)

/-- The waiters of an entry that count (R48): those of gathered groups where C = 1. -/
def State.counted (s : State) (e : Sheet) : List Thread :=
  (s.threadsOf { core := e.core, slot := e.team }).filter fun u =>
    e.waiters.getLsbD (s.slot u.id) && (!e.coll || s.gatheredBefore e (u.id.tid / 32))

/-- An entry that can be dispatched, with what the selection looks at. -/
structure Cand where
  e : Sheet
  threads : List Thread
  key : Nat × Nat
deriving DecidableEq, Repr

/-- Whether the cluster of a team may dispatch: pre-emption has not stopped it (18_scheduling R269). -/
def State.runs (s : State) (t : TeamId) : Bool :=
  match s.team t with
  | some x => s.clusters.any fun c => decide (c.id = x.cluster) && !c.stopping
  | none => false

/-- The dispatchable entries of a core (R47). -/
def State.cands (s : State) (core : CoreId) : List Cand :=
  s.sheet.filterMap fun e =>
    if e.core = core ∧ s.runs { core := e.core, slot := e.team } then
      match best (fun a b => older (s.ageKey a) (s.ageKey b)) (s.counted e) with
      | some o => some { e := e, threads := s.counted e, key := s.ageKey o }
      | none => none
    else none

/-- The dispatchable count: COUNT, or 32 for each gathered group (Table 3.3). -/
def Cand.count (c : Cand) : Nat :=
  if c.e.coll then 32 * (c.threads.map fun t => t.id.tid / 32).eraseDups.length else c.threads.length

/-- The order of entries under a policy (Table 3.3); every tie goes to the older entry. -/
def Cand.before (pol : BitVec 2) (a b : Cand) : Bool :=
  let fuller : Bool := decide (b.count < a.count) || (a.count == b.count && older a.key b.key)
  match pol with
  | 1 => older a.key b.key
  | 2 => decide (b.e.prio.toNat < a.e.prio.toNat) || (a.e.prio == b.e.prio && fuller)
  | _ => fuller

/-- The next team slot in rotation after the one last served that has a dispatchable entry (R47). -/
def nextTeam (served : Nat) (cs : List Cand) : Option Nat :=
  ((List.range 64).map fun i => (served + 1 + i) % 64).find? fun t => cs.any fun c => c.e.team.val == t

/-- Whether the starvation guard may refill for a spilled thread: at a collective block every non-exited member of its group must be
enrolled there, since R48 and R54 leave out a group that cannot gather. -/
def State.mayGather (s : State) (u : Thread) : Bool :=
  !u.coll || (s.members u.id.team (u.id.tid / 32)).all fun v => v.st == .enrolled && v.block == u.block

/-- The spilled threads of a core. -/
def State.spilledThreads (s : State) (core : CoreId) : List Thread :=
  s.threads.filter fun u => decide (u.id.team.core = core) && u.st == .enrolled && match s.team u.id.team with
    | some t => t.spilled u.id.tid
    | none => false

/-- The oldest spilled thread of a core. -/
def State.oldestSpilled (s : State) (core : CoreId) : Option Thread :=
  best (fun a b => older (s.ageKey a) (s.ageKey b)) (s.spilledThreads core)

/-- The oldest spilled thread of a core for which the guard may call for a refill (R47, R48). -/
def State.guardSpilled (s : State) (core : CoreId) : Option Thread :=
  best (fun a b => older (s.ageKey a) (s.ageKey b)) ((s.spilledThreads core).filter fun u => s.mayGather u)

/-- The policy in a team's %tctl. -/
def State.policy (s : State) (t : TeamId) : BitVec 2 :=
  match s.team t with
  | some x => fld x.tctl 1 2
  | none => 0

/-- What the selector does next. -/
inductive Choice where
  | refill (t : ThreadId)
  | take (c : Cand) (guard : Bool)
  | nothing
deriving DecidableEq, Repr

/-- R47 on the dispatchable entries `cs` and the oldest spilled thread `sp` with its key. -/
def choose (pol : TeamId → BitVec 2) (core : CoreId) (served : Nat) (cs : List Cand) (sp : Option (ThreadId × (Nat × Nat))) :
    Choice :=
  let old := best (fun a b => older a.key b.key) (cs.filter fun c => decide (Config.guardAge ≤ c.key.1))
  let refill : Option ThreadId := match sp, old with
    | some (t, k), some c => if Config.guardAge ≤ k.1 && older k c.key then some t else none
    | some (t, k), none => if Config.guardAge ≤ k.1 then some t else none
    | none, _ => none
  match refill, old with
  | some t, _ => .refill t
  | none, some c => .take c true
  | none, none =>
      match nextTeam served cs with
      | none => .nothing
      | some n =>
          match best (Cand.before (pol { core := core, slot := Fin.ofNat 64 n })) (cs.filter fun c => c.e.team.val == n) with
          | some c => .take c false
          | none => .nothing

/-! ## Refilling (R53) -/

/-- A block word for a refill; C is what the thread enrolled with where the word cannot be read, and none says that it cannot be read yet. -/
def State.refillWord (s : State) (th : Thread) : State × Option Word :=
  match s.team th.id.team with
  | none => (s, some 0)
  | some tm =>
      match s.fetchWord th.id.team.core tm.asid th.block with
      | (s, .ok w) => (s, some w)
      | (s, .error (c, _)) => (s, if c = notYet then none else some (if th.coll then 0x08000000 else 0))

/-- Whether a core's sheet has a free entry. -/
def State.sheetRoom (s : State) (core : CoreId) : Bool :=
  decide ((s.sheet.filter fun e => e.core = core).length < Config.sheetEntries)

/-- Refill the block of a spilled thread: into a free entry, or into a victim's (R52, R53); with no victim nothing happens. -/
def State.refill (s : State) (th : Thread) : State :=
  let core := th.id.team.core
  match s.refillWord th with
  | (s', none) => s'
  | (s', some w) =>
      if s'.sheetRoom core then s'.allocEntry th.id.team th.block w []
      else
        match s'.victim core with
        | some v => (s'.spillEntry v).allocEntry th.id.team th.block w []
        | none => s

/-! ## Forming an issue group (R46, R50) -/

/-- A thread that is dispatched alone (19_faults R277, R280). -/
def Thread.alone (t : Thread) : Bool := t.resume.isSome || t.mark

/-- One waiter for each home lane: the lowest-indexed, or under the guard the oldest (R46). -/
def State.lanePicks (s : State) (ts : List Thread) (guard : Bool) : List Thread :=
  (List.range 32).filterMap fun l =>
    let here := ts.filter fun t => t.id.tid % 32 = l
    if guard then best (fun a b => older (s.ageKey a) (s.ageKey b)) here
    else best (fun a b => decide (a.id.tid < b.id.tid)) here

/-- The group of a collective entry (R50). -/
def State.groupPick (s : State) (ts : List Thread) (guard : Bool) : List Thread :=
  let lead := if guard then best (fun a b => older (s.ageKey a) (s.ageKey b)) ts
    else best (fun a b => decide (a.id.tid < b.id.tid)) ts
  match lead with
  | some t => (List.range 32).filterMap fun l =>
      ts.find? fun u => decide (u.id.tid / 32 = t.id.tid / 32 ∧ u.id.tid % 32 = l)
  | none => []

/-- The threads of a plain entry that are dispatched together: a thread that goes alone if one of them leads, the oldest under
the guard and else the one in the lowest home lane; otherwise the others. -/
def State.plainPick (s : State) (ts : List Thread) (guard : Bool) : List Thread :=
  let picks := s.lanePicks ts guard
  let lead := if guard then best (fun a b => older (s.ageKey a) (s.ageKey b)) picks else picks.find? Thread.alone
  match lead with
  | some t => if t.alone then [t] else picks.filter fun u => !u.alone
  | none => picks

/-- The issue group that is drawn from an entry. -/
def State.formGroup (s : State) (c : Cand) (guard : Bool) : List Thread :=
  if c.e.coll then s.groupPick c.threads guard else s.plainPick c.threads guard

/-- A free pipe of a core: one without an issue group whose last group did not end in this cycle (R45). -/
def State.freePipe (s : State) (core : CoreId) : Option PipeId :=
  ((List.finRange 4).map fun n => ({ core := core, num := n } : PipeId)).find? fun i =>
    (s.pipe i).isNone && !s.ended.contains i

/-- A thread's t registers and state as it is dispatched (R46, R26). -/
def Thread.issue (t : Thread) : Thread :=
  { t with st := .issuing, resume := none, freedRef := none, age := 0,
           t := match t.resume with
             | some r => r.frame
             | none => t.t }

/-- The first word of a group that starts at a resume point: inside a clause, whose class and end stand in its header, or at a
header (19_faults R277); an error says that a header cannot be fetched yet. -/
def State.startClause (s : State) (tm : Team) (block : Addr) (w : Nat) : State × Except Unit (Option Clause) :=
  match s.headerOf tm block w 1024 1 with
  | (s, .error e) => (s, .error e)
  | (s, .ok (some (h, x))) =>
      (s, .ok (if h = w then none else some { cls := fld x 25 3, fin := h + 1 + (fld x 28 4).toNat, uchk := flag tm.tctl 0, tctl := tm.tctl }))
  | (s, .ok none) => (s, .ok none)

/-- All lanes of a pipe take a fault. -/
def State.faultAll (s : State) (p : Pipe) (f : Flt) : State := s.faultLanes p false f p.lanes

/-- The faults that a group takes before its first word: 0x33 of a thread whose slot was freed (16_parcels R254), 0x15 at the word
of a block of one word, which is its last word and no terminator (R22), 0x40 after a matrix reset (14_matrix R232). Table 19.3
lists no EXTRA for a 0x15 that stands at no instruction, so it is 0. `freed` are the references by thread index. -/
def State.firstFaults (s : State) (p : Pipe) (at' : Nat) (mrst : Bool) (freed : List (Nat × Addr)) : State :=
  let s := freed.foldl (fun s x => s.faultLane { p with widx := 2 } false (fltAt 0x33 x.2) x.1) s
  let left := p.lanes.filter fun l => !freed.any fun x => x.1 == l
  if p.len = 1 then s.faultLanes { p with widx := 0 } false { cause := 0x15, addr := 0, extra := 0 } left
  else if mrst then s.faultLanes { p with widx := at' } false { cause := 0x40, addr := 0, extra := 0 } left
  else s

/-- The widx at which a group that resumes a thread starts (19_faults R277). -/
def startPoint (c : Cand) (ts : List Thread) : Option Nat :=
  if c.e.coll then none else ((ts.filterMap fun t => t.resume.map fun r => r.widx).head?).map fun w => max w 1

/-- What a dispatch fetches: the block word, or its cause with EXTRA, and the clause in which a resumed group starts; none where it cannot be
fetched yet. -/
def State.dispatchWord (s : State) (tm : Team) (c : Cand) (point : Option Nat) :
    State × Option (Except (BitVec 8 × Word) (Word × Option Clause)) :=
  match s.fetchWord c.e.core tm.asid c.e.block with
  | (s, .error e) => (s, if e.1 = notYet then none else some (.error e))
  | (s, .ok w) =>
      match point with
      | none => (s, some (.ok (w, none)))
      | some p =>
          match s.startClause tm c.e.block p with
          | (s, .error _) => (s, none)
          | (s, .ok cl) => (s, some (.ok (w, cl)))

/-- An issue group leaves the sheet, and its threads issue (R45, R46, R47, R52). -/
def State.takeGroup (s : State) (c : Cand) (ts : List Thread) : State :=
  let s := ts.foldl (fun s t => s.leaveSheet t.id) s
  let s := { s with sheet := s.sheet.map fun (e : Sheet) =>
    if e.core = c.e.core ∧ e.team = c.e.team ∧ e.block = c.e.block then { e with used := s.fresh } else e }
  let s := s.bump.onCore c.e.core fun x => { x with served := c.e.team.val, picked := true }
  let s := ts.foldl (fun s t => s.onThread t.id Thread.issue) s
  s.onTeam { core := c.e.core, slot := c.e.team } fun x => { x with mrst := false }

/-- Dispatch an issue group to a pipe; one whose block cannot be fetched yet stays enrolled. A team's first group after a matrix reset clears the
mark of 0x40 even where it takes another fault before its first word, of which 14_matrix R232 says nothing (DESIGN CHOICE, log 127). -/
def State.dispatch (s : State) (pid : PipeId) (c : Cand) (guard : Bool) : State :=
  let team : TeamId := { core := c.e.core, slot := c.e.team }
  match s.team team with
  | none => s
  | some tm =>
      let ts := s.formGroup c guard
      let point := startPoint c ts
      let freed := ts.filterMap fun t => t.freedRef.map fun r => (t.id.tid, r)
      match s.dispatchWord tm c point with
      | (s, none) => s
      | (s, some r) =>
          let s := s.takeGroup c ts
          let p : Pipe :=
            { id := pid, team := team, lanes := ts.map fun (t : Thread) => t.id.tid, block := c.e.block, len := 1, coll := c.e.coll,
              widx := point.getD 1, clause := none, hold := [], single := !c.e.coll && ts.any fun t => t.mark, run := s.fresh, instr := none,
              ran := [] }
          match r with
          | .error (k, x) =>
              ({ s.bump with pipes := s.pipes ++ [p] } : State).faultAll { p with widx := 0 } { cause := k, addr := c.e.block, extra := x }
          | .ok (w, cl) =>
              let p := { p with len := (fld w 0 10).toNat, clause := cl }
              ({ s.bump with pipes := s.pipes ++ [p] } : State).firstFaults p (point.getD 2) tm.mrst freed

/-- SELECTOR_DISPATCH (R45 to R53): while a spill or refill holds the selector, or once it has dispatched in this cycle, nothing happens;
a free entry takes the block of the oldest spilled thread; else one entry is chosen for a free pipe. A refill for which no entry may be
evicted waits for a dispatch to free one (R54, log 68). -/
def execSelectorDispatch (core : CoreId) (s : State) : Out :=
  let sp := if s.sheetRoom core || (s.victim core).isSome then s.guardSpilled core else none
  if 0 < (s.core core).busy ∨ (s.core core).picked then event s
  else if s.sheetRoom core && (s.oldestSpilled core).isSome then
    match s.oldestSpilled core with
    | some t => event (s.refill t)
    | none => event s
  else
    match s.freePipe core with
    | none => event s
    | some pid =>
        match choose s.policy core (s.core core).served (s.cands core) (sp.map fun t => (t.id, s.ageKey t)) with
        | .nothing => event s
        | .refill i =>
            match s.thread i with
            | some t => event (s.refill t)
            | none => event s
        | .take c guard => event (s.dispatch pid c guard)

/-! ## CLAUSE_ISSUE -/

/-- Whether an access need not be waited for any more. -/
def State.accOver (s : State) (id : Nat) : Bool := (s.acc id).all fun a => !a.pending

/-- Whether the earlier accesses that a held group waits for have performed. -/
def State.perfOver (s : State) (p : Pipe) : Bool := p.hold.all fun h => match h with
  | .perf id => s.accOver id
  | .counter _ _ | .acc _ | .answer _ | .enter _ | .seal _ _ _ | .free _ _ _ | .post _ _ _ _ | .discard _ _ | .earlier _ | .fetch | .cycle _ _
  | .tile _ _ => true

/-- Whether a hold is over. -/
def State.holdDone (s : State) (p : Pipe) (h : Hold) : Bool :=
  match h with
  | .counter tid c =>
      match s.thread (tidOf p tid) with
      | some t => decide (t.ctr[c] < 63)
      | none => true
  | .acc id => (s.acc id).isNone
  | .perf id | .earlier id | .tile id _ => s.accOver id
  | .answer id => (s.acc id).all fun a => !a.unplaced
  | .enter id => (s.cmd id).all fun c => c.phase != .entering
  | .seal _ _ _ | .free _ _ _ | .post _ _ _ _ => s.parcelDone p h
  | .discard tag d => s.perfOver p && s.discarded tag d
  | .fetch => true
  | .cycle core lcyc => (s.core core).lcyc != lcyc

/-- What the end of a hold does: a PSEAL, a PFREE or a POST looks at the state again and takes effect (16_parcels R242, R243), and what
TDLD has read reaches its slot (13_copy R209). -/
def State.holdEffect (s : State) (p : Pipe) (h : Hold) : State :=
  match h with
  | .seal _ _ _ | .free _ _ _ | .post _ _ _ _ =>
      match s.team p.team with
      | some tm => s.parcelEffect p tm h
      | none => s
  | .tile id word =>
      match s.acc id with
      | some a =>
          match a.op with
          | .tdesc slot => s.tileLoaded a slot word
          | .load _ | .loadRef _ _ | .store _ | .stf _ _ _ | .atom _ _ _ _ | .cas _ _ _ | .prefetch _ | .engRead _ _ | .engOwn _
          | .cmnt _ _ => s
      | none => s
  | .counter _ _ | .acc _ | .perf _ | .answer _ | .enter _ | .discard _ _ | .earlier _ | .fetch | .cycle _ _ => s

/-- What a group waits for next: a POST that has been accepted enters the queue (13_copy R208). -/
def State.nextHold (s : State) (h : Hold) : List Hold :=
  match h with
  | .post _ _ _ id => if (s.cmd id).isSome then [.enter id] else []
  | .counter _ _ | .acc _ | .perf _ | .answer _ | .enter _ | .seal _ _ _ | .free _ _ _ | .discard _ _ | .earlier _ | .fetch | .cycle _ _
  | .tile _ _ => []

/-- A discard begins when the writes before it have performed (07_memory R134); one that is not over is tried again: an engine write may
have let go of a line (08_coherence R163). -/
def State.holdRetry (s : State) (p : Pipe) (h : Hold) : State :=
  match h with
  | .discard tag d => if !s.perfOver p || s.discarded tag d then s else s.discard tag d
  | .counter _ _ | .acc _ | .perf _ | .answer _ | .enter _ | .seal _ _ _ | .free _ _ _ | .post _ _ _ _ | .earlier _ | .fetch | .cycle _ _
  | .tile _ _ => s

/-- Whether a hold must let those before it go first: the lanes of a TDLD write their slots in ascending order (25_ref R452). -/
def Hold.behind (h : Hold) (left : List Hold) : Bool :=
  match h with
  | .tile _ _ => left.any fun k => match k with
      | .tile _ _ => true
      | .counter _ _ | .acc _ | .perf _ | .answer _ | .enter _ | .seal _ _ _ | .free _ _ _ | .post _ _ _ _ | .discard _ _ | .earlier _
      | .fetch | .cycle _ _ => false
  | .counter _ _ | .acc _ | .perf _ | .answer _ | .enter _ | .seal _ _ _ | .free _ _ _ | .post _ _ _ _ | .discard _ _ | .earlier _
  | .fetch | .cycle _ _ => false

/-- A held pipe: the holds that are over take effect and go, in their order; with none left the group goes on, or stands at its word again
where it has not executed it. -/
def State.tryHolds (s : State) (p : Pipe) : State :=
  let s := p.hold.foldl (fun s h => s.holdRetry p h) s
  let (s, left) := p.hold.foldl (fun (x : State × List Hold) h =>
    if x.1.holdDone p h && !h.behind x.2 then
      let t := x.1.holdEffect p h
      (t, x.2 ++ t.nextHold h)
    else (x.1, x.2 ++ [h])) (s, [])
  let s := s.onPipe p.id fun q => { q with hold := left }
  if !left.isEmpty then s
  else if p.hold.all Hold.before then { s with focus := some p.id }
  else s.settle p.id

/-- A fault of every lane at a clause header. -/
def State.faultHeader (s : State) (p : Pipe) (cause : BitVec 8) (addr : Addr) (extra : Word) : State :=
  s.faultAll p { cause := cause, addr := addr, extra := extra }

/-- The threads that carry a deferred fault leave before the next clause (24_ref R392). -/
def State.leaveDeferred (s : State) (p : Pipe) : State :=
  s.leaveTo p.team (p.lanes.filter fun tid => match s.thread (tidOf p tid) with
    | some t => !t.deferred.isEmpty
    | none => false) .none

/-- Whether every active thread meets a header's WAIT and SD (R29). -/
def State.clauseReady (s : State) (p : Pipe) (w : Word) : Bool :=
  p.lanes.all fun tid => match s.thread (tidOf p tid) with
    | some t => ((List.finRange 4).all fun c => !flag w (21 + c.val) || t.ctr[c] == 0) &&
        (!flag w 20 || !s.storesPending t.id)
    | none => true

/-- The check of a clause header (R22, R74), as a cause. -/
def headerCause (p : Pipe) (w : Word) : Option (BitVec 8) :=
  let count := (fld w 28 4).toNat
  let fin := p.widx + 1 + count
  if count = 0 ∨ fld w 0 20 ≠ 0 then some 0x10
  else if p.len < fin ∨ (fld w 25 3 = 6 ∧ fin ≠ p.len) then some 0x15
  else none

/-- The next clause of a group, whose threads with deferred faults have left: its header is fetched and checked; the clause issues
when every thread meets its conditions. A header that cannot be fetched yet is fetched again. -/
def State.nextClause (s : State) (p : Pipe) (tm : Team) : State :=
  match s.wordAt tm p.block p.widx with
  | (s, .error (c, x)) => if c = notYet then s else s.faultHeader p c p.wordAddr x
  | (s', .ok w) =>
      match headerCause p w with
      | some c => s'.faultHeader p c 0 (if c = 0x15 then 0 else w)
      | none =>
          if s.clauseReady p w then
            let cl : Clause :=
              { cls := fld w 25 3, fin := p.widx + 1 + (fld w 28 4).toNat, uchk := flag tm.tctl 0, tctl := tm.tctl }
            { s'.onPipe p.id (fun q => { q with clause := some cl, widx := p.widx + 1 }) with focus := some p.id }
          else s

/-- CLAUSE_ISSUE (R29): a held group tries its holds; a group inside a clause goes on; a group between two clauses issues the next. -/
def execClauseIssue (pipe : PipeId) (s : State) : Out :=
  match s.pipe pipe with
  | none => event s
  | some p =>
      if !p.hold.isEmpty then event (s.tryHolds p).kick
      else if p.clause.isSome then event { s with focus := some pipe }
      else
        let s := s.leaveDeferred p
        match s.pipe pipe with
        | none => event s
        | some p =>
            match s.team p.team with
            | none => event s
            | some tm => event (s.nextClause p tm)

/-! ## CORE_CYCLE (R42) -/

/-- The wait age of a thread after one more cycle; the age of a thread that has
faulted, or is FAULT-PENDING, orders its fault (19_faults R271, R272). -/
def Thread.tick (t : Thread) : Thread :=
  if t.st = .enrolled ∨ t.st = .faultPending ∨ (t.st = .draining ∧ t.hasFault) then
    { t with age := min (t.age + 1) 0xFFFFFFFF }
  else t

/-- A core's counters after one more cycle: %lcyc, the selector's hold, and the cycles that its matrix unit has held work without
progress (14_matrix R232). -/
def Core.tick (c : Core) (held : Bool) : Core :=
  { c with lcyc := c.lcyc + 1, busy := c.busy - 1, picked := false, progress := if held then c.progress + 1 else 0 }

/-- Whether the matrix unit of a core holds an accepted command that does not wait on a guard (14_matrix R232). -/
def State.matrixHeld (s : State) (core : CoreId) : Bool :=
  s.cmds.any fun c => decide (c.core = core) && c.op.isMatrix && (c.phase == .queued || c.phase == .running) &&
    (c.phase == .running || s.guardNow c == .isTrue)

/-- What belongs to one cycle of a core is over: its dispatch, the pipes whose group ended in it, the guard-slot updates and the flags
that its words have made (R45, 23_ref R369, 06_arithmetic R110). -/
def State.endCycle (s : State) (core : CoreId) : State :=
  { s with ended := s.ended.filter fun p => !decide (p.core = core),
           flagsNow := s.flagsNow.filter fun x => !decide (x.1.core = core),
           teams := s.teams.map fun t => if t.id.core = core then { t with guardBy := Vector.replicate 16 none } else t }

/-- CORE_CYCLE: the threads that have waited grow older, the cycle's enrolments take effect (R42, R43), and what stands at the head of a queue sees
its guard slot (23_ref R369). -/
def execCoreCycle (core : CoreId) (s : State) : Out :=
  let held := s.matrixHeld core
  let now := (s.core core).due.map fun x => x.1
  let s := { s with threads := s.threads.map fun (t : Thread) =>
    if t.id.team.core = core ∧ !now.contains t.id then t.tick else t }
  let s := (s.onCore core fun c => c.tick held).enrolAll core
  event ((s.ruleGuards (s.guardHeads core)).endCycle core)

end Sys2Proof.Machine
end

