-- ==== Sys2Proof/Machine/Function.lean ====
section
/-!
DEFINITION. What system software, firmware and a debugger do through the functions: export and import tables, masks and maps
(01_package R8 to R15), page-table roots, shootdowns and residency (07_memory R135, R140, R144), the parcel pool (16_parcels R237),
debug actions (19_faults R279, R280), configuration registers (R6), and the space of the fault report ring (R278).
-/
namespace Sys2Proof.Machine

/-- Replace or add an entry of a table. -/
def putEntry [DecidableEq κ] (k : κ) (v : α) (xs : List (κ × α)) : List (κ × α) := (k, v) :: xs.filter fun x => !decide (x.1 = k)

/-! ## Exports and imports (R10, R15) -/

/-- An export entry after a write: GEN stands unless software writes it; a write that clears V adds 1 to it. -/
def exportAfter (old bits : BitVec 128) (gen : Option (BitVec 16)) : BitVec 128 :=
  let g : BitVec 16 := old.extractLsb' 112 16
  let g := match gen with
    | some x => x
    | none => if old.getLsbD 65 && !bits.getLsbD 65 then g + 1 else g
  g ++ bits.extractLsb' 0 112

/-- EXPORT_ENTRY_WRITE (R10): `bits` below GEN, and GEN where software writes it. Clearing V starts the revocation (R15). -/
def execExportEntryWrite (die : Fin 8) (idx : Fin 1024) (bits : BitVec 128) (gen : Option (BitVec 16)) (s : State) : Out :=
  let old := (s.die die).exportAt idx.val
  let new := exportAfter old bits gen
  event (s.onDie die fun d =>
    { d with exports := putEntry idx.val new d.exports,
             revoking := if old.getLsbD 65 && !new.getLsbD 65 then d.revoking ++ [(idx.val, old)] else d.revoking })

/-- IMPORT_ENTRY_WRITE (R10). -/
def execImportEntryWrite (die : Fin 8) (idx : Fin 256) (bits : BitVec 64) (s : State) : Out :=
  event (s.onDie die fun d => { d with imports := putEntry idx.val bits d.imports })

/-- Whether an import entry names an export of a die of this package, by its handle (Table 1.3). -/
def State.names (s : State) (e : BitVec 64) (owner : Fin 8) (handle : Word) : Bool :=
  e.extractLsb' 32 32 == handle && e.extractLsb' 8 8 == s.pkg.accNum && importVdie e == owner

/-- Whether a physical die has reached a line through an import of a handle (R15). -/
def State.importedBy (s : State) (phys owner : Fin 8) (handle : Word) (l : LineId) : Bool :=
  l.mem == .pool && s.imported.any fun x => decide (x.1 = phys ∧ x.2.2 = l.num / 32) && s.names x.2.1 owner handle

/-- The physical die of a cache. -/
def cachePhys : CacheId → Fin 8
  | .l1 d _ | .l2 d _ => d

/-- Whether an access to a line has not performed. -/
def Acc.openAt (a : Acc) (f : LineId → Bool) : Bool :=
  a.pending && match a.place with
    | .line l _ _ => f l
    | .spad _ _ | .peer _ _ => false

/-- An importer's cache gives up one copy: a tracked one is evicted, an untracked one is written back and invalidated. -/
def State.giveUpImport (s : State) (x : CacheLine) : State :=
  if x.fetch then { s with lines := s.lines.filter fun y => !decide (y = x) }
  else if x.st != .nc then s.evict x.cache x.line
  else if s.cmntWaits x.cache x.line .wbinv .pkg then s.want x.line .e
  else s.cmntData x.cache x.line .wbinv .pkg

/-- Whether an access that its owner accepted through an import of a handle has not performed: it waits for the answer to reach it, or stands at a
line of the import. -/
def State.importOpen (s : State) (owner : Fin 8) (handle : Word) (a : Acc) : Bool :=
  a.pending && match a.place, a.phase with
    | .peer e _, .answered (.accepted _ _) => s.names e owner handle
    | .line l _ _, _ => s.importedBy ((s.phys a.th.team.core.die).getD a.th.team.core.die) owner handle l
    | .peer _ _, _ => false
    | .spad _ _, _ => false

/-- Whether a command writes a block that the owner accepted through an import of a handle. -/
def State.importWrites (s : State) (owner : Fin 8) (handle : Word) (c : Cmd) : Bool :=
  c.pages.any fun p => match p.entry with
    | some e => s.names e owner handle
    | none => false

/-- Whether the part itself has an access that an owner accepted through an import of a handle, and that is not over. -/
def State.importAsked (s : State) (owner : Fin 8) (handle : Word) : Bool :=
  s.asks.any fun k => s.names k.entry owner handle && match k.answer with
    | some (.accepted _ _) => true
    | some (.refused _) | some .lost | none => false

/-- The copies that importer dies hold of lines of an import, whatever virtual number a die has now. -/
def State.importCopies (s : State) (owner : Fin 8) (handle : Word) : List CacheLine :=
  s.lines.filter fun y => s.importedBy (cachePhys y.cache) owner handle y.line

/-- Whether dirty data of an import's line is on its way home. -/
def State.importGoing (s : State) (owner : Fin 8) (handle : Word) : Bool :=
  s.msgs.any fun m => (match m.kind with
    | .writeback _ => true
    | .catchable | .steered | .direct | .own | .reply _ _ _ _ _ | .grant _ | .cut _ _ | .ack _ | .prune => false) &&
      (List.finRange 8).any fun d => s.importedBy d owner handle m.line

/-- REVOCATION_COMPLETE (R15): importer dies give up their copies; when none is left, no dirty data is on its way home and every
accepted request has performed, the revocation is complete. -/
def execRevocationComplete (die : Fin 8) (idx : Fin 1024) (s : State) : Out :=
  match (s.die die).revoking.find? fun x => x.1 = idx.val with
  | none => event s
  | some x =>
      let handle : Word := x.2.extractLsb' 112 16 ++ BitVec.ofNat 16 idx.val
      let copies := s.importCopies die handle
      if !copies.isEmpty then event (copies.foldl (fun s y => s.giveUpImport y) s).kick
      else if s.importGoing die handle || (s.accs.any fun a => s.importOpen die handle a) || s.importAsked die handle ||
          s.cmds.any fun c => s.importWrites die handle c then event s
      else
        let s := { s with imported := s.imported.filter fun y => !s.names y.2.1 die handle }
        event (s.onDie die fun d => { d with revoking := d.revoking.filter fun y => !decide (y = x) })

/-! ## Masks and maps (R8, R9, R13, R14) -/

/-- PRESENT_MASK_WRITE (R13, R14). -/
def execPresentMaskWrite (mask : BitVec 256) (s : State) : Out := event { s with pkg := { s.pkg with present := mask } }

/-- PARTITION_MASK_WRITE (R13, R14). -/
def execPartitionMaskWrite (tenant : Nat) (mask : BitVec 256) (s : State) : Out :=
  event { s with pkg := { s.pkg with partitions := putEntry tenant mask s.pkg.partitions } }

/-- DIE_PRESENT_MAP_WRITE (R13, R14): the package's own byte mirrors its virtual-die map. -/
def execDiePresentMapWrite (acc bits : BitVec 8) (s : State) : Out :=
  if acc = s.pkg.accNum then event s
  else event { s with pkg := { s.pkg with dieMap := putEntry acc bits s.pkg.dieMap } }

/-- The capabilities of a function (Table 1.5). -/
def capabilityList (fn : Nat) (here : Bool) : List (BitVec 16) :=
  if fn = 8 then [0x0004, 0x0006, 0x0007]
  else if !here then [0x00FF]
  else if fn < 4 then [0x0001, 0x0002, 0x0003, 0x0005]
  else [0x0001, 0x0002, 0x0005]

/-- The host link that presents a function: functions 4 to 7 lie on I/O die 1 while that works (R6, 21_outside R292). -/
def Package.linkOf (p : Package) (fn : Nat) : Nat := if fn < 4 || fn == 8 || !p.io1 then 0 else 1

/-- Whether the host link of a function works. -/
def Package.linkUp (p : Package) (fn : Nat) : Bool := p.hosts.getLsbD (p.linkOf fn)

/-- VIRTUAL_DIE_MAP_WRITE (R8, R9): while no context of the die is resident. A physical die has one virtual number at most. The cores
of a die that is mapped anew start as from their reset, with nothing translated. -/
def execVirtualDieMapWrite (v : Fin 8) (p : Option (Fin 8)) (s : State) : Out :=
  let taken := p.isSome && (List.finRange 8).any fun w => decide (w ≠ v ∧ s.pkg.vmap[w] = p)
  if taken || s.clusters.any fun c => c.die == v then event s
  else
    let pkg := { s.pkg with vmap := s.pkg.vmap.set v p,
                            capabilities := s.pkg.capabilities.set v.castSucc (if s.pkg.linkUp v.val then capabilityList v.val p.isSome else []) }
    let s : State := { s with pkg := pkg, cores := s.cores.filter fun c => !decide (c.1.die = v) }
    event (s.onDie v fun d => { d with tlbs := [] })

/-! ## Page tables and residency (07_memory R135, R140, R144) -/

/-- ROOT_WRITE (R135). -/
def execRootWrite (die : Fin 8) (host : Bool) (asid : BitVec 16) (root : Option (BitVec 64)) (s : State) : Out :=
  event (s.onDie die fun d =>
    { d with roots := { asid := asid, host := host, root := root } ::
        d.roots.filter fun r => !decide (r.asid = asid ∧ r.host = host) })

/-- Whether a page meets [base, base + len) of the 2^64 addresses. -/
def meetsRange (page size base len : Nat) : Bool := decide (page < base + len ∧ base < page + size)

/-- Whether a TLB entry is dropped by a shootdown. -/
def Tlb.dropped (t : Tlb) (asid : BitVec 16) (base len : Nat) : Bool :=
  let bits := if t.big then 29 else 16
  let page := t.vpn * 2 ^ bits
  t.asid == asid && meetsRange page (2 ^ bits) base len

/-- Whether a pool line lies in the page of a TLB entry. -/
def Tlb.covers (t : Tlb) (l : LineId) : Bool :=
  let bits := if t.big then 29 else 16
  !t.host && l.mem == .pool && l.num * 128 / 2 ^ bits == bitsOf t.leaf.toNat 16 36 * 65536 / 2 ^ bits

/-- Whether an access still uses a translation: it has not performed, or is an STF whose flag increment has yet to perform. -/
def Acc.translated (a : Acc) : Bool := a.pending || a.fea.isSome

/-- Whether an access translated, or through a peer window its owner translated for it, by an entry that a shootdown of the die
drops: one of the die's own by its address, another die's by the page that its line lies in. -/
def State.shotAt (s : State) (die : Fin 8) (asid : BitVec 16) (base len : Nat) (a : Acc) : Bool :=
  if a.th.team.core.die = die then
    ((a.onLine && meetsRange a.ea.toNat a.size base len) || a.fea.any fun f => meetsRange f.toNat 8 base len) && match s.team a.th.team with
      | some x => x.asid == asid
      | none => true
  else a.openAt fun l => (s.die die).tlbs.any fun t => t.dropped asid base len && t.covers l

/-- SHOOTDOWN (R140): every TLB of the die drops its entries in the range; accesses and commands that translated there earlier
are remembered. -/
def execShootdown (die : Fin 8) (asid : BitVec 16) (base : Addr) (len : Nat) (s : State) : Out :=
  let accs := s.accs.filter fun a => a.translated && s.shotAt die asid base.toNat len a
  let cmds := s.cmds.filter fun c => decide (c.core.die = die ∧ c.asid = asid) &&
    c.pages.any fun p => meetsRange (p.vpn * 4096) 4096 base.toNat len
  let id := s.fresh
  event (s.bump.onDie die fun d =>
    { d with tlbs := d.tlbs.filter fun t => !t.dropped asid base.toNat len,
             shoots := d.shoots ++
               [{ id := id, asid := asid, base := base, len := len, accs := accs.map fun a => a.id,
                  cmds := cmds.map fun c => c.id }] })

/-- Whether a shootdown is complete. -/
def State.shootDone (s : State) (x : Shoot) : Bool :=
  (x.accs.all fun i => match s.acc i with
    | some a => !a.translated
    | none => true) && x.cmds.all fun i => (s.cmd i).isNone

/-- SHOOTDOWN_COMPLETION (R140). -/
def execShootdownCompletion (die : Fin 8) (id : Nat) (s : State) : Out :=
  match (s.die die).shoots.find? fun x => x.id = id with
  | none => event s
  | some x =>
      if s.shootDone x then event (s.onDie die fun d => { d with shoots := d.shoots.filter fun y => !decide (y.id = id) })
      else event s

/-- COMPLETION_DOORBELL (R144): one arrival at the slate of the request, with ERR where it is refused; a SEQ that names no occupied
entry is ignored. -/
def execCompletionDoorbell (die : Fin 8) (seq : BitVec 64) (refused : Bool) (s : State) : Out :=
  match (s.die die).residency.find? fun r => r.seq = seq.toNat with
  | none => event s
  | some r =>
      let s := s.onDie die fun d => { d with residency := d.residency.filter fun x => !decide (x.seq = seq.toNat) }
      event (s.creditAt r.at' 0 1 refused [])

/-! ## The parcel pool (16_parcels R237) -/

/-- A configuration that R237 allows. -/
def PoolConfig.ok (c : PoolConfig) : Bool :=
  decide (c.arena.toNat % 65536 = 0 ∧ 1 ≤ c.extents ∧ c.extents ≤ 2097152 ∧ 1 ≤ c.handles ∧ c.handles ≤ 4096) &&
    canonical c.arena

/-- POOL_CONFIGURATION (R237): every handle is FREE with generation 0. Threads whose slot has gone with the old pool learn it. -/
def execPoolConfiguration (die : Fin 8) (cfg : PoolConfig) (s : State) : Out :=
  if !Sys2Proof.Machine.PoolConfig.ok cfg then event s
  else
    let s := s.onDie die fun d => { d with pool := some cfg, handles := [] }
    event ((s.threads.filter fun t => decide (t.id.team.core.die = die)).foldl (fun s t =>
      match t.st, t.after with
      | .waiting, .wait (.parcel r) _ _ => s.tryWait t.id (.parcel r)
      | _, _ => s) s)

/-! ## Debug actions (19_faults R279, R280) -/

/-- A debug action of a thread is over. -/
def State.acted (s : State) (th : ThreadId) : State :=
  s.onDie th.team.core.die fun d => { d with acting := d.acting.filter fun x => !decide (x.1 = th) }

/-- A debug action of a thread goes on once its code has been fetched. -/
def State.actLater (s : State) (th : ThreadId) (skip : Bool) : State :=
  if (s.die th.team.core.die).acting.contains (th, skip) then s
  else (s.acted th).onDie th.team.core.die fun d => { d with acting := d.acting ++ [(th, skip)] }

/-- What the function of a die reports. -/
def State.reply (s : State) (die : Fin 8) (r : DebugReply) : State := s.onDie die fun d => { d with debug := some r }

/-- MARK. -/
def execMark (th : ThreadId) (s : State) : Out :=
  match s.thread th with
  | some _ => event ((s.onThread th fun t => { t with mark := true }).reply th.team.core.die .done)
  | none => event (s.reply th.team.core.die .condition)

/-- UNMARK. -/
def execUnmark (th : ThreadId) (s : State) : Out :=
  match s.thread th with
  | some _ => event ((s.onThread th fun t => { t with mark := false }).reply th.team.core.die .done)
  | none => event (s.reply th.team.core.die .condition)

/-- The check of R277 and R432 that refused entry `e`. -/
def State.failedCheck (s : State) (tm : Team) (tid e : Nat) (skip : Bool) (f : Flt) : ResumeCheck :=
  let block := BitVec.ofNat 64 (tm.entryField e 0 64)
  if !tm.entryV e then .entry
  else if tm.entryField e 178 11 ≠ tid then .thread
  else
    match s.checkResume tm block with
    | (_, .error f) => .block f.cause
    | (_, .ok w) =>
        if flag w 27 then .collective
        else if skip ∧ f.extra = 0 ∧ f.addr = 0 then .header
        else .block f.cause

/-- CONTINUE or SKIP of a parked thread (Table 19.5): the entry is freed, handler mode is what the entry says, and the thread
enrols; a refused action changes nothing but the report. While a word that it looks at is being fetched, it waits. -/
def State.debugResume (s : State) (th : Thread) (skip : Bool) : State :=
  let die := th.id.team.core.die
  let stepped : Bool := match th.parkInfo with
    | some f => f.cause == 0x52
    | none => false
  match th.st, th.parkEntry, s.team th.id.team with
  | .parked, some e, some tm =>
      if skip && stepped then (s.acted th.id).reply die .condition
      else
        match s.resumePoint tm th.id.tid e skip 0 with
        | (t, .error f) =>
            if f.cause = notYet then t.actLater th.id skip
            else (t.acted th.id).reply die (.check (t.failedCheck tm th.id.tid e skip f))
        | (s, .ok (block, w, r)) =>
            let s := s.acted th.id
            let hm := tm.entryField e 190 1 == 1
            let s := s.onTeam tm.id fun t => t.freeEntry e
            let s := s.onThread th.id fun t =>
              { t with hm := hm, handEntry := if hm then t.handEntry else none, parkEntry := none, parkInfo := none }
            (s.enrol th.id block w r).reply die .done
  | _, _, _ => (s.acted th.id).reply die .condition

/-- CONTINUE (Table 19.5). -/
def execContinueThread (th : ThreadId) (s : State) : Out :=
  match s.thread th with
  | some t => event (s.debugResume t false)
  | none => event ((s.acted th).reply th.team.core.die .condition)

/-- SKIP (Table 19.5). -/
def execSkipThread (th : ThreadId) (s : State) : Out :=
  match s.thread th with
  | some t => event (s.debugResume t true)
  | none => event ((s.acted th).reply th.team.core.die .condition)

/-- KILL (Table 19.5): the thread exits; the entry of its park and that of the fault it was handling are freed,
unless another thread has them by now (R273). -/
def execKillThread (th : ThreadId) (s : State) : Out :=
  match s.thread th with
  | some t =>
      if t.st = .parked ∨ t.st = .faultPending then
        let s := match t.parkEntry with
          | some e => s.onTeam th.team fun x => x.freeOwn e th.tid
          | none => s
        let s := (s.acted th).onThread th fun u => { u with fault := none, deferred := [], parkEntry := none, parkInfo := none }
        event ((s.exitThread th).reply th.team.core.die .done)
      else event (s.reply th.team.core.die .condition)
  | none => event (s.reply th.team.core.die .condition)

/-! ## Configuration registers (R6) -/

/-- The endpoint entry after a write of one of its eight words. -/
def endpointAfter (old : BitVec 256) (word : Nat) (val : Word) : BitVec 256 :=
  (old &&& ~~~ (BitVec.ofNat 256 0xFFFFFFFF <<< (32 * word))) ||| (val.setWidth 256 <<< (32 * word))

/-- REGISTER_WRITE: most registers have no behaviour of their own and keep the value. Function 8 holds the endpoint table
(21_outside R290) and the tenant of each compute-die function (R13), a die's function its watchdog window (14_matrix R232). Where
they lie is the model's choice, as is that a tenant takes 4 bytes a function, function 0 first (DESIGN CHOICE, log 12). -/
def execRegisterWrite (fn : Fin 9) (off : BitVec 32) (val : Word) (s : State) : Out :=
  let o := off.toNat
  if fn = 8 ∧ Config.endpointBase ≤ o ∧ o < Config.endpointBase + 131072 ∧ o % 4 = 0 then
    let i := (o - Config.endpointBase) / 32
    event { s with pkg := { s.pkg with
      endpoints := putEntry i (endpointAfter (s.endpoint i) ((o - Config.endpointBase) / 4 % 8) val) s.pkg.endpoints } }
  else if h : fn = 8 ∧ Config.tenantBase ≤ o ∧ o < Config.tenantBase + 32 ∧ o % 4 = 0 then
    event { s with pkg := { s.pkg with tenantOf := s.pkg.tenantOf.set ((o - Config.tenantBase) / 4) val.toNat (by omega) } }
  else if fn ≠ 8 ∧ o = Config.watchdogReg then
    if 65536 ≤ val.toNat ∨ val = 0 then
      event (s.onDie (Fin.ofNat 8 fn.val) fun d => { d with watchdog := if val = 0 then 2 ^ 32 else val.toNat })
    else event s
  else event { s with pkg := { s.pkg with
    registers := (fn, off, val) :: s.pkg.registers.filter fun x => !decide (x.1 = fn ∧ x.2.1 = off) } }

/-- The header of a capability (R16): ID, version, and where the next one stands. -/
def capabilityHeader (id : BitVec 16) (next : Nat) : BitVec 64 :=
  BitVec.ofNat 32 next ++ (0 : BitVec 8) ++ Config.capabilityVersion id ++ id

/-- The headers of a capability list, each with its offset in BAR0 (R16). -/
def capabilityHeaders : List (BitVec 16) → Nat → List (Nat × BitVec 64)
  | [], _ => []
  | [id], o => [(o, capabilityHeader id 0)]
  | id :: j :: rest, o =>
      let next := o + 8 + 8 * Config.capabilityBody id
      (o, capabilityHeader id next) :: capabilityHeaders (j :: rest) next

/-- A register of a function that is no part of its capability list. -/
def State.plainRegister (s : State) (fn : Fin 9) (off : BitVec 32) : Word :=
  let o := off.toNat
  if fn = 8 ∧ Config.endpointBase ≤ o ∧ o < Config.endpointBase + 131072 ∧ o % 4 = 0 then
    let k := (o - Config.endpointBase) / 4
    (s.endpoint (k / 8)).extractLsb' (32 * (k % 8)) 32
  else if h : fn = 8 ∧ Config.tenantBase ≤ o ∧ o < Config.tenantBase + 32 ∧ o % 4 = 0 then
    BitVec.ofNat 32 (s.pkg.tenantOf[(o - Config.tenantBase) / 4]'(by omega))
  else if fn ≠ 8 ∧ o = Config.watchdogReg then BitVec.ofNat 32 (s.die (Fin.ofNat 8 fn.val)).watchdog
  else
    match s.pkg.registers.find? fun x => decide (x.1 = fn ∧ x.2.1 = off) with
    | some x => x.2.2
    | none => 0

/-- A register of BAR0 as a host reads it: the capability list stands from 0x100 on (R16). -/
def State.readRegister (s : State) (fn : Fin 9) (off : BitVec 32) : Word :=
  match (capabilityHeaders s.pkg.capabilities[fn] 0x100).find? fun x => decide (x.1 = off.toNat ∨ x.1 + 4 = off.toNat) with
  | some (o, h) => if o = off.toNat then h.setWidth 32 else h.extractLsb' 32 32
  | none => s.plainRegister fn off

/-! ## Host links (21_outside R283) -/

/-- What a host link's configuration space tells of PCIe 7.0 and CXL 3.x (Table 21.1); `other` stands for anything that the table does not
list. -/
inductive HostFeature where
  | rate (megatransfers : Nat)
  | flitMode
  | msix
  | atomicRequester
  | atomicCompleter
  | ats
  | pri
  | srIov
  | doeSpdm
  | cxlIo
  | cxlCache
  | cxlMem
  | other (feature : Nat)
deriving DecidableEq, Repr

/-- Table 21.1, by I/O die: whether its link supports a part. What is not listed is absent. -/
def hostSupports (link : Fin 2) (f : HostFeature) : Bool :=
  match f with
  | .rate r => [128000, 64000, 32000, 16000, 8000, 5000, 2500].contains r
  | .flitMode | .msix | .atomicRequester | .cxlIo => true
  | .doeSpdm | .cxlCache => link == 0
  | .atomicCompleter | .ats | .pri | .srIov | .cxlMem | .other _ => false

/-- What the configuration space of a link reports: a link that is not up reports nothing. -/
def State.linkReports (s : State) (link : Fin 2) (f : HostFeature) : Bool := s.pkg.hosts.getLsbD link.val && hostSupports link f

/-- The functions that a link presents (Table 21.1): those that have a capability list, by the link that is theirs now (R292). -/
def State.linkFunctions (s : State) (link : Fin 2) : List (Fin 9) :=
  (List.finRange 9).filter fun i => decide (s.pkg.linkOf i.val = link.val) && s.pkg.linkUp i.val && !s.pkg.capabilities[i].isEmpty

/-- The interrupts that a function has raised. -/
def State.raised (s : State) (fn : Fin 9) : Nat := if h : fn.val < 8 then (s.die ⟨fn.val, h⟩).interrupts else s.pkg.interrupts

/-- The interrupts that a function has raised by each of its 64 MSI-X vectors (R283; log 108). -/
def State.msix (s : State) (fn : Fin 9) : List Nat :=
  (List.finRange Config.msixVectors).map fun v => if v = Config.vector fn.val then s.raised fn else 0

/-! ## The fault report ring (19_faults R278) -/

/-- FAULT_REPORT_RING_SPACE: system software has taken `count` records; held ones are written in their order, each with an
interrupt. -/
def execFaultReportRingSpace (die : Fin 8) (count : Nat) (s : State) : Out :=
  event (s.onDie die fun d =>
    let kept := d.reports.drop count
    d.reportsHeld.foldl (fun d r => d.report r) { d with reports := kept, reportsHeld := [] })

end Sys2Proof.Machine
end

