-- ==== Sys2Proof/Machine/Firmware.lean ====
section
/-!
DEFINITION. Firmware (21_outside R292 to R297): the cold boot, identity and attestation, the power limit, and the re-planning of margins.
-/
namespace Sys2Proof.Machine

/-! ## Images (R292) -/

/-- Whether an image comes up: its key is the one whose hash the fuses hold, its signature over its digest verifies, and its version is not below
the fused minimum. -/
def imageVerified (m : Image) : Bool :=
  Config.sha256 (bytesOfNat 64 m.key.toNat) == Config.keyHash && Config.verifies m.key (Config.sha256 m.bytes) m.sig &&
    decide (Config.minVersion ≤ m.version)

/-- The image that a boot loads for a die. -/
def imageFor (r : BootResult) (k : Nat) : Option Image := r.images.find? fun m => m.die = k

/-- Whether the die's image is loaded and comes up. -/
def imageOk (r : BootResult) (k : Nat) : Bool := (imageFor r k).any imageVerified

/-! ## Stages of a boot (Table 21.5) -/

/-- Stage 1: I/O die 0 runs its ROM and verifies its own firmware. -/
def BootResult.io0Up (r : BootResult) : Bool := r.io0ok && imageOk r 12

/-- Stages 2 and 3 for I/O die 1. -/
def BootResult.io1Up (r : BootResult) : Bool := Sys2Proof.Machine.BootResult.io0Up r && r.io1ok && imageOk r 13

/-- Stages 2 and 3 for a base die. -/
def BootResult.baseUp (r : BootResult) (b : Fin 4) : Bool := r.baseOk.getLsbD b.val && imageOk r b.val

/-- Whether a physical compute die works: stages 2 to 4, and without I/O die 1 a path to I/O die 0. Base die b carries compute
dies 2b and 2b + 1. -/
def BootResult.dieOk (r : BootResult) (d : Fin 8) : Bool :=
  Sys2Proof.Machine.BootResult.io0Up r && r.computeOk.getLsbD d.val && imageOk r (4 + d.val) &&
    Sys2Proof.Machine.BootResult.baseUp r (Fin.ofNat 4 (d.val / 2)) &&
    (Sys2Proof.Machine.BootResult.io1Up r || decide (d.val < 4) || r.crossPaths.getLsbD (d.val - 4))

/-- Whether a pool port works: ports 24 to 47 lie on I/O die 1. -/
def BootResult.portUp (r : BootResult) (p : Fin 48) : Bool :=
  Sys2Proof.Machine.BootResult.io0Up r && r.portOk.getLsbD p.val &&
    (Sys2Proof.Machine.BootResult.io1Up r || decide (p.val < 24))

/-- The Ethernet ports that work: 2 and 3 lie on I/O die 1 (R289). -/
def BootResult.ethUp (r : BootResult) : BitVec 4 :=
  if !Sys2Proof.Machine.BootResult.io0Up r then 0
  else if Sys2Proof.Machine.BootResult.io1Up r then r.ethOk else r.ethOk &&& 3

/-- The host links that work: link 1 is that of I/O die 1; in recovery mode link 0 presents function 8. -/
def BootResult.hostUp (r : BootResult) : BitVec 2 := if Sys2Proof.Machine.BootResult.io1Up r then r.hostOk else r.hostOk &&& 1

/-! ## COLD_BOOT (R292) -/

/-- The management function after a boot. Virtual numbers are the physical ones (log 13); a core whose margin cannot be restored is
retired (R295). -/
def BootResult.package (r : BootResult) (acc : BitVec 8) : Package :=
  let io0 := Sys2Proof.Machine.BootResult.io0Up r
  let up (d : Fin 8) : Bool := Sys2Proof.Machine.BootResult.dieOk r d
  let fused := r.fused.eraseDups
  let p : Package := { packageReset with
    accNum := acc, vmap := Vector.ofFn fun d => if up d then some d else none,
    eth := Sys2Proof.Machine.BootResult.ethUp r, hosts := Sys2Proof.Machine.BootResult.hostUp r,
    io1 := Sys2Proof.Machine.BootResult.io1Up r, crossPaths := r.crossPaths, fused := fused,
    retiredCores := r.failed.eraseDups.filter fun c => !fused.contains c,
    digests := (List.range 14).filterMap fun k => (imageFor r k).map fun m => (k, Config.sha256 m.bytes),
    health := if io0 then 0 else 0x20000000 }
  { p with capabilities := Vector.ofFn fun i =>
      if !p.linkUp i.val then []
      else if h : i.val < 8 then (if io0 then capabilityList i.val (up ⟨i.val, h⟩) else []) else capabilityList 8 true }

/-- A value moved to the nearer end of its range. -/
def inRange (lo hi x : Nat) : Nat := max lo (min hi x)

/-- Firmware sets the voltage and the clock of one rail (R295): a core rail's within their ranges; base-die routers and L3 slices stay at their
clock (R294, Table 21.6). -/
def Package.setRail (p : Package) (r : RailPlan) : Package :=
  match r.rail with
  | .core d =>
      let x : RailState := { volt := inRange Config.minVolt Config.maxVolt r.volt, clock := inRange Config.minClock Config.maxClock r.clock }
      { p with coreRails := p.coreRails.set d x }
  | .sram => { p with sramRail := { volt := r.volt, clock := Config.baseClock } }
  | .baseLogic => { p with baseRail := { volt := r.volt, clock := Config.baseClock } }
  | .ioLogic => { p with ioRail := { volt := r.volt, clock := r.clock } }
  | .serdes => { p with serdesRail := { volt := r.volt, clock := r.clock } }

/-- Firmware sets the rails that a plan names (R295). -/
def State.planRails (s : State) (plan : List RailPlan) : State := { s with pkg := plan.foldl Package.setRail s.pkg }

/-- The part after a boot: pool nodes and the host keep their memory, and everything else starts as from reset. -/
def State.booted (s : State) (r : BootResult) : State :=
  let new : State :=
    { State.reset with
      agenda := s.agenda, fresh := s.fresh, freed := s.freed, turn := s.turn, pool := s.pool, host := s.host,
      damage := s.damage.filter fun d => match d with
        | .pool _ => true
        | .cached _ _ | .l3 _ | .spad _ _ | .kreg _ _ | .preg _ _ | .acc _ _ => false,
      ports := Vector.ofFn fun p => if Sys2Proof.Machine.BootResult.portUp r p then portReset else { portReset with width := 0 },
      pkg := Sys2Proof.Machine.BootResult.package r s.pkg.accNum }
  (new.planRails r.plan).updateHealth r.margin false

/-- COLD_BOOT (R292). -/
def execColdBoot (r : BootResult) (s : State) : Out := event (s.booted r)

/-! ## Identity and attestation (R293) -/

/-- The virtual-die map as one value: 4 bits for each number, 8 for none. -/
def State.mapBits (s : State) : Nat :=
  s.pkg.vmap.toList.foldr (fun x n => 16 * n + match x with
    | some p => p.val
    | none => 8) 0

/-- The digest of the firmware image of a die: of the one that the last boot loaded. -/
def State.digest (s : State) (k : Nat) : BitVec 256 :=
  match s.pkg.digests.find? fun x => x.1 = k with
  | some x => x.2
  | none => Config.imageDigest k

/-- The cores that are fused off, a bit for each of the 512 by physical die and number. -/
def State.fuseMask (s : State) : BitVec 512 := s.pkg.fused.foldl (fun m c => m ||| (1#512 <<< (64 * c.die.val + c.num.val))) 0

/-- The measurement blocks: the digest of each die's firmware image, then the fuse configuration (the cores fused off; the key hash and
the minimum version), the virtual-die map, the health status word. The form of the last four is the model's (log 109). -/
def State.measurements (s : State) : List (BitVec 512) :=
  ((List.range 14).map fun k => (s.digest k).setWidth 512) ++
    [s.fuseMask, BitVec.ofNat 256 Config.minVersion ++ Config.keyHash, BitVec.ofNat 512 s.mapBits, s.pkg.health.setWidth 512]

/-- SPDM_GET_CERTIFICATE (R293). -/
def execSpdmGetCertificate (s : State) : Out := event { s with pkg := { s.pkg with chain := Config.certChain } }

/-- SPDM_GET_MEASUREMENTS (R293). -/
def execSpdmGetMeasurements (s : State) : Out := event { s with pkg := { s.pkg with response := s.measurements } }

/-- SPDM_SIGNED_REPORT (R293): the measurements as they stand now, and the signature over the nonce and them. -/
def execSpdmSignedReport (nonce : BitVec 256) (s : State) : Out :=
  event { s with pkg := { s.pkg with response := s.measurements ++ [Config.sign nonce s.measurements] } }

/-! ## Power and ageing (R294 to R297) -/

/-- The clock of a compute die after a step of 100 MHz up or down, between the lowest and the highest. -/
def stepClock (raise : Bool) (clock : Nat) : Nat :=
  if raise then min (clock + 100) Config.maxClock else max (clock - 100) Config.minClock

/-- POWER_LIMIT_STEP (R294), by physical compute die. -/
def execPowerLimitStep (die : Fin 8) (raise : Bool) (s : State) : Out :=
  let r := s.pkg.coreRails[die]
  event { s with pkg := { s.pkg with coreRails := s.pkg.coreRails.set die { r with clock := stepClock raise r.clock } } }

/-- MARGIN_REPLAN (R295, R296): firmware sets the rails that it has planned anew; the cores whose margin cannot be restored are retired, by
physical die; the health status word takes the smallest margin; a card that no rectangle of its die can hold any more becomes invalid. -/
def execMarginReplan (margin : BitVec 4) (r : Replan) (s : State) : Out :=
  let s := s.planRails r.plan
  let new := r.failed.eraseDups.filter fun c => !(s.pkg.fused ++ s.pkg.retiredCores).contains c
  let s := ({ s with pkg := { s.pkg with retiredCores := s.pkg.retiredCores ++ new } } : State).updateHealth margin false
  event (s.grids.foldl (fun s g => s.dropUnplaceable g.id) s)

end Sys2Proof.Machine
end

