-- ==== Sys2Proof/Machine/Group.lean ====
section
/-!
DEFINITION. Group instructions (23_ref R337, 25_ref R440, R456): every lane's operands are read before any result is
written.
-/
namespace Sys2Proof.Machine

/-- The home lane of a thread. -/
def Thread.lane (th : Thread) : Nat := th.id.tid % 32

/-! ## Reductions and scans -/

/-- The floating-point layout of a group type. -/
def GrType.layout : GrType → Option FFmt
  | .f64 => some fp64
  | .f32 => some fp32
  | .i32 | .n32 | .i64 | .n64 => none

/-- Bits and signedness of a group type. -/
def GrType.int : GrType → Nat × Bool
  | .i32 => (32, true)
  | .n32 => (32, false)
  | .i64 => (64, true)
  | .n64 => (64, false)
  | .f64 => (64, true)
  | .f32 => (32, true)

/-- R over a list of patterns in lane order (R337): floating-point types. -/
def reduceFloat (f : FFmt) (op : GrOp) (rnd : Rnd) (xs : List Nat) : Nat × Word :=
  match op with
  | .min => xs.foldl (fun a x => let r := f.minmax false a.1 x; (r.1, a.2 ||| r.2)) (f.inf false, 0)
  | .max => xs.foldl (fun a x => let r := f.minmax true a.1 x; (r.1, a.2 ||| r.2)) (f.inf true, 0)
  | .add | .and | .or | .xor =>
      let vs := xs.map fun x => f.read x
      (f.nanOf vs).getD (f.sum rnd vs)

/-- R over a list of patterns: integer types. -/
def reduceInt (w : Nat) (sg : Bool) (op : GrOp) (sat : Bool) (xs : List Nat) : Nat × Word :=
  let vs := xs.map fun x => intOf w sg x
  let (lo, hi) := intBounds w sg
  match op with
  | .add => narrow w sg sat (vs.foldl (fun a x => a + x) 0)
  | .min => (wrapInt w (vs.foldl (fun a x => min a x) hi), 0)
  | .max => (wrapInt w (vs.foldl (fun a x => max a x) lo), 0)
  | .and => (xs.foldl (fun a x => a &&& x) (2 ^ w - 1), 0)
  | .or => (xs.foldl (fun a x => a ||| x) 0, 0)
  | .xor => (xs.foldl (fun a x => a ^^^ x) 0, 0)

/-- R of 23_ref R337. -/
def reduce (op : GrOp) (ty : GrType) (rnd : Rnd) (sat : Bool) (xs : List Nat) : Nat × Word :=
  match Sys2Proof.Machine.GrType.layout ty with
  | some f => reduceFloat f op rnd xs
  | none => reduceInt (Sys2Proof.Machine.GrType.int ty).1 (Sys2Proof.Machine.GrType.int ty).2 op sat xs

/-- A lane's operand pattern. -/
def Thread.grBits (th : Thread) (ty : GrType) (o : Opnd) : Nat :=
  match ty with
  | .f64 => th.f64 o
  | .f32 => th.f32 o
  | .i32 | .n32 => (th.reg o).toNat
  | .i64 | .n64 => (th.reg64 o).toNat

/-- GRED (R337). -/
def execGred (d a : Opnd) (op : GrOp) (ty : GrType) (rnd : Rnd) (sat : Bool) (s : State) : Out :=
  execGroupAlu (.gred d a op ty rnd sat) d ty.regs
    (fun ls _ => reduce op ty rnd sat (ls.map fun t => t.grBits ty a)) s

/-- GSCAN (R337). -/
def execGscan (d a : Opnd) (op : GrOp) (ty : GrType) (rnd : Rnd) (sat ex : Bool) (s : State) : Out :=
  execGroupAlu (.gscan d a op ty rnd sat ex) d ty.regs
    (fun ls th =>
      let before := ls.filter fun t => decide (t.lane < th.lane) || (!ex && decide (t.lane = th.lane))
      reduce op ty rnd sat (before.map fun t => t.grBits ty a)) s

/-! ## Exchange and vote -/

/-- The source lane of SHFL (R440). -/
def shflLane (mode : ShflMode) (i : Nat) (b : Word) : Nat :=
  match mode with
  | .idx => b.toNat
  | .up => (BitVec.ofNat 32 i - b).toNat
  | .down => (BitVec.ofNat 32 i + b).toNat
  | .xor => (BitVec.ofNat 32 i ^^^ b).toNat

/-- SHFL (R440). -/
def execShfl (d a b : Opnd) (mode : ShflMode) (w : Width) (s : State) : Out :=
  execGroupAlu (.shfl d a b mode w) d w.regs
    (fun ls th =>
      match ls.find? fun t => t.lane = shflLane mode th.lane (th.reg b) with
      | some t => (t.regN a w.regs, 0)
      | none => (th.regN a w.regs, 0)) s

/-- VOTE's result (R456). -/
def voteValue (mode : VoteMode) (vs : List (Nat × Bool)) : Nat :=
  let one (b : Bool) : Nat := if b then 1 else 0
  match mode with
  | .any => one (vs.any fun v => v.2)
  | .all => one (vs.all fun v => v.2)
  | .ballot => vs.foldl (fun a v => a + if v.2 then 2 ^ v.1 else 0) 0
  | .eq => one ((vs.all fun v => v.2) || vs.all fun v => !v.2)

/-- VOTE (R456). -/
def execVote (d : Opnd) (mode : VoteMode) (neg : Bool) (p : BitVec 3) (s : State) : Out :=
  execGroupAlu (.vote d mode neg p) d 1
    (fun ls _ => (voteValue mode (ls.map fun t => (t.lane, t.pred p != neg)), 0)) s

end Sys2Proof.Machine
end

