-- ==== Sys2Proof/Machine/Dispatch.lean ====
section
/-!
DEFINITION. One arm per step of the part: each calls its meaning. Machine/<Family>.lean hold the meanings.
-/
namespace Sys2Proof.Machine

/-- What one step does. -/
def exec (i : Instr) (s : State) : Host.Outcome State Fault Refusal :=
  match i with
  | .exportEntryWrite die idx bits gen => Sys2Proof.Machine.execExportEntryWrite die idx bits gen s
  | .revocationComplete die idx => Sys2Proof.Machine.execRevocationComplete die idx s
  | .importEntryWrite die idx bits => Sys2Proof.Machine.execImportEntryWrite die idx bits s
  | .presentMaskWrite mask => Sys2Proof.Machine.execPresentMaskWrite mask s
  | .partitionMaskWrite tenant mask => Sys2Proof.Machine.execPartitionMaskWrite tenant mask s
  | .diePresentMapWrite acc bits => Sys2Proof.Machine.execDiePresentMapWrite acc bits s
  | .virtualDieMapWrite v p => Sys2Proof.Machine.execVirtualDieMapWrite v p s
  | .rootWrite die host asid root => Sys2Proof.Machine.execRootWrite die host asid root s
  | .shootdown die asid base len => Sys2Proof.Machine.execShootdown die asid base len s
  | .shootdownCompletion die id => Sys2Proof.Machine.execShootdownCompletion die id s
  | .completionDoorbell die seq refused => Sys2Proof.Machine.execCompletionDoorbell die seq refused s
  | .poolConfiguration die cfg => Sys2Proof.Machine.execPoolConfiguration die cfg s
  | .queueConfiguration die q cfg => Sys2Proof.Machine.execQueueConfiguration die q cfg s
  | .queueDoorbell die q tail => Sys2Proof.Machine.execQueueDoorbell die q tail s
  | .queuePreemption die q => Sys2Proof.Machine.execQueuePreemption die q s
  | .endGrid grid => Sys2Proof.Machine.execEndGrid grid s
  | .mark th => Sys2Proof.Machine.execMark th s
  | .unmark th => Sys2Proof.Machine.execUnmark th s
  | .continueThread th => Sys2Proof.Machine.execContinueThread th s
  | .skipThread th => Sys2Proof.Machine.execSkipThread th s
  | .killThread th => Sys2Proof.Machine.execKillThread th s
  | .portReset port => Sys2Proof.Machine.execPortReset port s
  | .registerWrite fn off val => Sys2Proof.Machine.execRegisterWrite fn off val s
  | .spdmGetCertificate => Sys2Proof.Machine.execSpdmGetCertificate s
  | .spdmGetMeasurements => Sys2Proof.Machine.execSpdmGetMeasurements s
  | .spdmSignedReport nonce => Sys2Proof.Machine.execSpdmSignedReport nonce s
  | .selectorDispatch core => Sys2Proof.Machine.execSelectorDispatch core s
  | .clauseIssue pipe => Sys2Proof.Machine.execClauseIssue pipe s
  | .loadReturn id part => Sys2Proof.Machine.execLoadReturn id part s
  | .drainComplete th => Sys2Proof.Machine.execDrainComplete th s
  | .faultRecord th => Sys2Proof.Machine.execFaultRecord th s
  | .barrierArrival th => Sys2Proof.Machine.execBarrierArrival th s
  | .slateCredit id => Sys2Proof.Machine.execSlateCredit id s
  | .commandEnter core => Sys2Proof.Machine.execCommandEnter core s
  | .commandStart core => Sys2Proof.Machine.execCommandStart core s
  | .engineSourceRead id => Sys2Proof.Machine.execEngineSourceRead id s
  | .engineUnitWrite id data => Sys2Proof.Machine.execEngineUnitWrite id data s
  | .engineCompletionRecord id => Sys2Proof.Machine.execEngineCompletionRecord id s
  | .mfeedLineEnter id => Sys2Proof.Machine.execMfeedLineEnter id s
  | .mloopStep id => Sys2Proof.Machine.execMloopStep id s
  | .afreeEffect id => Sys2Proof.Machine.execAfreeEffect id s
  | .orelEffect id => Sys2Proof.Machine.execOrelEffect id s
  | .matrixWatchdogExpiry core => Sys2Proof.Machine.execMatrixWatchdogExpiry core s
  | .catchableRead id => Sys2Proof.Machine.execCatchableRead id s
  | .steeredRead id => Sys2Proof.Machine.execSteeredRead id s
  | .directRead id => Sys2Proof.Machine.execDirectRead id s
  | .readReply id => Sys2Proof.Machine.execReadReply id s
  | .ownershipRequest id => Sys2Proof.Machine.execOwnershipRequest id s
  | .cut id => Sys2Proof.Machine.execCut id s
  | .cutAcknowledgement id => Sys2Proof.Machine.execCutAcknowledgement id s
  | .grant id => Sys2Proof.Machine.execGrant id s
  | .holderEviction cache line => Sys2Proof.Machine.execHolderEviction cache line s
  | .writebackAcknowledgement id => Sys2Proof.Machine.execWritebackAcknowledgement id s
  | .prune id => Sys2Proof.Machine.execPrune id s
  | .backoffResend id => Sys2Proof.Machine.execBackoffResend id s
  | .ownershipDelayExpiry id => Sys2Proof.Machine.execOwnershipDelayExpiry id s
  | .bounceEntryClear die core line => Sys2Proof.Machine.execBounceEntryClear die core line s
  | .farAtomic id => Sys2Proof.Machine.execFarAtomic id s
  | .folioRequest folio => Sys2Proof.Machine.execFolioRequest folio s
  | .folioGrant folio => Sys2Proof.Machine.execFolioGrant folio s
  | .folioCut folio toShared => Sys2Proof.Machine.execFolioCut folio toShared s
  | .folioLineAck id => Sys2Proof.Machine.execFolioLineAck id s
  | .snpInv line => Sys2Proof.Machine.execSnpInv line s
  | .snpData line => Sys2Proof.Machine.execSnpData line s
  | .snpCur line => Sys2Proof.Machine.execSnpCur line s
  | .inboundWrite line cls off data => Sys2Proof.Machine.execInboundWrite line cls off data s
  | .peerWindowRequest id => Sys2Proof.Machine.execPeerWindowRequest id s
  | .peerWindowResponse id answer => Sys2Proof.Machine.execPeerWindowResponse id answer s
  | .stfDataAcknowledgement id => Sys2Proof.Machine.execStfDataAcknowledgement id s
  | .flagIncrement id => Sys2Proof.Machine.execFlagIncrement id s
  | .poolResponse id => Sys2Proof.Machine.execPoolResponse id s
  | .laneFailure port => Sys2Proof.Machine.execLaneFailure port s
  | .retrainStepComplete port => Sys2Proof.Machine.execRetrainStepComplete port s
  | .poolRequestTimeout id => Sys2Proof.Machine.execPoolRequestTimeout id s
  | .packetRetransmit id packet => Sys2Proof.Machine.execPacketRetransmit id packet s
  | .networkTmoExpiry id => Sys2Proof.Machine.execNetworkTmoExpiry id s
  | .packetArrival id packet data => Sys2Proof.Machine.execPacketArrival id packet data s
  | .parcelClaim id accept inc => Sys2Proof.Machine.execParcelClaim id accept inc s
  | .parcelArrival id => Sys2Proof.Machine.execParcelArrival id s
  | .cardTake die => Sys2Proof.Machine.execCardTake die s
  | .localCardTake core => Sys2Proof.Machine.execLocalCardTake core s
  | .clusterPlacement die => Sys2Proof.Machine.execClusterPlacement die s
  | .clusterRetire cluster => Sys2Proof.Machine.execClusterRetire cluster s
  | .queueCompletionRecord die q => Sys2Proof.Machine.execQueueCompletionRecord die q s
  | .contextSave cluster => Sys2Proof.Machine.execContextSave cluster s
  | .contextResume cluster => Sys2Proof.Machine.execContextResume cluster s
  | .coldBoot r => Sys2Proof.Machine.execColdBoot r s
  | .powerLimitStep die raise => Sys2Proof.Machine.execPowerLimitStep die raise s
  | .marginReplan margin r => Sys2Proof.Machine.execMarginReplan margin r s
  | .aalloc d c => Sys2Proof.Machine.execAalloc d c s
  | .afree g count => Sys2Proof.Machine.execAfree g count s
  | .and u d a b w => Sys2Proof.Machine.execAnd u d a b w s
  | .atom u d base b cnt op mc => Sys2Proof.Machine.execAtom u d base b cnt op mc s
  | .atomn u b base op mc => Sys2Proof.Machine.execAtomn u b base op mc s
  | .bfi u d a b ctl w => Sys2Proof.Machine.execBfi u d a b ctl w s
  | .bfx u d a ctl ty => Sys2Proof.Machine.execBfx u d a ctl ty s
  | .bkpt imm => Sys2Proof.Machine.execBkpt imm s
  | .bra u off => Sys2Proof.Machine.execBra u off s
  | .brc u p sn off => Sys2Proof.Machine.execBrc u p sn off s
  | .brev u d a w => Sys2Proof.Machine.execBrev u d a w s
  | .brx u a => Sys2Proof.Machine.execBrx u a s
  | .call u off => Sys2Proof.Machine.execCall u off s
  | .callx u a => Sys2Proof.Machine.execCallx u a s
  | .cas u d base b cnt mc => Sys2Proof.Machine.execCas u d base b cnt mc s
  | .cbar u => Sys2Proof.Machine.execCbar u s
  | .clz u d a w => Sys2Proof.Machine.execClz u d a w s
  | .cmnt u base op reach space off => Sys2Proof.Machine.execCmnt u base op reach space off s
  | .cpy u d a b e => Sys2Proof.Machine.execCpy u d a b e s
  | .cpym u d a b e => Sys2Proof.Machine.execCpym u d a b e s
  | .cpyt u d a b st e => Sys2Proof.Machine.execCpyt u d a b st e s
  | .cred u d a b ty e => Sys2Proof.Machine.execCred u d a b ty e s
  | .cvt u d a df sf rnd sat => Sys2Proof.Machine.execCvt u d a df sf rnd sat s
  | .dadd u d a b rnd => Sys2Proof.Machine.execDadd u d a b rnd s
  | .dcmp u cond p a b => Sys2Proof.Machine.execDcmp u cond p a b s
  | .ddiv u d a b rnd => Sys2Proof.Machine.execDdiv u d a b rnd s
  | .dfma u d a b c rnd => Sys2Proof.Machine.execDfma u d a b c rnd s
  | .dmax u d a b => Sys2Proof.Machine.execDmax u d a b s
  | .dmin u d a b => Sys2Proof.Machine.execDmin u d a b s
  | .dmul u d a b rnd => Sys2Proof.Machine.execDmul u d a b rnd s
  | .dqnt u d q sc z df rnd sat q4 => Sys2Proof.Machine.execDqnt u d q sc z df rnd sat q4 s
  | .drcp u d a => Sys2Proof.Machine.execDrcp u d a s
  | .dsqrt u d a rnd => Sys2Proof.Machine.execDsqrt u d a rnd s
  | .dsub u d a b rnd => Sys2Proof.Machine.execDsub u d a b rnd s
  | .exit u => Sys2Proof.Machine.execExit u s
  | .fadd u d a b rnd => Sys2Proof.Machine.execFadd u d a b rnd s
  | .fcls u d a w => Sys2Proof.Machine.execFcls u d a w s
  | .fcmp u cond p a b => Sys2Proof.Machine.execFcmp u cond p a b s
  | .fcos u d a => Sys2Proof.Machine.execFcos u d a s
  | .fdiv u d a b rnd => Sys2Proof.Machine.execFdiv u d a b rnd s
  | .fence u scope kind => Sys2Proof.Machine.execFence u scope kind s
  | .fex2 u d a => Sys2Proof.Machine.execFex2 u d a s
  | .ffma u d a b c rnd => Sys2Proof.Machine.execFfma u d a b c rnd s
  | .flg2 u d a => Sys2Proof.Machine.execFlg2 u d a s
  | .fmax u d a b => Sys2Proof.Machine.execFmax u d a b s
  | .fmin u d a b => Sys2Proof.Machine.execFmin u d a b s
  | .fmul u d a b rnd => Sys2Proof.Machine.execFmul u d a b rnd s
  | .frcp u d a => Sys2Proof.Machine.execFrcp u d a s
  | .frsq u d a => Sys2Proof.Machine.execFrsq u d a s
  | .fsin u d a => Sys2Proof.Machine.execFsin u d a s
  | .fsqrt u d a rnd => Sys2Proof.Machine.execFsqrt u d a rnd s
  | .fsub u d a b rnd => Sys2Proof.Machine.execFsub u d a b rnd s
  | .garm u slot => Sys2Proof.Machine.execGarm u slot s
  | .gets u d num => Sys2Proof.Machine.execGets u d num s
  | .gred d a op ty rnd sat => Sys2Proof.Machine.execGred d a op ty rnd sat s
  | .gscan d a op ty rnd sat ex => Sys2Proof.Machine.execGscan d a op ty rnd sat ex s
  | .gset u a slot => Sys2Proof.Machine.execGset u a slot s
  | .hadd2 u d a b bf rnd => Sys2Proof.Machine.execHadd2 u d a b bf rnd s
  | .hfma2 u d a b c bf rnd => Sys2Proof.Machine.execHfma2 u d a b c bf rnd s
  | .hmul2 u d a b bf rnd => Sys2Proof.Machine.execHmul2 u d a b bf rnd s
  | .iabs u d a w => Sys2Proof.Machine.execIabs u d a w s
  | .iadd u d a b w => Sys2Proof.Machine.execIadd u d a b w s
  | .iaddi u d a imm => Sys2Proof.Machine.execIaddi u d a imm s
  | .icmp u cond p a b w => Sys2Proof.Machine.execIcmp u cond p a b w s
  | .idiv u d a b ty => Sys2Proof.Machine.execIdiv u d a b ty s
  | .imad u d a b c ty sat => Sys2Proof.Machine.execImad u d a b c ty sat s
  | .imax u d a b ty => Sys2Proof.Machine.execImax u d a b ty s
  | .imin u d a b ty => Sys2Proof.Machine.execImin u d a b ty s
  | .imul u d a b form => Sys2Proof.Machine.execImul u d a b form s
  | .irem u d a b ty => Sys2Proof.Machine.execIrem u d a b ty s
  | .isub u d a b w => Sys2Proof.Machine.execIsub u d a b w s
  | .jpost u a b e => Sys2Proof.Machine.execJpost u a b e s
  | .ld u d base cnt mc => Sys2Proof.Machine.execLd u d base cnt mc s
  | .ldnr u d base p cnt mc => Sys2Proof.Machine.execLdnr u d base p cnt mc s
  | .mdrain d a b zero e => Sys2Proof.Machine.execMdrain d a b zero e s
  | .mfeed a b rid e => Sys2Proof.Machine.execMfeed a b rid e s
  | .mloop a b c lc => Sys2Proof.Machine.execMloop a b c lc s
  | .mov u d a w => Sys2Proof.Machine.execMov u d a w s
  | .movh u d imm => Sys2Proof.Machine.execMovh u d imm s
  | .movi u d imm => Sys2Proof.Machine.execMovi u d imm s
  | .mrst u => Sys2Proof.Machine.execMrst u s
  | .mzero g count => Sys2Proof.Machine.execMzero g count s
  | .nop => Sys2Proof.Machine.execNop s
  | .or u d a b w => Sys2Proof.Machine.execOr u d a b w s
  | .orel rid => Sys2Proof.Machine.execOrel rid s
  | .ores a b c fmt gl rid rw => Sys2Proof.Machine.execOres a b c fmt gl rid rw s
  | .padd u d a b => Sys2Proof.Machine.execPadd u d a b s
  | .pfree u a => Sys2Proof.Machine.execPfree u a s
  | .pld u d base cnt mc => Sys2Proof.Machine.execPld u d base cnt mc s
  | .pldr u d base cnt mc => Sys2Proof.Machine.execPldr u d base cnt mc s
  | .plop u pd pa pb lut => Sys2Proof.Machine.execPlop u pd pa pb lut s
  | .pmovPack u d => Sys2Proof.Machine.execPmovPack u d s
  | .pmovUnpack u a mask => Sys2Proof.Machine.execPmovUnpack u a mask s
  | .pnew u d a => Sys2Proof.Machine.execPnew u d a s
  | .popc u d a w => Sys2Proof.Machine.execPopc u d a w s
  | .post u d a b e => Sys2Proof.Machine.execPost u d a b e s
  | .pqry u d a fn => Sys2Proof.Machine.execPqry u d a fn s
  | .precv u a l dsp ssp => Sys2Proof.Machine.execPrecv u a l dsp ssp s
  | .pref u base kind space off => Sys2Proof.Machine.execPref u base kind space off s
  | .pseal u a => Sys2Proof.Machine.execPseal u a s
  | .pst u d base mc => Sys2Proof.Machine.execPst u d base mc s
  | .pstr u d base mc => Sys2Proof.Machine.execPstr u d base mc s
  | .pwait u a => Sys2Proof.Machine.execPwait u a s
  | .qnt u d x sc z sf rnd q4 => Sys2Proof.Machine.execQnt u d x sc z sf rnd q4 s
  | .resq u base b wr space off => Sys2Proof.Machine.execResq u base b wr space off s
  | .resume => Sys2Proof.Machine.execResume s
  | .resumeSkip => Sys2Proof.Machine.execResumeSkip s
  | .ret u => Sys2Proof.Machine.execRet u s
  | .rol u d a n w => Sys2Proof.Machine.execRol u d a n w s
  | .sar u d a n w => Sys2Proof.Machine.execSar u d a n w s
  | .sarv u a ps => Sys2Proof.Machine.execSarv u a ps s
  | .sel u d a b p neg w => Sys2Proof.Machine.execSel u d a b p neg w s
  | .sets u a num => Sys2Proof.Machine.execSets u a num s
  | .sexp u bytes slate => Sys2Proof.Machine.execSexp u bytes slate s
  | .shfl d a b mode w => Sys2Proof.Machine.execShfl d a b mode w s
  | .shl u d a n w => Sys2Proof.Machine.execShl u d a n w s
  | .shr u d a n w => Sys2Proof.Machine.execShr u d a n w s
  | .sinit u a b c => Sys2Proof.Machine.execSinit u a b c s
  | .st u d base mc => Sys2Proof.Machine.execSt u d base mc s
  | .stf u d base mc fbase foff => Sys2Proof.Machine.execStf u d base mc fbase foff s
  | .swait u a v => Sys2Proof.Machine.execSwait u a v s
  | .tbar u => Sys2Proof.Machine.execTbar u s
  | .tdld u a b dsp ssp => Sys2Proof.Machine.execTdld u a b dsp ssp s
  | .tdrop u a pkg => Sys2Proof.Machine.execTdrop u a pkg s
  | .trap imm => Sys2Proof.Machine.execTrap imm s
  | .ttagImmediate u id => Sys2Proof.Machine.execTtagImmediate u id s
  | .ttagRegister u a => Sys2Proof.Machine.execTtagRegister u a s
  | .vote d mode neg p => Sys2Proof.Machine.execVote d mode neg p s
  | .xor u d a b w => Sys2Proof.Machine.execXor u d a b w s
  | .coreCycle core => Sys2Proof.Machine.execCoreCycle core s
  | .mzeroEffect id => Sys2Proof.Machine.execMzeroEffect id s
  | .cxlCacheResponse id => Sys2Proof.Machine.execCxlCacheResponse id s
  | .selectiveAcknowledgement id packet => Sys2Proof.Machine.execSelectiveAcknowledgement id packet s
  | .inboundRead line off len => Sys2Proof.Machine.execInboundRead line off len s
  | .faultReportRingSpace die count => Sys2Proof.Machine.execFaultReportRingSpace die count s
  | .ethernetPortFailure port => Sys2Proof.Machine.execEthernetPortFailure port s

end Sys2Proof.Machine
end

