-- ==== Sys2Proof/Machine/Fetch.lean ====
section
/-!
DEFINITION. Fetching an instruction of a block for an issue group that stands at a word (02_execution R23, 05_encoding R72 to R75), and
the placing of one instruction where the next step fetches it.
-/
namespace Sys2Proof.Machine

/-- A fault of the group at a word that is no instruction or cannot be fetched. -/
structure FetchStop where
  widx : Nat
  u : Bool
  flt : Flt
deriving DecidableEq, Repr

/-- A word of the current block, or the fault of a word that cannot be fetched: its own index and address (R23). -/
def State.blockWordAt (s : State) (p : Pipe) (tm : Team) (w : Nat) : State × Except FetchStop Word :=
  match s.wordAt tm p.block w with
  | (s, .ok x) => (s, .ok x)
  | (s, .error (c, x)) =>
      (s, .error { widx := w, u := false, flt := { cause := c, addr := p.block + BitVec.ofNat 64 (4 * w), extra := x } })

/-- The words after the first of an instruction of `n` words. -/
def State.restWords (s : State) (p : Pipe) (tm : Team) (n : Nat) : State × Except FetchStop (Word × Word) :=
  if n ≤ 1 then (s, .ok (0, 0))
  else
    match s.blockWordAt p tm (p.widx + 1) with
    | (s, .error f) => (s, .error f)
    | (s, .ok v) =>
        if n ≤ 2 then (s, .ok (v, 0))
        else
          match s.blockWordAt p tm (p.widx + 2) with
          | (s, .error f) => (s, .error f)
          | (s, .ok x) => (s, .ok (v, x))

/-- Fetch and decode the instruction that the group stands at. A word that decodes to none, or an instruction that reaches past its clause,
raises 0x10 (05_encoding R74, R75, R95). All words of an instruction are fetched before its word 0 is checked further: of which comes first
the spec says nothing (DESIGN CHOICE, log 110). -/
def State.decodeAt (s : State) (p : Pipe) (tm : Team) : State × Except FetchStop Instr :=
  match s.blockWordAt p tm p.widx with
  | (s, .error f) => (s, .error f)
  | (s, .ok w) =>
      let illegal : FetchStop := { widx := p.widx, u := flag w 23, flt := { cause := 0x10, addr := 0, extra := w } }
      let op := fld w 24 8
      let n := if opcodeKnown op then opcodeWords op else 1
      let last := match p.clause with
        | some c => c.fin
        | none => 0
      if last < p.widx + n then (s, .error illegal)
      else
        match s.restWords p tm n with
        | (s, .error f) => (s, .error f)
        | (s, .ok (v, x)) =>
            match decode w v x with
            | .ok i => (s, .ok i)
            | .error _ => (s, .error illegal)

/-- The instruction that the group stands at: one that a hold has kept from executing is not fetched again (05_encoding R73). -/
def State.fetchInstr (s : State) (p : Pipe) (tm : Team) : State × Except FetchStop Instr :=
  match p.instr with
  | some i => (s, .ok i)
  | none => s.decodeAt p tm

/-- Every lane takes the fault of a word that is no instruction; nothing more of the block executes for them. -/
def State.fetchFault (s : State) (p : Pipe) (f : FetchStop) : State := s.faultLanes { p with widx := f.widx } f.u f.flt p.lanes

/-! ## Placing one instruction -/

/-- The words of a block that holds one instruction (its words `ws`, its class): a collective block, ended by EXIT unless the
instruction is a terminator. -/
def blockAround (ws : List Word) (cls : Option (BitVec 3)) : List Word :=
  let n := ws.length
  if cls = some 6 then [0xF8000000 ||| BitVec.ofNat 32 (n + 2), (BitVec.ofNat 4 n ++ (6 : BitVec 3) ++ (0 : BitVec 25))] ++ ws
  else
    [0xF8000000 ||| BitVec.ofNat 32 (n + 4), (BitVec.ofNat 4 n ++ cls.getD 0 ++ (0 : BitVec 25))] ++ ws ++
      [0x1C000000, 0x76000000]

/-- Physical page of the root table, the second-level table and the code, and the virtual address of the block. -/
def placeRoot : Nat := 0x10000
/-- The second-level table. -/
def placeTable : Nat := 0x20000
/-- The block's virtual and physical address: in the 512 MiB page that the one leaf maps onto itself. -/
def placeCode : Nat := 0x30000

/-- The leaf of that page: a 512 MiB DC page with every right. -/
def placeLeaf : BitVec 64 := 0x3F

/-- The leaf in a TLB, as the walk that has fetched the block left it. -/
def placeTlb (a : TlbAt) : Tlb := { at' := a, asid := 0, host := false, big := true, vpn := 0, leaf := placeLeaf }

/-- The team that runs the instruction: one thread of role matrix with PRIV. -/
def soloTeam : Team :=
  { id := { core := { die := 0, num := 0 }, slot := 0 }, cluster := 0, cpos := 0, index := 0, g0 := 0, nthr := 1, kcount := 64,
    roles := 1, scratch := 4096, blot := 1, handler := none, priv := true, asid := 0, tctl := 0, tstat := 0, seq := 0,
    guards := Vector.replicate 16 .idle, guardRel := Vector.replicate 16 [], guardBy := Vector.replicate 16 none,
    tiles := Vector.replicate 16 none, spad := [], gran := [], f64 := [], resv := Vector.replicate 8 none, mrst := false }

/-- Its thread, in an issue group. -/
def soloThread : Thread :=
  { launchThread { team := soloTeam.id, tid := 0 } 0 with st := .issuing, block := BitVec.ofNat 64 placeCode, coll := true }

/-- Its grid. -/
def soloGrid : Grid :=
  { id := 0, die := 0, src := .queue 0 0, queue := 0, prio := 0, card := 0, word := 0, asid := 0, placed := 1, retired := 0,
    ended := false, complete := false, orphan := false }

/-- Its pipe, at the first word of the instruction of `n` words in a clause of class `cls`. -/
def soloPipe (n : Nat) (cls : Option (BitVec 3)) : Pipe :=
  { id := { core := soloTeam.id.core, num := 0 }, team := soloTeam.id, lanes := [0], block := BitVec.ofNat 64 placeCode,
    len := if cls = some 6 then n + 2 else n + 4, coll := true, widx := 2,
    clause := some { cls := cls.getD 0, fin := n + 2, uchk := false, tctl := 0 }, hold := [], single := false,
    run := 0, instr := none, ran := [] }

/-- Put a block around an instruction's words into memory and into the core's L1, map it executable, by the tables and in the TLBs, and let an
issue group stand at the instruction. -/
def State.place (s : State) (ws : List Word) (cls : Option (BitVec 3)) : State :=
  let s : State := { s with
    agenda := [], focus := some (soloPipe ws.length cls).id,
    pool := ((s.pool.setN placeRoot (bytesOfNat 8 (placeTable + 1))).setN placeTable (bytesOfNat 8 placeLeaf.toNat)).setN placeCode
      ((blockAround ws cls).flatMap bytesOfWord),
    lines := s.lines.filter fun x => x.line.mem == .host || !decide (x.line.num = placeRoot / 128 ∨ x.line.num = placeTable / 128 ∨
      x.line.num = placeCode / 128),
    l3 := s.l3.filter fun x => !decide (x.num = placeRoot / 128 ∨ x.num = placeTable / 128 ∨ x.num = placeCode / 128),
    grids := soloGrid :: s.grids.filter fun g => !decide (g.id = 0),
    clusters := { id := 0, grid := 0, die := 0, index := 0, x0 := 0, y0 := 0, w := 1, h := 1, prio := 0, stopping := false } ::
      s.clusters.filter fun c => !decide (c.id = 0),
    teams := soloTeam :: s.teams.filter fun t => !decide (t.id = soloTeam.id),
    threads := soloThread :: s.threads.filter fun t => !decide (t.id.team = soloTeam.id),
    pipes := soloPipe ws.length cls :: s.pipes.filter fun p => !decide (p.id = (soloPipe ws.length cls).id ∨
      p.team = soloTeam.id) }
  let l : LineId := { mem := .pool, num := placeCode / 128 }
  let s := s.putCopy (codeCopy (s.l1Of soloTeam.id.core) l (s.pool.getLine l.num) 0)
  s.onDie 0 fun d =>
    { d with roots := { asid := 0, host := false, root := some (BitVec.ofNat 64 placeRoot) } ::
               d.roots.filter fun r => !decide (r.asid = 0 ∧ r.host = false),
             tlbs := placeTlb (.core soloTeam.id.core.num) :: placeTlb .die :: d.tlbs.filter fun t => !decide (t.asid = 0 ∧ t.host = false) }

end Sys2Proof.Machine
end

