-- ==== Sys2Proof/Machine/Schedule.lean ====
section
/-!
DEFINITION. What the part does of itself when no issue group stands at a word: its events, one at a time, in rotation (log 14). Events
that the outside causes stand in the agenda.
-/
namespace Sys2Proof.Machine

/-- The event that takes a message further. -/
def Msg.event (m : Msg) : Instr :=
  match m.kind with
  | .catchable => .catchableRead m.id
  | .steered => .steeredRead m.id
  | .direct => .directRead m.id
  | .own => .ownershipRequest m.id
  | .reply _ _ _ _ _ => .readReply m.id
  | .grant _ => .grant m.id
  | .cut _ _ => .cut m.id
  | .ack _ => .cutAcknowledgement m.id
  | .prune => .prune m.id
  | .writeback _ => .writebackAcknowledgement m.id

/-- The events that may take an access further. -/
def Acc.events (a : Acc) : List Instr :=
  let op : List Instr := match a.op with
    | .stf _ _ _ => [.stfDataAcknowledgement a.id, .flagIncrement a.id]
    | .atom _ _ _ _ | .cas _ _ _ => [.farAtomic a.id]
    | .load _ | .loadRef _ _ | .store _ | .prefetch _ | .engRead _ _ | .engOwn _ | .cmnt _ _ | .tdesc _ => []
  let ask : List Instr := match a.phase with
    | .asked => [.peerWindowRequest a.id]
    | .answered x => [.peerWindowResponse a.id x]
    | .gated | .missing | .done | .failed _ _ _ => []
  ask ++ op ++ (if a.isRead then [.loadReturn a.id 0xF] else [])

/-- The events that may take a command further. -/
def Cmd.events (c : Cmd) : List Instr :=
  let own : List Instr := match c.op with
    | .cpy _ _ _ _ _ | .cpym _ _ _ _ _ | .cpyt _ _ _ _ _ _ | .cred _ _ _ _ _ _ | .jpost _ _ | .mdrain _ _ _ _ =>
        [.engineSourceRead c.id, .engineUnitWrite c.id []]
    | .post _ _ _ => [.parcelClaim c.id true none, .engineSourceRead c.id, .engineUnitWrite c.id [], .parcelArrival c.id]
    | .incoming _ _ => [.engineUnitWrite c.id [], .parcelArrival c.id]
    | .mfeed _ _ _ _ _ => [.engineSourceRead c.id, .mfeedLineEnter c.id]
    | .mloop _ _ _ _ _ _ _ _ => [.mloopStep c.id]
    | .mzero _ _ => [.mzeroEffect c.id]
    | .afree _ _ => [.afreeEffect c.id]
    | .orel _ => [.orelEffect c.id]
    | .precv _ => []
  own ++ [.engineCompletionRecord c.id]

/-- The events that may take a network parcel further: its packets are placed, then acknowledged (21_outside R291). -/
def NetParcel.events (n : NetParcel) : List Instr :=
  let all := List.range n.packets
  ((all.filter fun k => !n.placed.contains k).map fun k => Instr.packetArrival n.cmd k []) ++
    (all.filter fun k => n.placed.contains k && !n.acked.contains k).map fun k => Instr.selectiveAcknowledgement n.cmd k

/-- The events that may take a thread further. -/
def Thread.events (t : Thread) : List Instr :=
  match t.st with
  | .draining => [.faultRecord t.id, .drainComplete t.id]
  | .faultPending => [.faultRecord t.id]
  | .waiting => [.barrierArrival t.id]
  | .enrolled | .issuing | .parked | .exited => []

/-- The cores that hold teams, commands or local cards. -/
def State.liveCores (s : State) : List CoreId :=
  ((s.teams.map fun t => t.id.core) ++ (s.cmds.map fun c => c.core) ++
    (s.cores.filter fun c => !c.2.cards.isEmpty).map fun c => c.1).eraseDups

/-- The events of a core. -/
def coreEvents (c : CoreId) : List Instr :=
  [.commandEnter c, .commandStart c, .selectorDispatch c, .localCardTake c, .coreCycle c, .matrixWatchdogExpiry c]

/-- The events of a die. -/
def State.dieEvents (s : State) (v : Fin 8) : List Instr :=
  let d := s.die v
  let qs := d.queues.filter fun q => q.2.cfg.en
  (if qs.isEmpty then [] else [.cardTake v]) ++
    (if s.grids.any fun g => g.die == v then [.clusterPlacement v] else []) ++
    (qs.filter fun q => !q.2.done.isEmpty).map (fun q => Instr.queueCompletionRecord v (Fin.ofNat 64 q.1)) ++
    d.shoots.map (fun x => Instr.shootdownCompletion v x.id) ++
    d.revoking.map (fun x => Instr.revocationComplete v (Fin.ofNat 1024 x.1)) ++
    d.acting.map (fun x => if x.2 then Instr.skipThread x.1 else Instr.continueThread x.1)

/-- The events of a folio. -/
def State.folioEvents (s : State) (f : Folio) : List Instr :=
  [.folioRequest f.num, .folioGrant f.num] ++
    (s.jobs.filter fun j => decide (j.line.mem = .pool ∧ folioOf j.line = f.num)).map fun j => Instr.folioLineAck j.line.num

/-- The requests that wait for a host's answer. -/
def State.hostRequests (s : State) : List Nat :=
  ((s.holdq.filter fun m => m.line.mem == .host).map fun m => m.id) ++ s.jobs.filterMap fun j =>
    match j.op with
    | .own m => if j.line.mem == .host then some m.id else none
    | .folio _ | .discard | .snoop | .snpData | .inbound _ _ _ => none

/-- The replacements that let a read go on which its home holds until a prune (R159): any holder of its line may be replaced at
any time, and the model replaces one only here (log 16). -/
def State.replacements (s : State) : List Instr :=
  let stuck := s.holdq.filter fun m => m.kind == .direct && decide (m.at' = homeOf m.line) && (s.treeAt m.at' m.line).isSome
  (s.lines.filter fun x => x.tracked && stuck.any fun m => m.line == x.line).map fun x => Instr.holderEviction x.cache x.line

/-- Everything that the part may do of itself. -/
def State.candidates (s : State) : List Instr :=
  (s.msgs.map Msg.event) ++
    (s.accs.flatMap Acc.events) ++
    (s.threads.flatMap Thread.events) ++
    (s.pipes.map fun p => Instr.clauseIssue p.id) ++
    (s.cmds.flatMap Cmd.events) ++
    (s.nets.flatMap NetParcel.events) ++
    (s.credits.map fun c => Instr.slateCredit c.id) ++
    (s.returned.map fun m => Instr.backoffResend m.id) ++
    ((s.misses.filter fun m => m.delayed).map fun m => Instr.ownershipDelayExpiry m.acc) ++
    s.replacements ++
    (s.hostRequests.map fun i => Instr.cxlCacheResponse i) ++
    (s.folios.flatMap s.folioEvents) ++
    (s.poolReqs.map fun r => Instr.poolResponse r.id) ++
    (s.bounces.map fun b => Instr.bounceEntryClear b.die b.core b.line) ++
    (s.liveCores.flatMap coreEvents) ++
    ((List.finRange 8).flatMap s.dieEvents) ++
    (s.clusters.flatMap fun c => [Instr.clusterRetire c.id, Instr.contextSave c.id])

/-- The first event of a list that changes the state, with how many were passed over; none where none does. -/
def State.firstChange (s : State) : List Instr → Nat → Option (Nat × Out)
  | [], _ => none
  | e :: es, n =>
      match exec e s with
      | .next t => if t = s then s.firstChange es (n + 1) else some (n, .next t)
      | .fault r => some (n, .fault r)
      | .refused r => some (n, .refused r)

/-- The candidates from the one whose turn it is. -/
def State.inTurn (s : State) : List Instr :=
  let cs := s.candidates
  let k := s.turn % cs.length
  cs.drop k ++ cs.take k

/-- One event of the part's own, in rotation; with nothing to do the part stands still. -/
def State.ownEvent (s : State) : Out :=
  match s.firstChange s.inTurn 1 with
  | some (n, .next t) => .next { t with turn := s.turn + n }
  | some (_, o) => o
  | none => .next s

/-- The issue group in focus executes the word that it stands at; while the word cannot be fetched the group is held before it (05_encoding
R73). -/
def State.executeWord (s : State) (p : Pipe) (tm : Team) : Out :=
  match s.fetchInstr p tm with
  | (s, .ok i) => exec i s
  | (s, .error f) => if f.flt.cause = notYet then .next { s.addHold .fetch with focus := none } else .next (s.fetchFault p f)

end Sys2Proof.Machine
end

