-- ==== Sys2Proof/Machine/Step.lean ====
section
/-!
DEFINITION. One step: an event of the agenda, else the word that an issue group stands at, else an event of the part's own.
-/
namespace Sys2Proof.Machine

/-- One step of the part. -/
def step (s : State) : Host.Outcome State Fault Refusal :=
  match s.agenda with
  | e :: rest => exec e { s with agenda := rest }
  | [] =>
      match s.site with
      | some (p, tm) => s.executeWord p tm
      | none => s.ownEvent

/-- The instruction of `nbits` bits `w` where `step` fetches its next one (log 15). -/
def State.withFetchWord (s : State) (nbits w : Nat) : State :=
  match decodeTableWord nbits w with
  | some i => s.place ((List.range i.words).map fun k => BitVec.ofNat 32 (w % 2 ^ nbits / 2 ^ (32 * k))) i.cls
  | none => s.place [BitVec.ofNat 32 (w % 2 ^ nbits)] none

end Sys2Proof.Machine
end

