-- ==== Sys2Proof/Safety.lean ====
section
/-!
DEFINITION. The terms that claims use: what counts as a safe run, when an instruction word executes with its own effect in every
lane of its issue group (02_execution R34, R35), and what an execution writes.
-/
namespace Sys2Proof

/-- The machine goes on from this state. -/
def Safe (s : Machine.State) : Prop := ∃ t, Machine.step s = .next t

end Sys2Proof

namespace Sys2Proof.Machine

/-! ## When a word executes -/

/-- The executions of a word: one for the whole group with the lowest lane as its reader when U is 1, else one for each lane in
ascending order (R34, R35). -/
def runsOf (i : Instr) (p : Pipe) : List Run :=
  if i.uni then
    match p.lanes with
    | [] => []
    | r :: rest => [{ reader := r, targets := r :: rest }]
  else p.lanes.map fun l => { reader := l, targets := [l] }

/-- The thread whose operands a lane's result is computed from. -/
def readerOf (i : Instr) (s : State) (p : Pipe) (th : Thread) : Thread :=
  if i.uni then
    match p.lanes with
    | [] => th
    | r :: _ => (s.thread (tidOf p r)).getD th
  else th

/-- No lane differs from the reader where UCHK makes that a fault (R34). -/
def State.agrees (s : State) (i : Instr) (p : Pipe) : Bool :=
  match p.lanes with
  | [] => true
  | r :: rest =>
      match s.thread (tidOf p r) with
      | none => true
      | some rd => !i.uni || (s.differing i p rd rest).isEmpty

/-- An issue group stands at this word, and none of the checks that R35 makes before the instruction's own faults a lane:
0x10, 0x15, 0x16, the role (0x14), the operand fields (0x11), damaged sources (0x60), differing lanes (0x13). No lane has executed the
word already, before a page-table entry had to be read (07_memory R135). -/
abbrev Ready (i : Instr) (s : State) (p : Pipe) (tm : Team) : Prop :=
  s.site = some (p, tm) ∧ wordCause i p tm = none ∧ i.operandsOk tm.kcount = true ∧ p.lanes.Nodup ∧
    (∀ l ∈ p.lanes, roleOk (tm.role l) i.cls i.isMatrix = true ∧ (s.thread (tidOf p l)).isSome = true) ∧
    (∀ r ∈ runsOf i p, s.readsDamage i p r.reader = false) ∧ s.agrees i p = true ∧ p.ran = []

/-- No lane's load counter is full (R29). -/
abbrev CounterFree (s : State) (p : Pipe) (c : BitVec 2) : Prop :=
  ∀ l ∈ p.lanes, ((s.thread (tidOf p l)).all fun th => decide (th.ctr[c.toFin] < 63)) = true

/-- One after another, each execution of a word goes from its state to the next as `rel` says: its reader, its targets. -/
def Runs (rel : State → Thread → List Nat → State → Prop) (p : Pipe) : State → List Run → State → Prop
  | s, [], t => t = s
  | s, r :: rs, t => ∃ th s', s.thread (tidOf p r.reader) = some th ∧ rel s th r.targets s' ∧ Runs rel p s' rs t

/-- What follows the executions of a word: the group stands past it, or keeps it where a hold makes it execute once more (05_encoding R73). -/
def State.past (t : State) (p : Pipe) (i : Instr) : State := (t.advance p.id i.words).keepWord p.id i

/-- A word whose executions all go as `rel` says completes: the group then stands past the word. -/
def Completes (i : Instr) (rel : State → Thread → List Nat → State → Prop) : Prop :=
  ∀ s p tm t, Ready i s p tm → Runs rel p s (runsOf i p) t → exec i s = .next (t.past p i)

/-- The same for a word that counts an access in load counter `c` (R29). -/
def CompletesCounted (i : Instr) (c : BitVec 2) (rel : State → Thread → List Nat → State → Prop) : Prop :=
  ∀ s p tm t, Ready i s p tm → CounterFree s p c → Runs rel p s (runsOf i p) t → exec i s = .next (t.past p i)

/-! ## How an execution ends -/

/-- One execution at the word that an issue group stands at: the group, its team, the state, the reader, the targets, the next state. -/
def AtWord (f : Pipe → Team → State → Thread → List Nat → State → Prop) (s : State) (th : Thread) (tids : List Nat) (t : State) :
    Prop := ∃ p tm, s.site = some (p, tm) ∧ f p tm s th tids t

/-- The execution goes to a block that passes the checks of 22_ref R316 and 02_execution R23: the targets leave their issue group, drain
and then do as `after` says of the block's word. A call has written its link, the word after its own, to k62:k63. -/
def LeavesFor (link : Bool) (target : Pipe → Thread → Addr) (after : Addr → Word → After) :
    State → Thread → List Nat → State → Prop :=
  AtWord fun p tm s th tids t => ∃ u w, s.checkTarget tm (target p th) = (u, .ok w) ∧
    t = (if link then u.writeRegs th.id.team tids [.k 62, .k 63] fun x => x.setReg64 (.k 62) (p.wordAddr + 4) else u).leaveTo
      th.id.team tids (after (target p th) w)

/-- An execution on which `cond` finds a fault raises it in its targets: one execution, of the whole group or of its only lane. -/
def FaultsWhen (i : Instr) (cond : Pipe → Team → State → Thread → Option Flt) : Prop :=
  ∀ s p tm r th f, Ready i s p tm → runsOf i p = [r] → s.thread (tidOf p r.reader) = some th → cond p tm s th = some f →
    exec i s = .next ((s.faultLanes p i.uni f r.targets).past p i)

/-- A command of thread `th`, its next state. -/
def Issues (checks : State → Team → Thread → List (Bool × Flt)) (cmd : State → Team → Thread → List Nat → Cmd) :
    State → Thread → List Nat → State → Prop :=
  AtWord fun _ tm s th tids t => firstFlt (checks s tm th) = none ∧ t = s.issue (cmd s tm th tids)

/-- The slate of a command: at the team that owns the destination, at the offset in operand l (13_copy Table 13.3). -/
def slateFor (s : State) (tm : Team) (th : Thread) (e : EngCtl) (dsp : Space) (d : Addr) : SlateAt :=
  .team (((s.ownerOf tm dsp d).map fun o => o.id).getD tm.id) (th.reg e.l).toNat

/-- A matrix command that passes its checks enters the core's unit. -/
def EntersUnit (checks : State → Team → Thread → Option Flt) (op : Team → Thread → CmdOp) (guard : BitVec 4) (scope : Scope)
    (slate : State → Team → Thread → SlateAt) (status : Thread → Option Word) : State → Thread → List Nat → State → Prop :=
  AtWord fun _ tm s th tids t => checks s tm th = none ∧
    t = s.enterMatrix tm th tids (op tm th) guard scope (slate s tm th) (status th)

/-! ## What a word leaves alone -/

/-- The state but for its threads, its pipes and the focus: what the advance to the next word leaves as it is. -/
def State.besideIssue (s : State) : State := { s with threads := [], pipes := [], ended := [], focus := none }

/-- The state but for its threads, teams, pipes, the focus and the marks of damage: memories, caches, trees, accesses and commands in
flight, credits, the call sheet, the cores, the dies, grids and clusters, the ports and the package. -/
def State.besideTeams (s : State) : State :=
  { s with threads := [], teams := [], pipes := [], ended := [], flagsNow := [], focus := none, damage := [] }

/-! ## What a register instruction writes -/

/-- The team's sticky flags after a word: the flags of each execution are added (06_arithmetic R109). -/
def stickyAfter (i : Instr) (s : State) (p : Pipe) (fl : Thread → Word) (w : Word) : Word :=
  (runsOf i p).foldl (fun w r =>
    match s.thread (tidOf p r.reader) with
    | some th => w ||| fl th
    | none => w) w

/-- The word completes; every lane's `n` registers from `d` on then hold `val` of the operands it executes with, and the team's sticky
flags have gained `fl` of them. -/
def LaneResult (i : Instr) (d : Opnd) (n : Nat) (val : Thread → Nat) (fl : Thread → Word) : Prop :=
  ∀ s p tm, Ready i s p tm → ∃ t, exec i s = .next t ∧
    (∀ l ∈ p.lanes, ∀ th, s.thread (tidOf p l) = some th →
      ∃ th', t.thread (tidOf p l) = some th' ∧ th'.regN d n = val (readerOf i s p th) % 2 ^ (32 * n)) ∧
    t.team p.team = some { tm with tstat := stickyAfter i s p fl tm.tstat }

/-- The word completes; every lane's predicates are then `val` of its predicates and the operands it executes with, and the team's
sticky flags have gained `fl` of them. -/
def LanePredicates (i : Instr) (val : Thread → BitVec 8 → BitVec 8) (fl : Thread → Word) : Prop :=
  ∀ s p tm, Ready i s p tm → ∃ t, exec i s = .next t ∧
    (∀ l ∈ p.lanes, ∀ th, s.thread (tidOf p l) = some th →
      ∃ th', t.thread (tidOf p l) = some th' ∧ th'.p = val (readerOf i s p th) th.p) ∧
    t.team p.team = some { tm with tstat := stickyAfter i s p fl tm.tstat }

/-- A group instruction completes; every active lane's `n` registers from `d` on then hold `f` of all active lanes and its own operands,
all of them as they stood before the word (23_ref R337, 25_ref R440). -/
def GroupResult (i : Instr) (d : Opnd) (n : Nat) (f : List Thread → Thread → Nat × Word) : Prop :=
  ∀ s p tm, Ready i s p tm → ∃ t, exec i s = .next t ∧
    (∀ l ∈ p.lanes, ∀ th, s.thread (tidOf p l) = some th →
      ∃ th', t.thread (tidOf p l) = some th' ∧ th'.regN d n = (f (s.activeLanes p p.lanes) th).1 % 2 ^ (32 * n)) ∧
    t.team p.team = some { tm with tstat :=
      (s.activeLanes p p.lanes).foldl (fun w th => w ||| (f (s.activeLanes p p.lanes) th).2) tm.tstat }

/-- The instructions that write registers, predicates and sticky flags and nothing else. -/
def registerOnly : Instr → Bool
  | .iadd _ _ _ _ _ | .isub _ _ _ _ _ | .iaddi _ _ _ _ | .iabs _ _ _ _ | .imin _ _ _ _ _ | .imax _ _ _ _ _ | .imul _ _ _ _ _
  | .imad _ _ _ _ _ _ _ | .idiv _ _ _ _ _ | .irem _ _ _ _ _ | .and _ _ _ _ _ | .or _ _ _ _ _ | .xor _ _ _ _ _
  | .shl _ _ _ _ _ | .shr _ _ _ _ _ | .sar _ _ _ _ _ | .rol _ _ _ _ _ | .brev _ _ _ _ | .clz _ _ _ _ | .popc _ _ _ _
  | .bfx _ _ _ _ _ | .bfi _ _ _ _ _ _ | .mov _ _ _ _ | .movi _ _ _ | .movh _ _ _ | .sel _ _ _ _ _ _ _ | .pmovPack _ _
  | .icmp _ _ _ _ _ _ | .fcmp _ _ _ _ _ | .dcmp _ _ _ _ _ | .plop _ _ _ _ _ | .pmovUnpack _ _ _
  | .fadd _ _ _ _ _ | .fsub _ _ _ _ _ | .fmul _ _ _ _ _ | .fdiv _ _ _ _ _ | .fmin _ _ _ _ | .fmax _ _ _ _
  | .ffma _ _ _ _ _ _ | .fsqrt _ _ _ _ | .frcp _ _ _ | .frsq _ _ _ | .fex2 _ _ _ | .flg2 _ _ _ | .fsin _ _ _ | .fcos _ _ _
  | .fcls _ _ _ _ | .dadd _ _ _ _ _ | .dsub _ _ _ _ _ | .dmul _ _ _ _ _ | .ddiv _ _ _ _ _ | .dmin _ _ _ _ | .dmax _ _ _ _
  | .dfma _ _ _ _ _ _ | .dsqrt _ _ _ _ | .drcp _ _ _ | .hadd2 _ _ _ _ _ _ | .hmul2 _ _ _ _ _ _ | .hfma2 _ _ _ _ _ _ _
  | .cvt _ _ _ _ _ _ _ | .qnt _ _ _ _ _ _ _ _ | .dqnt _ _ _ _ _ _ _ _ _ | .gred _ _ _ _ _ _ | .gscan _ _ _ _ _ _ _
  | .shfl _ _ _ _ _ | .vote _ _ _ _ | .nop => true
  | _ => false

/-- The integer, bit, move, predicate and exchange instructions, which set no flag (06_arithmetic R111; IDIV, IREM and a saturating IMAD
apart). -/
def setsNoFlag : Instr → Bool
  | .iadd _ _ _ _ _ | .isub _ _ _ _ _ | .iaddi _ _ _ _ | .iabs _ _ _ _ | .imin _ _ _ _ _ | .imax _ _ _ _ _ | .imul _ _ _ _ _
  | .and _ _ _ _ _ | .or _ _ _ _ _ | .xor _ _ _ _ _ | .shl _ _ _ _ _ | .shr _ _ _ _ _ | .sar _ _ _ _ _ | .rol _ _ _ _ _
  | .brev _ _ _ _ | .clz _ _ _ _ | .popc _ _ _ _ | .bfx _ _ _ _ _ | .bfi _ _ _ _ _ _ | .mov _ _ _ _ | .movi _ _ _ | .movh _ _ _
  | .sel _ _ _ _ _ _ _ | .pmovPack _ _ | .icmp _ _ _ _ _ _ | .plop _ _ _ _ _ | .pmovUnpack _ _ _ | .fcls _ _ _ _
  | .shfl _ _ _ _ _ | .vote _ _ _ _ | .nop => true
  | .imad _ _ _ _ _ _ sat => !sat
  | _ => false

/-- The registers that an instruction's fields name as destinations. -/
def destRegs (i : Instr) : List Opnd := (i.uses.filter fun u => u.writes).flatMap fun u => u.o.regList u.n

/-- The predicates that an instruction writes, as a mask. -/
def destPreds : Instr → BitVec 8
  | .icmp _ _ p _ _ _ | .fcmp _ _ p _ _ | .dcmp _ _ p _ _ | .plop _ p _ _ _ => 1#8 <<< p.toNat
  | .pmovUnpack _ _ mask => mask
  | _ => 0

/-- One state has the threads of another with every register but `ds`, every predicate but those of the mask, the load counters, handler
mode and the tensor identifier as they were. -/
def KeepsThreads (ds : List Opnd) (mask : BitVec 8) (s t : State) : Prop :=
  ∀ j th, s.thread j = some th → ∃ th', t.thread j = some th' ∧ (∀ o, o ∉ ds → th'.reg o = th.reg o) ∧
    (th'.p &&& ~~~ mask) = (th.p &&& ~~~ mask) ∧ th'.ctr = th.ctr ∧ th'.hm = th.hm ∧ th'.tag = th.tag

/-- One state has the teams of another, their scratchpads included, with nothing changed but sticky flags that were added; `none'` says
that none was. -/
def KeepsTeams (none' : Bool) (s t : State) : Prop :=
  ∀ k tm, s.team k = some tm → ∃ fl : Word, t.team k = some { tm with tstat := tm.tstat ||| fl } ∧ (none' = true → fl = 0)

/-! ## The memories -/

/-- Pool and host memory, every resident team's scratchpad, every core's accumulators and the scratchpads of saved contexts list their
bytes in the one canonical form. -/
def MemoriesCanonical (s : State) : Prop :=
  s.pool.wf = true ∧ s.host.wf = true ∧ (∀ t ∈ s.teams, t.spad.wf = true) ∧ (∀ c ∈ s.cores, c.2.acc.wf = true) ∧
    ∀ x ∈ s.contexts, ∀ t ∈ x.teams, t.spad.wf = true

end Sys2Proof.Machine
end

