-- ==== Sys2Proof/Certificates/Slice0/Obligations.lean ====
section
/-!
DEFINITION. The obligations: what the rules of the specification say that the part does, stated of the model. A log number names a
reading or a choice of the model's own (notes/assumptions).
-/
open Sys2Proof Sys2Proof.Machine

/-! ## Register instructions -/

/-- 06_arithmetic R111: integer addition, subtraction, multiplication and shifts wrap modulo 2^n in the operand width and set no
flag. With the S bit IMAD, and the integer sums of GRED and GSCAN, clamp to the destination's range and set SAT when clamping
changes the result. IABS of the most negative value returns it. Right shifts fill with zeros or the sign, and a rotation takes
its amount modulo the width. -/
def Obligations.IntegerArithmeticWrapsOrSaturates : Prop :=
  (∀ u d a b w, LaneResult (.iadd u d a b w) d w.regs (fun t => t.regN a w.regs + t.regN b w.regs) fun _ => 0) ∧
  (∀ u d a b w, LaneResult (.isub u d a b w) d w.regs
    (fun t => wrapInt (32 * w.regs) ((t.regN a w.regs : Int) - t.regN b w.regs)) fun _ => 0) ∧
  (∀ u d a imm, LaneResult (.iaddi u d a imm) d 1 (fun t => wrapInt 32 ((t.reg a).toInt + imm.toInt)) fun _ => 0) ∧
  (∀ u d a w, LaneResult (.iabs u d a w) d w.regs
    (fun t => if signedOf (32 * w.regs) (t.regN a w.regs) < 0
      then wrapInt (32 * w.regs) (-signedOf (32 * w.regs) (t.regN a w.regs)) else t.regN a w.regs) fun _ => 0) ∧
  (∀ u d a b, LaneResult (.imul u d a b .b32) d 1 (fun t => (t.reg a).toNat * (t.reg b).toNat) fun _ => 0) ∧
  (∀ u d a b, LaneResult (.imul u d a b .b64) d 2 (fun t => (t.reg64 a).toNat * (t.reg64 b).toNat) fun _ => 0) ∧
  (∀ u d a b, LaneResult (.imul u d a b .hiI32) d 1
    (fun t => wrapInt 32 ((t.reg a).toInt * (t.reg b).toInt / (2 ^ 32 : Nat))) fun _ => 0) ∧
  (∀ u d a b, LaneResult (.imul u d a b .hiN32) d 1 (fun t => (t.reg a).toNat * (t.reg b).toNat / 2 ^ 32) fun _ => 0) ∧
  (∀ u d a b c ty, LaneResult (.imad u d a b c ty false) d ty.regs
    (fun t => wrapInt (typeBits ty) (t.int ty a * t.int ty b + t.int ty c)) fun _ => 0) ∧
  (∀ u d a b c ty, LaneResult (.imad u d a b c ty true) d ty.regs
    (fun t => wrapInt (typeBits ty) (max (intBounds (typeBits ty) (signedType ty)).1
      (min (intBounds (typeBits ty) (signedType ty)).2 (t.int ty a * t.int ty b + t.int ty c))))
    fun t => if (intBounds (typeBits ty) (signedType ty)).1 ≤ t.int ty a * t.int ty b + t.int ty c ∧
        t.int ty a * t.int ty b + t.int ty c ≤ (intBounds (typeBits ty) (signedType ty)).2 then 0 else flSAT) ∧
  (∀ ty r xs, ty ∈ [.i32, .n32, .i64, .n64] → reduce .add ty r false xs =
    (wrapInt (32 * ty.regs) ((xs.map fun x => intOf (32 * ty.regs) (ty == .i32 || ty == .i64) x).sum), 0)) ∧
  (∀ ty r xs x, ty ∈ [.i32, .n32, .i64, .n64] → x = (xs.map fun x => intOf (32 * ty.regs) (ty == .i32 || ty == .i64) x).sum →
    reduce .add ty r true xs =
      (wrapInt (32 * ty.regs) (max (intBounds (32 * ty.regs) (ty == .i32 || ty == .i64)).1
        (min (intBounds (32 * ty.regs) (ty == .i32 || ty == .i64)).2 x)),
       if (intBounds (32 * ty.regs) (ty == .i32 || ty == .i64)).1 ≤ x ∧
         x ≤ (intBounds (32 * ty.regs) (ty == .i32 || ty == .i64)).2 then 0 else flSAT)) ∧
  (∀ u d a n w, LaneResult (.shl u d a n w) d w.regs (fun t => t.regN a w.regs * 2 ^ (t.reg n).toNat) fun _ => 0) ∧
  (∀ u d a n w, LaneResult (.shr u d a n w) d w.regs (fun t => t.regN a w.regs / 2 ^ (t.reg n).toNat) fun _ => 0) ∧
  (∀ u d a n w, LaneResult (.sar u d a n w) d w.regs
    (fun t => wrapInt (32 * w.regs) (signedOf (32 * w.regs) (t.regN a w.regs) / (2 ^ (t.reg n).toNat : Nat))) fun _ => 0) ∧
  (∀ u d a n w, LaneResult (.rol u d a n w) d w.regs
    (fun t => t.regN a w.regs * 2 ^ ((t.reg n).toNat % (32 * w.regs)) +
      t.regN a w.regs / 2 ^ (32 * w.regs - (t.reg n).toNat % (32 * w.regs))) fun _ => 0)

/-- 06_arithmetic R112: IDIV truncates toward zero, IREM keeps the dividend's sign; division by zero sets DZ and gives the
values of Table 6.7, and nothing traps. -/
def Obligations.DivisionTruncatesAndZeroDividesSetDz : Prop :=
  (∀ u d a b ty, LaneResult (.idiv u d a b ty) d ty.regs
    (fun t => wrapInt (typeBits ty)
      (if t.int ty b = 0 then
        (if t.int ty a < 0 then (intBounds (typeBits ty) (signedType ty)).1 else (intBounds (typeBits ty) (signedType ty)).2)
      else Int.tdiv (t.int ty a) (t.int ty b)))
    fun t => if t.int ty b = 0 then flDZ else 0) ∧
  (∀ u d a b ty, LaneResult (.irem u d a b ty) d ty.regs
    (fun t => wrapInt (typeBits ty) (if t.int ty b = 0 then t.int ty a else Int.tmod (t.int ty a) (t.int ty b)))
    fun t => if t.int ty b = 0 then flDZ else 0)

/-- IMIN and IMAX return the lesser and the greater operand under the signedness of the type. AND, OR and XOR take each bit of
the result from the same bits of the operands. POPC counts ones, CLZ the zeros above the highest one, BREV reverses; BFX takes
the field that the control names, BFI puts one in. None sets a flag. -/
def Obligations.ExtremesLogicAndBitFields : Prop :=
  (∀ u d a b ty, LaneResult (.imin u d a b ty) d ty.regs
    (fun t => wrapInt (typeBits ty) (min (t.int ty a) (t.int ty b))) fun _ => 0) ∧
  (∀ u d a b ty, LaneResult (.imax u d a b ty) d ty.regs
    (fun t => wrapInt (typeBits ty) (max (t.int ty a) (t.int ty b))) fun _ => 0) ∧
  (∀ u d a b w, LaneResult (.and u d a b w) d w.regs (fun t => t.regN a w.regs &&& t.regN b w.regs) fun _ => 0) ∧
  (∀ u d a b w, LaneResult (.or u d a b w) d w.regs (fun t => t.regN a w.regs ||| t.regN b w.regs) fun _ => 0) ∧
  (∀ u d a b w, LaneResult (.xor u d a b w) d w.regs (fun t => t.regN a w.regs ^^^ t.regN b w.regs) fun _ => 0) ∧
  (∀ u d a w, LaneResult (.popc u d a w) d 1
    (fun t => ((List.range (32 * w.regs)).filter fun k => (t.regN a w.regs).testBit k).length) fun _ => 0) ∧
  (∀ u d a w, LaneResult (.clz u d a w) d 1 (fun t => leadingZeros (32 * w.regs) (t.regN a w.regs)) fun _ => 0) ∧
  (∀ k, leadingZeros k 0 = k) ∧
  (∀ x k, x < 2 ^ k → x ≠ 0 → leadingZeros k x < k ∧ x.testBit (k - 1 - leadingZeros k x) = true ∧
    ∀ m, k - 1 - leadingZeros k x < m → x.testBit m = false) ∧
  (∀ u d a w, LaneResult (.brev u d a w) d w.regs (fun t => reverseBits (32 * w.regs) (t.regN a w.regs)) fun _ => 0) ∧
  (∀ k x j, j < k → (reverseBits k x).testBit j = x.testBit (k - 1 - j)) ∧
  (∀ u d a ctl ty, LaneResult (.bfx u d a ctl ty) d ty.regs
    (fun t => bfxValue (typeBits ty) (signedType ty) (t.regN a ty.regs) (t.reg ctl).toNat) fun _ => 0) ∧
  (∀ u d a b ctl w, LaneResult (.bfi u d a b ctl w) d w.regs
    (fun t => bfiValue (32 * w.regs) (t.regN a w.regs) (t.regN b w.regs) (t.reg ctl).toNat) fun _ => 0) ∧
  (∀ w a ctl j, j < w → (bfxValue w false (a % 2 ^ w) ctl).testBit j =
    (decide (j < bitsOf ctl 8 8) && (a % 2 ^ w).testBit (j + bitsOf ctl 0 8))) ∧
  (∀ w a b ctl j, j < w → (bfiValue w a b ctl).testBit j =
    if bitsOf ctl 0 8 ≤ j ∧ j < bitsOf ctl 0 8 + bitsOf ctl 8 8 then b.testBit (j - bitsOf ctl 0 8) else a.testBit j)

/-- MOV, MOVI, MOVH, SEL and PMOV.pack write the value that they name. ICMP, FCMP, DCMP, PLOP and PMOV.unpack write the
predicates that they name, and the others stay; a compare of a signalling NaN adds NV. -/
def Obligations.MovesComparesAndPredicates : Prop :=
  (∀ u d a w, LaneResult (.mov u d a w) d w.regs (fun t => t.regN a w.regs) fun _ => 0) ∧
  (∀ u d imm, LaneResult (.movi u d imm) d 1 (fun _ => imm.toNat) fun _ => 0) ∧
  (∀ u d imm, LaneResult (.movh u d imm) d 1 (fun t => (imm ++ (t.reg d).extractLsb' 0 16).toNat) fun _ => 0) ∧
  (∀ u d a b p neg w, LaneResult (.sel u d a b p neg w) d w.regs
    (fun t => if t.p.getLsbD p.toNat = !neg then t.regN a w.regs else t.regN b w.regs) fun _ => 0) ∧
  (∀ u d, LaneResult (.pmovPack u d) d 1 (fun t => t.p.toNat) fun _ => 0) ∧
  (∀ u c p a b w, LanePredicates (.icmp u c p a b w)
    (fun t q => BitVec.ofFnLE fun j : Fin 8 => if j.val = p.toNat then
      Sys2Proof.Machine.Cond.intHolds c (32 * w.regs) (t.regN a w.regs) (t.regN b w.regs) else q.getLsbD j) fun _ => 0) ∧
  (∀ u c p a b, LanePredicates (.fcmp u c p a b)
    (fun t q => BitVec.ofFnLE fun j : Fin 8 => if j.val = p.toNat then (fp32.compare c (t.f32 a) (t.f32 b)).1 else q.getLsbD j)
    fun t => (fp32.compare c (t.f32 a) (t.f32 b)).2) ∧
  (∀ u c p a b, LanePredicates (.dcmp u c p a b)
    (fun t q => BitVec.ofFnLE fun j : Fin 8 => if j.val = p.toNat then (fp64.compare c (t.f64 a) (t.f64 b)).1 else q.getLsbD j)
    fun t => (fp64.compare c (t.f64 a) (t.f64 b)).2) ∧
  (∀ u pd pa pb lut, LanePredicates (.plop u pd pa pb lut)
    (fun t q => BitVec.ofFnLE fun j : Fin 8 => if j.val = pd.toNat then
      lut.getLsbD (2 * (t.p.getLsbD pa.toNat).toNat + (t.p.getLsbD pb.toNat).toNat) else q.getLsbD j) fun _ => 0) ∧
  (∀ u a mask, LanePredicates (.pmovUnpack u a mask)
    (fun t q => BitVec.ofFnLE fun j : Fin 8 => if mask.getLsbD j then (t.reg a).getLsbD j else q.getLsbD j) fun _ => 0)

/-- Moulds FA and FU and the fused forms, in FP32 and in FP64: the destination takes the format's operation on the operands'
values, under the instruction's rounding mode, and the team's sticky flags gain the flags of that result. -/
def Obligations.FloatingPointArithmetic : Prop :=
  (∀ u d a b r, LaneResult (.fadd u d a b r) d 1 (fun t => (fp32.add r (t.v32 a) (t.v32 b)).1)
    fun t => (fp32.add r (t.v32 a) (t.v32 b)).2) ∧
  (∀ u d a b r, LaneResult (.fsub u d a b r) d 1 (fun t => (fp32.sub r (t.v32 a) (t.v32 b)).1)
    fun t => (fp32.sub r (t.v32 a) (t.v32 b)).2) ∧
  (∀ u d a b r, LaneResult (.fmul u d a b r) d 1 (fun t => (fp32.mul r (t.v32 a) (t.v32 b)).1)
    fun t => (fp32.mul r (t.v32 a) (t.v32 b)).2) ∧
  (∀ u d a b r, LaneResult (.fdiv u d a b r) d 1 (fun t => (fp32.div r (t.v32 a) (t.v32 b)).1)
    fun t => (fp32.div r (t.v32 a) (t.v32 b)).2) ∧
  (∀ u d a b, LaneResult (.fmin u d a b) d 1 (fun t => (fp32.minmax false (t.f32 a) (t.f32 b)).1)
    fun t => (fp32.minmax false (t.f32 a) (t.f32 b)).2) ∧
  (∀ u d a b, LaneResult (.fmax u d a b) d 1 (fun t => (fp32.minmax true (t.f32 a) (t.f32 b)).1)
    fun t => (fp32.minmax true (t.f32 a) (t.f32 b)).2) ∧
  (∀ u d a b c r, LaneResult (.ffma u d a b c r) d 1 (fun t => (fp32.fma r (t.v32 a) (t.v32 b) (t.v32 c)).1)
    fun t => (fp32.fma r (t.v32 a) (t.v32 b) (t.v32 c)).2) ∧
  (∀ u d a r, LaneResult (.fsqrt u d a r) d 1 (fun t => (fp32.sqrt r (t.v32 a)).1) fun t => (fp32.sqrt r (t.v32 a)).2) ∧
  (∀ u d a, LaneResult (.frcp u d a) d 1 (fun t => (fp32.recip (t.v32 a)).1) fun t => (fp32.recip (t.v32 a)).2) ∧
  (∀ u d a, LaneResult (.frsq u d a) d 1 (fun t => (fp32.rsqrt (t.v32 a)).1) fun t => (fp32.rsqrt (t.v32 a)).2) ∧
  (∀ u d a, LaneResult (.fex2 u d a) d 1 (fun t => (fexp2 (t.v32 a)).1) fun t => (fexp2 (t.v32 a)).2) ∧
  (∀ u d a, LaneResult (.flg2 u d a) d 1 (fun t => (flog2 (t.v32 a)).1) fun t => (flog2 (t.v32 a)).2) ∧
  (∀ u d a, LaneResult (.fsin u d a) d 1 (fun t => (ftrig false (t.v32 a)).1) fun t => (ftrig false (t.v32 a)).2) ∧
  (∀ u d a, LaneResult (.fcos u d a) d 1 (fun t => (ftrig true (t.v32 a)).1) fun t => (ftrig true (t.v32 a)).2) ∧
  (∀ u d a b r, LaneResult (.dadd u d a b r) d 2 (fun t => (fp64.add r (t.v64 a) (t.v64 b)).1)
    fun t => (fp64.add r (t.v64 a) (t.v64 b)).2) ∧
  (∀ u d a b r, LaneResult (.dsub u d a b r) d 2 (fun t => (fp64.sub r (t.v64 a) (t.v64 b)).1)
    fun t => (fp64.sub r (t.v64 a) (t.v64 b)).2) ∧
  (∀ u d a b r, LaneResult (.dmul u d a b r) d 2 (fun t => (fp64.mul r (t.v64 a) (t.v64 b)).1)
    fun t => (fp64.mul r (t.v64 a) (t.v64 b)).2) ∧
  (∀ u d a b r, LaneResult (.ddiv u d a b r) d 2 (fun t => (fp64.div r (t.v64 a) (t.v64 b)).1)
    fun t => (fp64.div r (t.v64 a) (t.v64 b)).2) ∧
  (∀ u d a b, LaneResult (.dmin u d a b) d 2 (fun t => (fp64.minmax false (t.f64 a) (t.f64 b)).1)
    fun t => (fp64.minmax false (t.f64 a) (t.f64 b)).2) ∧
  (∀ u d a b, LaneResult (.dmax u d a b) d 2 (fun t => (fp64.minmax true (t.f64 a) (t.f64 b)).1)
    fun t => (fp64.minmax true (t.f64 a) (t.f64 b)).2) ∧
  (∀ u d a b c r, LaneResult (.dfma u d a b c r) d 2 (fun t => (fp64.fma r (t.v64 a) (t.v64 b) (t.v64 c)).1)
    fun t => (fp64.fma r (t.v64 a) (t.v64 b) (t.v64 c)).2) ∧
  (∀ u d a r, LaneResult (.dsqrt u d a r) d 2 (fun t => (fp64.sqrt r (t.v64 a)).1) fun t => (fp64.sqrt r (t.v64 a)).2) ∧
  (∀ u d a, LaneResult (.drcp u d a) d 2 (fun t => (fp64.recip (t.v64 a)).1) fun t => (fp64.recip (t.v64 a)).2)

/-- HADD2, HMUL2 and HFMA2 work on the low and the high half apart, and add both halves' flags. FCLS sets the bit of the
operand's class. CVT, QNT and DQNT write the converted value and add the conversion's flags. -/
def Obligations.PackedHalvesAndConversions : Prop :=
  (∀ u d a b bf r, LaneResult (.hadd2 u d a b bf r) d 1
    (fun t => ((packedFmt bf).add r (t.halves (packedFmt bf) a).2 (t.halves (packedFmt bf) b).2).1 * 2 ^ 16 +
      ((packedFmt bf).add r (t.halves (packedFmt bf) a).1 (t.halves (packedFmt bf) b).1).1)
    fun t => ((packedFmt bf).add r (t.halves (packedFmt bf) a).1 (t.halves (packedFmt bf) b).1).2 |||
      ((packedFmt bf).add r (t.halves (packedFmt bf) a).2 (t.halves (packedFmt bf) b).2).2) ∧
  (∀ u d a b bf r, LaneResult (.hmul2 u d a b bf r) d 1
    (fun t => ((packedFmt bf).mul r (t.halves (packedFmt bf) a).2 (t.halves (packedFmt bf) b).2).1 * 2 ^ 16 +
      ((packedFmt bf).mul r (t.halves (packedFmt bf) a).1 (t.halves (packedFmt bf) b).1).1)
    fun t => ((packedFmt bf).mul r (t.halves (packedFmt bf) a).1 (t.halves (packedFmt bf) b).1).2 |||
      ((packedFmt bf).mul r (t.halves (packedFmt bf) a).2 (t.halves (packedFmt bf) b).2).2) ∧
  (∀ u d a b c bf r, LaneResult (.hfma2 u d a b c bf r) d 1
    (fun t => ((packedFmt bf).fma r (t.halves (packedFmt bf) a).2 (t.halves (packedFmt bf) b).2
        (t.halves (packedFmt bf) c).2).1 * 2 ^ 16 +
      ((packedFmt bf).fma r (t.halves (packedFmt bf) a).1 (t.halves (packedFmt bf) b).1 (t.halves (packedFmt bf) c).1).1)
    fun t => ((packedFmt bf).fma r (t.halves (packedFmt bf) a).1 (t.halves (packedFmt bf) b).1
        (t.halves (packedFmt bf) c).1).2 |||
      ((packedFmt bf).fma r (t.halves (packedFmt bf) a).2 (t.halves (packedFmt bf) b).2 (t.halves (packedFmt bf) c).2).2) ∧
  (∀ u d a, LaneResult (.fcls u d a .w32) d 1 (fun t => 2 ^ fp32.classOf (t.f32 a)) fun _ => 0) ∧
  (∀ u d a, LaneResult (.fcls u d a .w64) d 1 (fun t => 2 ^ fp64.classOf (t.f64 a)) fun _ => 0) ∧
  (∀ u d a df sf r sat, LaneResult (.cvt u d a df sf r sat) d df.regs
    (fun t => placeFmt df (convert df sf r sat (t.fmtBits sf a)).1) fun t => (convert df sf r sat (t.fmtBits sf a)).2) ∧
  (∀ u d x sc z sf r q4 l, fmtLayout sf = some l → LaneResult (.qnt u d x sc z sf r q4) d 1
    (fun t => (quantise (codeBits q4) r (l.read (t.fmtBits sf x)) (t.scale sc) ((t.reg z).toNat % 2 ^ codeBits q4)).1)
    fun t => (quantise (codeBits q4) r (l.read (t.fmtBits sf x)) (t.scale sc) ((t.reg z).toNat % 2 ^ codeBits q4)).2) ∧
  (∀ u d q sc z df r sat q4 l, fmtLayout df = some l → LaneResult (.dqnt u d q sc z df r sat q4) d df.regs
    (fun t => (dequantise l r sat ((t.reg q).toNat % 2 ^ codeBits q4) (t.scale sc) ((t.reg z).toNat % 2 ^ codeBits q4)).1)
    fun t => (dequantise l r sat ((t.reg q).toNat % 2 ^ codeBits q4) (t.scale sc) ((t.reg z).toNat % 2 ^ codeBits q4)).2)

/-- 06_arithmetic R102 and R105: rounding an exact magnitude to a multiple of a larger unit gives the nearest one, the even one
at a tie, or the neighbour toward zero, up or down; it is inexact when it changes the value. A result in a format is that multiple of
its unit, exactly, unless it lies beyond the largest finite number; NX says that it is inexact. Sums, products, fused sums, quotients,
square roots and CVT are rounded once from the exact value; where that has no finite binary form (a quotient, a root), from so many
bits of it, and whether more follow, that the rounding is that of the exact value. The first NaN operand of a sum is returned, quiet,
before anything else. -/
def Obligations.FloatingPointRounding : Prop :=
  (∀ neg m (e q : Int), e < q → ∀ d, d = (q - e).toNat →
    (2 * (((roundAt .rn neg m e false q).1 * 2 ^ d : Nat) : Int) - 2 * m).natAbs ≤ 2 ^ d ∧
    ((2 * (((roundAt .rn neg m e false q).1 * 2 ^ d : Nat) : Int) - 2 * m).natAbs = 2 ^ d →
      (roundAt .rn neg m e false q).1 % 2 = 0)) ∧
  (∀ rnd neg m (e q : Int), e < q → (rnd = .rz ∨ (rnd = .ru ∧ neg = true) ∨ (rnd = .rd ∧ neg = false)) → ∀ d, d = (q - e).toNat →
    (roundAt rnd neg m e false q).1 * 2 ^ d ≤ m ∧ m < ((roundAt rnd neg m e false q).1 + 1) * 2 ^ d) ∧
  (∀ rnd neg m (e q : Int), e < q → ((rnd = .ru ∧ neg = false) ∨ (rnd = .rd ∧ neg = true)) → ∀ d, d = (q - e).toNat →
    m ≤ (roundAt rnd neg m e false q).1 * 2 ^ d ∧ (roundAt rnd neg m e false q).1 * 2 ^ d < m + 2 ^ d) ∧
  (∀ rnd neg m (e q : Int), e < q → ((roundAt rnd neg m e false q).2 = true ↔ m % 2 ^ (q - e).toNat ≠ 0)) ∧
  (∀ rnd neg (m : Nat) (e q : Int) st (x : Rat), e < q → (m : Rat) ≤ x → x < m + 1 → (st = true ↔ x ≠ m) → ∀ (d k : Nat), d = (q - e).toNat →
    k = (roundAt rnd neg m e st q).1 →
    (rnd = .rn → 2 * |(k : Rat) * 2 ^ d - x| ≤ 2 ^ d ∧ (2 * |(k : Rat) * 2 ^ d - x| = 2 ^ d → k % 2 = 0)) ∧
    ((rnd = .rz ∨ (rnd = .ru ∧ neg = true) ∨ (rnd = .rd ∧ neg = false)) → (k : Rat) * 2 ^ d ≤ x ∧ x < ((k : Rat) + 1) * 2 ^ d) ∧
    (((rnd = .ru ∧ neg = false) ∨ (rnd = .rd ∧ neg = true)) → x ≤ (k : Rat) * 2 ^ d ∧ (k : Rat) * 2 ^ d < x + 2 ^ d) ∧
    ((roundAt rnd neg m e st q).2 = true ↔ x ≠ (k : Rat) * 2 ^ d)) ∧
  (∀ f ∈ [fp64, fp32, bf16, fp16, e4m3, e5m2], ∀ rnd sat neg (m : Nat) (e : Int) st (q : Int) (M : Nat) (E : Int), m ≠ 0 → q = max (e + (Nat.log2 m : Int) - f.fb) f.unit →
    f.read f.maxBits = .fin false M E →
    (((roundAt rnd neg m e st q).1 : Rat) * 2 ^ q ≤ M * 2 ^ E →
      (∃ m' e', f.read (f.round rnd sat neg m e st).1 = .fin neg m' e' ∧
        (m' : Rat) * 2 ^ e' = (roundAt rnd neg m e st q).1 * 2 ^ q) ∧
      ((f.round rnd sat neg m e st).2 &&& flNX ≠ 0 ↔ (roundAt rnd neg m e st q).2 = true)) ∧
    ((M : Rat) * 2 ^ E < (roundAt rnd neg m e st q).1 * 2 ^ q → f.round rnd sat neg m e st = f.overflow rnd sat neg)) ∧
  (∀ (f : FFmt) rnd n m e n' m' e', f.add rnd (.fin n m e) (.fin n' m' e') = f.roundSum rnd [(n, m, e), (n', m', e')]) ∧
  (∀ (f : FFmt) rnd n m e n' m' e' n'' m'' e'', f.fma rnd (.fin n m e) (.fin n' m' e') (.fin n'' m'' e'') =
    f.roundSum rnd [(n != n', m * m', e + e'), (n'', m'', e'')]) ∧
  (∀ ts, ((exactSum ts).1 : Rat) * 2 ^ (exactSum ts).2 =
    (ts.map fun t => (if t.1 then -1 else 1) * (t.2.1 : Rat) * 2 ^ t.2.2).sum) ∧
  (∀ (f : FFmt) rnd ts v e, exactSum ts = (v, e) → f.roundSum rnd ts =
    if v = 0 then (f.zero ((ts.all fun t => t.1 && t.2.1 == 0) || rnd == .rd), 0)
    else f.round rnd false (decide (v < 0)) v.natAbs e false) ∧
  (∀ (f : FFmt) rnd n m e n' m' e', m ≠ 0 → m' ≠ 0 → f.mul rnd (.fin n m e) (.fin n' m' e') =
    f.round rnd false (n != n') (m * m') (e + e') false) ∧
  (∀ (f : FFmt) rnd n m e n' m' e', m ≠ 0 → m' ≠ 0 → ∃ k r : Nat, r * m' ≤ m * 2 ^ k ∧ m * 2 ^ k < (r + 1) * m' ∧ 2 ^ (f.fb + 3) ≤ r ∧
    f.div rnd (.fin n m e) (.fin n' m' e') =
      f.round rnd false (n != n') r (e - e' - (k : Int)) (decide (r * m' ≠ m * 2 ^ k))) ∧
  (∀ (f : FFmt) rnd m e, m ≠ 0 → ∃ k r : Nat, (e - (k : Int)) % 2 = 0 ∧ r * r ≤ m * 2 ^ k ∧ m * 2 ^ k < (r + 1) * (r + 1) ∧
    2 ^ (f.fb + 3) ≤ r ∧ f.sqrt rnd (.fin false m e) =
      f.round rnd false false r ((e - (k : Int)) / 2) (decide (r * r ≠ m * 2 ^ k))) ∧
  (∀ df sf (l l' : FFmt) rnd sat x n m e, fmtLayout df = some l → fmtLayout sf = some l' → l'.read x = .fin n m e → m ≠ 0 →
    convert df sf rnd sat x = l.round rnd sat n m e false) ∧
  (∀ df sf (l : FFmt) rnd sat x v, fmtLayout df = some l → fmtLayout sf = none → v = intOf (fmtInt sf).1 (fmtInt sf).2 x → v ≠ 0 →
    convert df sf rnd sat x = l.round rnd sat (decide (v < 0)) v.natAbs 0 false) ∧
  (∀ df sf (l' : FFmt) rnd sat x n m e (v : Int), fmtLayout df = none → fmtLayout sf = some l' → l'.read x = .fin n m e →
    v = (if n then -((roundAt rnd n m e false 0).1 : Int) else (roundAt rnd n m e false 0).1) →
    (intBounds (fmtInt df).1 (fmtInt df).2).1 ≤ v → v ≤ (intBounds (fmtInt df).1 (fmtInt df).2).2 →
    convert df sf rnd sat x = (wrapInt (fmtInt df).1 v, if (roundAt rnd n m e false 0).2 then flNX else 0)) ∧
  (∀ (f : FFmt) rnd, f.add rnd (.inf false) (.inf true) = (f.qnan 3, flNV)) ∧
  (∀ (f : FFmt) rnd n s p b, f.add rnd (.nan n s p) b = (f.nanBits n p, if s || b.isSnan then flNV else 0)) ∧
  (∀ (f : FFmt) rnd a n s p, a.isNan = false → f.add rnd a (.nan n s p) = (f.nanBits n p, if s then flNV else 0))

/-- Group instructions (23_ref R337, 25_ref R440, R456): every lane's operands are read before any result is written. -/
def Obligations.GroupInstructions : Prop :=
  (∀ d a op ty r sat, GroupResult (.gred d a op ty r sat) d ty.regs
    fun ls _ => reduce op ty r sat (ls.map fun t => t.grBits ty a)) ∧
  (∀ d a op ty r sat ex, GroupResult (.gscan d a op ty r sat ex) d ty.regs
    fun ls th => reduce op ty r sat
      ((ls.filter fun t => decide (t.lane < th.lane) || (!ex && decide (t.lane = th.lane))).map fun t => t.grBits ty a)) ∧
  (∀ d a b mode w, GroupResult (.shfl d a b mode w) d w.regs
    fun ls th => match ls.find? fun t => t.lane = shflLane mode th.lane (th.reg b) with
      | some t => (t.regN a w.regs, 0)
      | none => (th.regN a w.regs, 0)) ∧
  (∀ d neg p, GroupResult (.vote d .any neg p) d 1 fun ls _ => (if ls.any fun t => t.pred p != neg then 1 else 0, 0)) ∧
  (∀ d neg p, GroupResult (.vote d .all neg p) d 1 fun ls _ => (if ls.all fun t => t.pred p != neg then 1 else 0, 0)) ∧
  (∀ d neg p, GroupResult (.vote d .eq neg p) d 1
    fun ls _ => (if (ls.all fun t => t.pred p) || ls.all fun t => !t.pred p then 1 else 0, 0)) ∧
  (∀ d neg p, GroupResult (.vote d .ballot neg p) d 1
    fun ls _ => ((ls.map fun t => if t.pred p != neg then 2 ^ t.lane else 0).sum, 0))

/-- What the register instructions leave alone, whether they complete or fault in some lanes: every register but the
destination's, every predicate but the destination's, load counters, modes and identifiers; all team state but sticky flags, and
those too where the instruction sets none; memories, caches, accesses, commands, and everything beside. Threads that are no lanes of the
issue group keep their destination registers and predicates as well. -/
def Obligations.RegisterInstructionsKeepEverythingElse : Prop :=
  ∀ i s t, registerOnly i = true → exec i s = .next t →
    KeepsThreads (destRegs i) (destPreds i) s t ∧ KeepsTeams (setsNoFlag i) s t ∧ t.besideTeams = s.besideTeams ∧
    ∀ p tm, s.site = some (p, tm) → ∀ j th, s.thread j = some th → (j.team ≠ p.team ∨ j.tid ∉ p.lanes) →
      ∃ th', t.thread j = some th' ∧ (∀ o, th'.reg o = th.reg o) ∧ th'.p = th.p

/-- NOP completes and changes nothing but where the group stands: past its word, or waiting for its next clause to issue at the
end of a clause (02_execution R29). -/
def Obligations.NopMovesTheGroupOneWordOn : Prop :=
  ∀ s p tm, Ready .nop s p tm → p.single = false → p.hold = [] → ∃ t, exec .nop s = .next t ∧
    t.besideIssue = s.besideIssue ∧ t.threads = s.threads ∧
    (∀ c, p.clause = some c → p.widx + 1 < c.fin →
      t.pipe p.id = some { p with widx := p.widx + 1, instr := none } ∧ t.focus = some p.id) ∧
    (∀ c, p.clause = some c → c.fin ≤ p.widx + 1 →
      t.pipe p.id = some { p with widx := p.widx + 1, clause := none, instr := none } ∧ t.focus = none)

/-- GETS (23_ref R370) completes with the special register of Table 2.8 that imm9 names in its destination, %tctl as it stood when its clause
issued (02_execution R32), and adds no flag; read of
%tstat, it comes after the thread's floating-point atomics (06_arithmetic R110). A number that the table does not list raises 0x11 in every
lane. SETS (25_ref R438) completes with the reader's value in %tctl or %tstat, to which stays what words beside it add in the same cycle;
with a reserved bit, or POL 0b11, and at read-only and unlisted numbers, it raises 0x11 and changes nothing (02_execution R31). -/
def Obligations.SpecialRegisters : Prop :=
  (∀ u d num s p tm, num.toNat ∈ [0, 1, 2, 3, 4, 5, 6, 7, 8, 9, 0x10, 0x11] → s.beforeFlags p num = none → Ready (.gets u d num) s p tm →
    ∃ t, exec (.gets u d num) s = .next t ∧ t.team p.team = some tm ∧
      ∀ l ∈ p.lanes, ∀ th, s.thread (tidOf p l) = some th → ∃ th', t.thread (tidOf p l) = some th' ∧
        some (th'.reg d) = s.special (tm.inClause p) (readerOf (.gets u d num) s p th) num.toNat) ∧
  (∀ (tm : Team) p c, p.clause = some c → tm.inClause p = { tm with tctl := c.tctl }) ∧
  (∀ (s : State) p num, num ≠ 0x011 → s.beforeFlags p num = none) ∧
  (∀ u d num s p tm, num.toNat ∉ [0, 1, 2, 3, 4, 5, 6, 7, 8, 9, 0x10, 0x11] → Ready (.gets u d num) s p tm →
    exec (.gets u d num) s =
      .next ((s.faultLanes p (Instr.gets u d num).uni (fltWord 0x11 (.gets u d num)) p.lanes).past p (.gets u d num))) ∧
  (∀ (s : State) (tm : Team) (th : Thread), s.special tm th 0x000 = some (BitVec.ofNat 32 th.id.tid) ∧
    s.special tm th 0x001 = some (BitVec.ofNat 32 (th.id.tid % 32)) ∧
    s.special tm th 0x002 = some (BitVec.ofNat 32 (th.id.tid / 32)) ∧
    s.special tm th 0x003 = some (BitVec.ofNat 32 tm.index) ∧ s.special tm th 0x004 = some (BitVec.ofNat 32 tm.cpos) ∧
    s.special tm th 0x005 = some (BitVec.ofNat 32 tm.id.core.num.val) ∧
    s.special tm th 0x006 = some (BitVec.ofNat 32 tm.id.core.die.val) ∧
    s.special tm th 0x007 = some (BitVec.ofNat 32 tm.nthr) ∧
    s.special tm th 0x008 = some ((s.core tm.id.core).lcyc.extractLsb' 0 32) ∧
    s.special tm th 0x009 = some ((s.core tm.id.core).lcyc.extractLsb' 32 32) ∧
    s.special tm th 0x010 = some tm.tctl ∧ s.special tm th 0x011 = some tm.tstat) ∧
  (∀ u a s p tm r th, Ready (.sets u a 0x010) s p tm → runsOf (.sets u a 0x010) p = [r] → s.thread (tidOf p r.reader) = some th →
    (th.reg a).extractLsb' 3 29 = 0 → (th.reg a).extractLsb' 1 2 ≠ 3 →
    exec (.sets u a 0x010) s = .next ((s.onTeam p.team fun x => { x with tctl := th.reg a }).past p (.sets u a 0x010))) ∧
  (∀ u a s p tm r th, Ready (.sets u a 0x011) s p tm → runsOf (.sets u a 0x011) p = [r] → s.thread (tidOf p r.reader) = some th →
    (th.reg a).extractLsb' 6 26 = 0 →
    exec (.sets u a 0x011) s =
      .next ((s.onTeam p.team fun x => { x with tstat := th.reg a ||| s.flagsBeside p.team }).past p (.sets u a 0x011))) ∧
  (∀ (s : State) team, s.flagsNow = [] → s.flagsBeside team = 0) ∧
  (∀ u a, Completes (.sets u a 0x010) fun s th _ t =>
    (th.reg a).extractLsb' 3 29 = 0 ∧ (th.reg a).extractLsb' 1 2 ≠ 3 ∧
      t = s.onTeam th.id.team fun x => { x with tctl := th.reg a }) ∧
  (∀ u a, Completes (.sets u a 0x011) fun s th _ t =>
    (th.reg a).extractLsb' 6 26 = 0 ∧ t = s.onTeam th.id.team fun x => { x with tstat := th.reg a ||| s.flagsBeside th.id.team }) ∧
  (∀ u a, FaultsWhen (.sets u a 0x010) fun _ _ _ th =>
    if (th.reg a).extractLsb' 3 29 ≠ 0 ∨ (th.reg a).extractLsb' 1 2 = 3 then some (fltWord 0x11 (.sets u a 0x010)) else none) ∧
  (∀ u a, FaultsWhen (.sets u a 0x011) fun _ _ _ th =>
    if (th.reg a).extractLsb' 6 26 ≠ 0 then some (fltWord 0x11 (.sets u a 0x011)) else none) ∧
  (∀ u a num s p tm, num ≠ 0x010 → num ≠ 0x011 → Ready (.sets u a num) s p tm →
    exec (.sets u a num) s =
      .next ((s.faultLanes p (Instr.sets u a num).uni (fltWord 0x11 (.sets u a num)) p.lanes).past p (.sets u a num))) ∧
  (∀ (s : State) p u f tids i, ((s.faultLanes p u f tids).past p i).teams = s.teams)

/-! ## Terminators, traps and waits -/

/-- The target of each branch is relative to its own word or comes from a register pair; the threads leave for it, drain and
enrol there. A call leaves the address of the word after its own in k62:k63. A register or link target that is not a multiple of
4 raises 0x01 with the address. -/
def Obligations.BranchesLeaveForTheirTargets : Prop :=
  (∀ u off, Completes (.bra u off) (LeavesFor false
    (fun p _ => p.block + BitVec.ofNat 64 (4 * p.widx) + 4 * off.signExtend 64) .enrol)) ∧
  (∀ u q sn off, Completes (.brc u q sn off) (LeavesFor false
    (fun p th => if th.pred q = sn then p.block + BitVec.ofNat 64 (4 * p.widx) + 4 * off.signExtend 64
      else p.block + BitVec.ofNat 64 (4 * p.len)) .enrol)) ∧
  (∀ u a, Completes (.brx u a) (LeavesFor false (fun _ th => th.reg64 a) .enrol)) ∧
  (∀ u off, Completes (.call u off) (LeavesFor true
    (fun p _ => p.block + BitVec.ofNat 64 (4 * p.widx) + 4 * off.signExtend 64) .enrol)) ∧
  (∀ u a, Completes (.callx u a) (LeavesFor true (fun _ th => th.reg64 a) .enrol)) ∧
  (∀ u, Completes (.ret u) (LeavesFor false (fun _ th => th.reg64 (.k 62)) .enrol)) ∧
  (∀ u a, FaultsWhen (.brx u a) fun _ _ _ th => if (th.reg64 a).toNat % 4 = 0 then none else some (fltAt 0x01 (th.reg64 a))) ∧
  (∀ u a, FaultsWhen (.callx u a) fun _ _ _ th => if (th.reg64 a).toNat % 4 = 0 then none else some (fltAt 0x01 (th.reg64 a))) ∧
  (∀ u, FaultsWhen (.ret u) fun _ _ _ th =>
    if (th.reg64 (.k 62)).toNat % 4 = 0 then none else some (fltAt 0x01 (th.reg64 (.k 62))))

/-- EXIT and the wait terminators TBAR, CBAR, SWAIT and PWAIT: the threads leave for the end, or for a wait before the
physically next block. SWAIT on an offset that is not a multiple of 16 raises 0x01, outside the program area 0x05, of a damaged slate
0x60, without MAGIC 0x20. -/
def Obligations.ExitAndWaitsEndTheBlock : Prop :=
  (∀ u, Completes (.exit u) (AtWord fun _ _ s th tids t => t = s.leaveTo th.id.team tids .exit)) ∧
  (∀ u, Completes (.tbar u) (LeavesFor false (fun p _ => p.block + BitVec.ofNat 64 (4 * p.len)) (.wait .team))) ∧
  (∀ u, Completes (.cbar u) (LeavesFor false (fun p _ => p.block + BitVec.ofNat 64 (4 * p.len)) (.wait .cluster))) ∧
  (∀ u a v, Completes (.swait u a v) fun s th tids t =>
    AtWord (fun _ tm s th _ _ => (th.reg a).toNat % 16 = 0 ∧ tm.progOk (th.reg a).toNat 16 = true ∧
      s.spadDamaged tm.id (th.reg a).toNat 16 = false ∧ slateMagic (s.slateVal tm.id (th.reg a).toNat) = true) s th tids t ∧
    LeavesFor false (fun p _ => p.block + BitVec.ofNat 64 (4 * p.len)) (.wait (.slate (th.reg a).toNat v)) s th tids t) ∧
  (∀ u a, Completes (.pwait u a) fun s th tids t =>
    AtWord (fun _ tm s th _ _ => ∃ h, s.parcelRef tm (th.reg64 a) = .ok h ∧ (h.st = .receiving ∨ h.st = .arrived)) s th tids t ∧
    LeavesFor false (fun p _ => p.block + BitVec.ofNat 64 (4 * p.len)) (.wait (.parcel (th.reg64 a))) s th tids t) ∧
  (∀ u a v, FaultsWhen (.swait u a v) fun _ tm s th =>
      if (th.reg a).toNat % 16 ≠ 0 then some (fltAt 0x01 ((th.reg a).setWidth 64))
      else if tm.progOk (th.reg a).toNat 16 = false then some (fltAt 0x05 ((th.reg a).setWidth 64))
      else if s.spadDamaged tm.id (th.reg a).toNat 16 then some { cause := 0x60, addr := (th.reg a).setWidth 64, extra := 5 }
      else if slateMagic (s.slateVal tm.id (th.reg a).toNat) = false then some (fltAt 0x20 ((th.reg a).setWidth 64))
      else none)

/-- TRAP (25_ref R454) and BKPT (22_ref R312) take causes 0x50 and 0x51 at their own word in every lane, with the immediate as
EXTRA: the thread drains before the fault is recorded, and nothing else changes. -/
def Obligations.TrapAndBreakpointFaultEveryLane : Prop :=
  (∀ imm s p tm, Ready (.trap imm) s p tm → ∃ t, exec (.trap imm) s = .next t ∧ t.besideIssue = s.besideIssue ∧
    ∀ l ∈ p.lanes, ∀ th, s.thread (tidOf p l) = some th → t.thread (tidOf p l) = some
      { th with st := .draining, block := p.block, after := .none, age := 0,
                fault := some { cause := 0x50, block := p.block, widx := p.widx, addr := 0, extra := imm.setWidth 32,
                                u := (Instr.trap imm).uni } }) ∧
  (∀ imm s p tm, Ready (.bkpt imm) s p tm → ∃ t, exec (.bkpt imm) s = .next t ∧ t.besideIssue = s.besideIssue ∧
    ∀ l ∈ p.lanes, ∀ th, s.thread (tidOf p l) = some th → t.thread (tidOf p l) = some
      { th with st := .draining, block := p.block, after := .none, age := 0,
                fault := some { cause := 0x51, block := p.block, widx := p.widx, addr := 0, extra := imm.setWidth 32,
                                u := (Instr.bkpt imm).uni } })

/-- 25_ref R431: in handler mode RESUME and RESUME.skip drain their thread and then act; outside it they raise 0x10. -/
def Obligations.ResumeNeedsHandlerMode : Prop :=
  Completes .resume (AtWord fun p _ s th tids t => th.hm = true ∧ t = s.leaveTo th.id.team tids (.resume false p.widx)) ∧
  Completes .resumeSkip (AtWord fun p _ s th tids t => th.hm = true ∧ t = s.leaveTo th.id.team tids (.resume true p.widx)) ∧
  FaultsWhen .resume (fun _ _ _ th => if th.hm then none else some (fltWord 0x10 .resume)) ∧
  FaultsWhen .resumeSkip (fun _ _ _ th => if th.hm then none else some (fltWord 0x10 .resumeSkip))

/-- 02_execution R30: threads that end their block drain, with what follows the drain noted; they stand in no issue group of
their team any more; no other thread and nothing else changes. -/
def Obligations.ThreadsThatEndTheirBlockDrain : Prop :=
  ∀ (s : State) (team : TeamId) (tids : List Nat) (a : After), tids.Nodup →
    (∀ j th, s.thread j = some th → (s.leaveTo team tids a).thread j = some
      (if j.team = team ∧ j.tid ∈ tids then { th with st := .draining, after := a, arrived := false } else th)) ∧
    (∀ q ∈ (s.leaveTo team tids a).pipes, q.team = team → ∀ l ∈ q.lanes, l ∉ tids) ∧
    (s.leaveTo team tids a).besideIssue = s.besideIssue

/-! ## Loads, stores and atomics -/

/-- A load whose checks pass becomes an access that counts in its counter and owes its destination registers; LDNR at a page
that is not resident writes zeros and sets its predicate at once. A store becomes an access with the low bytes of the data
operand, of a reference its offset or all ones for the null reference, and with STF the line and offset of the flag. -/
def Obligations.LoadsAndStoresIssueAccesses : Prop :=
  (∀ u d base cnt mc, CompletesCounted (.ld u d base cnt mc) cnt (AtWord fun p tm s th tids t => ∃ s' sp,
    s.resolve tm th mc.space (Sys2Proof.Machine.Space.ordinary mc.space) base mc.off mc.size.bytes .rd mc.ord mc.scope none =
      (s', .ok sp) ∧
    t = s'.launch { sp.acc s' (.ld u d base cnt mc) p th tids (.load mc.size) mc.size.bytes mc.ord mc.scope with
                    ctr := some cnt.toFin, dst := d.regList mc.size.regs, cp := mc.cp })) ∧
  (∀ u d base q cnt mc, CompletesCounted (.ldnr u d base q cnt mc) cnt (AtWord fun p tm s th tids t => ∃ s' sp,
    s.resolve tm th mc.space (Sys2Proof.Machine.Space.ordinary mc.space) base mc.off mc.size.bytes .rd mc.ord mc.scope none =
      (s', .ok sp) ∧
    t = s'.launch { sp.acc s' (.ldnr u d base q cnt mc) p th tids (.load mc.size) mc.size.bytes mc.ord mc.scope with
                    ctr := some cnt.toFin, dst := d.regList mc.size.regs, pred := some q, cp := mc.cp })) ∧
  (∀ u d base q cnt mc, CompletesCounted (.ldnr u d base q cnt mc) cnt (AtWord fun _ tm s th tids t => ∃ s' f,
    s.resolve tm th mc.space (Sys2Proof.Machine.Space.ordinary mc.space) base mc.off mc.size.bytes .rd mc.ord mc.scope none =
      (s', .error f) ∧ f.cause = 0x04 ∧
    t = (s'.writeRegs th.id.team tids (d.regList mc.size.regs) fun x => (x.setRegN d mc.size.regs 0).setPred q true).repairPreds
      th.id.team tids [q])) ∧
  (∀ u d base cnt mc, CompletesCounted (.pld u d base cnt mc) cnt (AtWord fun p tm s th tids t => ∃ s' sp h,
    s.resolveParcel tm th mc.space base mc.off mc.size.bytes .rd mc.ord mc.scope (fun _ _ => false) = (s', .ok (sp, h)) ∧
    t = s'.launch { sp.acc s' (.pld u d base cnt mc) p th tids (.load mc.size) mc.size.bytes mc.ord mc.scope with
                    ctr := some cnt.toFin, dst := d.regList mc.size.regs, cp := mc.cp, ref := true })) ∧
  (∀ u d base cnt mc, CompletesCounted (.pldr u d base cnt mc) cnt (AtWord fun p tm s th tids t => ∃ s' sp h,
    s.resolveParcel tm th mc.space base mc.off mc.size.bytes .rd mc.ord mc.scope (fun _ _ => false) = (s', .ok (sp, h)) ∧
    t = s'.launch { sp.acc s' (.pldr u d base cnt mc) p th tids (.loadRef (th.reg64 base) h.size) mc.size.bytes mc.ord mc.scope with
                    ctr := some cnt.toFin, dst := d.regList 2, cp := mc.cp, ref := true })) ∧
  (∀ u d base mc, Completes (.st u d base mc) (AtWord fun p tm s th tids t => ∃ s' sp,
    s.resolve tm th mc.space (Sys2Proof.Machine.Space.ordinary mc.space) base mc.off mc.size.bytes .wr mc.ord mc.scope none =
      (s', .ok sp) ∧ s'.badUnit sp mc.size.bytes = false ∧
    t = s'.launch { sp.acc s' (.st u d base mc) p th tids (.store (bytesOfNat mc.size.bytes (th.regN d mc.size.regs)))
      mc.size.bytes mc.ord mc.scope with cp := mc.cp })) ∧
  (∀ u d base mc fb fo, Completes (.stf u d base mc fb fo) (AtWord fun p tm s th tids t => ∃ s' sp s'' fl off h,
    s.resolve tm th mc.space (Sys2Proof.Machine.Space.stfOk mc.space) base mc.off mc.size.bytes .wr mc.ord mc.scope none =
      (s', .ok sp) ∧
    s'.resolveFlag tm (th.reg64 fb + fo.signExtend 64) = (s'', .ok (fl, off, h)) ∧
    t = s''.launch { sp.acc s'' (.stf u d base mc fb fo) p th tids
      (.stf (bytesOfNat mc.size.bytes (th.regN d mc.size.regs)) fl off) mc.size.bytes mc.ord mc.scope with
        cp := mc.cp, fpar := h.map fun h => (tm.id.core.die, h), fea := some (th.reg64 fb + fo.signExtend 64) })) ∧
  (∀ u d base mc, Completes (.pst u d base mc) (AtWord fun p tm s th tids t => ∃ s' sp h,
    s.resolveParcel tm th mc.space base mc.off mc.size.bytes .wr mc.ord mc.scope (fun _ _ => false) = (s', .ok (sp, h)) ∧
    t = s'.launch { sp.acc s' (.pst u d base mc) p th tids (.store (bytesOfNat mc.size.bytes (th.regN d mc.size.regs)))
      mc.size.bytes mc.ord mc.scope with cp := mc.cp, ref := true })) ∧
  (∀ u d base mc, Completes (.pstr u d base mc) (AtWord fun p tm s th tids t => ∃ s' sp h,
    s.resolveParcel tm th mc.space base mc.off mc.size.bytes .wr mc.ord mc.scope
      (fun h b => (s.die tm.id.core.die).escapes h b (th.reg64 d)) = (s', .ok (sp, h)) ∧
    t = s'.launch { sp.acc s' (.pstr u d base mc) p th tids
      (.store (bytesOfNat 4 (if th.reg64 d = 0 then 0xFFFFFFFF else (th.reg64 d).toNat % 2 ^ 32))) mc.size.bytes mc.ord mc.scope with
        cp := mc.cp, ref := true }))

/-- ATOM and CAS count in their counter and owe the old value; ATOMN returns nothing; CAS compares with its own destination.
Each atomic operation leaves at its location the value that Table 22.6 gives in terms of the old value and operand b; MIN and MAX
compare signed in .i32 and .i64, unsigned in .n32 and .n64 (22_ref R307). -/
def Obligations.AtomicsIssueAccesses : Prop :=
  (∀ u d base b cnt op mc, CompletesCounted (.atom u d base b cnt op mc) cnt (AtWord fun p tm s th tids t => ∃ s' sp,
    s.resolve tm th mc.space (Sys2Proof.Machine.Space.ordinary mc.space) base mc.off (4 * mc.ty.regs) .rw mc.ord mc.scope
      (some (some op, mc.ty)) = (s', .ok sp) ∧
    t = s'.launch { sp.acc s' (.atom u d base b cnt op mc) p th tids (.atom op mc.ty (atomOperand th mc.ty b) true)
                      (4 * mc.ty.regs) mc.ord mc.scope with
                    ctr := some cnt.toFin, dst := d.regList mc.ty.regs, cp := mc.cp })) ∧
  (∀ u b base op mc, Completes (.atomn u b base op mc) (AtWord fun p tm s th tids t => ∃ s' sp,
    s.resolve tm th mc.space (Sys2Proof.Machine.Space.ordinary mc.space) base mc.off (4 * mc.ty.regs) .rw mc.ord mc.scope
      (some (some op, mc.ty)) = (s', .ok sp) ∧
    t = s'.launch { sp.acc s' (.atomn u b base op mc) p th tids (.atom op mc.ty (atomOperand th mc.ty b) false)
      (4 * mc.ty.regs) mc.ord mc.scope with cp := mc.cp })) ∧
  (∀ u d base b cnt mc, CompletesCounted (.cas u d base b cnt mc) cnt (AtWord fun p tm s th tids t => ∃ s' sp,
    s.resolve tm th mc.space (Sys2Proof.Machine.Space.ordinary mc.space) base mc.off (4 * mc.ty.regs) .rw mc.ord mc.scope
      (some (none, mc.ty)) = (s', .ok sp) ∧
    t = s'.launch { sp.acc s' (.cas u d base b cnt mc) p th tids
                      (.cas mc.ty (BitVec.ofNat 64 (th.regN d mc.ty.regs)) (atomOperand th mc.ty b)) (4 * mc.ty.regs) mc.ord mc.scope with
                    ctr := some cnt.toFin, dst := d.regList mc.ty.regs, cp := mc.cp })) ∧
  (∀ ty a b, ty ∈ [.i32, .n32, .b32, .i64, .n64, .b64] → atomNew .add ty a b = ((a + b) % 2 ^ (32 * ty.regs), 0)) ∧
  (∀ a b, atomNew .add .f32 a b = fp32.add .rn (fp32.read a) (fp32.read b)) ∧
  (∀ a b, atomNew .add .f64 a b = fp64.add .rn (fp64.read a) (fp64.read b)) ∧
  (∀ a b, atomNew .min .f32 a b = fp32.minmax false a b ∧ atomNew .max .f32 a b = fp32.minmax true a b ∧
    atomNew .min .f64 a b = fp64.minmax false a b ∧ atomNew .max .f64 a b = fp64.minmax true a b) ∧
  (∀ ty a b, ty ∈ [.i32, .i64] → atomNew .min ty a b =
      (if signedOf (32 * ty.regs) a ≤ signedOf (32 * ty.regs) b then a else b, 0) ∧
    atomNew .max ty a b = (if signedOf (32 * ty.regs) a ≤ signedOf (32 * ty.regs) b then b else a, 0)) ∧
  (∀ ty a b, ty ∈ [.n32, .n64] → a < 2 ^ (32 * ty.regs) → b < 2 ^ (32 * ty.regs) →
    atomNew .min ty a b = (if a ≤ b then a else b, 0) ∧ atomNew .max ty a b = (if a ≤ b then b else a, 0)) ∧
  (∀ ty a b, atomNew .and ty a b = (a &&& b, 0) ∧ atomNew .or ty a b = (a ||| b, 0) ∧ atomNew .xor ty a b = (a ^^^ b, 0) ∧
    atomNew .exch ty a b = (b, 0) ∧ atomNew .inc ty a b = (if b ≤ a then 0 else a + 1, 0) ∧
    atomNew .dec ty a b = (if a = 0 ∨ b < a then b else a - 1, 0)) ∧
  (∀ ty cmp b old, MemOp.effect (.cas ty cmp b) old =
    if natOfBytes old = cmp.toNat then (some (bytesOfNat (4 * ty.regs) b.toNat), 0) else (none, 0)) ∧
  (∀ o ty b ret old, MemOp.effect (.atom o ty b ret) old =
    (some (bytesOfNat (4 * ty.regs) (atomNew o ty (natOfBytes old) b.toNat).1), (atomNew o ty (natOfBytes old) b.toNat).2))

/-- 24_ref R391, 25_ref R428: a reserved SPACE raises 0x08, and an address that is no multiple of the size 0x01, before anything
else. -/
def Obligations.AccessesCheckSpaceAndAlignmentFirst : Prop :=
  (∀ u d base cnt mc, ∀ s p tm r th, Ready (.ld u d base cnt mc) s p tm → CounterFree s p cnt → runsOf (.ld u d base cnt mc) p = [r] →
    s.thread (tidOf p r.reader) = some th →
    (Sys2Proof.Machine.Space.ordinary mc.space = false → exec (.ld u d base cnt mc) s = .next
      ((s.faultLanes p (Instr.ld u d base cnt mc).uni (fltAt 0x08 (effAddr th mc.space base mc.off)) r.targets).past p (.ld u d base cnt mc))) ∧
    (Sys2Proof.Machine.Space.ordinary mc.space = true → (effAddr th mc.space base mc.off).toNat % mc.size.bytes ≠ 0 →
      exec (.ld u d base cnt mc) s = .next
        ((s.faultLanes p (Instr.ld u d base cnt mc).uni (fltAt 0x01 (effAddr th mc.space base mc.off)) r.targets).past p (.ld u d base cnt mc)))) ∧
  (∀ u d base mc, FaultsWhen (.st u d base mc) fun _ _ _ th =>
    if Sys2Proof.Machine.Space.ordinary mc.space = false then some (fltAt 0x08 (effAddr th mc.space base mc.off))
    else if (effAddr th mc.space base mc.off).toNat % mc.size.bytes ≠ 0 then some (fltAt 0x01 (effAddr th mc.space base mc.off))
    else none) ∧
  (∀ u b base op mc, FaultsWhen (.atomn u b base op mc) fun _ _ _ th =>
    if Sys2Proof.Machine.Space.ordinary mc.space = false then some (fltAt 0x08 (effAddr th mc.space base mc.off))
    else if (effAddr th mc.space base mc.off).toNat % (4 * mc.ty.regs) ≠ 0 then
      some (fltAt 0x01 (effAddr th mc.space base mc.off))
    else none)

/-- ST to the team's own scratchpad (25_ref R444, 07_memory R126), with nothing in flight and the scratchpad in canonical form,
which every step keeps (`Obligations.StepKeepsMemoriesCanonical`): the bytes at the effective address are the low bytes of the
data operand, little-endian; every other byte of it, every register, every other team, and every other memory stays. -/
def Obligations.StoreChangesOnlyItsBytesOfTheScratchpad : Prop :=
  ∀ u d base mc s p tm r th, mc.space = .own → mc.ord = .plain → Ready (.st u d base mc) s p tm →
    runsOf (.st u d base mc) p = [r] → s.thread (tidOf p r.reader) = some th → s.accs = [] → s.damage = [] → tm.spad.wf = true →
    (th.reg base + mc.off.signExtend 32).toNat % mc.size.bytes = 0 →
    tm.ownOk (th.reg base + mc.off.signExtend 32).toNat mc.size.bytes = true →
    ∃ t tm', exec (.st u d base mc) s = .next t ∧ t.team p.team = some tm' ∧
      tm'.spad.getN (th.reg base + mc.off.signExtend 32).toNat mc.size.bytes =
        bytesOfNat mc.size.bytes (th.regN d mc.size.regs) ∧
      (∀ a, a < (th.reg base + mc.off.signExtend 32).toNat ∨
        (th.reg base + mc.off.signExtend 32).toNat + mc.size.bytes ≤ a → tm'.spad.get a = tm.spad.get a) ∧
      { tm' with spad := tm.spad } = tm ∧ KeepsThreads [] 0 s t ∧ (∀ k, k ≠ p.team → t.team k = s.team k) ∧ t.accs = [] ∧
      t.pool = s.pool ∧ t.host = s.host ∧ t.lines = s.lines ∧ t.l3 = s.l3 ∧ t.cmds = s.cmds ∧ t.dies = s.dies

/-- LD from the team's own scratchpad (24_ref R394), with nothing in flight: the access that returns later has the bytes at the
effective address; until then the registers stay, and the counter of each target has gained one. -/
def Obligations.LoadReadsItsBytesOfTheScratchpad : Prop :=
  ∀ u d base cnt mc s p tm r th, mc.space = .own → mc.ord = .plain → Ready (.ld u d base cnt mc) s p tm → CounterFree s p cnt →
    runsOf (.ld u d base cnt mc) p = [r] → s.thread (tidOf p r.reader) = some th → s.accs = [] → s.damage = [] →
    (th.reg base + mc.off.signExtend 32).toNat % mc.size.bytes = 0 →
    tm.ownOk (th.reg base + mc.off.signExtend 32).toNat mc.size.bytes = true →
    ∃ t a, exec (.ld u d base cnt mc) s = .next t ∧ t.accs = [a] ∧ a.phase = .done ∧ a.lanes = r.targets ∧
      a.op = .load mc.size ∧ a.ctr = some cnt.toFin ∧ a.dst = d.regList mc.size.regs ∧
      a.got = tm.spad.getN (th.reg base + mc.off.signExtend 32).toNat mc.size.bytes ∧ t.teams = s.teams ∧
      ∀ l ∈ r.targets, ∀ x, s.thread (tidOf p l) = some x → ∃ y, t.thread (tidOf p l) = some y ∧ y.t = x.t ∧ y.k = x.k ∧ y.p = x.p ∧
        y.ctr = x.ctr.set cnt.toFin (x.ctr[cnt.toFin] + 1)

/-- LOAD_RETURN (02_execution R29, 05_encoding Table 5.7): when all its registers are written the read is over: they hold its
value, extended to their width, each target's counter has lost one, and nothing beside changes. -/
def Obligations.LoadReturnWritesTheDestination : Prop :=
  (∀ (s : State) (id : Nat) (a : Acc) (c : Fin 4) (d : Opnd) (n v : Nat), s.acc id = some a → a.phase = .done → a.ctr = some c → a.pred = none → a.written = 0 → a.lanes.Nodup →
    a.dst = d.regList n → (n = 1 ∨ n = 2 ∨ n = 4) → ({ o := d, n := n, reads := false, writes := true, constOk := false } : Use).ok 64 = true → a.value = .ok v →
    ∃ t, exec (.loadReturn id 0xF) s = .next t ∧ t.acc id = none ∧ t.teams = s.teams ∧
      ∀ l ∈ a.lanes, ∀ x, s.thread { team := a.th.team, tid := l } = some x →
        ∃ y, t.thread { team := a.th.team, tid := l } = some y ∧ y.regN d n = v % 2 ^ (32 * n) ∧
          y.ctr = x.ctr.set c (x.ctr[c] - 1) ∧ (∀ o, o ∉ d.regList n → y.reg o = x.reg o) ∧ y.p = x.p) ∧
  (∀ got, loadValue .i8 got = wrapInt 32 (signedOf 8 (natOfBytes got))) ∧
  (∀ got, loadValue .i16 got = wrapInt 32 (signedOf 16 (natOfBytes got))) ∧
  (∀ got, loadValue .n8 got = natOfBytes got ∧ loadValue .n16 got = natOfBytes got ∧ loadValue .b32 got = natOfBytes got ∧
    loadValue .b64 got = natOfBytes got ∧ loadValue .b128 got = natOfBytes got)

/-- PREF starts an access of its line for the cache that it names, or drops where the address may not be read, is a host address
of class 0 or lies in the scratchpads. CMNT starts maintenance of its line, and does nothing where the page is not resident or
may not be reached. RESQ credits its slate at once where the page is resident, and asks for residency where it is not. -/
def Obligations.PrefetchMaintenanceAndResidency : Prop :=
  (∀ u base kind sp off, (sp = .own ∨ sp = .peer) → Completes (.pref u base kind sp off) fun s _ _ t => t = s ∧ s.site ≠ none) ∧
  (∀ u base kind sp off, (sp = .global ∨ sp = .host) → Completes (.pref u base kind sp off) (AtWord fun _ tm s th _ t => ∃ f,
    s.resolveVa tm th (sp == Space.host) true (th.reg64 base + off.signExtend 64) (if kind = .own then .wr else .rd) .plain .thread none =
      (t, .error f) ∧ f.cause ≠ notYet)) ∧
  (∀ u base kind sp off, (sp = .global ∨ sp = .host) → Completes (.pref u base kind sp off) (AtWord fun _ tm s th _ t => ∃ spot l o,
    s.resolveVa tm th (sp == Space.host) true (th.reg64 base + off.signExtend 64) (if kind = .own then .wr else .rd) .plain .thread none =
      (t, .ok spot) ∧ spot.place = .line l o 0 ∧ l.mem = .host)) ∧
  (∀ u base kind sp off, (sp = .global ∨ sp = .host) → Completes (.pref u base kind sp off) (AtWord fun p tm s th tids t =>
    ∃ s' spot l o cls, s.resolveVa tm th (sp == Space.host) true (th.reg64 base + off.signExtend 64) (if kind = .own then .wr else .rd)
      .plain .thread none = (s', .ok spot) ∧ spot.place = .line l o cls ∧ ¬ (l.mem = .host ∧ cls = 0) ∧
    t = s'.launch { spot.acc s' (.pref u base kind sp off) p th tids (.prefetch (kind == .own && cls != 0)) 1 .plain .thread with
                    lanes := [],
                    cache := if kind = .l2 then s'.l2Of tm.id.core.die l else s'.l1Of th.id.team.core })) ∧
  (∀ u base kind off, Completes (.pref u base kind .global off) (AtWord fun p tm s th tids t =>
    ∃ s' spot imp pa, s.resolveVa tm th false true (th.reg64 base + off.signExtend 64) (if kind = .own then .wr else .rd)
      .plain .thread none = (s', .ok spot) ∧ spot.place = .peer imp pa ∧
    t = s'.launch { spot.acc s' (.pref u base kind .global off) p th tids (.prefetch (kind == .own)) 1 .plain .thread with
                    lanes := [],
                    cache := if kind = .l2 then s'.l2Of tm.id.core.die (lineOf .pool 0) else s'.l1Of th.id.team.core })) ∧
  (∀ u base op reach sp off, (sp = .own ∨ sp = .peer) →
    Completes (.cmnt u base op reach sp off) fun s _ _ t => t = s ∧ s.site ≠ none) ∧
  (∀ u base op reach sp off, (sp = .global ∨ sp = .host) → Completes (.cmnt u base op reach sp off) (AtWord fun p tm s th tids t =>
    ∃ s' spot, s.resolveVa tm th (sp == Space.host) false (th.reg64 base + off.signExtend 64) .leaf .plain .thread none = (s', .ok spot) ∧
    t = s'.launch (spot.acc s' (.cmnt u base op reach sp off) p th tids (.cmnt op reach) 1 .plain .thread))) ∧
  (∀ u base op reach sp off, (sp = .global ∨ sp = .host) → Completes (.cmnt u base op reach sp off) (AtWord fun _ tm s th _ t =>
    ∃ f, s.resolveVa tm th (sp == Space.host) false (th.reg64 base + off.signExtend 64) .leaf .plain .thread none = (t, .error f) ∧
      (f.cause = 0x04 ∨ f.cause = 0x06))) ∧
  (∀ u base b wr sp off, (sp = .own ∨ sp = .peer) → Completes (.resq u base b wr sp off) (AtWord fun _ tm s th _ t => ∃ spot,
    tm.slateCheck (th.reg b).toNat ((th.reg b).setWidth 64) = none ∧
    s.resolveSpad tm (sp == Space.peer) ((th.reg base + off.signExtend 32).setWidth 64) 1 .plain .thread false = .ok spot ∧
    t = s.sendCredit tm.id (th.reg b).toNat 0 1 false [])) ∧
  (∀ u base b wr sp off, (sp = .global ∨ sp = .host) → Completes (.resq u base b wr sp off) (AtWord fun _ tm s th _ t => ∃ s' tr,
    tm.slateCheck (th.reg b).toNat ((th.reg b).setWidth 64) = none ∧
    s.translate tm.id.core.die (.core tm.id.core.num) tm.asid (sp == Space.host) .leaf (th.reg64 base + off.signExtend 64) = (s', .ok tr) ∧
    t = s'.sendCredit tm.id (th.reg b).toNat 0 1 false [])) ∧
  (∀ u base b wr sp off, (sp = .global ∨ sp = .host) → Completes (.resq u base b wr sp off) (AtWord fun _ tm s th _ t => ∃ s' e,
    tm.slateCheck (th.reg b).toNat ((th.reg b).setWidth 64) = none ∧
    s.translate tm.id.core.die (.core tm.id.core.num) tm.asid (sp == Space.host) .leaf (th.reg64 base + off.signExtend 64) =
      (s', .error (0x04, e)) ∧
    t = s'.requestResidency tm th.id.tid wr (th.reg b) (th.reg64 base + off.signExtend 64)))

/-- TTAG (25_ref R455), TDROP (R453) and FENCE (23_ref R356): the current identifier of the target threads; copies with an
identifier go once the threads' earlier writes have performed (07_memory R134), and the group waits for that; the group waits for the
accesses that the fence orders. A register value above 255, or for TDROP 0, is 0x11. -/
def Obligations.IdentifiersAndFences : Prop :=
  (∀ u id s p tm, Ready (.ttagImmediate u id) s p tm → ∃ t, exec (.ttagImmediate u id) s = .next t ∧ t.teams = s.teams ∧
    ∀ l ∈ p.lanes, ∀ th, s.thread (tidOf p l) = some th → ∃ th', t.thread (tidOf p l) = some th' ∧ th'.tag = id ∧ th'.t = th.t ∧
      th'.k = th.k ∧ th'.p = th.p ∧ th'.ctr = th.ctr) ∧
  (∀ u a, Completes (.ttagRegister u a) fun s th tids t =>
    (th.reg a).toNat ≤ 255 ∧ t = s.setTag th.id.team tids ((th.reg a).setWidth 8)) ∧
  (∀ u a, FaultsWhen (.ttagRegister u a) fun _ _ _ th =>
    if (th.reg a).toNat ≤ 255 then none else some (fltWord 0x11 (.ttagRegister u a))) ∧
  (∀ u a pkg, Completes (.tdrop u a pkg) fun s th tids t => th.reg a ≠ 0 ∧ (th.reg a).toNat ≤ 255 ∧
    t = (if (s.writesOf th.id.team tids).isEmpty then (s.discard ((th.reg a).setWidth 8) (if pkg then none else some th.id.team.core.die)).kick
      else (s.writesOf th.id.team tids).foldl (fun s i => s.addHold (.perf i)) s).addHold
      (.discard ((th.reg a).setWidth 8) (if pkg then none else some th.id.team.core.die))) ∧
  (∀ (s : State) team tids k, k ∈ s.writesOf team tids ↔
    ∃ a ∈ s.accs, a.id = k ∧ a.th.team = team ∧ a.pending = true ∧ a.op.writes = true ∧ ∃ l ∈ tids, l ∈ a.lanes) ∧
  (∀ u a pkg, FaultsWhen (.tdrop u a pkg) fun _ _ _ th =>
    if th.reg a ≠ 0 ∧ (th.reg a).toNat ≤ 255 then none else some (fltWord 0x11 (.tdrop u a pkg))) ∧
  (∀ u scope kind, Completes (.fence u scope kind) fun s th tids t =>
    t = (s.fenced th.id.team tids scope kind).foldl (fun s i => s.addHold (.perf i)) s)

/-! ## Slates and guards -/

/-- SINIT writes a fresh slate, SARV sends it one arrival, SEXP raises the bytes it expects; SINIT's operand and address checks
raise 0x11, 0x01 and 0x05, SARV's 0x01 and 0x05 (a peer that is absent too), SEXP's 0x01 and 0x05, 0x60 of a damaged slate, 0x20 without
MAGIC, and 0x11 where the sum leaves its field. SINIT releases waiters where PH was 1. GARM arms a guard slot and GSET resolves it; a slot
that is not armed raises 0x22 with its number. Of the updates of one cycle by two issue groups that of the higher thread slot stays
(23_ref R369): a group that comes to the slot after a higher one waits for the next cycle (the model's reading, log 132). -/
def Obligations.SlateAndGuardInstructions : Prop :=
  (∀ u a b c, Completes (.sinit u a b c) (AtWord fun _ tm s th _ t =>
    (th.reg b ≠ 0 ∨ th.reg c ≠ 0) ∧ (th.reg c).toNat ≤ 0xFFFF ∧ (th.reg a).toNat % 16 = 0 ∧
    tm.progOk (th.reg a).toNat 16 = true ∧
    t = if slatePh (s.slateVal tm.id (th.reg a).toNat) then
        (s.putSlate tm.id (th.reg a).toNat (slateOf 0 false false 0 (th.reg c).toNat 0 (th.reg b).toNat)).releaseSlate tm.id
          (th.reg a).toNat
      else s.putSlate tm.id (th.reg a).toNat (slateOf 0 false false 0 (th.reg c).toNat 0 (th.reg b).toNat))) ∧
  (∀ u a ps, Completes (.sarv u a ps) (AtWord fun _ tm s th tids t => ∃ o off, s.slateOwner tm ps (th.reg a) = .ok (o, off) ∧
    t = s.sendCredit o off 0 1 false (s.pendingOf tm.id tids))) ∧
  (∀ u bytes slate, Completes (.sexp u bytes slate) (AtWord fun _ tm s th _ t =>
    (th.reg slate).toNat % 16 = 0 ∧ tm.progOk (th.reg slate).toNat 16 = true ∧
    s.spadDamaged tm.id (th.reg slate).toNat 16 = false ∧ slateMagic (s.slateVal tm.id (th.reg slate).toNat) = true ∧
    bitsOf (s.slateVal tm.id (th.reg slate).toNat) 0 32 + (th.reg bytes).toNat ≤ 0xFFFFFFFF ∧
    t = s.putSlate tm.id (th.reg slate).toNat (BitVec.ofNat 128
      (s.slateVal tm.id (th.reg slate).toNat / 2 ^ 32 * 2 ^ 32 +
        (bitsOf (s.slateVal tm.id (th.reg slate).toNat) 0 32 + (th.reg bytes).toNat))))) ∧
  (∀ u a b c, FaultsWhen (.sinit u a b c) fun _ tm _ th =>
    if (th.reg b = 0 ∧ th.reg c = 0) ∨ 0xFFFF < (th.reg c).toNat then some (fltWord 0x11 (.sinit u a b c))
    else if (th.reg a).toNat % 16 ≠ 0 then some (fltAt 0x01 ((th.reg a).setWidth 64))
    else if tm.progOk (th.reg a).toNat 16 = false then some (fltAt 0x05 ((th.reg a).setWidth 64)) else none) ∧
  (∀ u a ps, FaultsWhen (.sarv u a ps) fun _ tm s th =>
    if (th.reg a).toNat % 16 ≠ 0 then some (fltAt 0x01 ((th.reg a).setWidth 64))
    else match (if ps then s.teamAt tm.cluster ((th.reg a).toNat / 2 ^ 28) else some tm) with
      | none => some (fltAt 0x05 ((th.reg a).setWidth 64))
      | some o => if o.progOk (if ps then (th.reg a).toNat % 2 ^ 28 else (th.reg a).toNat) 16 then none
          else some (fltAt 0x05 ((th.reg a).setWidth 64))) ∧
  (∀ u bytes slate, FaultsWhen (.sexp u bytes slate) fun _ tm s th =>
    if (th.reg slate).toNat % 16 ≠ 0 then some (fltAt 0x01 ((th.reg slate).setWidth 64))
    else if tm.progOk (th.reg slate).toNat 16 = false then some (fltAt 0x05 ((th.reg slate).setWidth 64))
    else if s.spadDamaged tm.id (th.reg slate).toNat 16 then
      some { cause := 0x60, addr := (th.reg slate).setWidth 64, extra := 5 }
    else if slateMagic (s.slateVal tm.id (th.reg slate).toNat) = false then some (fltAt 0x20 ((th.reg slate).setWidth 64))
    else if 0xFFFFFFFF < bitsOf (s.slateVal tm.id (th.reg slate).toNat) 0 32 + (th.reg bytes).toNat then
      some (fltWord 0x11 (.sexp u bytes slate))
    else none) ∧
  (∀ u slot s p tm t, Ready (.garm u slot) s p tm → s.guardLate p tm slot = false →
    Runs (fun s th _ t => t = s.setGuard th.id slot .unresolved []) p
      (if tm.guards[slot.toFin] = .idle then s.noteGuard p tm slot else s) (runsOf (.garm u slot) p) t →
    exec (.garm u slot) s = .next (t.past p (.garm u slot))) ∧
  (∀ u a slot s p tm t, Ready (.gset u a slot) s p tm → s.guardLate p tm slot = false → tm.guards[slot.toFin] ≠ .idle →
    Runs (fun s th tids t =>
      t = if th.reg a = 0 then s.setGuard th.id slot .isFalse [] else s.setGuard th.id slot .isTrue (s.pendingOf th.id.team tids))
      p s (runsOf (.gset u a slot) p) t →
    exec (.gset u a slot) s = .next (t.past p (.gset u a slot))) ∧
  (∀ u a slot s p tm r th, Ready (.gset u a slot) s p tm → s.guardLate p tm slot = false → tm.guards[slot.toFin] = .idle →
    runsOf (.gset u a slot) p = [r] → s.thread (tidOf p r.reader) = some th →
    exec (.gset u a slot) s = .next (((s.noteGuard p tm slot).faultLanes p u
      { cause := 0x22, addr := 0, extra := slot.setWidth 32 } r.targets).past p (.gset u a slot))) ∧
  (∀ u slot s p tm, s.site = some (p, tm) → s.guardLate p tm slot = true → exec (.garm u slot) s =
    .next { (s.addHold (.cycle p.id.core (s.core p.id.core).lcyc)).keepWord p.id (.garm u slot) with focus := none }) ∧
  (∀ u a slot s p tm, s.site = some (p, tm) → s.guardLate p tm slot = true → exec (.gset u a slot) s =
    .next { (s.addHold (.cycle p.id.core (s.core p.id.core).lcyc)).keepWord p.id (.gset u a slot) with focus := none }) ∧
  (∀ (s : State) i (slot : BitVec 4) g rel tm, s.team i.team = some tm → ∃ tm', (s.setGuard i slot g rel).team i.team = some tm' ∧
    tm'.guards = tm.guards.set slot.toFin g ∧ tm'.guardRel = tm.guardRel.set slot.toFin rel)

/-- 13_copy R212: a credit adds its bytes and arrivals; when both counts reach what is expected the phase flips and the expected
amounts are taken off; else the sums stay. The sums are exact before they are compared, whether or not they fit their fields. The expected
counts never change, and a credit's error stays. That the reserved bits stay as they stand is the model's choice (log 124). -/
def Obligations.CreditsFlipThePhaseWhenBothCountsAreReached : Prop :=
  (∀ res err ph arra expa arrb expb bytes arrivals e fresh, expa < 2 ^ 16 → expb < 2 ^ 32 → arra < 2 ^ 16 → arrb < 2 ^ 32 →
    expb ≤ arrb + bytes → expa ≤ arra + arrivals → arra + arrivals - expa < 2 ^ 16 → arrb + bytes - expb < 2 ^ 32 →
    creditSlate (slateOf res err ph arra expa arrb expb).toNat bytes arrivals e fresh =
      (slateOf res (e || err) (!ph) (arra + arrivals - expa) expa (arrb + bytes - expb) expb, true)) ∧
  (∀ res err ph arra expa arrb expb bytes arrivals e fresh, expa < 2 ^ 16 → expb < 2 ^ 32 → arra + arrivals < 2 ^ 16 →
    arrb + bytes < 2 ^ 32 → ¬ (expb ≤ arrb + bytes ∧ expa ≤ arra + arrivals) →
    creditSlate (slateOf res err ph arra expa arrb expb).toNat bytes arrivals e fresh =
      (slateOf res (e || err) ph (arra + arrivals) expa (arrb + bytes) expb, false))

/-! ## Commands, parcels and the matrix unit -/

/-- CPY, CRED, CPYM, CPYT and JPOST: when the checks pass the command waits for its entry in the core's queue. TDLD reads its
descriptor as a load does, and its group is held until the descriptor stands in the slot. An issued command gets a number of its own and joins the list of commands; its issue group is held
until it has entered the queue. -/
def Obligations.CopyEngineCommandsIssue : Prop :=
  (∀ u d a b e, Completes (.cpy u d a b e) (Issues (copyChecks (.cpy u d a b e) true d a b e) fun s tm th tids =>
    newCmd s tm th tids (.cpy e.dsp e.ssp (engAddr th e.dsp d) (engAddr th e.ssp a) (th.reg b).toNat) e.guard e.scope
      (slateFor s tm th e e.dsp (engAddr th e.dsp d)) (th.reg e.l).toNat (statusOf e th) .entering)) ∧
  (∀ u d a b ty e, Completes (.cred u d a b ty e) (Issues (copyChecks (.cred u d a b ty e) false d a b e) fun s tm th tids =>
    newCmd s tm th tids (.cred ty e.dsp e.ssp (engAddr th e.dsp d) (engAddr th e.ssp a) (th.reg b).toNat) e.guard e.scope
      (slateFor s tm th e e.dsp (engAddr th e.dsp d)) (th.reg e.l).toNat (statusOf e th) .entering)) ∧
  (∀ u d a b e, Completes (.cpym u d a b e) (Issues (multiChecks (.cpym u d a b e) d a b e) fun s tm th tids =>
    newCmd s tm th tids (.cpym (th.reg d).toNat e.ssp (engAddr th e.ssp a) ((th.reg b).extractLsb' 20 12) ((th.reg b).toNat % 2 ^ 20))
      e.guard e.scope (.team tm.id (th.reg e.l).toNat) (th.reg e.l).toNat (statusOf e th) .entering)) ∧
  (∀ u d a b st e, Completes (.cpyt u d a b st e) (Issues (tileChecks (.cpyt u d a b st e) st d a b e) fun s tm th tids =>
    newCmd s tm th tids (.cpyt st e.dsp (engAddr th e.dsp d) ((th.reg64 a).extractLsb' 0 32) ((th.reg64 a).extractLsb' 32 32)
      ((tm.tile (th.reg b)).getD 0)) e.guard e.scope
      (if st then .team tm.id (th.reg e.l).toNat else slateFor s tm th e e.dsp (engAddr th e.dsp d)) (th.reg e.l).toNat
      (statusOf e th) .entering)) ∧
  (∀ u a b e, Completes (.jpost u a b e) (Issues (jpostChecks (.jpost u a b e) a b e) fun s tm th tids =>
    newCmd s tm th tids (.jpost (th.reg64 a) (th.reg b)) e.guard e.scope (.team tm.id (th.reg e.l).toNat) (th.reg e.l).toNat
      (statusOf e th) .entering)) ∧
  (∀ u a b, Completes (.tdld u a b .global .global) (AtWord fun p tm s th tids t => ∃ s' sp, (th.reg b).toNat ≤ 15 ∧
    (th.reg64 a).toNat % 64 = 0 ∧ s.resolveVa tm th false true (th.reg64 a) .rd .plain .thread none = (s', .ok sp) ∧
    t = (s'.launch (sp.acc s' (.tdld u a b .global .global) p th tids (.tdesc ((th.reg b).extractLsb' 0 4).toFin) 64 .plain
      .thread)).addHold (.tile s'.fresh (Instr.tdld u a b .global .global).word0))) ∧
  (∀ (s : State) a slot w, a.phase = .done → tileOk (BitVec.ofNat 512 (natOfBytes a.got)) = true → s.tileLoaded a slot w =
    (s.dropAcc a.id).onTeam a.th.team fun x => { x with tiles := x.tiles.set slot (some (BitVec.ofNat 512 (natOfBytes a.got))) }) ∧
  (∀ (s : State) (c : Cmd) (f : PipeId) (p : Pipe), s.focus = some f → s.pipe f = some p → c.phase = .entering →
      (s.issue c).cmds = s.cmds ++ [c] ∧ (s.issue c).fresh = s.fresh + 1 ∧
      (s.issue c).pipe f = some { p with hold := p.hold ++ [.enter c.id] } ∧
      (s.issue c).threads = s.threads ∧ (s.issue c).teams = s.teams)

/-- PNEW, PADD, PQRY, PSEAL, PFREE (24_ref R415, R409, R418, R421, R410; 16_parcels R242 to R248), PRECV (24_ref R419, 16_parcels
R252) and POST (24_ref R417). PSEAL, PFREE and POST wait for the accesses that the parcel has accepted (16_parcels R242); that they then
look at the parcel's state again before they take effect is the model's reading (log 56). -/
def Obligations.ParcelInstructions : Prop :=
  (∀ d a, Completes (.pnew true d a) (AtWord fun _ tm s th tids t => th.reg a ≠ 0 ∧ (th.reg a).toNat ≤ 2 ^ 30 ∧
    t = (s.allocParcel tm (((th.reg a).toNat + 15) / 16 * 16)).1.writeRegs tm.id tids (d.regList 2)
      fun x => x.setReg64 d (s.allocParcel tm (((th.reg a).toNat + 15) / 16 * 16)).2)) ∧
  (∀ d a, Completes (.pnew false d a) (AtWord fun p tm s th tids t => th.reg a ≠ 0 ∧ (th.reg a).toNat ≤ 2 ^ 30 ∧
    (∀ l ∈ p.lanes.takeWhile (fun l => l != th.id.tid), ∀ x, s.thread (tidOf p l) = some x → x.reg64 d ≠ 0) ∧
    t = (s.allocParcel tm (((th.reg a).toNat + 15) / 16 * 16)).1.writeRegs tm.id tids (d.regList 2)
      fun x => x.setReg64 d (s.allocParcel tm (((th.reg a).toNat + 15) / 16 * 16)).2)) ∧
  (∀ d a, Completes (.pnew false d a) (AtWord fun p tm s th tids t => th.reg a ≠ 0 ∧ (th.reg a).toNat ≤ 2 ^ 30 ∧
    (∃ l ∈ p.lanes.takeWhile (fun l => l != th.id.tid), ∃ x, s.thread (tidOf p l) = some x ∧ x.reg64 d = 0) ∧
    t = s.writeRegs tm.id tids (d.regList 2) fun x => x.setReg64 d 0)) ∧
  (∀ u d a, FaultsWhen (.pnew u d a) fun _ _ _ th =>
    if th.reg a = 0 ∨ 2 ^ 30 < (th.reg a).toNat then some (fltWord 0x11 (.pnew u d a)) else none) ∧
  (∀ u d a b, Completes (.padd u d a b) (AtWord fun _ tm s th tids t => ∃ h, s.parcelRef tm (th.reg64 a) = .ok h ∧
    0 ≤ (bitsOf (th.reg64 a).toNat 0 32 : Nat) + (th.reg b).toInt ∧
    (bitsOf (th.reg64 a).toNat 0 32 : Nat) + (th.reg b).toInt ≤ (h.size : Int) ∧
    t = s.writeRegs tm.id tids (d.regList 2) fun x => x.setReg64 d
      (refOf h.idx h.gen (BitVec.ofInt 32 ((bitsOf (th.reg64 a).toNat 0 32 : Nat) + (th.reg b).toInt))))) ∧
  (∀ u d a fn, Completes (.pqry u d a fn) (AtWord fun _ tm s th tids t => ∃ i h,
    (s.die tm.id.core.die).refIndex (th.reg64 a) = some i ∧ (s.die tm.id.core.die).current tm.asid (th.reg64 a) = some h ∧
    t = s.writeRegs tm.id tids [d] fun x => x.setReg d (BitVec.ofNat 32
      (if fn = 0 then h.st.code else if fn = 1 then h.size else if fn = 2 then (s.die tm.id.core.die).flatBase h
        else (s.die tm.id.core.die).flatBase h / 2 ^ 32)))) ∧
  (∀ u d a, Completes (.pqry u d a 0) (AtWord fun _ tm s th tids t => ∃ i,
    (s.die tm.id.core.die).refIndex (th.reg64 a) = some i ∧ (s.die tm.id.core.die).current tm.asid (th.reg64 a) = none ∧
    t = s.writeRegs tm.id tids [d] fun x => x.setReg d 7)) ∧
  (∀ u a, Completes (.pseal u a) (AtWord fun _ tm s th tids t => ∃ h, s.parcelRef tm (th.reg64 a) = .ok h ∧
    (h.st = .open' ∨ h.st = .arrived) ∧
    t = if s.parcelBusy tm.id.core.die h.idx then s.addHold (.seal tids (th.reg64 a) u) else s.sealParcel tm.id.core.die h.idx)) ∧
  (∀ u a, Completes (.pfree u a) (AtWord fun _ tm s th tids t => ∃ h, s.parcelRef tm (th.reg64 a) = .ok h ∧
    h.st ≠ .transit ∧ h.st ≠ .free ∧
    t = if s.mayFree tm.id.core.die h.idx then s.freeParcel tm.id.core.die h.idx else s.addHold (.free tids (th.reg64 a) u))) ∧
  (∀ (s : State) p tm tids r u h, s.parcelRef tm r = .ok h → s.parcelEffect p tm (.seal tids r u) =
    (if h.st = .open' ∨ h.st = .arrived then s.sealParcel p.id.core.die h.idx
     else s.faultHeld p 1 u (fltAt (if h.st = .transit then 0x30 else 0x32) r) tids)) ∧
  (∀ (s : State) p tm tids r u h, s.parcelRef tm r = .ok h → h.st = .transit →
    s.parcelEffect p tm (.free tids r u) = s.faultHeld p 1 u (fltAt 0x30 r) tids) ∧
  (∀ u a l, Completes (.precv u a l .parcel .parcel) (AtWord fun _ tm s th tids t => ∃ h s', s.parcelRef tm (th.reg64 a) = .ok h ∧
    h.st = .open' ∧ firstFlt (slateChecks (some tm) (th.reg l)) = none ∧
    s' = s.onHandle tm.id.core.die h.idx (fun x =>
      { x with st := .receiving, clm := false, slate := (th.reg l).toNat, team := tm.id.slot, core := tm.id.core.num }) ∧
    t = s'.issue (newCmd s' tm th tids (.precv h.idx) 0 .thread (.team tm.id (th.reg l).toNat) (th.reg l).toNat none .entering))) ∧
  (∀ u d a b e, Completes (.post u d a b e) (AtWord fun _ tm s th tids t => ∃ s', firstFlt (postChecks (.post u d a b e) d a b e s tm th) = none ∧
    s.parcelBusy tm.id.core.die (bitsOf (th.reg64 a).toNat 52 12) = false ∧
    s' = s.onHandle tm.id.core.die (bitsOf (th.reg64 a).toNat 52 12) (fun h =>
      { h with st := .transit, route := th.reg d, dref := th.reg64 b, slate := (th.reg e.l).toNat, team := tm.id.slot,
               core := tm.id.core.num }) ∧
    t = s'.issue (newCmd s tm th tids (.post (th.reg64 a) (th.reg64 b) (th.reg d)) e.guard
      (if routeNet (th.reg d) then .sys else .domain) (.team tm.id (th.reg e.l).toNat) (th.reg e.l).toNat (statusOf e th) .entering))) ∧
  (∀ u d a b e, Completes (.post u d a b e) (AtWord fun _ tm s th tids t => firstFlt (postChecks (.post u d a b e) d a b e s tm th) = none ∧
    s.parcelBusy tm.id.core.die (bitsOf (th.reg64 a).toNat 52 12) = true ∧
    t = (s.issue (newCmd s tm th tids (.post (th.reg64 a) (th.reg64 b) (th.reg d)) e.guard
      (if routeNet (th.reg d) then .sys else .domain) (.team tm.id (th.reg e.l).toNat) (th.reg e.l).toNat (statusOf e th) .stopped)).addHold
        (.post tids (th.reg64 a) u s.fresh)))

/-- A reference that is not current raises 0x33 at PADD, PSEAL, PFREE and PWAIT; PADD out of the parcel raises 0x31; PSEAL and
PFREE of a parcel in transit raise 0x30; PSEAL, PFREE and PWAIT in another state that they do not allow raise 0x32. Each records
the reference. -/
def Obligations.StaleReferencesFault : Prop :=
  (∀ u d a b, FaultsWhen (.padd u d a b) fun _ tm s th =>
    match (s.die tm.id.core.die).current tm.asid (th.reg64 a) with
    | none => some (fltAt 0x33 (th.reg64 a))
    | some h => if (bitsOf (th.reg64 a).toNat 0 32 : Nat) + (th.reg b).toInt < 0 ∨
        (h.size : Int) < (bitsOf (th.reg64 a).toNat 0 32 : Nat) + (th.reg b).toInt then some (fltAt 0x31 (th.reg64 a)) else none) ∧
  (∀ u a, FaultsWhen (.pseal u a) fun _ tm s th =>
    match (s.die tm.id.core.die).current tm.asid (th.reg64 a) with
    | none => some (fltAt 0x33 (th.reg64 a))
    | some h => if h.st = .transit then some (fltAt 0x30 (th.reg64 a))
        else if h.st = .open' ∨ h.st = .arrived then none else some (fltAt 0x32 (th.reg64 a))) ∧
  (∀ u a, FaultsWhen (.pfree u a) fun _ tm s th =>
    match (s.die tm.id.core.die).current tm.asid (th.reg64 a) with
    | none => some (fltAt 0x33 (th.reg64 a))
    | some h => if h.st = .transit then some (fltAt 0x30 (th.reg64 a)) else if h.st = .free then some (fltAt 0x32 (th.reg64 a)) else none) ∧
  (∀ u a, FaultsWhen (.pwait u a) fun _ tm s th =>
    match (s.die tm.id.core.die).current tm.asid (th.reg64 a) with
    | none => some (fltAt 0x33 (th.reg64 a))
    | some h => if h.st = .receiving ∨ h.st = .arrived then none else some (fltAt 0x32 (th.reg64 a)))

/-- AALLOC takes the lowest run of unheld granule numbers, zeroed, or writes all ones where it finds none; an AFREE before it that waits for
nothing has taken effect, and the numbers of one that waits are held (22_ref R302). ORES makes a
reservation. AFREE, MZERO, OREL, MFEED, MLOOP and MDRAIN: a command whose checks pass enters the unit of its core. -/
def Obligations.MatrixInstructions : Prop :=
  (∀ d c, Completes (.aalloc d c) (AtWord fun _ tm s th tids t => ∃ u x, 1 ≤ (th.reg c).toNat ∧ (th.reg c).toNat ≤ 256 ∧
    u = s.settleFrees tm.id.core ∧ u.team tm.id = some x ∧
    (∀ g, g + (th.reg c).toNat ≤ 256 → ∃ k, k < (th.reg c).toNat ∧ u.unheld x (g + k) = false) ∧
    t = u.writeRegs tm.id tids [d] fun x => x.setReg d 0xFFFFFFFF)) ∧
  (∀ d c, Completes (.aalloc d c) (AtWord fun _ tm s th tids t => ∃ u x g n, n = (th.reg c).toNat ∧ 1 ≤ n ∧ n ≤ 256 ∧ g + n ≤ 256 ∧
    u = s.settleFrees tm.id.core ∧ u.team tm.id = some x ∧
    (∀ k, k < n → u.unheld x (g + k) = true) ∧ (∀ g', g' < g → ∃ k, k < n ∧ u.unheld x (g' + k) = false) ∧
    n ≤ (u.freeGranules tm.id.core).length ∧
    t = (((u.freeGranules tm.id.core).take n).foldl (fun s k => s.zeroGranule tm.id.core k)
      (u.onTeam tm.id fun x =>
        { x with gran := x.gran ++ (List.range n).map fun k => (g + k, (u.freeGranules tm.id.core).getD k 0) })).writeRegs
      tm.id tids [d] fun x => x.setReg d (BitVec.ofNat 32 g))) ∧
  (∀ d c, Completes (.aalloc d c) (AtWord fun _ tm s th tids t => ∃ u x g, 1 ≤ (th.reg c).toNat ∧ (th.reg c).toNat ≤ 256 ∧
    u = s.settleFrees tm.id.core ∧ u.team tm.id = some x ∧
    g + (th.reg c).toNat ≤ 256 ∧ (∀ k, k < (th.reg c).toNat → u.unheld x (g + k) = true) ∧
    (u.freeGranules tm.id.core).length < (th.reg c).toNat ∧ t = u.writeRegs tm.id tids [d] fun x => x.setReg d 0xFFFFFFFF)) ∧
  (∀ (s : State) (x : Team) g, s.unheld x g = true ↔ (∀ y ∈ x.gran, y.1 ≠ g) ∧
    ∀ c ∈ s.cmds, c.team = x.id → ∀ h n, c.op = .afree h n → g < h ∨ h + n ≤ g) ∧
  (∀ (s : State) core, s.cmds = [] → s.settleFrees core = s) ∧
  (∀ g count, Completes (.afree g count) (EntersUnit (fun _ tm th => granFault (.afree g count) tm (th.reg g).toNat count.toNat)
    (fun _ th => .afree (th.reg g).toNat count.toNat) 0 .thread (fun _ tm _ => .team tm.id 0) fun _ => none)) ∧
  (∀ g count, Completes (.mzero g count) (EntersUnit (fun _ tm th => granFault (.mzero g count) tm (th.reg g).toNat count.toNat)
    (fun _ th => .mzero (th.reg g).toNat count.toNat) 0 .thread (fun _ tm _ => .team tm.id 0) fun _ => none)) ∧
  (∀ a b c fmt gl rid rw, Sys2Proof.Machine.Fmt.plainInt fmt = false →
    Completes (.ores a b c fmt gl rid rw) (AtWord fun _ tm s th _ t =>
      (th.reg a).extractLsb' 26 6 = 0 ∧ (th.reg a).extractLsb' 9 7 = 0 ∧ 0 < (fld (th.reg a) 16 10).toNat ∧
      (fld (th.reg a) 0 9).toNat + (fld (th.reg a) 16 10).toNat ≤ 512 ∧ tm.resv[rid.toFin] = none ∧
      s.extentTaken tm.id.core (fld (th.reg a) 0 9).toNat (fld (th.reg a) 16 10).toNat = false ∧
      ((fmt = .q8 ∨ fmt = .q4) → (th.reg b).toNat % 2 = 0 ∧ tm.progOk (th.reg b).toNat 1 = true ∧ tm.progOk (th.reg c).toNat 1 = true) ∧
      t = s.onTeam tm.id fun x => { x with resv := x.resv.set rid.toFin (some
        { start := (fld (th.reg a) 0 9).toNat, len := (fld (th.reg a) 16 10).toNat, fmt := fmt, gl := gl, rw := rw, gcnt := 0,
          fill := 0, rcur := 0, soff := if fmt = .q8 ∨ fmt = .q4 then th.reg b else 0,
          zoff := if fmt = .q8 ∨ fmt = .q4 then th.reg c else 0 }) })) ∧
  (∀ rid, Completes (.orel rid) (EntersUnit
    (fun s tm _ => if (s.liveResv tm rid).isNone then some (fltWord 0x41 (.orel rid)) else none) (fun _ _ => .orel rid) 0 .thread
    (fun _ tm _ => .team tm.id 0) fun _ => none)) ∧
  (∀ a b rid e, e.ssp ≠ .global → Completes (.mfeed a b rid e) (EntersUnit
    (fun s tm th => firstFlt (feedChecks (.mfeed a b rid e) a b rid e s tm th))
    (fun _ th => .mfeed rid e.ssp ((th.reg a).setWidth 64) 0 (th.reg b).toNat) e.guard e.scope
    (fun _ tm th => .team tm.id (th.reg e.l).toNat) fun th => statusOf e th)) ∧
  (∀ a b rid e, e.ssp = .global → Completes (.mfeed a b rid e) (EntersUnit
    (fun s tm th => firstFlt (feedChecks (.mfeed a b rid e) a b rid e s tm th))
    (fun tm th => .mfeed rid .global (th.reg64 a) ((tm.tile (th.reg b)).getD 0) (tileBytes ((tm.tile (th.reg b)).getD 0))) e.guard e.scope
    (fun _ tm th => .team tm.id (th.reg e.l).toNat) fun th => statusOf e th)) ∧
  (∀ a b c lc, Completes (.mloop a b c lc) (AtWord fun _ tm s th tids t => ∃ ra rb, s.liveResv tm lc.arid = some ra ∧
    s.liveResv tm lc.brid = some rb ∧ 0 < (th.reg a).toNat ∧ (th.reg a).toNat ≤ 65535 ∧
    loopMismatch (th.reg a).toNat lc (some ra) (some rb) = false ∧ (ra.fmt = .f64 → (th.reg b).toNat % 2 = 0) ∧
    tm.holds (th.reg b).toNat (granCount lc.m lc.n (ra.fmt == .f64)) = true ∧
    firstFlt (slateChecks (some tm) (th.reg c) ++ guardChecks tm lc.guard) = none ∧
    t = s.enterMatrix tm th tids (.mloop (th.reg a).toNat (th.reg b).toNat lc.arid lc.brid lc.m lc.n lc.ak lc.bk) lc.guard .thread
      (.team tm.id (th.reg c).toNat) none)) ∧
  (∀ d a b zero e, Completes (.mdrain d a b zero e) (AtWord fun _ tm s th tids t => ∃ r, (th.reg b).toNat % 16 = 0 ∧
    tm.progOk (th.reg b).toNat 32 = true ∧ s.spadDamaged tm.id (th.reg b).toNat 32 = false ∧
    drainOf (BitVec.ofNat 256 (tm.spad.getNat (th.reg b).toNat 32)) zero (s.holds64 tm (th.reg a).toNat) = some r ∧
    firstFlt (drainChecks (.mdrain d a b zero e) (engAddr th e.dsp d) (th.reg a).toNat e r s tm th) = none ∧
    t = s.enterMatrix tm th tids (.mdrain e.dsp (engAddr th e.dsp d) (th.reg a).toNat r) e.guard e.scope
      (slateFor s tm th e e.dsp (engAddr th e.dsp d)) (statusOf e th)))

/-- MRST (24_ref R403, 14_matrix R232) resets the matrix unit of its core: no reservation of the core's teams is left, nor an
operand line, nor an accumulator byte; a team that holds a granule will raise 0x40. No MFEED, MLOOP, MDRAIN or OREL of the core is left in
flight: the slate of a discarded one is credited with ERR, an arrival for MLOOP and the bytes not credited yet for the others, and one with
a status offset then has its record with DONE, CAUSE 0x40 and FAIL bit 0. Without PRIV MRST raises 0x10 in every lane (05_encoding R96). -/
def Obligations.MatrixResetNeedsPriv : Prop :=
  (∀ u, Completes (.mrst u) fun s th _ t => t = s.matrixReset th.id.team.core) ∧
  (∀ (s : State) c, (∀ t ∈ (s.matrixReset c).teams, t.id.core = c → t.resv = Vector.replicate 8 none) ∧
    ((s.matrixReset c).core c).opbuf = [] ∧ ((s.matrixReset c).core c).acc = []) ∧
  (∀ (s : State) core k tm, s.cmds = [] → s.team k = some tm → k.core = core → (s.matrixReset core).team k =
    some { tm with resv := Vector.replicate 8 none, mrst := tm.mrst || !tm.gran.isEmpty }) ∧
  (∀ (s : State) core, ∀ c ∈ (s.matrixReset core).cmds, c.core = core → c.phase ≠ .finished →
    (∀ r sp a d n, c.op ≠ .mfeed r sp a d n) ∧ (∀ st g a b m n x y, c.op ≠ .mloop st g a b m n x y) ∧
    (∀ sp d g r, c.op ≠ .mdrain sp d g r) ∧ ∀ r, c.op ≠ .orel r) ∧
  (∀ (s : State) c st g a b m n x y k off tm, s.cmds = [c] → s.credits = [] → c.phase ≠ .finished → c.op = .mloop st g a b m n x y →
    c.slate = .team k off → s.team k = some tm → tm.spad.wf = true → slateMagic (s.slateVal k off) = true → c.status = none →
    (s.matrixReset c.core).slateVal k off = (creditSlate (s.slateVal k off) 0 1 true s.freed).1.toNat) ∧
  (∀ (s : State) c r sp a d n k off tm, s.cmds = [c] → s.credits = [] → c.phase ≠ .finished → c.op = .mfeed r sp a d n →
    c.slate = .team k off → s.team k = some tm → tm.spad.wf = true → slateMagic (s.slateVal k off) = true → c.status = none →
    (s.matrixReset c.core).slateVal k off = (creditSlate (s.slateVal k off) (c.op.bytes - c.credited) 0 true s.freed).1.toNat) ∧
  (∀ (s : State) c sp d g r k off so tm, s.cmds = [c] → s.credits = [] → c.phase ≠ .finished → c.op = .mdrain sp d g r →
    c.slate = .team k off → slateMagic (s.slateVal k off) = true → c.status = some so → s.team c.team = some tm → tm.spad.wf = true →
    ∃ t, (s.matrixReset c.core).team c.team = some t ∧
      t.spad.getN so 8 = bytesOfNat 8 ({ c with disc := false, cause := 0x40, fail := 1 } : Cmd).record.toNat) ∧
  (∀ (c : Cmd), c.record.getLsbD 63 = true ∧ c.record.getLsbD 62 = c.disc ∧ c.record.extractLsb' 32 8 = c.cause ∧
    c.record.extractLsb' 16 12 = c.nosl ∧ c.record.extractLsb' 0 12 = c.fail) ∧
  (∀ u s p tm, s.site = some (p, tm) → p.ran = [] → tm.priv = false →
    exec (.mrst u) s = .next ((s.faultLanes p (Instr.mrst u).uni (fltWord 0x10 (.mrst u)) p.lanes).past p (.mrst u)))

/-! ## Management -/

/-- Export and import tables, masks and maps (01_package R8 to R15): an entry written reads as written, and the others stay. GEN
of an export stands unless it is written; a write that clears V adds 1 to it and starts a revocation. The model's choices: a GEN that is
written together with a cleared V is the one written (log 82); a virtual die map entry is written while nothing of the die is resident and
no other number has the physical die, and the die's cores and translations then start afresh (log 83). -/
def Obligations.TablesMasksAndMapsReadAsWritten : Prop :=
  (∀ die idx bits s, ∃ t, exec (.importEntryWrite die idx bits) s = .next t ∧ (t.die die).importAt idx.val = bits ∧
    (∀ j, j ≠ idx.val → (t.die die).importAt j = (s.die die).importAt j) ∧ (∀ e, e ≠ die → t.die e = s.die e)) ∧
  (∀ die idx bits gen s, ∃ t, exec (.exportEntryWrite die idx bits gen) s = .next t ∧
    ((t.die die).exportAt idx.val).extractLsb' 0 112 = bits.extractLsb' 0 112 ∧
    ((t.die die).exportAt idx.val).extractLsb' 112 16 = gen.getD
      (if ((s.die die).exportAt idx.val).getLsbD 65 = true ∧ bits.getLsbD 65 = false then
        ((s.die die).exportAt idx.val).extractLsb' 112 16 + 1 else ((s.die die).exportAt idx.val).extractLsb' 112 16) ∧
    (t.die die).revoking = (s.die die).revoking ++
      (if ((s.die die).exportAt idx.val).getLsbD 65 = true ∧ bits.getLsbD 65 = false then [(idx.val, (s.die die).exportAt idx.val)] else []) ∧
    (∀ j, j ≠ idx.val → (t.die die).exportAt j = (s.die die).exportAt j)) ∧
  (∀ mask s, exec (.presentMaskWrite mask) s = .next { s with pkg := { s.pkg with present := mask } }) ∧
  (∀ n mask s, ∃ t, exec (.partitionMaskWrite n mask) s = .next t ∧ t.pkg.partitions.lookup n = some mask ∧
    ∀ m, m ≠ n → t.pkg.partitions.lookup m = s.pkg.partitions.lookup m) ∧
  (∀ acc bits s, acc ≠ s.pkg.accNum → ∃ t, exec (.diePresentMapWrite acc bits) s = .next t ∧ t.pkg.dieMap.lookup acc = some bits ∧
    ∀ a, a ≠ acc → t.pkg.dieMap.lookup a = s.pkg.dieMap.lookup a) ∧
  (∀ v p s, (∀ c ∈ s.clusters, c.die ≠ v) → (∀ w : Fin 8, w ≠ v → p ≠ none → s.pkg.vmap[w] ≠ p) →
    ∃ t, exec (.virtualDieMapWrite v p) s = .next t ∧ t.phys v = p ∧ (∀ w, w ≠ v → t.phys w = s.phys w) ∧ (t.die v).tlbs = [] ∧
      ∀ c : CoreId, c.die = v → t.core c = coreReset) ∧
  (∀ die host asid root s, ∃ t, exec (.rootWrite die host asid root) s = .next t ∧ (t.die die).root asid host = root ∧
    ∀ a h, (a ≠ asid ∨ h ≠ host) → (t.die die).root a h = (s.die die).root a h)

/-- Where the configuration registers lie is the model's choice (log 12), as is what a queue that is enabled afresh forgets: its outcomes, its
record count and that it has stopped (log 62). A register without behaviour keeps its value; a die's
watchdog window is at least 65,536 cycles, and 0 stands for 2^32. Enabling a queue starts it afresh, a doorbell moves the tail
of an enabled queue that has not stopped, and pre-emption stops the clusters of the queue's grids. -/
def Obligations.ConfigurationRegistersAndQueues : Prop :=
  (∀ fn off val s, fn ≠ 8 → off.toNat ≠ Config.watchdogReg → ∃ t, exec (.registerWrite fn off val) s = .next t ∧
    t.pkg.registers.find? (fun x => decide (x.1 = fn ∧ x.2.1 = off)) = some (fn, off, val) ∧ t.dies = s.dies) ∧
  (∀ fn off val s, fn ≠ 8 → off.toNat = Config.watchdogReg → (65536 ≤ val.toNat ∨ val = 0) → ∃ t,
    exec (.registerWrite fn off val) s = .next t ∧
    (t.die (Fin.ofNat 8 fn.val)).watchdog = if val = 0 then 2 ^ 32 else val.toNat) ∧
  (∀ fn off val s, fn ≠ 8 → off.toNat = Config.watchdogReg → val ≠ 0 → val.toNat < 65536 →
    exec (.registerWrite fn off val) s = .next s) ∧
  (∀ die q cfg s, cfg.en = true → ((s.die die).queue q.val).cfg.en = false → ∃ t, exec (.queueConfiguration die q cfg) s = .next t ∧
    (t.die die).queue q.val = { cfg := cfg, tail := 0, head := 0, rec' := 0, done := [], stopped := none } ∧
    ∀ k, k ≠ q.val → (t.die die).queue k = (s.die die).queue k) ∧
  (∀ die q cfg s, cfg.en = true → ((s.die die).queue q.val).cfg.en = true → ∃ t, exec (.queueConfiguration die q cfg) s = .next t ∧
    (t.die die).queue q.val = { (s.die die).queue q.val with cfg := cfg }) ∧
  (∀ die q tail s, ((s.die die).queue q.val).cfg.en = true → ((s.die die).queue q.val).stopped = none → ∃ t,
    exec (.queueDoorbell die q tail) s = .next t ∧ (t.die die).queue q.val = { (s.die die).queue q.val with tail := tail } ∧
    ∀ k, k ≠ q.val → (t.die die).queue k = (s.die die).queue k) ∧
  (∀ die q s, ∃ ids, exec (.queuePreemption die q) s = .next (s.stopClusters ids) ∧
    ∀ k, k ∈ ids ↔ ∃ c ∈ s.clusters, c.id = k ∧ c.die = die ∧ ∃ g n, s.grid c.grid = some g ∧ g.src = .queue q n)

/-- A shootdown drops the translations of its range at once (the model's reading, log 85) and completes when the accesses that used them
have gone. A revocation completes when nothing uses its pages. The host's completion of a residency request credits its slate, with ERR where
it refused. A legal pool configuration leaves every handle FREE with generation 0. Records taken from the report ring (its size
is the model's choice, log 8) make room, and held ones follow in their order. -/
def Obligations.TranslationAndPools : Prop :=
  (∀ die asid base len s, ∃ t x, exec (.shootdown die asid base len) s = .next t ∧
    (∀ e, e ∈ (t.die die).tlbs ↔ e ∈ (s.die die).tlbs ∧ ¬ (e.asid = asid ∧ e.vpn * 2 ^ (if e.big then 29 else 16) < base.toNat + len ∧
      base.toNat < e.vpn * 2 ^ (if e.big then 29 else 16) + 2 ^ (if e.big then 29 else 16))) ∧
    (t.die die).shoots = (s.die die).shoots ++ [x] ∧ x.id = s.fresh ∧ x.asid = asid ∧ x.base = base ∧ x.len = len) ∧
  (∀ die x s, (s.die die).shoots.find? (fun y => y.id = x.id) = some x → (∀ i ∈ x.accs, s.acc i = none) → (∀ i ∈ x.cmds, s.cmd i = none) →
    ∃ t, exec (.shootdownCompletion die x.id) s = .next t ∧ ∀ y ∈ (t.die die).shoots, y.id ≠ x.id) ∧
  (∀ die (idx : Fin 1024) e s, (s.die die).revoking.find? (fun x => x.1 = idx.val) = some (idx.val, e) → s.lines = [] → s.msgs = [] →
    s.accs = [] → s.asks = [] → (∀ c ∈ s.cmds, ∀ q ∈ c.pages, q.entry = none) → ∃ t, exec (.revocationComplete die idx) s = .next t ∧ (idx.val, e) ∉ (t.die die).revoking) ∧
  (∀ die (seq : BitVec 64) refused r s, (s.die die).residency.find? (fun x => x.seq = seq.toNat) = some r → ∃ t c,
    exec (.completionDoorbell die seq refused) s = .next t ∧ (∀ x ∈ (t.die die).residency, x.seq ≠ seq.toNat) ∧
    t.credits = s.credits ++ [c] ∧ c.at' = r.at' ∧ c.bytes = 0 ∧ c.arrivals = 1 ∧ c.err = refused) ∧
  (∀ die cfg s, Sys2Proof.Machine.PoolConfig.ok cfg = true → (∀ t ∈ s.threads, t.st ≠ .waiting) → ∃ t,
    exec (.poolConfiguration die cfg) s = .next t ∧ (t.die die).pool = some cfg ∧ (t.die die).handles = [] ∧ t.threads = s.threads) ∧
  (∀ die count s, (s.die die).reportsHeld = [] → ∃ t, exec (.faultReportRingSpace die count) s = .next t ∧
    (t.die die).reports = (s.die die).reports.drop count) ∧
  (∀ die count r rest s, (s.die die).reportsHeld = r :: rest →
    ((s.die die).reports.drop count).length + (r :: rest).length ≤ Config.reportRing → ∃ t,
    exec (.faultReportRingSpace die count) s = .next t ∧ (t.die die).reportsHeld = [] ∧
    (t.die die).reports = (s.die die).reports.drop count ++ r :: rest ∧
    (t.die die).interrupts = (s.die die).interrupts + (r :: rest).length)

/-- Debug actions (19_faults R279, R280, Table 19.5): MARK and UNMARK; KILL of a parked or FAULT-PENDING thread, whose own entry it frees;
CONTINUE and SKIP of a thread that is not parked are refused and change nothing but the report. A CONTINUE or a SKIP whose checks pass frees
the thread's entry, gives it the handler mode that the entry records, and lets it enrol where RESUME or RESUME.skip would. That the report of
an action stands in the die (`debug`) is the model's choice (log 69). -/
def Obligations.DebugActions : Prop :=
  (∀ i th s, s.thread i = some th → ∃ t, exec (.mark i) s = .next t ∧ t.thread i = some { th with mark := true } ∧
    (t.die i.team.core.die).debug = some .done) ∧
  (∀ i th s, s.thread i = some th → ∃ t, exec (.unmark i) s = .next t ∧ t.thread i = some { th with mark := false } ∧
    (t.die i.team.core.die).debug = some .done) ∧
  (∀ i th e s, s.thread i = some th → th.st = .parked → th.parkEntry = some e → exec (.killThread i) s =
    .next (((((s.onTeam i.team fun x => x.freeOwn e i.tid).acted i).onThread i fun u =>
      { u with fault := none, deferred := [], parkEntry := none, parkInfo := none }).exitThread i).onDie i.team.core.die
        fun d => { d with debug := some .done })) ∧
  (∀ i th s, s.thread i = some th → th.st = .faultPending → th.parkEntry = none → exec (.killThread i) s =
    .next ((((s.acted i).onThread i fun u => { u with fault := none, deferred := [], parkEntry := none, parkInfo := none }).exitThread
      i).onDie i.team.core.die fun d => { d with debug := some .done })) ∧
  (∀ i th s, s.thread i = some th → th.st ≠ .parked →
    exec (.continueThread i) s = .next ((s.acted i).onDie i.team.core.die fun d => { d with debug := some .condition }) ∧
    exec (.skipThread i) s = .next ((s.acted i).onDie i.team.core.die fun d => { d with debug := some .condition })) ∧
  (∀ i th e tm u b w r s, s.thread i = some th → th.st = .parked → th.parkEntry = some e → s.team i.team = some tm →
    s.resumePoint tm i.tid e false 0 = (u, .ok (b, w, r)) →
    exec (.continueThread i) s = .next ((((((u.acted i).onTeam i.team fun x => x.freeEntry e).onThread i fun x =>
      { x with hm := tm.entryField e 190 1 == 1, handEntry := if tm.entryField e 190 1 == 1 then x.handEntry else none,
               parkEntry := none, parkInfo := none }).enrol i b w r).onDie i.team.core.die fun d => { d with debug := some .done }))) ∧
  (∀ i th e tm u b w r f s, s.thread i = some th → th.st = .parked → th.parkEntry = some e → s.team i.team = some tm →
    th.parkInfo = some f → f.cause ≠ 0x52 → s.resumePoint tm i.tid e true 0 = (u, .ok (b, w, r)) →
    exec (.skipThread i) s = .next ((((((u.acted i).onTeam i.team fun x => x.freeEntry e).onThread i fun x =>
      { x with hm := tm.entryField e 190 1 == 1, handEntry := if tm.entryField e 190 1 == 1 then x.handEntry else none,
               parkEntry := none, parkInfo := none }).enrol i b w r).onDie i.team.core.die fun d => { d with debug := some .done }))) ∧
  (∀ (tm : Team) e tid, tm.entryV e = true → tm.entryField e 178 11 = tid → tm.freeOwn e tid = tm.freeEntry e) ∧
  (∀ (tm : Team) e tid, tm.entryV e = false ∨ tm.entryField e 178 11 ≠ tid → tm.freeOwn e tid = tm)

/-- Firmware (21_outside R292 to R297): a boot keeps pool and host memory and leaves nothing resident or cached, and a compute die
without an image whose key and signature verify and whose version is not below the fused minimum does not come up; attestation answers; the clock moves in
steps of 100 between its bounds; a re-plan sets rails and retires the cores whose margin fails; a failed Ethernet port no longer works. The
model's choices: the identity map after a boot (log 13), what a boot keeps and that nothing is cached after it (logs 24, 25), and that a
planned voltage or clock outside its range becomes the nearer end of it (log 115). -/
def Obligations.FirmwareEvents : Prop :=
  (∀ r s, ∃ t, exec (.coldBoot r) s = .next t ∧ t.pool = s.pool ∧ t.host = s.host ∧ t.threads = [] ∧ t.teams = [] ∧ t.lines = [] ∧ t.l3 = [] ∧
    t.accs = [] ∧ t.cmds = [] ∧ t.pkg.accNum = s.pkg.accNum ∧
    ∀ d : Fin 8, t.phys d = if Sys2Proof.Machine.BootResult.dieOk r d then some d else none) ∧
  (∀ (r : BootResult) (d : Fin 8), (∀ m ∈ r.images, m.die = 4 + d.val → ¬ (Config.sha256 (bytesOfNat 64 m.key.toNat) = Config.keyHash ∧
    Config.verifies m.key (Config.sha256 m.bytes) m.sig = true ∧ Config.minVersion ≤ m.version)) →
    Sys2Proof.Machine.BootResult.dieOk r d = false) ∧
  (∀ s, exec .spdmGetCertificate s = .next { s with pkg := { s.pkg with chain := Config.certChain } }) ∧
  (∀ s, exec .spdmGetMeasurements s = .next { s with pkg := { s.pkg with response := s.measurements } }) ∧
  (∀ nonce s, exec (.spdmSignedReport nonce) s = .next { s with pkg := { s.pkg with
    response := s.measurements ++ [Config.sign nonce s.measurements] } }) ∧
  (∀ die s, ∃ t, exec (.powerLimitStep die true) s = .next t ∧ t.pkg.coreRails[die].clock = min (s.pkg.coreRails[die].clock + 100) Config.maxClock) ∧
  (∀ die s, ∃ t, exec (.powerLimitStep die false) s = .next t ∧ t.pkg.coreRails[die].clock = max (s.pkg.coreRails[die].clock - 100) Config.minClock) ∧
  (∀ margin (r : Replan) s, s.grids = [] → ∃ t, exec (.marginReplan margin r) s = .next t ∧
    ∀ c, c ∈ t.pkg.retiredCores ↔ c ∈ s.pkg.retiredCores ∨ (c ∈ r.failed ∧ c ∉ s.pkg.fused)) ∧
  (∀ margin (r : Replan) (d : Fin 8) v k s, s.grids = [] → r.plan = [{ rail := .core d, volt := v, clock := k }] →
    ∃ t, exec (.marginReplan margin r) s = .next t ∧
    t.pkg.coreRails[d] = { volt := inRange Config.minVolt Config.maxVolt v, clock := inRange Config.minClock Config.maxClock k } ∧
    ∀ e : Fin 8, e ≠ d → t.pkg.coreRails[e] = s.pkg.coreRails[e]) ∧
  (∀ lo hi x, lo ≤ hi → lo ≤ inRange lo hi x ∧ inRange lo hi x ≤ hi ∧ (lo ≤ x → x ≤ hi → inRange lo hi x = x)) ∧
  (∀ (port : Fin 4) s, ∃ t, exec (.ethernetPortFailure port) s = .next t ∧
    ∀ k : Fin 4, t.pkg.eth.getLsbD k.val = (s.pkg.eth.getLsbD k.val && decide (k ≠ port)))

/-! ## Threads, clauses, the selector -/

/-- A draining thread that has no load, fault or store of its own to wait for enrols, exits, waits, or resumes, as the end of
its block said; a thread with a load outstanding stays. An arrival at a barrier is recorded, and the barrier is left as it is
while a thread of the team has not arrived. When every thread of the team, or of the cluster, that has not exited has arrived, each of
them that carries no frame-step mark enrols at the block after its own, and no arrival is left. -/
def Obligations.DrainsAndBarriers : Prop :=
  (∀ i th b w s, s.thread i = some th → s.mayMove th = true → th.after = .enrol b w →
    exec (.drainComplete i) s = .next (s.enrolNext i b w none)) ∧
  (∀ i th s, s.thread i = some th → s.mayMove th = true → th.after = .exit → exec (.drainComplete i) s = .next (s.exitThread i)) ∧
  (∀ i th k b w s, s.thread i = some th → s.mayMove th = true → th.after = .wait k b w → exec (.drainComplete i) s =
    .next ((s.onThread i fun x => { x with st := .waiting }).tryWait i k)) ∧
  (∀ i th skip w s, s.thread i = some th → s.mayMove th = true → th.after = .resume skip w → exec (.drainComplete i) s =
    .next (s.resumeNow th skip w)) ∧
  (∀ i th a s, s.thread i = some th → a ∈ s.accs → a.th.team = i.team → i.tid ∈ a.lanes → a.ctr ≠ none →
    exec (.drainComplete i) s = .next s) ∧
  (∀ i th s, s.thread i = some th → s.mayArrive th = true → th.waitsFor .team = true →
    exec (.barrierArrival i) s = .next ((s.onThread i fun x => { x with arrived := true }).teamBarrier i.team)) ∧
  (∀ i th tm s, s.thread i = some th → s.mayArrive th = true → th.waitsFor .team = false → s.team i.team = some tm →
    exec (.barrierArrival i) s = .next ((s.onThread i fun x => { x with arrived := true }).clusterBarrier tm.cluster)) ∧
  (∀ (s : State) k u, u ∈ s.threads → u.id.team = k → u.st ≠ .exited → (u.waitsFor .team && u.arrived) = false → s.teamBarrier k = s) ∧
  (∀ (s : State) k, (∀ u ∈ s.threads, u.id.team = k → u.st ≠ .exited → u.waitsFor .team = true ∧ u.arrived = true ∧ u.mark = false) →
    ∀ u next w, s.thread u.id = some u → u.id.team = k → u.st ≠ .exited → u.after = .wait .team next w →
      (s.teamBarrier k).thread u.id = some { u with st := .enrolled, block := next, coll := flag w 27, after := .none, arrived := false,
                                                    age := 0, resume := none, t := Vector.replicate 32 0 }) ∧
  (∀ (s : State) k, (∀ u ∈ s.threads, (∃ t ∈ s.teams, t.cluster = k ∧ t.id = u.id.team) → u.st ≠ .exited →
      u.waitsFor .cluster = true ∧ u.arrived = true ∧ u.mark = false) →
    ∀ u next w, s.thread u.id = some u → (∃ t ∈ s.teams, t.cluster = k ∧ t.id = u.id.team) → u.st ≠ .exited →
      u.after = .wait .cluster next w →
      (s.clusterBarrier k).thread u.id = some { u with st := .enrolled, block := next, coll := flag w 27, after := .none, arrived := false,
                                                       age := 0, resume := none, t := Vector.replicate 32 0 })

/-- A thread whose fault is due, and for whose team an entry is free, writes header and frame into the lowest free entry, laid
out as in Table 19.2. Outside handler mode, with a handler and a cause other than 0x51 and 0x52, it enters the handler block in
handler mode with the entry's offset in k56:k57. In handler mode, with cause 0x51 or 0x52, or without a handler, it parks and the die
reports it with the entry's offset (19_faults R276). With no entry free it becomes FAULT-PENDING, and the report has all ones. The handler
block's word is fetched first. -/
def Obligations.FaultsEnterTheHandlerOrPark : Prop :=
  (∀ i th tm f e h s u w, s.thread i = some th → s.mayRecord th = true → s.handlerWord i.team = (u, some w) → u.thread i = some th →
    u.team i.team = some tm → th.faultNow = some f → tm.freeSlot = some e → tm.handler = some h → th.hm = false → f.cause ≠ 0x51 →
    f.cause ≠ 0x52 →
    exec (.faultRecord i) s = .next ((((((u.onTeam i.team fun t => { t with seq := t.seq + 1 }).spadWrite i.team (tm.entryAt e)
      (faultEntry tm.seq th f)).onThread i fun t =>
        { (({ t with fault := none, deferred := [], after := .none } : Thread).setReg64 (.k 56) (BitVec.ofNat 64 (tm.entryAt e))) with
          hm := true, handEntry := some e }).repair (.kreg i 56)).repair (.kreg i 57)).enrol i h w none)) ∧
  (∀ i th tm f e s u w, s.thread i = some th → s.mayRecord th = true → s.handlerWord i.team = (u, some w) → u.thread i = some th →
    u.team i.team = some tm → th.faultNow = some f → tm.freeSlot = some e →
    (th.hm = true ∨ f.cause = 0x51 ∨ f.cause = 0x52 ∨ tm.handler = none) →
    exec (.faultRecord i) s = .next ((((u.onTeam i.team fun t => { t with seq := t.seq + 1 }).spadWrite i.team (tm.entryAt e)
      (faultEntry tm.seq th f)).onThread i fun t =>
        { t with fault := none, deferred := [], after := .none, st := .parked, parkEntry := some e, parkInfo := some f }).teamReport
      i.team f.cause i.tid false (BitVec.ofNat 32 (tm.entryAt e)))) ∧
  (∀ i th tm f s u w, s.thread i = some th → s.mayRecord th = true → s.handlerWord i.team = (u, some w) → u.thread i = some th →
    u.team i.team = some tm → th.faultNow = some f → tm.freeSlot = none → th.st ≠ .faultPending →
    exec (.faultRecord i) s = .next ((u.onThread i fun t =>
      { t with st := .faultPending, fault := some f, deferred := [], after := .none, parkInfo := some f, age := 0 }).teamReport
      i.team f.cause i.tid false 0xFFFFFFFF)) ∧
  (∀ (s : State) k tm, s.team k = some tm → tm.handler = none → s.handlerWord k = (s, some 0)) ∧
  (∀ (s : State) k tm h u w, s.team k = some tm → tm.handler = some h → s.fetchWord k.core tm.asid h = (u, .ok w) →
    s.handlerWord k = (u, some w)) ∧
  (∀ (s : State) k tm h u x, s.team k = some tm → tm.handler = some h → s.fetchWord k.core tm.asid h = (u, .error (notYet, x)) →
    s.handlerWord k = (u, none)) ∧
  (∀ i th s u, s.thread i = some th → s.mayRecord th = true → s.handlerWord i.team = (u, none) →
    exec (.faultRecord i) s = .next u.kick) ∧
  (∀ (tm : Team) e, tm.freeSlot = some e → e < tm.blot ∧ tm.entryV e = false ∧ ∀ d, d < e → tm.entryV d = true) ∧
  (∀ seq (th : Thread) f, (faultEntry seq th f).length = 256 ∧
      (faultHeader seq th f).extractLsb' 0 64 = f.block ∧ (faultHeader seq th f).extractLsb' 64 64 = f.addr ∧
      (faultHeader seq th f).extractLsb' 128 32 = f.extra ∧ (faultHeader seq th f).extractLsb' 160 8 = f.cause ∧
      (faultHeader seq th f).extractLsb' 168 10 = BitVec.ofNat 10 f.widx ∧
      (faultHeader seq th f).extractLsb' 178 11 = BitVec.ofNat 11 th.id.tid ∧
      (faultHeader seq th f).getLsbD 189 = f.u ∧ (faultHeader seq th f).getLsbD 190 = th.hm ∧
      (faultHeader seq th f).getLsbD 191 = true ∧ (faultHeader seq th f).extractLsb' 192 8 = th.p ∧
      (faultHeader seq th f).extractLsb' 200 32 = seq)

/-- Issue (02_execution R22, R29, 03_selector R42, R47): CORE_CYCLE counts; a clause whose header is legal and whose conditions
every thread meets issues, and its group stands at the clause's first word; a selector that a spill holds, or that has
dispatched in this cycle, does nothing; else
what it chooses goes to a free pipe. -/
def Obligations.CyclesClausesAndDispatch : Prop :=
  (∀ core s, (s.core core).due = [] → ∃ t, exec (.coreCycle core) s = .next t ∧ (t.core core).lcyc = (s.core core).lcyc + 1 ∧
    (t.core core).busy = (s.core core).busy - 1 ∧ (t.core core).picked = false ∧ t.threads = s.threads.map fun x => if x.id.team.core = core then x.tick else x) ∧
  (∀ pid p tm u w s, s.pipe pid = some p → p.hold = [] → p.clause = none → s.team p.team = some tm →
    (∀ l ∈ p.lanes, ∀ th, s.thread (tidOf p l) = some th → th.deferred = []) → s.wordAt tm p.block p.widx = (u, .ok w) →
    headerCause p w = none → s.clauseReady p w = true →
    exec (.clauseIssue pid) s = .next { u.onPipe pid (fun q =>
      { q with clause := some { cls := w.extractLsb' 25 3, fin := p.widx + 1 + (fld w 28 4).toNat, uchk := tm.tctl.getLsbD 0, tctl := tm.tctl },
               widx := p.widx + 1 }) with focus := some pid }) ∧
  (∀ core s, 0 < (s.core core).busy → exec (.selectorDispatch core) s = .next s) ∧
  (∀ core s, (s.core core).picked = true → exec (.selectorDispatch core) s = .next s) ∧
  (∀ core pid c guard s, (s.core core).busy = 0 → (s.core core).picked = false → s.oldestSpilled core = none → s.freePipe core = some pid →
    choose s.policy core (s.core core).served (s.cands core) none = .take c guard →
    exec (.selectorDispatch core) s = .next (s.dispatch pid c guard))

/-- 03_selector R47, with nothing spilled: while a candidate's oldest waiter has reached the guard age, the choice is a
candidate than which none is older; else the choice lies in the first team slot in rotation, after the one last served, that has
a candidate. -/
def Obligations.TheSelectorServesTheOldestThenRotates : Prop :=
  (∀ pol core served cs, (∃ d ∈ cs, Config.guardAge ≤ d.key.1) →
    ∃ c ∈ cs, choose pol core served cs none = .take c true ∧ ∀ d ∈ cs, older d.key c.key = false) ∧
  (∀ pol core served cs, (∀ d ∈ cs, d.key.1 < Config.guardAge) → cs ≠ [] →
    ∃ c ∈ cs, choose pol core served cs none = .take c false ∧
      ∀ d ∈ cs, (c.e.team.val + 63 - served % 64) % 64 ≤ (d.e.team.val + 63 - served % 64) % 64) ∧
  (∀ pol core served, choose pol core served [] none = .nothing)

/-! ## Engines and the matrix unit -/

/-- The copy engine (13_copy R208, R212, R216): a credit reaches its slate when what it waits for has performed; a completion
record is written when every credit of the command has gone; a command enters while an entry is free; the events of a running
command. -/
def Obligations.EngineEvents : Prop :=
  (∀ id c k off s, s.credits.find? (fun x => x.id = id) = some c → s.creditReady c = true → c.at' = .team k off →
    exec (.slateCredit id) s = .next (({ s with credits := s.credits.filter fun x => !decide (x.id = id) } : State).creditNow c)) ∧
  (∀ id c s, s.cmd id = some c → c.phase = .finished → (∀ x ∈ s.credits, x.cmd ≠ some id) → s.slateSaved c.slate = false → c.status = none →
    exec (.engineCompletionRecord id) s = .next { s with cmds := s.cmds.filter fun x => !decide (x.id = id) }) ∧
  (∀ id c off s, s.cmd id = some c → c.phase = .finished → (∀ x ∈ s.credits, x.cmd ≠ some id) → s.slateSaved c.slate = false →
    c.status = some off → exec (.engineCompletionRecord id) s = .next
      { s.spadWrite c.team off (bytesOfNat 8 c.record.toNat) with cmds := s.cmds.filter fun x => !decide (x.id = id) }) ∧
  (∀ core c s, s.cmds.find? (fun c => decide (c.core = core ∧ c.phase = .entering) && s.pipes.all fun p => p.mayEnter c.id) = some c →
    (s.cmds.filter fun c => decide (c.core = core) && !c.op.isMatrix && (c.phase == .queued || c.phase == .running)).length
      < Config.engineQueue →
    exec (.commandEnter core) s = .next (s.enterNow c.id)) ∧
  (∀ (s : State) c, s.cmds = [c] → (s.enterNow c.id).cmds = [{ c with phase := .queued }]) ∧
  (∀ core c s, s.queueHead core = some c → exec (.commandStart core) s = .next ((s.stepHead c).stepMatrix core).kick) ∧
  (∀ id c dsp ssp d a n s, s.cmd id = some c → c.op = .cpy dsp ssp d a n →
    exec (.engineSourceRead id) s = .next (s.copyRead c).kick) ∧
  (∀ id c dsp ssp d a n s, s.cmd id = some c → c.op = .cpy dsp ssp d a n → c.phase = .running →
    exec (.engineUnitWrite id []) s = .next (s.copyStep c).kick)

/-- The matrix unit (14_matrix R222 to R232): a fed line enters in order, a loop takes its steps; MZERO clears the granules it
names, AFREE returns them, OREL frees the reservation, each once nothing earlier needs them; a unit without progress for a
watchdog window is reset. -/
def Obligations.MatrixEvents : Prop :=
  (∀ id c rid ssp a d n tm r s, s.cmd id = some c → c.op = .mfeed rid ssp a d n → s.cmdTeam c = some tm → tm.resv[rid.toFin] = some r →
    c.phase = .running → r.fill < r.len → (c.bad = true ∨ c.rd = c.units.length) → s.feedWaits c rid = false →
    exec (.mfeedLineEnter id) s = .next (s.enterLine c rid r)) ∧
  (∀ id c steps g a b m n ak bk tm ra rb s, s.cmd id = some c → c.op = .mloop steps g a b m n ak bk → s.cmdTeam c = some tm →
    tm.resv[a.toFin] = some ra → tm.resv[b.toFin] = some rb → c.phase = .running →
    exec (.mloopStep id) s = .next (s.loopStep c tm steps g a b m n ak bk ra rb)) ∧
  (∀ id c g n tm s, s.cmd id = some c → c.op = .mzero g n → s.cmdTeam c = some tm → s.granWaits c tm = false →
    exec (.mzeroEffect id) s = .next (((List.range n).foldl (fun s k =>
      match tm.accPhys (1024 * (g + k)) with
      | some p => s.zeroGranule tm.id.core (p / 1024)
      | none => s) s).dropCmd id)) ∧
  (∀ id c g n tm s, s.cmd id = some c → c.op = .afree g n → s.cmdTeam c = some tm → s.granWaits c tm = false →
    s.copyInRange c g n = false → exec (.afreeEffect id) s = .next ((s.onTeam tm.id fun t =>
      { t with gran := t.gran.filter fun x => !decide (g ≤ x.1 ∧ x.1 < g + n) }).dropCmd id)) ∧
  (∀ id c rid tm s, s.cmd id = some c → c.op = .orel rid → s.cmdTeam c = some tm → s.earlier c = [] →
    exec (.orelEffect id) s = .next ((s.onTeam tm.id fun t => { t with resv := t.resv.set rid.toFin none }).dropCmd id)) ∧
  (∀ core s, (s.die core.die).watchdog ≤ (s.core core).progress → exec (.matrixWatchdogExpiry core) s = .next (s.matrixReset core)) ∧
  (∀ core s, (s.core core).progress < (s.die core.die).watchdog → exec (.matrixWatchdogExpiry core) s = .next s)

/-! ## Coherence trees -/

/-- Reads on their way (08_coherence R156 to R160). A catchable read is caught by a stable entry, held by one that is
cut-pending, and goes on where there is none; a steered read is held by an entry that is cut-pending (R164), else it is served by a local holder, else goes along the link of least
hint, else turns into a direct read; a direct read goes on to the home without being caught, but for an entry that is cut-pending, which
holds it (R164). Which events count as a use of an entry is the model's choice (log 122). -/
def Obligations.TreeReads : Prop :=
  (∀ id m e s, s.msg id = some m → s.firstOn m = true → m.kind = .catchable → s.treeAt m.at' m.line = some e → e.st = false →
    exec (.catchableRead id) s = .next (((s.useTree m.at' m.line).dropMsg m.id).send
      { m with kind := .steered, caught := some m.path.length, held := false }).kick) ∧
  (∀ id m e s, s.msg id = some m → s.firstOn m = true → m.kind = .catchable → s.treeAt m.at' m.line = some e → e.st = true →
    exec (.catchableRead id) s = .next (s.holdMsg m).kick) ∧
  (∀ id m p s, s.msg id = some m → s.firstOn m = true → m.kind = .catchable → s.treeAt m.at' m.line = none →
    nextPort (homeOf m.line) m.at' = some p → exec (.catchableRead id) s = .next (s.forward m p).kick) ∧
  (∀ id m s, s.msg id = some m → s.firstOn m = true → m.kind = .catchable → s.treeAt m.at' m.line = none →
    nextPort (homeOf m.line) m.at' = none → exec (.catchableRead id) s = .next (s.homeRead m).kick) ∧
  (∀ id m e s, s.msg id = some m → s.firstOn m = true → m.kind = .steered → s.treeAt m.at' m.line = some e → e.st = true →
    exec (.steeredRead id) s = .next (s.holdMsg m).kick) ∧
  (∀ id m e x s, s.msg id = some m → s.firstOn m = true → m.kind = .steered → s.treeAt m.at' m.line = some e → e.st = false →
    s.localHolder m.at' e m.line m.req = some x → x.busy = none → exec (.steeredRead id) s = .next (s.serveFrom m x).kick) ∧
  (∀ id m e p s, s.msg id = some m → s.firstOn m = true → m.kind = .steered → s.treeAt m.at' m.line = some e → e.st = false →
    s.localHolder m.at' e m.line m.req = none → e.steerPort m.port = some p →
    exec (.steeredRead id) s = .next (s.forward m p).kick) ∧
  (∀ id m s, s.msg id = some m → s.firstOn m = true → m.kind = .steered → s.treeAt m.at' m.line = none →
    exec (.steeredRead id) s = .next ((s.dropMsg m.id).send { m with kind := .direct, held := false }).kick) ∧
  (∀ id m p s, s.msg id = some m → s.firstOn m = true → m.kind = .direct → nextPort (homeOf m.line) m.at' = some p →
    s.cutPending m.at' m.line = false → exec (.directRead id) s = .next (s.forward m p).kick) ∧
  (∀ id m p s, s.msg id = some m → s.firstOn m = true → m.kind = .direct → nextPort (homeOf m.line) m.at' = some p →
    s.cutPending m.at' m.line = true → exec (.directRead id) s = .next (s.holdMsg m).kick) ∧
  (∀ id m s, s.msg id = some m → s.firstOn m = true → m.kind = .direct → nextPort (homeOf m.line) m.at' = none →
    s.treeAt m.at' m.line = none → exec (.directRead id) s = .next (s.homeRead m).kick)

/-- Replies, grants and prunes (08_coherence R158, R161, R162): a grant splices at every router of its path, installs M at the
requester, and waits where no way is free or a way is being trimmed; a prune clears the link that it came by, but for one that has crossed
a reply which makes the branch anew (the model's reading of R155, log 118), and one that comes through ROOT only asks for the test of R162
(log 17). -/
def Obligations.TreeRepliesGrantsAndPrunes : Prop :=
  (∀ id m d flagged excl hops holder s, s.msg id = some m → s.firstOn m = true → m.kind = .reply d flagged excl hops holder →
    exec (.readReply id) s = .next (s.replyStep m d flagged excl hops holder).kick) ∧
  (∀ id m d (u : State) s, s.msg id = some m → s.firstOn m = true → m.kind = .grant d → s.splice m m.port 7 m.onward false = .got u () →
    exec (.grant id) s = .next (u.replyOn m (.grant d) fun s => s.install m.req m.line .m d).kick) ∧
  (∀ id m d s, s.msg id = some m → s.firstOn m = true → m.kind = .grant d → s.splice m m.port 7 m.onward false = .dead →
    exec (.grant id) s = .next s.kick) ∧
  (∀ id m d (u : State) s, s.msg id = some m → s.firstOn m = true → m.kind = .grant d → s.splice m m.port 7 m.onward false = .wait u →
    exec (.grant id) s = .next (u.awaitWay m).kick) ∧
  (∀ id m e s, s.msg id = some m → s.firstOn m = true → m.kind = .prune → (s.dropMsg m.id).treeAt m.at' m.line = some e →
    (s.dropMsg m.id).branchLives m.at' m.line m.port = true → exec (.prune id) s = .next (s.dropMsg m.id).kick) ∧
  (∀ id m e s, s.msg id = some m → s.firstOn m = true → m.kind = .prune → (s.dropMsg m.id).treeAt m.at' m.line = some e →
    (s.dropMsg m.id).branchLives m.at' m.line m.port = false → e.st = true → e.root ≠ .self → e.root ≠ m.port →
    exec (.prune id) s = .next ((s.dropMsg m.id).onTree m.at' m.line fun e => e.clearLink m.port).kick) ∧
  (∀ id m e s, s.msg id = some m → s.firstOn m = true → m.kind = .prune → (s.dropMsg m.id).treeAt m.at' m.line = some e →
    (s.dropMsg m.id).branchLives m.at' m.line m.port = false → e.st = false → e.root ≠ .self → e.root ≠ m.port →
    exec (.prune id) s = .next (((s.dropMsg m.id).onTree m.at' m.line fun e => e.clearLink m.port).pruneTest m.at' m.line).kick) ∧
  (∀ id m e s, s.msg id = some m → s.firstOn m = true → m.kind = .prune → (s.dropMsg m.id).treeAt m.at' m.line = some e →
    (s.dropMsg m.id).branchLives m.at' m.line m.port = false → e.st = false → e.root ≠ .self → e.root = m.port →
    exec (.prune id) s = .next ((s.dropMsg m.id).pruneTest m.at' m.line).kick)

/-- Ownership and cuts (08_coherence R161, R163, R164): a request goes on to the home, which handles one of a line at a time; a
cut invalidates the holders beside its router, goes out of every branch, and is acknowledged when nothing is awaited, at once
where there is no entry (the model's reading, log 30), or where it comes by another port than ROOT (log 17); it waits at a holder that an
engine write keeps. A cut-pending entry holds a request, and so does the home that has no entry while the folio is not in E. -/
def Obligations.TreeOwnershipAndCuts : Prop :=
  (∀ id m p s, s.msg id = some m → s.firstOn m = true → m.kind = .own → nextPort (homeOf m.line) m.at' = some p →
    s.cutPending m.at' m.line = false → exec (.ownershipRequest id) s = .next (s.forward m p).kick) ∧
  (∀ id m s, s.msg id = some m → s.firstOn m = true → m.kind = .own → s.cutPending m.at' m.line = true →
    exec (.ownershipRequest id) s = .next (s.holdMsg m).kick) ∧
  (∀ id m s, s.msg id = some m → s.firstOn m = true → m.kind = .own → nextPort (homeOf m.line) m.at' = none → s.homeBusy m.line = true →
    exec (.ownershipRequest id) s = .next (s.holdMsg m).kick) ∧
  (∀ id m s, s.msg id = some m → s.firstOn m = true → m.kind = .own → nextPort (homeOf m.line) m.at' = none → s.homeBusy m.line = false →
    s.treeAt m.at' m.line = none → m.line.mem = .pool → (s.want m.line .e).folioOpenE m.line = true →
    exec (.ownershipRequest id) s = .next (((s.want m.line .e).dropMsg m.id).addJob m.line (.own m)).kick) ∧
  (∀ id m s, s.msg id = some m → s.firstOn m = true → m.kind = .own → nextPort (homeOf m.line) m.at' = none → s.homeBusy m.line = false →
    s.treeAt m.at' m.line = none → m.line.mem = .pool → (s.want m.line .e).folioOpenE m.line = false →
    exec (.ownershipRequest id) s = .next ((s.want m.line .e).holdMsg m).kick) ∧
  (∀ id m e s, s.msg id = some m → s.firstOn m = true → m.kind = .own → nextPort (homeOf m.line) m.at' = none → s.homeBusy m.line = false →
    s.treeAt m.at' m.line = some e → e.st = false → m.line.mem = .pool →
    exec (.ownershipRequest id) s = .next (((s.want m.line .e).dropMsg m.id).addJob m.line (.own m)).kick) ∧
  (∀ id m discard own s, s.msg id = some m → s.firstOn m = true → m.kind = .cut discard own → s.treeAt m.at' m.line = none →
    exec (.cut id) s = .next ((s.dropMsg m.id).sendOut m.at' m.port m.line m.req (.ack none)).kick) ∧
  (∀ id m discard own e s, s.msg id = some m → s.firstOn m = true → m.kind = .cut discard own → s.treeAt m.at' m.line = some e →
    m.port ≠ e.root → exec (.cut id) s = .next ((s.dropMsg m.id).sendOut m.at' m.port m.line m.req (.ack none)).kick) ∧
  (∀ id m discard e s, s.msg id = some m → s.firstOn m = true → m.kind = .cut discard false → s.treeAt m.at' m.line = some e → e.st = false →
    m.port = e.root → (∀ x ∈ s.localsAt m.at' m.line, x.busy = none) → exec (.cut id) s =
      .next ((((s.dropMsg m.id).cutLocals m.at' m.line m.req discard false).startCut m.at' m.line m.req discard false false).finishCut m.at'
        m.line).kick) ∧
  (∀ id m discard own e x s, s.msg id = some m → s.firstOn m = true → m.kind = .cut discard own → s.treeAt m.at' m.line = some e →
    m.port = e.root → x ∈ s.localsAt m.at' m.line → x.busy ≠ none → exec (.cut id) s = .next s.kick) ∧
  (∀ id m d s, s.msg id = some m → s.firstOn m = true → m.kind = .ack d → exec (.cutAcknowledgement id) s =
    .next ((((s.dropMsg m.id).onTree m.at' m.line fun e =>
      ({ e with pend := e.pend - 1, data := if e.discard then none else mergeData e.data d } : TreeEntry).clearLink m.port).finishCut
      m.at' m.line)).kick)

/-- Evictions, re-sends and delays (08_coherence R162, R164, R166, 12_program_atomics R203): a clean holder leaves its tree at
once; a dirty one sends its data and stays until the home has acknowledged it. -/
def Obligations.TreeEvictionsAndDelays : Prop :=
  (∀ c l x s, s.copy c l = some x → x.busy = none → (x.st = .s ∨ x.st = .e) → s.damagedDirty x = false →
    exec (.holderEviction c l) s = .next ((s.dropCopy c l).leaveTree c l).kick) ∧
  (∀ c l x s, s.copy c l = some x → x.busy = none → (x.st = .m ∨ x.st = .o) → s.msgs = [] → s.damagedDirty x = false →
    exec (.holderEviction c l) s = .next (s.bump.send
      { id := s.fresh, kind := .writeback { data := x.data, tag := x.tag }, line := l, req := c, at' := routerOf c, port := .self,
        path := [], caught := none, returned := 0, held := false, once := false, way := false }).kick) ∧
  (∀ id m d x s, s.msg id = some m → s.firstOn m = true → m.kind = .writeback d → m.caught = none →
    (s.dropMsg m.id).copy m.req m.line = some x → (x.st = .m ∨ x.st = .o) → exec (.writebackAcknowledgement id) s =
      .next ((((s.dropMsg m.id).homeData m.line (some { data := x.data, tag := x.tag })).dropCopy m.req m.line).leaveTree m.req
        m.line).kick) ∧
  (∀ id m s, s.returned.find? (fun m => m.id = id) = some m → exec (.backoffResend id) s =
    .next (({ s with returned := s.returned.filter fun x => !decide (x.id = id) } : State).send
      { m with kind := if m.kind = .own then .own else .catchable, at' := routerOf m.req, port := .self, path := [], caught := none,
               held := false, way := false })) ∧
  (∀ id m s, s.misses.find? (fun m => m.acc = id && m.delayed) = some m → exec (.ownershipDelayExpiry id) s =
    .next (({ s with misses := s.misses.map fun x => if x = m then { x with delayed := false } else x } : State).sendRequest m.cache m.line
      true false)) ∧
  (∀ die core line b v t s, s.bounce (.l1 die core) line = some b → s.virt die = some v → b.since = some t →
    ((s.copy (.l1 die core) line).map fun x => x.st == .m) = some true → t + 1024 ≤ (s.core { die := v, num := core }).lcyc.toNat →
    exec (.bounceEntryClear die core line) s = .next { s with bounces := s.bounces.filter fun x => !decide (x = b) }) ∧
  (∀ id a l off s, s.acc id = some a → a.place = .line l off 0 → a.phase = .missing → s.blocked a = false → a.op.isAtomic = true →
    l.mem = .pool → s.folioOpenE l = true → exec (.farAtomic id) s = .next (s.performFar a l off).kick)

/-! ## Folios, the host, pool ports, peer windows -/

/-- A folio asks its pool node for the state that the package wants, takes the state granted, and is cut line by line. A host's
snoop that invalidates becomes a job of the line's root; one for data writes a dirty line back and leaves the copies shared; one
for the current data, and a read of a device, change nothing. A read that waits for the host is served when its response comes, and fails
with 0x61 where the host link of I/O die 0 is dead. A write of a device to a host line of class 0 goes to host memory, and any other
write to its line's root. -/
def Obligations.FolioAndHostEvents : Prop :=
  (∀ n s, (s.folio n).want ≠ .i → (s.folio n).want ≠ (s.folio n).st → (s.folio n).st ≠ .e → (s.folio n).asked = .i → (s.folio n).cut = none →
    ((s.folio n).st ≠ .i ∨ (s.gateHolds (s.gateOf n)).length < Config.gateEntries) → exec (.folioRequest n) s = .next ((s.onFolio n fun f => { f with asked := f.want }).poolRequest (s.folioDie n) (4096 * n)
      (.folio n)).kick) ∧
  (∀ n r s, s.openRequest (.folio n) = some r → (s.folio n).cut = none → exec (.folioGrant n) s =
    .next (((s.answer r).onFolio n fun f =>
      { f with st := f.asked, asked := .i, want := if f.want = f.asked then .i else f.want }).reapplyFolio n).kick) ∧
  (∀ n toShared s, (s.folio n).st ≠ .i → (s.folio n).cut = none →
    exec (.folioCut n toShared) s = .next (s.startFolioCut n toShared).kick) ∧
  (∀ id j toShared k b s, (s.folio (folioOf { mem := .pool, num := id })).cut = some (toShared, k) → 1 < k → s.jobs = [j] →
    j.line = { mem := .pool, num := id } → j.cut = true → j.op = .folio b →
    exec (.folioLineAck id) s = .next (((((s.homeData { mem := .pool, num := id } j.data).l3Writeback 0 id toShared).endJob j).onFolio
      (folioOf { mem := .pool, num := id }) fun f => { f with cut := some (toShared, k - 1) })).kick) ∧
  (∀ line s, exec (.snpInv line) s = .next (s.addJob { mem := .host, num := line } .snoop).kick) ∧
  (∀ line s, exec (.snpData line) s = .next (s.addJob { mem := .host, num := line } .snpData).kick) ∧
  (∀ (s : State) j hostOk, j.op = .snpData → j.cut = true → s.dirtyHolder j.line = none → s.advanceJob j hostOk =
    ({ s with lines := s.lines.map fun x => if x.line = j.line ∧ x.tracked then { x with st := .s } else x } : State).endJob j) ∧
  (∀ (s : State) j hostOk x, j.op = .snpData → j.cut = true → j.line.mem = .host → s.dirtyHolder j.line = some x → s.advanceJob j hostOk =
    ({ s with host := s.host.setLine j.line.num x.data,
              lines := s.lines.map fun y => if y.line = j.line ∧ y.tracked then { y with st := .s } else y } : State).endJob j) ∧
  (∀ line s, exec (.snpCur line) s = .next s) ∧
  (∀ id m s, s.holdq.find? (fun m => decide (m.id = id ∧ m.line.mem = .host ∧ m.at' = homeOf m.line)) = some m →
    s.homeBusy m.line = false → s.treeAt m.at' m.line = none → s.hostUp 0 = true → exec (.cxlCacheResponse id) s =
      .next (({ s with holdq := s.holdq.filter fun x => !decide (x.id = id), msgs := m :: s.msgs } : State).serveHome m).kick) ∧
  (∀ id m s, s.holdq.find? (fun m => decide (m.id = id ∧ m.line.mem = .host ∧ m.at' = homeOf m.line)) = some m →
    s.homeBusy m.line = false → s.treeAt m.at' m.line = none → s.hostUp 0 = false → exec (.cxlCacheResponse id) s =
      .next (({ s with holdq := s.holdq.filter fun x => !decide (x.id = id) } : State).failRead m 0x61 (s.linkExtra (s.dieOf m.req))).kick) ∧
  (∀ n (off : Fin 128) data s, off.val + data.length ≤ 128 → exec (.inboundWrite { mem := .host, num := n } 0 off data) s =
    .next { s.noteClass { mem := .host, num := n } 0 with host := s.host.setLine n (lineSetN (s.host.getLine n) off.val data) }) ∧
  (∀ n (off : Fin 128) data s, off.val + data.length ≤ 128 → exec (.inboundWrite { mem := .pool, num := n } 0 off data) s =
    .next ((s.noteClass { mem := .pool, num := n } 0).addJob { mem := .pool, num := n } (.inbound true off.val data)).kick) ∧
  (∀ line off len s, exec (.inboundRead line off len) s = .next s)

/-- Pool ports (21_outside R284 to R288): a failed lane takes the width from 4 to 2, from 2 to 1 and from 1 to none, and retrains what is
left; a dead port's requests are
sent again; a retrained port has its window back; PORT_RESET of a narrowed port retrains it at width 4 (the model's reading, log 73); a
response frees its place, and brings a line that was read, or marks when the node has taken a line that was written, each after the earlier
writes of that line; an STF's flag grows by 1 at its pool node, once its folio has left the package. -/
def Obligations.PoolPortEvents : Prop :=
  (∀ (port : Fin 48) s, s.ports[port].width = 4 → exec (.laneFailure port) s =
    .next ((s.onPort port fun p => { p with width := 2, retrain := true }).healthNow).kick) ∧
  (∀ (port : Fin 48) s, s.ports[port].width = 2 → exec (.laneFailure port) s =
    .next ((s.onPort port fun p => { p with width := 1, retrain := true }).healthNow).kick) ∧
  (∀ (port : Fin 48) s, s.ports[port].width = 1 → exec (.laneFailure port) s =
    .next ((((s.onPort port fun p => { p with width := 0, retrain := false }).resendAll port).sendHeld).healthNow).kick) ∧
  (∀ (port : Fin 48) s, s.ports[port].width = 0 → exec (.laneFailure port) s = .next s) ∧
  (∀ (port : Fin 48) s, s.ports[port].retrain = true → exec (.retrainStepComplete port) s =
    .next ((s.onPort port fun p => { p with retrain := false, window := 256 * s.ports[port].width,
                                             timeout := 200 / s.ports[port].width }).sendHeld).kick) ∧
  (∀ (port : Fin 48) s, (s.ports[port].width = 1 ∨ s.ports[port].width = 2) → exec (.portReset port) s =
    .next ((s.onPort port fun p => { p with width := 4, retrain := true }).healthNow)) ∧
  (∀ id r s, s.poolReqs.find? (fun r => decide (r.id = id) && r.sent && !s.ports[r.port].retrain) = some r → (∀ n, r.what ≠ .line n) →
    (∀ n new mask, r.what ≠ .write n new mask) → r.answered = true → exec (.poolResponse id) s = .next ((s.dropReq id).sendHeld).kick) ∧
  (∀ id r n s, s.poolReqs.find? (fun r => decide (r.id = id) && r.sent && !s.ports[r.port].retrain) = some r → r.what = .line n →
    s.poolWriting n id = false → exec (.poolResponse id) s = .next (((s.dropReq id).lineRead n).sendHeld).kick) ∧
  (∀ id r n new mask s, s.poolReqs.find? (fun r => decide (r.id = id) && r.sent && !s.ports[r.port].retrain) = some r →
    r.what = .write n new mask → s.poolWriting n id = false →
    exec (.poolResponse id) s = .next (((s.dropReq id).storePool n new mask).sendHeld).kick) ∧
  (∀ (s : State) n new, (s.storePool n new (BitVec.allOnes 128)).pool = s.pool.setLine n (lineMerge (s.pool.getLine n) new (BitVec.allOnes 128) 128)) ∧
  (∀ (s : State) n, s.folioOpenS { mem := .pool, num := n } = true → s.l3Line n = none → s.damaged (.pool n) = false →
    s.lineRead n = s.l3Put n (s.pool.getLine n) false (s.l3Tag n)) ∧
  (∀ id r s, s.poolReqs.find? (fun r => decide (r.id = id) && r.sent && r.resent && !r.answered) = some r →
    exec (.poolRequestTimeout id) s = .next (((s.dropReq id).linkFailed r.what).sendHeld).kick) ∧
  (∀ id a l off cls bs flag fo s, s.acc id = some a → a.place = .line l off cls → a.op = .stf bs flag fo → a.pending = true →
    s.blocked a = false → l.mem = .host → exec (.stfDataAcknowledgement id) s = .next (s.stfWrite a l off cls bs flag fo).kick) ∧
  (∀ id a r bs flag fo s, s.acc id = some a → s.openRequest (.flag id) = some r → a.op = .stf bs flag fo →
    (s.folio (folioOf flag)).cut = none → (s.folio (folioOf flag)).st = .i → s.poolWriting flag.num s.fresh = false → exec (.flagIncrement id) s =
      .next ((({ s with
        pool := s.pool.setN (128 * flag.num + fo) (bytesOfNat 8 ((s.pool.getNat (128 * flag.num + fo) 8 + 1) % 2 ^ 64)) } : State).answer
          r).dropAcc id).kick)

/-- Peer windows (01_package R10 to R14): an owner on this accelerator checks a request by the import entry as it stood when the access was
made, and translates it; one that has become absent does not answer. The answer places the access at the line, or refuses it: a load's cause
is deferred to its return, and no answer is 0x61. -/
def Obligations.PeerWindowEvents : Prop :=
  (∀ id a e off t u s, s.acc id = some a → a.phase = .asked → a.place = .peer e off → e.extractLsb' 8 8 = s.pkg.accNum →
    (s.phys (importVdie e)).isSome = true →
    s.ownerCheck (importVdie e) (e.extractLsb' 32 32) (e.extractLsb' 16 16) off (s.accNeeds a) a.ord a.scope a.op.isAtomic a.op.atomKind =
      (u, .ok t) →
    exec (.peerWindowRequest id) s = .next (u.onAcc id fun x =>
      { x with phase := .answered (.accepted t.pa t.cc), parcel := if x.parcel.isSome then x.parcel else t.parcel })) ∧
  (∀ id a e off c u s, s.acc id = some a → a.phase = .asked → a.place = .peer e off → e.extractLsb' 8 8 = s.pkg.accNum →
    (s.phys (importVdie e)).isSome = true →
    s.ownerCheck (importVdie e) (e.extractLsb' 32 32) (e.extractLsb' 16 16) off (s.accNeeds a) a.ord a.scope a.op.isAtomic a.op.atomKind =
      (u, .error c) → c.1 ≠ notYet →
    exec (.peerWindowRequest id) s = .next (u.onAcc id fun x =>
      { x with phase := .answered (.refused c.1), parcel := if x.parcel.isSome then x.parcel else none })) ∧
  (∀ id a e off s, s.acc id = some a → a.phase = .asked → a.place = .peer e off → e.extractLsb' 8 8 = s.pkg.accNum →
    s.phys (importVdie e) = none → exec (.peerWindowRequest id) s = .next (s.onAcc id fun x =>
      { x with phase := .answered .lost, parcel := if x.parcel.isSome then x.parcel else none })) ∧
  (∀ id a e off c x size s, s.acc id = some a → a.phase = .answered (.refused c) → a.place = .peer e off → s.firstAsked a = true →
    a.op = .load size → a.pred = none → exec (.peerWindowResponse id x) s =
      .next (s.onAcc id fun y => { y with phase := .failed c a.ea 0 }).kick) ∧
  (∀ id a e off x s, s.acc id = some a → a.phase = .answered .lost → a.place = .peer e off → s.firstAsked a = true →
    exec (.peerWindowResponse id x) s = .next (s.failAcc a 0x61 a.ea (peerExtra e)).kick) ∧
  (∀ id a e off pa cls x size d k s, s.acc id = some a → a.phase = .answered (.accepted pa cls) → a.place = .peer e off →
    s.firstAsked a = true → a.op = .load size → a.cache = .l1 d k → exec (.peerWindowResponse id x) s =
      .next (((s.noteImport a.th.team.core.die e pa).onAcc id fun y => { y with
        place := .line { mem := .pool, num := pa / 128 } (pa % 128) cls, phase := .gated,
        cache := match y.cache with
          | .l1 d k => .l1 d k
          | .l2 d _ => .l2 d (l2Slice (pa / 128)) }).askStf id).kick)

/-! ## Parcels on their way, jobs, contexts -/

/-- Parcels (16_parcels R251 to R253, 21_outside R289 to R291): a claim takes a slot of the package that fits, or fails with
0x34; a parcel arrives once it has been written; acknowledgements and re-sends; a parcel that the network has not acknowledged
in time fails with 0x61. By which of the permitted ports a packet is sent, and sent again, is the model's reading (log 59). -/
def Obligations.ParcelEvents : Prop :=
  (∀ id c h sr w die b s, s.cmd id = some c → c.op.posted = some (h, sr, w) → c.phase = .running → c.bad = false →
    s.way c.core.die w = .inPackage die → (s.phys die).isSome = true → exec (.parcelClaim id b none) s = .next (s.claimSlot c die sr).kick) ∧
  (∀ (c : Cmd) die sr k (s : State), (s.die die).claimable sr (s.carriedSize c) = some k → s.claimSlot c die sr =
    (s.onHandle die k fun x => { x with clm := true }).onCmd c.id fun x => { x with claim := some (die, k), bad := true }) ∧
  (∀ (c : Cmd) die sr (s : State), (s.die die).claimable sr (s.carriedSize c) = none → s.claimSlot c die sr = s.failPost c 0x34) ∧
  (∀ id c a b w s, s.cmd id = some c → c.op = .post a b w → c.phase = .running → c.bad = true → c.err = false →
    s.way c.core.die w = .same → exec (.parcelArrival id) s = .next (s.arrivePost c).kick) ∧
  (∀ id c a b w n packet s, s.cmd id = some c → c.op = .post a b w → s.nets.find? (fun n => n.cmd = id) = some n → packet < n.packets →
    packet ∉ n.placed → c.phase = .running → c.bad = true → s.portOpen n packet true = true →
    parcelLines (min (s.carriedSize c) ((packet + 1) * packetBytes (s.endpoint (routeEp w)))) ≤ c.pos →
    exec (.packetArrival id packet []) s = .next (s.onNet id fun n => { n with placed := n.placed ++ [packet] })) ∧
  (∀ id n packet s, s.nets = [n] → n.cmd = id → packet ∈ n.placed → packet ∉ n.acked →
    exec (.selectiveAcknowledgement id packet) s = .next { s with nets := [{ n with acked := n.acked ++ [packet] }] }) ∧
  (∀ id n c a b w packet p s, s.nets = [n] → n.cmd = id → s.cmd id = some c → c.op = .post a b w → sprayPort (s.permitted w) packet 1 = some p →
    packet < n.packets → packet ∉ n.acked → n.again = [] → exec (.packetRetransmit id packet) s = .next { s with
      nets := [{ n with again := [(packet, 1)], via := (packet, p) :: n.via.filter fun x => !decide (x.1 = packet) }] }) ∧
  (∀ (s : State) w p, p ∈ s.permitted w ↔ ((s.endpoint (routeEp w)).extractLsb' 84 4).getLsbD p.val = true ∧ s.pkg.eth.getLsbD p.val = true) ∧
  (∀ id c a b w s, s.cmd id = some c → c.op = .post a b w → s.way c.core.die w = .network → c.phase = .running → s.nets = [] →
    exec (.networkTmoExpiry id) s = .next (s.failPost c 0x61).kick)

/-- Grids and clusters (18_scheduling R258 to R270): the dispatcher takes the best card that fits; a local card whose slate is satisfied
becomes a grid of its core, or is refused; clusters are placed, retire and leave records; END_GRID needs a thread that is stuck; a cluster at
rest is saved, and resumes where its teams fit. The model's choices: the CORE and TEAM of a refused card's report (log 60), what a
read of the dispatcher leaves (log 36), when END_GRID acts and what it leaves (log 65), where a context is saved and what a save holds (log 70). -/
def Obligations.JobEvents : Prop :=
  (∀ die u cs c s, (∀ n, s.localWaits { die := die, num := n } = false) → s.nextCards die = (u, cs) →
    bestCard (cs.filter fun c => c.fits) = some c → exec (.cardTake die) s =
    .next ((u.preemptFor die cs).takeCard die c).settleReads) ∧
  (∀ core q asid v rest u u' w s, (s.core core).cards = (q, asid, v) :: rest → s.waitOk core.die asid v = (u, .ok true) →
    u.cardCheck core.die asid ((u.die core.die).queue q.val).cfg.priv (.localQ core.num (s.core core).cardNum) v = (u', .ok (some w)) →
    cardCw v = 1 → cardCh v = 1 → (u'.rectFor core.die (.localQ core.num (s.core core).cardNum) v fun _ => false).isSome = true →
    exec (.localCardTake core) s = .next ({ (u'.popCard core).bump with
      grids := (u'.popCard core).grids ++ [localGrid (u'.popCard core) core q asid v (s.core core).cardNum w false] } : State).settleReads) ∧
  (∀ core q asid v rest u u' w s, (s.core core).cards = (q, asid, v) :: rest → s.waitOk core.die asid v = (u, .ok true) →
    u.cardCheck core.die asid ((u.die core.die).queue q.val).cfg.priv (.localQ core.num (s.core core).cardNum) v = (u', .ok w) →
    (w = none ∨ cardCw v ≠ 1 ∨ cardCh v ≠ 1) → cardSslate v = 0 →
    exec (.localCardTake core) s = .next ((u'.popCard core).onDie core.die
      fun d => d.report (reportRec (CardSrc.index (.localQ core.num (s.core core).cardNum)) 0x62 core.num.val 0 0 true 0xFFFFFFFF)).settleReads) ∧
  (∀ core q asid v rest u s, (s.core core).cards = (q, asid, v) :: rest → s.waitOk core.die asid v = (u, .ok false) →
    exec (.localCardTake core) s = .next u.settleReads) ∧
  (∀ (s : State) core, ((s.popCard core).core core).cards = (s.core core).cards.drop 1 ∧
    ((s.popCard core).core core).cardNum = (s.core core).cardNum + 1) ∧
  (∀ die g x y u s, s.nextPlace die = some (g, x, y) →
    s.readyL1 (rectCores g.die (x, y) (cardCw g.card) (cardCh g.card)) (cardAlloc g.card) = (u, true) →
    exec (.clusterPlacement die) s = .next (u.placeCluster g (x, y))) ∧
  (∀ k c s, s.cluster k = some c → s.mayRetire k = true → exec (.clusterRetire k) s = .next
    ((((s.clusterTeams k).map fun t => t.id.core).foldl (fun s j => s.raiseL1 j) (s.removeTeams k)).countRetired c.grid 1)) ∧
  (∀ die (q : Fin 64) s, ((s.die die).queue q.val).cfg.en = true → ((s.die die).queue q.val).stopped = none →
    exec (.queueCompletionRecord die q) s = .next (s.writeRecord die q.val).kick) ∧
  (∀ k g s, s.grid k = some g → g.ended = false → g.complete = false → s.gridStuck k = false → exec (.endGrid k) s = .next s) ∧
  (∀ k g s, s.grid k = some g → g.ended = false → g.complete = false → s.gridStuck k = true → s.contexts = [] →
    ∃ ts : List TeamId, (∀ i, i ∈ ts ↔ ∃ t ∈ s.teams, t.id = i ∧ ∃ c ∈ s.clusters, c.grid = k ∧ c.id = t.cluster) ∧
      exec (.endGrid k) s = .next (((({ ts.foldl (fun s t => s.endTeam t) s with
        contexts := (ts.foldl (fun s t => s.endTeam t) s).contexts.filter fun x => !decide (x.cluster.grid = k),
        clusters := (ts.foldl (fun s t => s.endTeam t) s).clusters.map fun c => if c.grid = k then { c with stopping := false } else c } :
          State)).onGrid k fun g => { g with ended := true }).countRetired k 0).kick) ∧
  (∀ k c u s, s.cluster k = some c → c.stopping = true → s.gridEnded c.grid = false → s.atRest k = true →
    s.writeSaveArea c = (u, true) → ∃ t x, exec (.contextSave k) s = .next t ∧ x = u.contextOf c ∧
    t.contexts = (u.removeTeams k).contexts ++ [x] ∧ t.teams = (u.removeTeams k).teams) ∧
  (∀ k c u s, s.cluster k = some c → c.stopping = true → s.gridEnded c.grid = false → s.atRest k = true →
    s.writeSaveArea c = (u, false) → exec (.contextSave k) s = .next u.kick) ∧
  (∀ k x o u s, s.contexts.find? (fun x => x.cluster.id = k) = some x →
    findRect x.cluster.die x.cluster.w x.cluster.h (fun p c => s.teamFits x p c) = some o →
    s.readyL1 (rectCores x.cluster.die o x.cluster.w x.cluster.h) ((x.teams.map fun t => t.size).foldl max 0) = (u, true) →
    exec (.contextResume k) s = .next (u.restoreContext x o))

/-! ## Encoding, the step, reset, the memories -/

/-- Worked words of the specification: the fields of the block word and of the clause headers of Table 5.11 (05_encoding 5.7), its
instructions and those of the kernel add2, the rows of Table 5.12 that are instructions (the ones that are none are in
ReservedEncodingsAreRefused) with the operand fields of two of them refused (05_encoding R76), and a word of each opcode row from its reference
entry (22_ref to 25_ref) decode to the instructions that they stand for. -/
def Obligations.WordsOfTheSpecDecode : Prop :=
  (fld 0xF0000008 28 4 = 0xF ∧ fld 0xF0000008 0 10 = 8) ∧
  (fld 0x24000000 28 4 = 2 ∧ fld 0x24000000 25 3 = 2) ∧ (fld 0x10200000 28 4 = 1 ∧ fld 0x10200000 25 3 = 0 ∧ flag 0x10200000 21 = true) ∧
  (fld 0x1C000000 28 4 = 1 ∧ fld 0x1C000000 25 3 = 6) ∧
  decode 0x50004801 0x10000000 0 = .ok (.ld false (.t 0) (.k 4) 1
    { space := .global, size := .b32, ord := .plain, scope := .thread, cp := 0, off := 0 }) ∧
  decode 0x50004800 0xD0000000 0 = .ok (.ld false (.t 0) (.k 4) 0
    { space := .res6, size := .b32, ord := .plain, scope := .thread, cp := 0, off := 0 }) ∧
  (∃ i, decode 0x01264DC0 0 0 = .ok i ∧ ∀ ks, i.operandsOk ks = false) ∧
  (∃ i, decode 0x01604C00 0 0 = .ok i ∧ ∀ ks, i.operandsOk ks = false) ∧
  decode 0x50004000 0x10000000 0 = .ok (.ld false (.t 0) (.k 0) 0
    { space := .global, size := .b32, ord := .plain, scope := .thread, cp := 0, off := 0 }) ∧
  decode 0x50014000 0x10000004 0 = .ok (.ld false (.t 1) (.k 0) 0
    { space := .global, size := .b32, ord := .plain, scope := .thread, cp := 0, off := 4 }) ∧
  decode 0x76000000 0 0 = .ok (.exit false) ∧
  decode 0x12224600 0 0 = .ok (.popc false (.k 2) (.k 3) .w32) ∧
  decode 0x30244CA1 0 0 = .ok (.dadd false (.k 4) (.k 6) (.k 8) .rz) ∧
  decode 0x49220021 0 0 = .ok (.vote (.k 2) .ballot false 1) ∧
  decode 0x49230018 0 0 = .ok (.vote (.k 3) .all true 0) ∧
  decode 0x802848A8 0x00B08304 0 = .ok (.cpy false (.k 8) (.k 4) (.k 10)
    { c := .t 0, l := .k 12, dsp := .own, ssp := .global, guard := 3, st := false, scope := .die }) ∧
  decode 0xB0004898 0x00A00005 0 = .ok (.jpost false (.k 4) (.k 6)
    { c := .t 0, l := .k 8, dsp := .global, ssp := .global, guard := 0, st := false, scope := .pkg }) ∧
  decode 0x50004800 0x10000000 0 = .ok (.ld false (.t 0) (.k 4) 0
    { space := .global, size := .b32, ord := .plain, scope := .thread, cp := 0, off := 0 }) ∧
  decode 0x01264C00 0 0 = .ok (.iadd false (.k 6) (.k 6) (.t 0) .w32) ∧
  decode 0x70000001 0 0 = .ok (.bra false 1) ∧
  decode 0x01020004 0 0 = .ok (.iadd false (.t 2) (.t 0) (.t 1) .w32) ∧
  decode 0x52024000 0x10000008 0 = .ok (.st false (.t 2) (.k 0)
    { space := .global, size := .b32, ord := .plain, scope := .thread, cp := 0, off := 8 }) ∧
  decode 0x01264D80 0 0 = .ok (.iadd false (.k 6) (.k 6) (.c 0) .w32) ∧
  decode 0x20020004 0 0 = .ok (.fadd false (.t 2) (.t 0) (.t 1) .rn) ∧
  decode 0x67000203 0 0 = .ok (.gset false (.t 1) 3) ∧
  decode 0x9580C004 0 0 = .ok (.mzero (.c 0) 4) ∧
  decode 0xA0280000 0 0 = .ok (.pnew false (.k 8) (.t 0)) ∧
  decode 0xC2000000 0 0 = .ok (.mrst false) ∧
  decode 0x00000000 0 0 = .ok .nop

/-- 05_encoding R75, R89, R90, R94, R95: a reserved opcode, a word in the row of block words, a NOP with another bit set, BKPT,
TRAP and RESUME with U set, and the refused rows of Table 5.12 decode to no instruction, whatever words follow. -/
def Obligations.ReservedEncodingsAreRefused : Prop :=
  (∀ w v x, opcodeKnown (fld w 24 8) = false → ∃ e, decode w v x = .error e) ∧
  (∀ w v x, fld w 28 4 = 0xF → ∃ e, decode w v x = .error e) ∧
  (∀ w v x, fld w 24 8 = 0 → w ≠ 0 → ∃ e, decode w v x = .error e) ∧
  (∀ w v x, (fld w 24 8 = 0x77 ∨ fld w 24 8 = 0x78 ∨ fld w 24 8 = 0x79) → flag w 23 = true → ∃ e, decode w v x = .error e) ∧
  (∃ e, decode 0x50004800 0x10400000 0 = .error e) ∧ (∃ e, decode 0x50004800 0x11C00000 0 = .error e) ∧
  (∃ e, decode 0x50004800 0x1C000000 0 = .error e) ∧ (∃ e, decode 0x52024001 0x10000008 0 = .error e) ∧
  (∃ e, decode 0x70080001 0 0 = .error e)

/-- Decoding undoes encoding: for every instruction whose fields agree, the bytes of its words, whatever bytes follow, decode to
it. -/
def Obligations.EncodedInstructionsDecodeBack : Prop :=
  ∀ i : Instr, i.formOk = true → ∀ rest, decodeBytes ((encode i).flatMap bytesOfWord ++ rest) = .ok (i, rest)

/-- A step runs the instruction that it decodes (02_execution R23, 05_encoding R72): with no outside event due, the group in
focus fetches the word it stands at, then the operand words that the opcode's format has, and the step is the execution of what
they decode to. What a hold has kept from executing is not fetched again (05_encoding R73). -/
def Obligations.AStepRunsTheDecodedInstruction : Prop :=
  (∀ s p tm c u w i, s.agenda = [] → s.site = some (p, tm) → p.instr = none → p.clause = some c → s.wordAt tm p.block p.widx = (u, .ok w) →
    opcodeWords (fld w 24 8) = 1 → p.widx + 1 ≤ c.fin → decode w 0 0 = .ok i → step s = exec i u) ∧
  (∀ s p tm c u u' w v i, s.agenda = [] → s.site = some (p, tm) → p.instr = none → p.clause = some c → s.wordAt tm p.block p.widx = (u, .ok w) →
    opcodeWords (fld w 24 8) = 2 → p.widx + 2 ≤ c.fin → u.wordAt tm p.block (p.widx + 1) = (u', .ok v) →
    decode w v 0 = .ok i → step s = exec i u') ∧
  (∀ s p tm c u u' u'' w v x i, s.agenda = [] → s.site = some (p, tm) → p.instr = none → p.clause = some c →
    s.wordAt tm p.block p.widx = (u, .ok w) → opcodeWords (fld w 24 8) = 3 → p.widx + 3 ≤ c.fin →
    u.wordAt tm p.block (p.widx + 1) = (u', .ok v) → u'.wordAt tm p.block (p.widx + 2) = (u'', .ok x) →
    decode w v x = .ok i → step s = exec i u'') ∧
  (∀ s p tm i, s.agenda = [] → s.site = some (p, tm) → p.instr = some i → step s = exec i s)

/-- What a step is otherwise: the first event of the agenda of outside events; with none, and no group at a word, an event of
the part's own that changes the state, or nothing where none does (log 14, 15: the order of these is the model's choice). -/
def Obligations.AStepTakesAnEventElsewhere : Prop :=
  (∀ s e rest, s.agenda = e :: rest → step s = exec e { s with agenda := rest }) ∧
  (∀ s t, s.agenda = [] → s.site = none → step s = .next t → t = s ∨
    ∃ e ∈ s.candidates, ∃ u n, exec e s = .next u ∧ u ≠ s ∧ t = { u with turn := n }) ∧
  (∀ s, s.agenda = [] → s.site = none → (∀ e ∈ s.candidates, exec e s = .next s) → step s = .next s)

/-- A word that is no instruction raises 0x10 in every lane with the word as EXTRA (05_encoding R74, R75, R95), and so does an
instruction that reaches past its clause; a word that cannot be fetched raises the cause of that, at its own index and address
(02_execution R23); while it cannot be fetched yet, the group is held before it. That the record's U is bit 23 of the word, and clear for
a word that cannot be fetched, is the model's reading (log 77). -/
def Obligations.WordsThatCannotExecuteFault : Prop :=
  (∀ s p tm c u w, s.agenda = [] → s.site = some (p, tm) → p.instr = none → p.clause = some c → s.wordAt tm p.block p.widx = (u, .ok w) →
    opcodeKnown (fld w 24 8) = false → p.widx + 1 ≤ c.fin →
    step s = .next (u.faultLanes p (flag w 23) { cause := 0x10, addr := 0, extra := w } p.lanes)) ∧
  (∀ s p tm c u w, s.agenda = [] → s.site = some (p, tm) → p.instr = none → p.clause = some c → s.wordAt tm p.block p.widx = (u, .ok w) →
    opcodeKnown (fld w 24 8) = true → c.fin < p.widx + opcodeWords (fld w 24 8) →
    step s = .next (u.faultLanes p (flag w 23) { cause := 0x10, addr := 0, extra := w } p.lanes)) ∧
  (∀ s p tm c u w e, s.agenda = [] → s.site = some (p, tm) → p.instr = none → p.clause = some c → s.wordAt tm p.block p.widx = (u, .ok w) →
    opcodeKnown (fld w 24 8) = true → opcodeWords (fld w 24 8) = 1 → p.widx + 1 ≤ c.fin → decode w 0 0 = .error e →
    step s = .next (u.faultLanes p (flag w 23) { cause := 0x10, addr := 0, extra := w } p.lanes)) ∧
  (∀ s p tm c u u' w v e, s.agenda = [] → s.site = some (p, tm) → p.instr = none → p.clause = some c → s.wordAt tm p.block p.widx = (u, .ok w) →
    opcodeKnown (fld w 24 8) = true → opcodeWords (fld w 24 8) = 2 → p.widx + 2 ≤ c.fin →
    u.wordAt tm p.block (p.widx + 1) = (u', .ok v) → decode w v 0 = .error e →
    step s = .next (u'.faultLanes p (flag w 23) { cause := 0x10, addr := 0, extra := w } p.lanes)) ∧
  (∀ s p tm u k x, s.agenda = [] → s.site = some (p, tm) → p.instr = none → s.wordAt tm p.block p.widx = (u, .error (k, x)) → k ≠ notYet →
    step s = .next (u.faultLanes p false { cause := k, addr := p.block + BitVec.ofNat 64 (4 * p.widx), extra := x } p.lanes)) ∧
  (∀ s p tm u x, s.agenda = [] → s.site = some (p, tm) → p.instr = none → s.wordAt tm p.block p.widx = (u, .error (notYet, x)) →
    step s = .next { u.addHold .fetch with focus := none })

/-- Right after reset nothing is resident, in flight or cached; every core counts from 0 (18_scheduling R268), every pool port
is trained at full width (21_outside R285, R286), no queue is enabled, no pool configured. The model's choices: that the memory lists
nothing and which byte an unlisted address reads as (log 2), that no queue, pool or translation is set (log 4), that the state is that of a
package booted whole (log 15), that nothing is cached (log 25), and the L1 share of a core (log 125). A thread starts with registers and predicates 0 but
k0:k1, out of handler mode (02_execution R17). -/
def Obligations.ResetLeavesNothingResident : Prop :=
  (State.reset.threads = [] ∧ State.reset.teams = [] ∧ State.reset.pipes = [] ∧ State.reset.clusters = [] ∧ State.reset.grids = [] ∧
    State.reset.accs = [] ∧ State.reset.cmds = [] ∧ State.reset.lines = [] ∧ State.reset.l3 = [] ∧ State.reset.tree = [] ∧
    State.reset.msgs = [] ∧ State.reset.pool = [] ∧ State.reset.host = []) ∧
  (∀ c : CoreId, (State.reset.core c).lcyc = 0 ∧ (State.reset.core c).l1share = 1572864) ∧
  (∀ d : Fin 8, (State.reset.die d).tlbs = [] ∧ (State.reset.die d).pool = none ∧ ∀ q, ((State.reset.die d).queue q).cfg.en = false) ∧
  (∀ k : Fin 48, State.reset.ports[k].width = 4 ∧ State.reset.ports[k].retrain = false) ∧
  (∀ i args n, (launchThread i args).reg (.k n) =
    if n = 0 then args.extractLsb' 0 32 else if n = 1 then args.extractLsb' 32 32 else 0) ∧
  (∀ i args, (launchThread i args).p = 0 ∧ (launchThread i args).hm = false)

/-- Every memory is in canonical form at reset. -/
def Obligations.MemoriesAreCanonicalAtReset : Prop :=
 MemoriesCanonical State.reset

/-- Every step keeps every memory in canonical form: addresses rising, no byte listed that an unlisted address reads as. -/
def Obligations.StepKeepsMemoriesCanonical : Prop :=
  ∀ s t, MemoriesCanonical s → step s = .next t → MemoriesCanonical t
end

