-- ==== Sys2Proof/Laws/State.lean ====
section
/-!
SUPPORT. One lemma for each field and each update of the state: a field that an update does not name is as it was.
-/
namespace Sys2Proof.Machine.State

variable (s : State)

/-! ## onThread -/

@[simp] theorem onThread_agenda (i : ThreadId) (f : Thread → Thread) : (s.onThread i f).agenda = s.agenda := rfl
@[simp] theorem onThread_focus (i : ThreadId) (f : Thread → Thread) : (s.onThread i f).focus = s.focus := rfl
@[simp] theorem onThread_fresh (i : ThreadId) (f : Thread → Thread) : (s.onThread i f).fresh = s.fresh := rfl
@[simp] theorem onThread_freed (i : ThreadId) (f : Thread → Thread) : (s.onThread i f).freed = s.freed := rfl
@[simp] theorem onThread_turn (i : ThreadId) (f : Thread → Thread) : (s.onThread i f).turn = s.turn := rfl
@[simp] theorem onThread_teams (i : ThreadId) (f : Thread → Thread) : (s.onThread i f).teams = s.teams := rfl
@[simp] theorem onThread_pipes (i : ThreadId) (f : Thread → Thread) : (s.onThread i f).pipes = s.pipes := rfl
@[simp] theorem onThread_ended (i : ThreadId) (f : Thread → Thread) : (s.onThread i f).ended = s.ended := rfl
@[simp] theorem onThread_flagsNow (i : ThreadId) (f : Thread → Thread) : (s.onThread i f).flagsNow = s.flagsNow := rfl
@[simp] theorem onThread_sheet (i : ThreadId) (f : Thread → Thread) : (s.onThread i f).sheet = s.sheet := rfl
@[simp] theorem onThread_cores (i : ThreadId) (f : Thread → Thread) : (s.onThread i f).cores = s.cores := rfl
@[simp] theorem onThread_dies (i : ThreadId) (f : Thread → Thread) : (s.onThread i f).dies = s.dies := rfl
@[simp] theorem onThread_grids (i : ThreadId) (f : Thread → Thread) : (s.onThread i f).grids = s.grids := rfl
@[simp] theorem onThread_clusters (i : ThreadId) (f : Thread → Thread) : (s.onThread i f).clusters = s.clusters := rfl
@[simp] theorem onThread_contexts (i : ThreadId) (f : Thread → Thread) : (s.onThread i f).contexts = s.contexts := rfl
@[simp] theorem onThread_accs (i : ThreadId) (f : Thread → Thread) : (s.onThread i f).accs = s.accs := rfl
@[simp] theorem onThread_asks (i : ThreadId) (f : Thread → Thread) : (s.onThread i f).asks = s.asks := rfl
@[simp] theorem onThread_reads (i : ThreadId) (f : Thread → Thread) : (s.onThread i f).reads = s.reads := rfl
@[simp] theorem onThread_credits (i : ThreadId) (f : Thread → Thread) : (s.onThread i f).credits = s.credits := rfl
@[simp] theorem onThread_cmds (i : ThreadId) (f : Thread → Thread) : (s.onThread i f).cmds = s.cmds := rfl
@[simp] theorem onThread_lines (i : ThreadId) (f : Thread → Thread) : (s.onThread i f).lines = s.lines := rfl
@[simp] theorem onThread_imported (i : ThreadId) (f : Thread → Thread) : (s.onThread i f).imported = s.imported := rfl
@[simp] theorem onThread_l3 (i : ThreadId) (f : Thread → Thread) : (s.onThread i f).l3 = s.l3 := rfl
@[simp] theorem onThread_tree (i : ThreadId) (f : Thread → Thread) : (s.onThread i f).tree = s.tree := rfl
@[simp] theorem onThread_msgs (i : ThreadId) (f : Thread → Thread) : (s.onThread i f).msgs = s.msgs := rfl
@[simp] theorem onThread_holdq (i : ThreadId) (f : Thread → Thread) : (s.onThread i f).holdq = s.holdq := rfl
@[simp] theorem onThread_returned (i : ThreadId) (f : Thread → Thread) : (s.onThread i f).returned = s.returned := rfl
@[simp] theorem onThread_misses (i : ThreadId) (f : Thread → Thread) : (s.onThread i f).misses = s.misses := rfl
@[simp] theorem onThread_jobs (i : ThreadId) (f : Thread → Thread) : (s.onThread i f).jobs = s.jobs := rfl
@[simp] theorem onThread_bounces (i : ThreadId) (f : Thread → Thread) : (s.onThread i f).bounces = s.bounces := rfl
@[simp] theorem onThread_folios (i : ThreadId) (f : Thread → Thread) : (s.onThread i f).folios = s.folios := rfl
@[simp] theorem onThread_ports (i : ThreadId) (f : Thread → Thread) : (s.onThread i f).ports = s.ports := rfl
@[simp] theorem onThread_poolReqs (i : ThreadId) (f : Thread → Thread) : (s.onThread i f).poolReqs = s.poolReqs := rfl
@[simp] theorem onThread_nets (i : ThreadId) (f : Thread → Thread) : (s.onThread i f).nets = s.nets := rfl
@[simp] theorem onThread_pool (i : ThreadId) (f : Thread → Thread) : (s.onThread i f).pool = s.pool := rfl
@[simp] theorem onThread_host (i : ThreadId) (f : Thread → Thread) : (s.onThread i f).host = s.host := rfl
@[simp] theorem onThread_damage (i : ThreadId) (f : Thread → Thread) : (s.onThread i f).damage = s.damage := rfl
@[simp] theorem onThread_scLines (i : ThreadId) (f : Thread → Thread) : (s.onThread i f).scLines = s.scLines := rfl
@[simp] theorem onThread_pkg (i : ThreadId) (f : Thread → Thread) : (s.onThread i f).pkg = s.pkg := rfl

/-! ## onTeam -/

@[simp] theorem onTeam_agenda (i : TeamId) (f : Team → Team) : (s.onTeam i f).agenda = s.agenda := rfl
@[simp] theorem onTeam_focus (i : TeamId) (f : Team → Team) : (s.onTeam i f).focus = s.focus := rfl
@[simp] theorem onTeam_fresh (i : TeamId) (f : Team → Team) : (s.onTeam i f).fresh = s.fresh := rfl
@[simp] theorem onTeam_freed (i : TeamId) (f : Team → Team) : (s.onTeam i f).freed = s.freed := rfl
@[simp] theorem onTeam_turn (i : TeamId) (f : Team → Team) : (s.onTeam i f).turn = s.turn := rfl
@[simp] theorem onTeam_threads (i : TeamId) (f : Team → Team) : (s.onTeam i f).threads = s.threads := rfl
@[simp] theorem onTeam_pipes (i : TeamId) (f : Team → Team) : (s.onTeam i f).pipes = s.pipes := rfl
@[simp] theorem onTeam_ended (i : TeamId) (f : Team → Team) : (s.onTeam i f).ended = s.ended := rfl
@[simp] theorem onTeam_flagsNow (i : TeamId) (f : Team → Team) : (s.onTeam i f).flagsNow = s.flagsNow := rfl
@[simp] theorem onTeam_sheet (i : TeamId) (f : Team → Team) : (s.onTeam i f).sheet = s.sheet := rfl
@[simp] theorem onTeam_cores (i : TeamId) (f : Team → Team) : (s.onTeam i f).cores = s.cores := rfl
@[simp] theorem onTeam_dies (i : TeamId) (f : Team → Team) : (s.onTeam i f).dies = s.dies := rfl
@[simp] theorem onTeam_grids (i : TeamId) (f : Team → Team) : (s.onTeam i f).grids = s.grids := rfl
@[simp] theorem onTeam_clusters (i : TeamId) (f : Team → Team) : (s.onTeam i f).clusters = s.clusters := rfl
@[simp] theorem onTeam_contexts (i : TeamId) (f : Team → Team) : (s.onTeam i f).contexts = s.contexts := rfl
@[simp] theorem onTeam_accs (i : TeamId) (f : Team → Team) : (s.onTeam i f).accs = s.accs := rfl
@[simp] theorem onTeam_asks (i : TeamId) (f : Team → Team) : (s.onTeam i f).asks = s.asks := rfl
@[simp] theorem onTeam_reads (i : TeamId) (f : Team → Team) : (s.onTeam i f).reads = s.reads := rfl
@[simp] theorem onTeam_credits (i : TeamId) (f : Team → Team) : (s.onTeam i f).credits = s.credits := rfl
@[simp] theorem onTeam_cmds (i : TeamId) (f : Team → Team) : (s.onTeam i f).cmds = s.cmds := rfl
@[simp] theorem onTeam_lines (i : TeamId) (f : Team → Team) : (s.onTeam i f).lines = s.lines := rfl
@[simp] theorem onTeam_imported (i : TeamId) (f : Team → Team) : (s.onTeam i f).imported = s.imported := rfl
@[simp] theorem onTeam_l3 (i : TeamId) (f : Team → Team) : (s.onTeam i f).l3 = s.l3 := rfl
@[simp] theorem onTeam_tree (i : TeamId) (f : Team → Team) : (s.onTeam i f).tree = s.tree := rfl
@[simp] theorem onTeam_msgs (i : TeamId) (f : Team → Team) : (s.onTeam i f).msgs = s.msgs := rfl
@[simp] theorem onTeam_holdq (i : TeamId) (f : Team → Team) : (s.onTeam i f).holdq = s.holdq := rfl
@[simp] theorem onTeam_returned (i : TeamId) (f : Team → Team) : (s.onTeam i f).returned = s.returned := rfl
@[simp] theorem onTeam_misses (i : TeamId) (f : Team → Team) : (s.onTeam i f).misses = s.misses := rfl
@[simp] theorem onTeam_jobs (i : TeamId) (f : Team → Team) : (s.onTeam i f).jobs = s.jobs := rfl
@[simp] theorem onTeam_bounces (i : TeamId) (f : Team → Team) : (s.onTeam i f).bounces = s.bounces := rfl
@[simp] theorem onTeam_folios (i : TeamId) (f : Team → Team) : (s.onTeam i f).folios = s.folios := rfl
@[simp] theorem onTeam_ports (i : TeamId) (f : Team → Team) : (s.onTeam i f).ports = s.ports := rfl
@[simp] theorem onTeam_poolReqs (i : TeamId) (f : Team → Team) : (s.onTeam i f).poolReqs = s.poolReqs := rfl
@[simp] theorem onTeam_nets (i : TeamId) (f : Team → Team) : (s.onTeam i f).nets = s.nets := rfl
@[simp] theorem onTeam_pool (i : TeamId) (f : Team → Team) : (s.onTeam i f).pool = s.pool := rfl
@[simp] theorem onTeam_host (i : TeamId) (f : Team → Team) : (s.onTeam i f).host = s.host := rfl
@[simp] theorem onTeam_damage (i : TeamId) (f : Team → Team) : (s.onTeam i f).damage = s.damage := rfl
@[simp] theorem onTeam_scLines (i : TeamId) (f : Team → Team) : (s.onTeam i f).scLines = s.scLines := rfl
@[simp] theorem onTeam_pkg (i : TeamId) (f : Team → Team) : (s.onTeam i f).pkg = s.pkg := rfl

/-! ## onPipe -/

@[simp] theorem onPipe_agenda (i : PipeId) (f : Pipe → Pipe) : (s.onPipe i f).agenda = s.agenda := rfl
@[simp] theorem onPipe_focus (i : PipeId) (f : Pipe → Pipe) : (s.onPipe i f).focus = s.focus := rfl
@[simp] theorem onPipe_fresh (i : PipeId) (f : Pipe → Pipe) : (s.onPipe i f).fresh = s.fresh := rfl
@[simp] theorem onPipe_freed (i : PipeId) (f : Pipe → Pipe) : (s.onPipe i f).freed = s.freed := rfl
@[simp] theorem onPipe_turn (i : PipeId) (f : Pipe → Pipe) : (s.onPipe i f).turn = s.turn := rfl
@[simp] theorem onPipe_threads (i : PipeId) (f : Pipe → Pipe) : (s.onPipe i f).threads = s.threads := rfl
@[simp] theorem onPipe_teams (i : PipeId) (f : Pipe → Pipe) : (s.onPipe i f).teams = s.teams := rfl
@[simp] theorem onPipe_ended (i : PipeId) (f : Pipe → Pipe) : (s.onPipe i f).ended = s.ended := rfl
@[simp] theorem onPipe_flagsNow (i : PipeId) (f : Pipe → Pipe) : (s.onPipe i f).flagsNow = s.flagsNow := rfl
@[simp] theorem onPipe_sheet (i : PipeId) (f : Pipe → Pipe) : (s.onPipe i f).sheet = s.sheet := rfl
@[simp] theorem onPipe_cores (i : PipeId) (f : Pipe → Pipe) : (s.onPipe i f).cores = s.cores := rfl
@[simp] theorem onPipe_dies (i : PipeId) (f : Pipe → Pipe) : (s.onPipe i f).dies = s.dies := rfl
@[simp] theorem onPipe_grids (i : PipeId) (f : Pipe → Pipe) : (s.onPipe i f).grids = s.grids := rfl
@[simp] theorem onPipe_clusters (i : PipeId) (f : Pipe → Pipe) : (s.onPipe i f).clusters = s.clusters := rfl
@[simp] theorem onPipe_contexts (i : PipeId) (f : Pipe → Pipe) : (s.onPipe i f).contexts = s.contexts := rfl
@[simp] theorem onPipe_accs (i : PipeId) (f : Pipe → Pipe) : (s.onPipe i f).accs = s.accs := rfl
@[simp] theorem onPipe_asks (i : PipeId) (f : Pipe → Pipe) : (s.onPipe i f).asks = s.asks := rfl
@[simp] theorem onPipe_reads (i : PipeId) (f : Pipe → Pipe) : (s.onPipe i f).reads = s.reads := rfl
@[simp] theorem onPipe_credits (i : PipeId) (f : Pipe → Pipe) : (s.onPipe i f).credits = s.credits := rfl
@[simp] theorem onPipe_cmds (i : PipeId) (f : Pipe → Pipe) : (s.onPipe i f).cmds = s.cmds := rfl
@[simp] theorem onPipe_lines (i : PipeId) (f : Pipe → Pipe) : (s.onPipe i f).lines = s.lines := rfl
@[simp] theorem onPipe_imported (i : PipeId) (f : Pipe → Pipe) : (s.onPipe i f).imported = s.imported := rfl
@[simp] theorem onPipe_l3 (i : PipeId) (f : Pipe → Pipe) : (s.onPipe i f).l3 = s.l3 := rfl
@[simp] theorem onPipe_tree (i : PipeId) (f : Pipe → Pipe) : (s.onPipe i f).tree = s.tree := rfl
@[simp] theorem onPipe_msgs (i : PipeId) (f : Pipe → Pipe) : (s.onPipe i f).msgs = s.msgs := rfl
@[simp] theorem onPipe_holdq (i : PipeId) (f : Pipe → Pipe) : (s.onPipe i f).holdq = s.holdq := rfl
@[simp] theorem onPipe_returned (i : PipeId) (f : Pipe → Pipe) : (s.onPipe i f).returned = s.returned := rfl
@[simp] theorem onPipe_misses (i : PipeId) (f : Pipe → Pipe) : (s.onPipe i f).misses = s.misses := rfl
@[simp] theorem onPipe_jobs (i : PipeId) (f : Pipe → Pipe) : (s.onPipe i f).jobs = s.jobs := rfl
@[simp] theorem onPipe_bounces (i : PipeId) (f : Pipe → Pipe) : (s.onPipe i f).bounces = s.bounces := rfl
@[simp] theorem onPipe_folios (i : PipeId) (f : Pipe → Pipe) : (s.onPipe i f).folios = s.folios := rfl
@[simp] theorem onPipe_ports (i : PipeId) (f : Pipe → Pipe) : (s.onPipe i f).ports = s.ports := rfl
@[simp] theorem onPipe_poolReqs (i : PipeId) (f : Pipe → Pipe) : (s.onPipe i f).poolReqs = s.poolReqs := rfl
@[simp] theorem onPipe_nets (i : PipeId) (f : Pipe → Pipe) : (s.onPipe i f).nets = s.nets := rfl
@[simp] theorem onPipe_pool (i : PipeId) (f : Pipe → Pipe) : (s.onPipe i f).pool = s.pool := rfl
@[simp] theorem onPipe_host (i : PipeId) (f : Pipe → Pipe) : (s.onPipe i f).host = s.host := rfl
@[simp] theorem onPipe_damage (i : PipeId) (f : Pipe → Pipe) : (s.onPipe i f).damage = s.damage := rfl
@[simp] theorem onPipe_scLines (i : PipeId) (f : Pipe → Pipe) : (s.onPipe i f).scLines = s.scLines := rfl
@[simp] theorem onPipe_pkg (i : PipeId) (f : Pipe → Pipe) : (s.onPipe i f).pkg = s.pkg := rfl

/-! ## onAcc -/

@[simp] theorem onAcc_agenda (i : Nat) (f : Acc → Acc) : (s.onAcc i f).agenda = s.agenda := rfl
@[simp] theorem onAcc_focus (i : Nat) (f : Acc → Acc) : (s.onAcc i f).focus = s.focus := rfl
@[simp] theorem onAcc_fresh (i : Nat) (f : Acc → Acc) : (s.onAcc i f).fresh = s.fresh := rfl
@[simp] theorem onAcc_freed (i : Nat) (f : Acc → Acc) : (s.onAcc i f).freed = s.freed := rfl
@[simp] theorem onAcc_turn (i : Nat) (f : Acc → Acc) : (s.onAcc i f).turn = s.turn := rfl
@[simp] theorem onAcc_threads (i : Nat) (f : Acc → Acc) : (s.onAcc i f).threads = s.threads := rfl
@[simp] theorem onAcc_teams (i : Nat) (f : Acc → Acc) : (s.onAcc i f).teams = s.teams := rfl
@[simp] theorem onAcc_pipes (i : Nat) (f : Acc → Acc) : (s.onAcc i f).pipes = s.pipes := rfl
@[simp] theorem onAcc_ended (i : Nat) (f : Acc → Acc) : (s.onAcc i f).ended = s.ended := rfl
@[simp] theorem onAcc_flagsNow (i : Nat) (f : Acc → Acc) : (s.onAcc i f).flagsNow = s.flagsNow := rfl
@[simp] theorem onAcc_sheet (i : Nat) (f : Acc → Acc) : (s.onAcc i f).sheet = s.sheet := rfl
@[simp] theorem onAcc_cores (i : Nat) (f : Acc → Acc) : (s.onAcc i f).cores = s.cores := rfl
@[simp] theorem onAcc_dies (i : Nat) (f : Acc → Acc) : (s.onAcc i f).dies = s.dies := rfl
@[simp] theorem onAcc_grids (i : Nat) (f : Acc → Acc) : (s.onAcc i f).grids = s.grids := rfl
@[simp] theorem onAcc_clusters (i : Nat) (f : Acc → Acc) : (s.onAcc i f).clusters = s.clusters := rfl
@[simp] theorem onAcc_contexts (i : Nat) (f : Acc → Acc) : (s.onAcc i f).contexts = s.contexts := rfl
@[simp] theorem onAcc_asks (i : Nat) (f : Acc → Acc) : (s.onAcc i f).asks = s.asks := rfl
@[simp] theorem onAcc_reads (i : Nat) (f : Acc → Acc) : (s.onAcc i f).reads = s.reads := rfl
@[simp] theorem onAcc_credits (i : Nat) (f : Acc → Acc) : (s.onAcc i f).credits = s.credits := rfl
@[simp] theorem onAcc_cmds (i : Nat) (f : Acc → Acc) : (s.onAcc i f).cmds = s.cmds := rfl
@[simp] theorem onAcc_lines (i : Nat) (f : Acc → Acc) : (s.onAcc i f).lines = s.lines := rfl
@[simp] theorem onAcc_imported (i : Nat) (f : Acc → Acc) : (s.onAcc i f).imported = s.imported := rfl
@[simp] theorem onAcc_l3 (i : Nat) (f : Acc → Acc) : (s.onAcc i f).l3 = s.l3 := rfl
@[simp] theorem onAcc_tree (i : Nat) (f : Acc → Acc) : (s.onAcc i f).tree = s.tree := rfl
@[simp] theorem onAcc_msgs (i : Nat) (f : Acc → Acc) : (s.onAcc i f).msgs = s.msgs := rfl
@[simp] theorem onAcc_holdq (i : Nat) (f : Acc → Acc) : (s.onAcc i f).holdq = s.holdq := rfl
@[simp] theorem onAcc_returned (i : Nat) (f : Acc → Acc) : (s.onAcc i f).returned = s.returned := rfl
@[simp] theorem onAcc_misses (i : Nat) (f : Acc → Acc) : (s.onAcc i f).misses = s.misses := rfl
@[simp] theorem onAcc_jobs (i : Nat) (f : Acc → Acc) : (s.onAcc i f).jobs = s.jobs := rfl
@[simp] theorem onAcc_bounces (i : Nat) (f : Acc → Acc) : (s.onAcc i f).bounces = s.bounces := rfl
@[simp] theorem onAcc_folios (i : Nat) (f : Acc → Acc) : (s.onAcc i f).folios = s.folios := rfl
@[simp] theorem onAcc_ports (i : Nat) (f : Acc → Acc) : (s.onAcc i f).ports = s.ports := rfl
@[simp] theorem onAcc_poolReqs (i : Nat) (f : Acc → Acc) : (s.onAcc i f).poolReqs = s.poolReqs := rfl
@[simp] theorem onAcc_nets (i : Nat) (f : Acc → Acc) : (s.onAcc i f).nets = s.nets := rfl
@[simp] theorem onAcc_pool (i : Nat) (f : Acc → Acc) : (s.onAcc i f).pool = s.pool := rfl
@[simp] theorem onAcc_host (i : Nat) (f : Acc → Acc) : (s.onAcc i f).host = s.host := rfl
@[simp] theorem onAcc_damage (i : Nat) (f : Acc → Acc) : (s.onAcc i f).damage = s.damage := rfl
@[simp] theorem onAcc_scLines (i : Nat) (f : Acc → Acc) : (s.onAcc i f).scLines = s.scLines := rfl
@[simp] theorem onAcc_pkg (i : Nat) (f : Acc → Acc) : (s.onAcc i f).pkg = s.pkg := rfl

/-! ## dropAcc -/

@[simp] theorem dropAcc_agenda (i : Nat) : (s.dropAcc i).agenda = s.agenda := rfl
@[simp] theorem dropAcc_focus (i : Nat) : (s.dropAcc i).focus = s.focus := rfl
@[simp] theorem dropAcc_fresh (i : Nat) : (s.dropAcc i).fresh = s.fresh := rfl
@[simp] theorem dropAcc_freed (i : Nat) : (s.dropAcc i).freed = s.freed := rfl
@[simp] theorem dropAcc_turn (i : Nat) : (s.dropAcc i).turn = s.turn := rfl
@[simp] theorem dropAcc_threads (i : Nat) : (s.dropAcc i).threads = s.threads := rfl
@[simp] theorem dropAcc_teams (i : Nat) : (s.dropAcc i).teams = s.teams := rfl
@[simp] theorem dropAcc_pipes (i : Nat) : (s.dropAcc i).pipes = s.pipes := rfl
@[simp] theorem dropAcc_ended (i : Nat) : (s.dropAcc i).ended = s.ended := rfl
@[simp] theorem dropAcc_flagsNow (i : Nat) : (s.dropAcc i).flagsNow = s.flagsNow := rfl
@[simp] theorem dropAcc_sheet (i : Nat) : (s.dropAcc i).sheet = s.sheet := rfl
@[simp] theorem dropAcc_cores (i : Nat) : (s.dropAcc i).cores = s.cores := rfl
@[simp] theorem dropAcc_dies (i : Nat) : (s.dropAcc i).dies = s.dies := rfl
@[simp] theorem dropAcc_grids (i : Nat) : (s.dropAcc i).grids = s.grids := rfl
@[simp] theorem dropAcc_clusters (i : Nat) : (s.dropAcc i).clusters = s.clusters := rfl
@[simp] theorem dropAcc_contexts (i : Nat) : (s.dropAcc i).contexts = s.contexts := rfl
@[simp] theorem dropAcc_asks (i : Nat) : (s.dropAcc i).asks = s.asks := rfl
@[simp] theorem dropAcc_reads (i : Nat) : (s.dropAcc i).reads = s.reads := rfl
@[simp] theorem dropAcc_credits (i : Nat) : (s.dropAcc i).credits = s.credits := rfl
@[simp] theorem dropAcc_cmds (i : Nat) : (s.dropAcc i).cmds = s.cmds := rfl
@[simp] theorem dropAcc_lines (i : Nat) : (s.dropAcc i).lines = s.lines := rfl
@[simp] theorem dropAcc_imported (i : Nat) : (s.dropAcc i).imported = s.imported := rfl
@[simp] theorem dropAcc_l3 (i : Nat) : (s.dropAcc i).l3 = s.l3 := rfl
@[simp] theorem dropAcc_tree (i : Nat) : (s.dropAcc i).tree = s.tree := rfl
@[simp] theorem dropAcc_msgs (i : Nat) : (s.dropAcc i).msgs = s.msgs := rfl
@[simp] theorem dropAcc_holdq (i : Nat) : (s.dropAcc i).holdq = s.holdq := rfl
@[simp] theorem dropAcc_returned (i : Nat) : (s.dropAcc i).returned = s.returned := rfl
@[simp] theorem dropAcc_misses (i : Nat) : (s.dropAcc i).misses = s.misses := rfl
@[simp] theorem dropAcc_jobs (i : Nat) : (s.dropAcc i).jobs = s.jobs := rfl
@[simp] theorem dropAcc_bounces (i : Nat) : (s.dropAcc i).bounces = s.bounces := rfl
@[simp] theorem dropAcc_folios (i : Nat) : (s.dropAcc i).folios = s.folios := rfl
@[simp] theorem dropAcc_ports (i : Nat) : (s.dropAcc i).ports = s.ports := rfl
@[simp] theorem dropAcc_poolReqs (i : Nat) : (s.dropAcc i).poolReqs = s.poolReqs := rfl
@[simp] theorem dropAcc_nets (i : Nat) : (s.dropAcc i).nets = s.nets := rfl
@[simp] theorem dropAcc_pool (i : Nat) : (s.dropAcc i).pool = s.pool := rfl
@[simp] theorem dropAcc_host (i : Nat) : (s.dropAcc i).host = s.host := rfl
@[simp] theorem dropAcc_damage (i : Nat) : (s.dropAcc i).damage = s.damage := rfl
@[simp] theorem dropAcc_scLines (i : Nat) : (s.dropAcc i).scLines = s.scLines := rfl
@[simp] theorem dropAcc_pkg (i : Nat) : (s.dropAcc i).pkg = s.pkg := rfl

/-! ## onCmd -/

@[simp] theorem onCmd_agenda (i : Nat) (f : Cmd → Cmd) : (s.onCmd i f).agenda = s.agenda := rfl
@[simp] theorem onCmd_focus (i : Nat) (f : Cmd → Cmd) : (s.onCmd i f).focus = s.focus := rfl
@[simp] theorem onCmd_fresh (i : Nat) (f : Cmd → Cmd) : (s.onCmd i f).fresh = s.fresh := rfl
@[simp] theorem onCmd_freed (i : Nat) (f : Cmd → Cmd) : (s.onCmd i f).freed = s.freed := rfl
@[simp] theorem onCmd_turn (i : Nat) (f : Cmd → Cmd) : (s.onCmd i f).turn = s.turn := rfl
@[simp] theorem onCmd_threads (i : Nat) (f : Cmd → Cmd) : (s.onCmd i f).threads = s.threads := rfl
@[simp] theorem onCmd_teams (i : Nat) (f : Cmd → Cmd) : (s.onCmd i f).teams = s.teams := rfl
@[simp] theorem onCmd_pipes (i : Nat) (f : Cmd → Cmd) : (s.onCmd i f).pipes = s.pipes := rfl
@[simp] theorem onCmd_ended (i : Nat) (f : Cmd → Cmd) : (s.onCmd i f).ended = s.ended := rfl
@[simp] theorem onCmd_flagsNow (i : Nat) (f : Cmd → Cmd) : (s.onCmd i f).flagsNow = s.flagsNow := rfl
@[simp] theorem onCmd_sheet (i : Nat) (f : Cmd → Cmd) : (s.onCmd i f).sheet = s.sheet := rfl
@[simp] theorem onCmd_cores (i : Nat) (f : Cmd → Cmd) : (s.onCmd i f).cores = s.cores := rfl
@[simp] theorem onCmd_dies (i : Nat) (f : Cmd → Cmd) : (s.onCmd i f).dies = s.dies := rfl
@[simp] theorem onCmd_grids (i : Nat) (f : Cmd → Cmd) : (s.onCmd i f).grids = s.grids := rfl
@[simp] theorem onCmd_clusters (i : Nat) (f : Cmd → Cmd) : (s.onCmd i f).clusters = s.clusters := rfl
@[simp] theorem onCmd_contexts (i : Nat) (f : Cmd → Cmd) : (s.onCmd i f).contexts = s.contexts := rfl
@[simp] theorem onCmd_accs (i : Nat) (f : Cmd → Cmd) : (s.onCmd i f).accs = s.accs := rfl
@[simp] theorem onCmd_asks (i : Nat) (f : Cmd → Cmd) : (s.onCmd i f).asks = s.asks := rfl
@[simp] theorem onCmd_reads (i : Nat) (f : Cmd → Cmd) : (s.onCmd i f).reads = s.reads := rfl
@[simp] theorem onCmd_credits (i : Nat) (f : Cmd → Cmd) : (s.onCmd i f).credits = s.credits := rfl
@[simp] theorem onCmd_lines (i : Nat) (f : Cmd → Cmd) : (s.onCmd i f).lines = s.lines := rfl
@[simp] theorem onCmd_imported (i : Nat) (f : Cmd → Cmd) : (s.onCmd i f).imported = s.imported := rfl
@[simp] theorem onCmd_l3 (i : Nat) (f : Cmd → Cmd) : (s.onCmd i f).l3 = s.l3 := rfl
@[simp] theorem onCmd_tree (i : Nat) (f : Cmd → Cmd) : (s.onCmd i f).tree = s.tree := rfl
@[simp] theorem onCmd_msgs (i : Nat) (f : Cmd → Cmd) : (s.onCmd i f).msgs = s.msgs := rfl
@[simp] theorem onCmd_holdq (i : Nat) (f : Cmd → Cmd) : (s.onCmd i f).holdq = s.holdq := rfl
@[simp] theorem onCmd_returned (i : Nat) (f : Cmd → Cmd) : (s.onCmd i f).returned = s.returned := rfl
@[simp] theorem onCmd_misses (i : Nat) (f : Cmd → Cmd) : (s.onCmd i f).misses = s.misses := rfl
@[simp] theorem onCmd_jobs (i : Nat) (f : Cmd → Cmd) : (s.onCmd i f).jobs = s.jobs := rfl
@[simp] theorem onCmd_bounces (i : Nat) (f : Cmd → Cmd) : (s.onCmd i f).bounces = s.bounces := rfl
@[simp] theorem onCmd_folios (i : Nat) (f : Cmd → Cmd) : (s.onCmd i f).folios = s.folios := rfl
@[simp] theorem onCmd_ports (i : Nat) (f : Cmd → Cmd) : (s.onCmd i f).ports = s.ports := rfl
@[simp] theorem onCmd_poolReqs (i : Nat) (f : Cmd → Cmd) : (s.onCmd i f).poolReqs = s.poolReqs := rfl
@[simp] theorem onCmd_nets (i : Nat) (f : Cmd → Cmd) : (s.onCmd i f).nets = s.nets := rfl
@[simp] theorem onCmd_pool (i : Nat) (f : Cmd → Cmd) : (s.onCmd i f).pool = s.pool := rfl
@[simp] theorem onCmd_host (i : Nat) (f : Cmd → Cmd) : (s.onCmd i f).host = s.host := rfl
@[simp] theorem onCmd_damage (i : Nat) (f : Cmd → Cmd) : (s.onCmd i f).damage = s.damage := rfl
@[simp] theorem onCmd_scLines (i : Nat) (f : Cmd → Cmd) : (s.onCmd i f).scLines = s.scLines := rfl
@[simp] theorem onCmd_pkg (i : Nat) (f : Cmd → Cmd) : (s.onCmd i f).pkg = s.pkg := rfl

/-! ## onGrid -/

@[simp] theorem onGrid_agenda (i : Nat) (f : Grid → Grid) : (s.onGrid i f).agenda = s.agenda := rfl
@[simp] theorem onGrid_focus (i : Nat) (f : Grid → Grid) : (s.onGrid i f).focus = s.focus := rfl
@[simp] theorem onGrid_fresh (i : Nat) (f : Grid → Grid) : (s.onGrid i f).fresh = s.fresh := rfl
@[simp] theorem onGrid_freed (i : Nat) (f : Grid → Grid) : (s.onGrid i f).freed = s.freed := rfl
@[simp] theorem onGrid_turn (i : Nat) (f : Grid → Grid) : (s.onGrid i f).turn = s.turn := rfl
@[simp] theorem onGrid_threads (i : Nat) (f : Grid → Grid) : (s.onGrid i f).threads = s.threads := rfl
@[simp] theorem onGrid_teams (i : Nat) (f : Grid → Grid) : (s.onGrid i f).teams = s.teams := rfl
@[simp] theorem onGrid_pipes (i : Nat) (f : Grid → Grid) : (s.onGrid i f).pipes = s.pipes := rfl
@[simp] theorem onGrid_ended (i : Nat) (f : Grid → Grid) : (s.onGrid i f).ended = s.ended := rfl
@[simp] theorem onGrid_flagsNow (i : Nat) (f : Grid → Grid) : (s.onGrid i f).flagsNow = s.flagsNow := rfl
@[simp] theorem onGrid_sheet (i : Nat) (f : Grid → Grid) : (s.onGrid i f).sheet = s.sheet := rfl
@[simp] theorem onGrid_cores (i : Nat) (f : Grid → Grid) : (s.onGrid i f).cores = s.cores := rfl
@[simp] theorem onGrid_dies (i : Nat) (f : Grid → Grid) : (s.onGrid i f).dies = s.dies := rfl
@[simp] theorem onGrid_clusters (i : Nat) (f : Grid → Grid) : (s.onGrid i f).clusters = s.clusters := rfl
@[simp] theorem onGrid_contexts (i : Nat) (f : Grid → Grid) : (s.onGrid i f).contexts = s.contexts := rfl
@[simp] theorem onGrid_accs (i : Nat) (f : Grid → Grid) : (s.onGrid i f).accs = s.accs := rfl
@[simp] theorem onGrid_asks (i : Nat) (f : Grid → Grid) : (s.onGrid i f).asks = s.asks := rfl
@[simp] theorem onGrid_reads (i : Nat) (f : Grid → Grid) : (s.onGrid i f).reads = s.reads := rfl
@[simp] theorem onGrid_credits (i : Nat) (f : Grid → Grid) : (s.onGrid i f).credits = s.credits := rfl
@[simp] theorem onGrid_cmds (i : Nat) (f : Grid → Grid) : (s.onGrid i f).cmds = s.cmds := rfl
@[simp] theorem onGrid_lines (i : Nat) (f : Grid → Grid) : (s.onGrid i f).lines = s.lines := rfl
@[simp] theorem onGrid_imported (i : Nat) (f : Grid → Grid) : (s.onGrid i f).imported = s.imported := rfl
@[simp] theorem onGrid_l3 (i : Nat) (f : Grid → Grid) : (s.onGrid i f).l3 = s.l3 := rfl
@[simp] theorem onGrid_tree (i : Nat) (f : Grid → Grid) : (s.onGrid i f).tree = s.tree := rfl
@[simp] theorem onGrid_msgs (i : Nat) (f : Grid → Grid) : (s.onGrid i f).msgs = s.msgs := rfl
@[simp] theorem onGrid_holdq (i : Nat) (f : Grid → Grid) : (s.onGrid i f).holdq = s.holdq := rfl
@[simp] theorem onGrid_returned (i : Nat) (f : Grid → Grid) : (s.onGrid i f).returned = s.returned := rfl
@[simp] theorem onGrid_misses (i : Nat) (f : Grid → Grid) : (s.onGrid i f).misses = s.misses := rfl
@[simp] theorem onGrid_jobs (i : Nat) (f : Grid → Grid) : (s.onGrid i f).jobs = s.jobs := rfl
@[simp] theorem onGrid_bounces (i : Nat) (f : Grid → Grid) : (s.onGrid i f).bounces = s.bounces := rfl
@[simp] theorem onGrid_folios (i : Nat) (f : Grid → Grid) : (s.onGrid i f).folios = s.folios := rfl
@[simp] theorem onGrid_ports (i : Nat) (f : Grid → Grid) : (s.onGrid i f).ports = s.ports := rfl
@[simp] theorem onGrid_poolReqs (i : Nat) (f : Grid → Grid) : (s.onGrid i f).poolReqs = s.poolReqs := rfl
@[simp] theorem onGrid_nets (i : Nat) (f : Grid → Grid) : (s.onGrid i f).nets = s.nets := rfl
@[simp] theorem onGrid_pool (i : Nat) (f : Grid → Grid) : (s.onGrid i f).pool = s.pool := rfl
@[simp] theorem onGrid_host (i : Nat) (f : Grid → Grid) : (s.onGrid i f).host = s.host := rfl
@[simp] theorem onGrid_damage (i : Nat) (f : Grid → Grid) : (s.onGrid i f).damage = s.damage := rfl
@[simp] theorem onGrid_scLines (i : Nat) (f : Grid → Grid) : (s.onGrid i f).scLines = s.scLines := rfl
@[simp] theorem onGrid_pkg (i : Nat) (f : Grid → Grid) : (s.onGrid i f).pkg = s.pkg := rfl

/-! ## onDie -/

@[simp] theorem onDie_agenda (i : Fin 8) (f : Die → Die) : (s.onDie i f).agenda = s.agenda := rfl
@[simp] theorem onDie_focus (i : Fin 8) (f : Die → Die) : (s.onDie i f).focus = s.focus := rfl
@[simp] theorem onDie_fresh (i : Fin 8) (f : Die → Die) : (s.onDie i f).fresh = s.fresh := rfl
@[simp] theorem onDie_freed (i : Fin 8) (f : Die → Die) : (s.onDie i f).freed = s.freed := rfl
@[simp] theorem onDie_turn (i : Fin 8) (f : Die → Die) : (s.onDie i f).turn = s.turn := rfl
@[simp] theorem onDie_threads (i : Fin 8) (f : Die → Die) : (s.onDie i f).threads = s.threads := rfl
@[simp] theorem onDie_teams (i : Fin 8) (f : Die → Die) : (s.onDie i f).teams = s.teams := rfl
@[simp] theorem onDie_pipes (i : Fin 8) (f : Die → Die) : (s.onDie i f).pipes = s.pipes := rfl
@[simp] theorem onDie_ended (i : Fin 8) (f : Die → Die) : (s.onDie i f).ended = s.ended := rfl
@[simp] theorem onDie_flagsNow (i : Fin 8) (f : Die → Die) : (s.onDie i f).flagsNow = s.flagsNow := rfl
@[simp] theorem onDie_sheet (i : Fin 8) (f : Die → Die) : (s.onDie i f).sheet = s.sheet := rfl
@[simp] theorem onDie_cores (i : Fin 8) (f : Die → Die) : (s.onDie i f).cores = s.cores := rfl
@[simp] theorem onDie_grids (i : Fin 8) (f : Die → Die) : (s.onDie i f).grids = s.grids := rfl
@[simp] theorem onDie_clusters (i : Fin 8) (f : Die → Die) : (s.onDie i f).clusters = s.clusters := rfl
@[simp] theorem onDie_contexts (i : Fin 8) (f : Die → Die) : (s.onDie i f).contexts = s.contexts := rfl
@[simp] theorem onDie_accs (i : Fin 8) (f : Die → Die) : (s.onDie i f).accs = s.accs := rfl
@[simp] theorem onDie_asks (i : Fin 8) (f : Die → Die) : (s.onDie i f).asks = s.asks := rfl
@[simp] theorem onDie_reads (i : Fin 8) (f : Die → Die) : (s.onDie i f).reads = s.reads := rfl
@[simp] theorem onDie_credits (i : Fin 8) (f : Die → Die) : (s.onDie i f).credits = s.credits := rfl
@[simp] theorem onDie_cmds (i : Fin 8) (f : Die → Die) : (s.onDie i f).cmds = s.cmds := rfl
@[simp] theorem onDie_lines (i : Fin 8) (f : Die → Die) : (s.onDie i f).lines = s.lines := rfl
@[simp] theorem onDie_imported (i : Fin 8) (f : Die → Die) : (s.onDie i f).imported = s.imported := rfl
@[simp] theorem onDie_l3 (i : Fin 8) (f : Die → Die) : (s.onDie i f).l3 = s.l3 := rfl
@[simp] theorem onDie_tree (i : Fin 8) (f : Die → Die) : (s.onDie i f).tree = s.tree := rfl
@[simp] theorem onDie_msgs (i : Fin 8) (f : Die → Die) : (s.onDie i f).msgs = s.msgs := rfl
@[simp] theorem onDie_holdq (i : Fin 8) (f : Die → Die) : (s.onDie i f).holdq = s.holdq := rfl
@[simp] theorem onDie_returned (i : Fin 8) (f : Die → Die) : (s.onDie i f).returned = s.returned := rfl
@[simp] theorem onDie_misses (i : Fin 8) (f : Die → Die) : (s.onDie i f).misses = s.misses := rfl
@[simp] theorem onDie_jobs (i : Fin 8) (f : Die → Die) : (s.onDie i f).jobs = s.jobs := rfl
@[simp] theorem onDie_bounces (i : Fin 8) (f : Die → Die) : (s.onDie i f).bounces = s.bounces := rfl
@[simp] theorem onDie_folios (i : Fin 8) (f : Die → Die) : (s.onDie i f).folios = s.folios := rfl
@[simp] theorem onDie_ports (i : Fin 8) (f : Die → Die) : (s.onDie i f).ports = s.ports := rfl
@[simp] theorem onDie_poolReqs (i : Fin 8) (f : Die → Die) : (s.onDie i f).poolReqs = s.poolReqs := rfl
@[simp] theorem onDie_nets (i : Fin 8) (f : Die → Die) : (s.onDie i f).nets = s.nets := rfl
@[simp] theorem onDie_pool (i : Fin 8) (f : Die → Die) : (s.onDie i f).pool = s.pool := rfl
@[simp] theorem onDie_host (i : Fin 8) (f : Die → Die) : (s.onDie i f).host = s.host := rfl
@[simp] theorem onDie_damage (i : Fin 8) (f : Die → Die) : (s.onDie i f).damage = s.damage := rfl
@[simp] theorem onDie_scLines (i : Fin 8) (f : Die → Die) : (s.onDie i f).scLines = s.scLines := rfl
@[simp] theorem onDie_pkg (i : Fin 8) (f : Die → Die) : (s.onDie i f).pkg = s.pkg := rfl

/-! ## onCore -/

@[simp] theorem onCore_agenda (i : CoreId) (f : Core → Core) : (s.onCore i f).agenda = s.agenda := rfl
@[simp] theorem onCore_focus (i : CoreId) (f : Core → Core) : (s.onCore i f).focus = s.focus := rfl
@[simp] theorem onCore_fresh (i : CoreId) (f : Core → Core) : (s.onCore i f).fresh = s.fresh := rfl
@[simp] theorem onCore_freed (i : CoreId) (f : Core → Core) : (s.onCore i f).freed = s.freed := rfl
@[simp] theorem onCore_turn (i : CoreId) (f : Core → Core) : (s.onCore i f).turn = s.turn := rfl
@[simp] theorem onCore_threads (i : CoreId) (f : Core → Core) : (s.onCore i f).threads = s.threads := rfl
@[simp] theorem onCore_teams (i : CoreId) (f : Core → Core) : (s.onCore i f).teams = s.teams := rfl
@[simp] theorem onCore_pipes (i : CoreId) (f : Core → Core) : (s.onCore i f).pipes = s.pipes := rfl
@[simp] theorem onCore_ended (i : CoreId) (f : Core → Core) : (s.onCore i f).ended = s.ended := rfl
@[simp] theorem onCore_flagsNow (i : CoreId) (f : Core → Core) : (s.onCore i f).flagsNow = s.flagsNow := rfl
@[simp] theorem onCore_sheet (i : CoreId) (f : Core → Core) : (s.onCore i f).sheet = s.sheet := rfl
@[simp] theorem onCore_dies (i : CoreId) (f : Core → Core) : (s.onCore i f).dies = s.dies := rfl
@[simp] theorem onCore_grids (i : CoreId) (f : Core → Core) : (s.onCore i f).grids = s.grids := rfl
@[simp] theorem onCore_clusters (i : CoreId) (f : Core → Core) : (s.onCore i f).clusters = s.clusters := rfl
@[simp] theorem onCore_contexts (i : CoreId) (f : Core → Core) : (s.onCore i f).contexts = s.contexts := rfl
@[simp] theorem onCore_accs (i : CoreId) (f : Core → Core) : (s.onCore i f).accs = s.accs := rfl
@[simp] theorem onCore_asks (i : CoreId) (f : Core → Core) : (s.onCore i f).asks = s.asks := rfl
@[simp] theorem onCore_reads (i : CoreId) (f : Core → Core) : (s.onCore i f).reads = s.reads := rfl
@[simp] theorem onCore_credits (i : CoreId) (f : Core → Core) : (s.onCore i f).credits = s.credits := rfl
@[simp] theorem onCore_cmds (i : CoreId) (f : Core → Core) : (s.onCore i f).cmds = s.cmds := rfl
@[simp] theorem onCore_lines (i : CoreId) (f : Core → Core) : (s.onCore i f).lines = s.lines := rfl
@[simp] theorem onCore_imported (i : CoreId) (f : Core → Core) : (s.onCore i f).imported = s.imported := rfl
@[simp] theorem onCore_l3 (i : CoreId) (f : Core → Core) : (s.onCore i f).l3 = s.l3 := rfl
@[simp] theorem onCore_tree (i : CoreId) (f : Core → Core) : (s.onCore i f).tree = s.tree := rfl
@[simp] theorem onCore_msgs (i : CoreId) (f : Core → Core) : (s.onCore i f).msgs = s.msgs := rfl
@[simp] theorem onCore_holdq (i : CoreId) (f : Core → Core) : (s.onCore i f).holdq = s.holdq := rfl
@[simp] theorem onCore_returned (i : CoreId) (f : Core → Core) : (s.onCore i f).returned = s.returned := rfl
@[simp] theorem onCore_misses (i : CoreId) (f : Core → Core) : (s.onCore i f).misses = s.misses := rfl
@[simp] theorem onCore_jobs (i : CoreId) (f : Core → Core) : (s.onCore i f).jobs = s.jobs := rfl
@[simp] theorem onCore_bounces (i : CoreId) (f : Core → Core) : (s.onCore i f).bounces = s.bounces := rfl
@[simp] theorem onCore_folios (i : CoreId) (f : Core → Core) : (s.onCore i f).folios = s.folios := rfl
@[simp] theorem onCore_ports (i : CoreId) (f : Core → Core) : (s.onCore i f).ports = s.ports := rfl
@[simp] theorem onCore_poolReqs (i : CoreId) (f : Core → Core) : (s.onCore i f).poolReqs = s.poolReqs := rfl
@[simp] theorem onCore_nets (i : CoreId) (f : Core → Core) : (s.onCore i f).nets = s.nets := rfl
@[simp] theorem onCore_pool (i : CoreId) (f : Core → Core) : (s.onCore i f).pool = s.pool := rfl
@[simp] theorem onCore_host (i : CoreId) (f : Core → Core) : (s.onCore i f).host = s.host := rfl
@[simp] theorem onCore_damage (i : CoreId) (f : Core → Core) : (s.onCore i f).damage = s.damage := rfl
@[simp] theorem onCore_scLines (i : CoreId) (f : Core → Core) : (s.onCore i f).scLines = s.scLines := rfl
@[simp] theorem onCore_pkg (i : CoreId) (f : Core → Core) : (s.onCore i f).pkg = s.pkg := rfl

/-! ## bump -/

@[simp] theorem bump_agenda : (s.bump).agenda = s.agenda := rfl
@[simp] theorem bump_focus : (s.bump).focus = s.focus := rfl
@[simp] theorem bump_freed : (s.bump).freed = s.freed := rfl
@[simp] theorem bump_turn : (s.bump).turn = s.turn := rfl
@[simp] theorem bump_threads : (s.bump).threads = s.threads := rfl
@[simp] theorem bump_teams : (s.bump).teams = s.teams := rfl
@[simp] theorem bump_pipes : (s.bump).pipes = s.pipes := rfl
@[simp] theorem bump_ended : (s.bump).ended = s.ended := rfl
@[simp] theorem bump_flagsNow : (s.bump).flagsNow = s.flagsNow := rfl
@[simp] theorem bump_sheet : (s.bump).sheet = s.sheet := rfl
@[simp] theorem bump_cores : (s.bump).cores = s.cores := rfl
@[simp] theorem bump_dies : (s.bump).dies = s.dies := rfl
@[simp] theorem bump_grids : (s.bump).grids = s.grids := rfl
@[simp] theorem bump_clusters : (s.bump).clusters = s.clusters := rfl
@[simp] theorem bump_contexts : (s.bump).contexts = s.contexts := rfl
@[simp] theorem bump_accs : (s.bump).accs = s.accs := rfl
@[simp] theorem bump_asks : (s.bump).asks = s.asks := rfl
@[simp] theorem bump_reads : (s.bump).reads = s.reads := rfl
@[simp] theorem bump_credits : (s.bump).credits = s.credits := rfl
@[simp] theorem bump_cmds : (s.bump).cmds = s.cmds := rfl
@[simp] theorem bump_lines : (s.bump).lines = s.lines := rfl
@[simp] theorem bump_imported : (s.bump).imported = s.imported := rfl
@[simp] theorem bump_l3 : (s.bump).l3 = s.l3 := rfl
@[simp] theorem bump_tree : (s.bump).tree = s.tree := rfl
@[simp] theorem bump_msgs : (s.bump).msgs = s.msgs := rfl
@[simp] theorem bump_holdq : (s.bump).holdq = s.holdq := rfl
@[simp] theorem bump_returned : (s.bump).returned = s.returned := rfl
@[simp] theorem bump_misses : (s.bump).misses = s.misses := rfl
@[simp] theorem bump_jobs : (s.bump).jobs = s.jobs := rfl
@[simp] theorem bump_bounces : (s.bump).bounces = s.bounces := rfl
@[simp] theorem bump_folios : (s.bump).folios = s.folios := rfl
@[simp] theorem bump_ports : (s.bump).ports = s.ports := rfl
@[simp] theorem bump_poolReqs : (s.bump).poolReqs = s.poolReqs := rfl
@[simp] theorem bump_nets : (s.bump).nets = s.nets := rfl
@[simp] theorem bump_pool : (s.bump).pool = s.pool := rfl
@[simp] theorem bump_host : (s.bump).host = s.host := rfl
@[simp] theorem bump_damage : (s.bump).damage = s.damage := rfl
@[simp] theorem bump_scLines : (s.bump).scLines = s.scLines := rfl
@[simp] theorem bump_pkg : (s.bump).pkg = s.pkg := rfl

end Sys2Proof.Machine.State
end

