-- ==== Sys2Proof/Laws/Lookup.lean ====
section
/-!
SUPPORT. Looking up what an update has changed: a find by key after a map that keeps the keys.
-/
namespace Sys2Proof.Machine

variable {α κ : Type} [DecidableEq κ]

/-- A map that changes only the entry of one key, and keeps its key, changes what that key finds. -/
theorem find_map_same (xs : List α) (key : α → κ) (k : κ) (f : α → α) (h : ∀ x, key x = k → key (f x) = k) :
    (xs.map fun x => if key x = k then f x else x).find? (fun x => decide (key x = k)) =
      (xs.find? fun x => decide (key x = k)).map f := by
  induction xs with
  | nil => rfl
  | cons x xs ih =>
      by_cases hx : key x = k
      · simp [hx, h x hx]
      · simp [hx, ih]

/-- It changes nothing for another key. -/
theorem find_map_other (xs : List α) (key : α → κ) (k k' : κ) (f : α → α) (hk : k' ≠ k) (h : ∀ x, key x = k → key (f x) = k) :
    (xs.map fun x => if key x = k then f x else x).find? (fun x => decide (key x = k')) =
      xs.find? fun x => decide (key x = k') := by
  induction xs with
  | nil => rfl
  | cons x xs ih =>
      by_cases hx : key x = k
      · have h1 : key (f x) ≠ k' := by rw [h x hx]; exact fun e => hk e.symm
        have h2 : key x ≠ k' := by rw [hx]; exact fun e => hk e.symm
        rw [List.map_cons, if_pos hx, List.find?_cons_of_neg (by simpa using h1), List.find?_cons_of_neg (by simpa using h2), ih]
      · rw [List.map_cons, if_neg hx]
        by_cases h2 : key x = k'
        · rw [List.find?_cons_of_pos (by simpa using h2), List.find?_cons_of_pos (by simpa using h2)]
        · rw [List.find?_cons_of_neg (by simpa using h2), List.find?_cons_of_neg (by simpa using h2), ih]

theorem State.thread_onThread_same (s : State) (i : ThreadId) (f : Thread → Thread) (h : ∀ t, t.id = i → (f t).id = i) :
    (s.onThread i f).thread i = (s.thread i).map f :=
  find_map_same s.threads Thread.id i f h

theorem State.thread_onThread_other (s : State) (i j : ThreadId) (f : Thread → Thread) (hj : j ≠ i)
    (h : ∀ t, t.id = i → (f t).id = i) : (s.onThread i f).thread j = s.thread j :=
  find_map_other s.threads Thread.id i j f hj h

theorem State.team_onTeam_same (s : State) (i : TeamId) (f : Team → Team) (h : ∀ t, t.id = i → (f t).id = i) :
    (s.onTeam i f).team i = (s.team i).map f :=
  find_map_same s.teams Team.id i f h

theorem State.team_onTeam_other (s : State) (i j : TeamId) (f : Team → Team) (hj : j ≠ i)
    (h : ∀ t, t.id = i → (f t).id = i) : (s.onTeam i f).team j = s.team j :=
  find_map_other s.teams Team.id i j f hj h

theorem State.pipe_onPipe_same (s : State) (i : PipeId) (f : Pipe → Pipe) (h : ∀ t, t.id = i → (f t).id = i) :
    (s.onPipe i f).pipe i = (s.pipe i).map f :=
  find_map_same s.pipes Pipe.id i f h

theorem State.acc_onAcc_same (s : State) (i : Nat) (f : Acc → Acc) (h : ∀ t, t.id = i → (f t).id = i) :
    (s.onAcc i f).acc i = (s.acc i).map f :=
  find_map_same s.accs Acc.id i f h

theorem State.acc_onAcc_other (s : State) (i j : Nat) (f : Acc → Acc) (hj : j ≠ i) (h : ∀ t, t.id = i → (f t).id = i) :
    (s.onAcc i f).acc j = s.acc j :=
  find_map_other s.accs Acc.id i j f hj h

theorem State.cmd_onCmd_same (s : State) (i : Nat) (f : Cmd → Cmd) (h : ∀ t, t.id = i → (f t).id = i) :
    (s.onCmd i f).cmd i = (s.cmd i).map f :=
  find_map_same s.cmds Cmd.id i f h

theorem State.grid_onGrid_same (s : State) (i : Nat) (f : Grid → Grid) (h : ∀ t, t.id = i → (f t).id = i) :
    (s.onGrid i f).grid i = (s.grid i).map f :=
  find_map_same s.grids Grid.id i f h

/-- A thread that is found has the identity it was looked up by. -/
theorem State.thread_id (s : State) {i : ThreadId} {t : Thread} (h : s.thread i = some t) : t.id = i := by
  simpa using List.find?_some h

theorem State.team_id (s : State) {i : TeamId} {t : Team} (h : s.team i = some t) : t.id = i := by
  simpa using List.find?_some h

theorem State.pipe_id (s : State) {i : PipeId} {p : Pipe} (h : s.pipe i = some p) : p.id = i := by
  simpa using List.find?_some h

theorem State.die_onDie_same (s : State) (i : Fin 8) (f : Die → Die) : (s.onDie i f).die i = f (s.die i) := by
  simp [State.die, State.onDie]

theorem State.die_onDie_other (s : State) (i j : Fin 8) (f : Die → Die) (h : j ≠ i) : (s.onDie i f).die j = s.die j := by
  have : (i : Nat) ≠ j := fun e => h (Fin.ext e.symm)
  simp [State.die, State.onDie, this]

theorem State.core_onCore_same (s : State) (i : CoreId) (f : Core → Core) : (s.onCore i f).core i = f (s.core i) := by
  simp [State.core, State.onCore]

theorem State.core_onCore_other (s : State) (i j : CoreId) (f : Core → Core) (h : j ≠ i) :
    (s.onCore i f).core j = s.core j := by
  have : ∀ xs : List (CoreId × Core), ((xs.filter fun c => !decide (c.1 = i)).find? fun c => decide (c.1 = j)) =
      xs.find? fun c => decide (c.1 = j) := by
    intro xs
    induction xs with
    | nil => rfl
    | cons x xs ih =>
        by_cases hx : x.1 = i
        · have : x.1 ≠ j := by rw [hx]; exact fun e => h e.symm
          simp [hx, ih, Ne.symm h]
        · by_cases h2 : x.1 = j
          · simp [h2, h]
          · simp [hx, h2, ih]
  simp [State.core, State.onCore, this, Ne.symm h]

end Sys2Proof.Machine
end

