-- ==== Sys2Proof/Laws/Registers.lean ====
section
/-!
SUPPORT. Registers of a thread: a register written reads as written, and every other register is as it was (02_execution R26).
-/
namespace Sys2Proof

theorem Opnd.plus_zero (o : Opnd) : o.plus 0 = o := by cases o <;> simp [Opnd.plus]

/-- An aligned number below a multiple of the alignment leaves room for the alignment. -/
theorem aligned_room {x n m : Nat} (hx : x < m) (ha : x % n = 0) (hm : n ∣ m) : x + n ≤ m := by
  obtain ⟨q, rfl⟩ := Nat.dvd_of_mod_eq_zero ha
  obtain ⟨r, rfl⟩ := hm
  have : q < r := Nat.lt_of_mul_lt_mul_left hx
  calc n * q + n = n * (q + 1) := by ring
    _ ≤ n * r := Nat.mul_le_mul_left n this

/-- A field that is aligned (02_execution R27): the places above it are other registers. -/
theorem Use.ok_plus_ne {kc : Nat} {u : Use} (h : u.ok kc = true) (hc : u.constOk = false) {i j : Nat}
    (hn : u.n ∣ 32) (hi : i < u.n) (hj : j < u.n) (hij : i ≠ j) : u.o.plus i ≠ u.o.plus j := by
  obtain ⟨o, n, rd, wr, c⟩ := u
  simp only at hc hi hj hn
  cases o with
  | t x =>
      simp only [Use.ok, decide_eq_true_eq] at h
      simp only [Opnd.plus, ne_eq, Opnd.t.injEq]
      intro e
      have := congrArg BitVec.toNat e
      simp only [BitVec.toNat_add, BitVec.toNat_ofNat] at this
      have := aligned_room x.isLt h hn
      omega
  | k x =>
      simp only [Use.ok, decide_eq_true_eq] at h
      simp only [Opnd.plus, ne_eq, Opnd.k.injEq]
      intro e
      have := congrArg BitVec.toNat e
      simp only [BitVec.toNat_add, BitVec.toNat_ofNat] at this
      have := aligned_room x.isLt h.1 (Nat.dvd_trans hn (by decide : 32 ∣ 64))
      omega
  | c x => simp [Use.ok, hc] at h
  | r x => simp [Use.ok] at h

/-- A destination field names registers. -/
def Opnd.isReg : Opnd → Bool
  | .t _ | .k _ => true
  | .c _ | .r _ => false

theorem Opnd.isReg_plus (o : Opnd) (i : Nat) : (o.plus i).isReg = o.isReg := by cases o <;> rfl

theorem Use.ok_isReg {kc : Nat} {u : Use} (h : u.ok kc = true) (hc : u.constOk = false) : u.o.isReg = true := by
  obtain ⟨o, n, rd, wr, c⟩ := u
  cases o <;> simp_all [Use.ok, Opnd.isReg]

end Sys2Proof

namespace Sys2Proof.Machine

theorem Thread.reg_setReg_same (th : Thread) (o : Opnd) (v : Word) (h : o.isReg = true) : (th.setReg o v).reg o = v := by
  cases o <;> simp_all [Thread.reg, Thread.setReg, Opnd.isReg]

theorem Thread.reg_setReg_other (th : Thread) (o o' : Opnd) (v : Word) (h : o' ≠ o) : (th.setReg o v).reg o' = th.reg o' := by
  cases o <;> cases o' <;> simp_all [Thread.reg, Thread.setReg]
  all_goals
    rw [Vector.getElem_set_ne]
    intro e
    apply h
    exact (BitVec.eq_of_toNat_eq e).symm

/-- The fields of a thread that a register write leaves alone. -/
theorem Thread.setReg_frame (th : Thread) (o : Opnd) (v : Word) :
    ∃ t k, th.setReg o v = { th with t := t, k := k } := by
  cases o
  · exact ⟨_, th.k, rfl⟩
  · exact ⟨th.t, _, rfl⟩
  · exact ⟨th.t, th.k, rfl⟩
  · exact ⟨th.t, th.k, rfl⟩

theorem Thread.setReg64_frame (th : Thread) (o : Opnd) (v : BitVec 64) :
    ∃ t k, th.setReg64 o v = { th with t := t, k := k } := by
  obtain ⟨t, k, h⟩ := th.setReg_frame o (v.setWidth 32)
  obtain ⟨t', k', h'⟩ := ({ th with t := t, k := k } : Thread).setReg_frame (o.plus 1) (v.extractLsb' 32 32)
  exact ⟨t', k', by rw [Thread.setReg64, h, h']⟩

theorem Thread.setRegN_frame (th : Thread) (o : Opnd) (n v : Nat) :
    ∃ t k, th.setRegN o n v = { th with t := t, k := k } := by
  unfold Thread.setRegN
  split
  · exact th.setReg_frame _ _
  · exact th.setReg64_frame _ _
  · obtain ⟨t, k, h⟩ := th.setReg64_frame o (BitVec.ofNat 64 v)
    obtain ⟨t', k', h'⟩ := ({ th with t := t, k := k } : Thread).setReg64_frame (o.plus 2) (BitVec.ofNat 64 (v / 2 ^ 64))
    exact ⟨t', k', by rw [h, h']⟩

theorem Thread.reg_setReg64_other (th : Thread) (o o' : Opnd) (v : BitVec 64) (h0 : o' ≠ o.plus 0) (h1 : o' ≠ o.plus 1) :
    (th.setReg64 o v).reg o' = th.reg o' := by
  rw [Opnd.plus_zero] at h0
  rw [Thread.setReg64, Thread.reg_setReg_other _ _ _ _ h1, Thread.reg_setReg_other _ _ _ _ h0]

theorem Opnd.plus_plus (o : Opnd) (i j : Nat) : (o.plus i).plus j = o.plus (i + j) := by
  cases o <;> simp [Opnd.plus, BitVec.add_assoc, BitVec.ofNat_add]

/-- A register that a write of `n` registers does not name. -/
theorem Thread.reg_setRegN_other (th : Thread) (o o' : Opnd) (n v : Nat) (hn : n = 1 ∨ n = 2 ∨ n = 4)
    (h : o' ∉ o.regList n) : (th.setRegN o n v).reg o' = th.reg o' := by
  have hne : ∀ i < n, o' ≠ o.plus i := fun i hi e => h (by simp only [Opnd.regList, List.mem_map, List.mem_range]; exact ⟨i, hi, e.symm⟩)
  rcases hn with rfl | rfl | rfl
  · have := hne 0 (by omega)
    rw [Opnd.plus_zero] at this
    exact th.reg_setReg_other o o' _ this
  · exact th.reg_setReg64_other o o' _ (hne 0 (by omega)) (hne 1 (by omega))
  · simp only [Thread.setRegN]
    rw [Thread.reg_setReg64_other _ _ _ _ (by rw [Opnd.plus_plus]; exact hne 2 (by omega))
      (by rw [Opnd.plus_plus]; exact hne 3 (by omega)),
      Thread.reg_setReg64_other _ _ _ _ (hne 0 (by omega)) (hne 1 (by omega))]

theorem Thread.reg64_of_reg (th : Thread) (o : Opnd) (h : o.isReg = true) : th.reg64 o = pairOf (th.reg o) (th.reg (o.plus 1)) := by
  cases o <;> simp_all [Thread.reg64, Opnd.isReg]

theorem Thread.reg64_setReg64_same (th : Thread) (o : Opnd) (v : BitVec 64) (h : o.isReg = true) (h1 : o.plus 0 ≠ o.plus 1) :
    (th.setReg64 o v).reg64 o = v := by
  rw [Opnd.plus_zero] at h1
  rw [Thread.reg64_of_reg _ _ h, Thread.setReg64, Thread.reg_setReg_other _ _ _ _ h1, Thread.reg_setReg_same _ _ _ h,
    Thread.reg_setReg_same _ _ _ (by rw [Opnd.isReg_plus]; exact h)]
  simp only [pairOf]
  apply BitVec.eq_of_toNat_eq
  simp only [BitVec.toNat_append, BitVec.extractLsb'_toNat, BitVec.toNat_setWidth]
  have hv := v.isLt
  have hlow : v.toNat % 2 ^ 32 < 2 ^ 32 := Nat.mod_lt _ (by decide)
  rw [← Nat.shiftLeft_add_eq_or_of_lt hlow]
  simp only [Nat.shiftRight_eq_div_pow, Nat.shiftLeft_eq]
  omega

theorem Thread.reg64_congr (t t' : Thread) (o : Opnd) (h : o.isReg = true) (h0 : t.reg (o.plus 0) = t'.reg (o.plus 0))
    (h1 : t.reg (o.plus 1) = t'.reg (o.plus 1)) : t.reg64 o = t'.reg64 o := by
  rw [Opnd.plus_zero] at h0
  rw [Thread.reg64_of_reg _ _ h, Thread.reg64_of_reg _ _ h, h0, h1]

/-- `n` registers written read as the value written. -/
theorem Thread.regN_setRegN_same {kc : Nat} (th : Thread) (u : Use) (v : Nat) (h : u.ok kc = true) (hc : u.constOk = false)
    (hn : u.n = 1 ∨ u.n = 2 ∨ u.n = 4) : (th.setRegN u.o u.n v).regN u.o u.n = v % 2 ^ (32 * u.n) := by
  have hr := Use.ok_isReg h hc
  have hne : ∀ {i j : Nat}, i < u.n → j < u.n → i ≠ j → u.o.plus i ≠ u.o.plus j := fun hi hj hij =>
    Use.ok_plus_ne h hc (by rcases hn with e | e | e <;> rw [e] <;> decide) hi hj hij
  rcases hn with e | e | e <;> rw [e] at hne ⊢
  · simp only [Thread.setRegN, Thread.regN, Thread.reg_setReg_same _ _ _ hr, BitVec.toNat_ofNat]
  · simp only [Thread.setRegN, Thread.regN]
    rw [Thread.reg64_setReg64_same _ _ _ hr (hne (by omega) (by omega) (by omega)), BitVec.toNat_ofNat]
  · simp only [Thread.setRegN, Thread.regN]
    have h2 : (u.o.plus 2).isReg = true := by rw [Opnd.isReg_plus]; exact hr
    rw [Thread.reg64_setReg64_same _ _ _ h2 (by rw [Opnd.plus_plus, Opnd.plus_plus]; exact hne (by omega) (by omega) (by omega))]
    have hlow : ∀ w : BitVec 64, ((th.setReg64 u.o (BitVec.ofNat 64 v)).setReg64 (u.o.plus 2) w).reg64 u.o = BitVec.ofNat 64 v := by
      intro w
      rw [Thread.reg64_congr _ (th.setReg64 u.o (BitVec.ofNat 64 v)) _ hr
        (Thread.reg_setReg64_other _ _ _ _ (by rw [Opnd.plus_plus]; exact hne (by omega) (by omega) (by omega))
          (by rw [Opnd.plus_plus]; exact hne (by omega) (by omega) (by omega)))
        (Thread.reg_setReg64_other _ _ _ _ (by rw [Opnd.plus_plus]; exact hne (by omega) (by omega) (by omega))
          (by rw [Opnd.plus_plus]; exact hne (by omega) (by omega) (by omega)))]
      exact Thread.reg64_setReg64_same _ _ _ hr (hne (by omega) (by omega) (by omega))
    rw [hlow]
    simp only [BitVec.toNat_ofNat]
    have : (2 : Nat) ^ (32 * 4) = 2 ^ 64 * 2 ^ 64 := by norm_num
    rw [this, Nat.mod_mul]

end Sys2Proof.Machine
end

