-- ==== Sys2Proof/Laws/Exec.lean ====
section
/-!
SUPPORT. What the shared operations of an instruction word do: the checks of a word that is ready (R35), its executions, the
advance to the next word, and the writing of registers and flags.
-/
namespace Sys2Proof.Machine

/-! ## Where a group stands -/

theorem State.site_eq {s : State} {p : Pipe} {tm : Team} (h : s.site = some (p, tm)) :
    s.focus = some p.id ∧ s.pipe p.id = some p ∧ s.team p.team = some tm ∧ tm.id = p.team := by
  unfold State.site at h
  split at h
  · exact absurd h (by simp)
  · split at h
    · exact absurd h (by simp)
    · split at h
      · exact absurd h (by simp)
      · rename_i f hf _ q hq _ t ht
        obtain ⟨rfl, rfl⟩ : q = p ∧ t = tm := by simpa using h
        have := s.pipe_id hq
        subst this
        exact ⟨hf, hq, ht, s.team_id ht⟩

/-! ## The checks of a word that is ready -/

theorem filter_true_of {α : Type} (xs : List α) (f : α → Bool) (h : ∀ x ∈ xs, f x = true) : xs.filter f = xs :=
  List.filter_eq_self.mpr h

theorem filter_false_of {α : Type} (xs : List α) (f : α → Bool) (h : ∀ x ∈ xs, f x = false) : xs.filter f = [] :=
  List.filter_eq_nil_iff.mpr fun x hx => by simp [h x hx]

/-- A word that is ready passes the checks of R35 in every lane. -/
theorem precheck_ready {i : Instr} {s : State} {p : Pipe} {tm : Team} (h : Ready i s p tm) :
    s.precheck i p tm = (s, runsOf i p) := by
  obtain ⟨-, hw, ho, -, hl, hd, ha, -⟩ := h
  have hok : (p.lanes.filter fun tid => roleOk (tm.role tid) i.cls i.isMatrix) = p.lanes :=
    filter_true_of _ _ fun l hl' => (hl l hl').1
  have hbad : (p.lanes.filter fun tid => !roleOk (tm.role tid) i.cls i.isMatrix) = [] :=
    filter_false_of _ _ fun l hl' => by simp [(hl l hl').1]
  simp only [State.precheck, hw, hok, hbad, ho, State.faultLanes, List.foldl_nil, Bool.not_true, Bool.false_eq_true, if_false]
  by_cases hu : i.uni = true
  · simp only [hu, Bool.not_true, Bool.false_eq_true, if_false]
    cases hp : p.lanes with
    | nil => simp [runsOf, hu, hp]
    | cons r rest =>
        simp only
        obtain ⟨th, hth⟩ := Option.isSome_iff_exists.mp (hl r (by rw [hp]; exact List.mem_cons_self)).2
        have hdiff : s.differing i p th rest = [] := by
          simp only [State.agrees, hp, hth, hu, Bool.not_true, Bool.false_or] at ha
          exact List.isEmpty_iff.mp ha
        have hrd : s.readsDamage i p r = false := hd { reader := r, targets := r :: rest } (by simp [runsOf, hu, hp])
        simp [hth, hdiff, hrd, runsOf, hu, hp]
  · have hu : i.uni = false := by simpa using hu
    have hd' : ∀ l ∈ p.lanes, s.readsDamage i p l = false := fun l hl' =>
      hd { reader := l, targets := [l] } (by simp [runsOf, hu]; exact hl')
    simp only [hu, Bool.not_false, if_true]
    rw [filter_false_of p.lanes (fun tid => s.readsDamage i p tid) hd',
      filter_true_of p.lanes (fun tid => !s.readsDamage i p tid) fun l hl' => by simp [hd' l hl']]
    simp [runsOf, hu]

/-! ## Executions -/

/-- Before any lane has executed the word, all are left. -/
theorem left_ready {p : Pipe} (h : p.ran = []) : p.left = p := by
  have : (p.lanes.filter fun l => !p.ran.contains l) = p.lanes := filter_true_of _ _ fun _ _ => by simp [h]
  unfold Pipe.left
  rw [this]

/-- Executions that go as `rel` says, where `rel` is a way of the body to go on. -/
theorem runBody_of_runs {i : Instr} {p : Pipe} {body : Body} {rel : State → Thread → List Nat → State → Prop}
    (hb : ∀ s th tids s', rel s th tids s' → body s th tids = (s', none)) {runs : List Run} {s t : State}
    (h : Runs rel p s runs t) : s.runBody i p body runs = t := by
  induction runs generalizing s with
  | nil => exact h.symm
  | cons r rs ih =>
      obtain ⟨th, s', hth, hr, h'⟩ := h
      simp only [State.runBody, hth, hb _ _ _ _ hr]
      exact ih h'

/-- THE MEANING OF A WORD in a state in which it is ready. -/
theorem execLanes_ready {i : Instr} {s : State} {p : Pipe} {tm : Team} (body : Body) (h : Ready i s p tm) :
    execLanes i none body s = .next ((s.runBody i p body (runsOf i p)).past p i) := by
  have hs := h.1
  simp only [execLanes, hs, left_ready h.2.2.2.2.2.2.2, precheck_ready h, State.past]

theorem runsOf_targets {i : Instr} {p : Pipe} {l : Nat} (h : l ∈ (runsOf i p).flatMap fun r => r.targets) : l ∈ p.lanes := by
  unfold runsOf at h
  split at h
  · split at h
    · simp at h
    · rename_i hp; rw [hp]; simpa using h
  · simpa using h

/-- The same for a word that counts an access. -/
theorem execLanes_counted {i : Instr} {s : State} {p : Pipe} {tm : Team} {c : BitVec 2} (body : Body) (h : Ready i s p tm)
    (hc : CounterFree s p c) :
    execLanes i (some c.toFin) body s = .next ((s.runBody i p body (runsOf i p)).past p i) := by
  have hs := h.1
  simp only [execLanes, hs, left_ready h.2.2.2.2.2.2.2, precheck_ready h, State.past]
  rw [filter_false_of]
  intro l hl
  have := hc l (runsOf_targets hl)
  cases hth : s.thread (tidOf p l) with
  | none => simp
  | some th =>
      simp only [hth, Option.all_some, decide_eq_true_eq] at this
      simp only [decide_eq_false_iff_not]
      omega

/-- A word whose body goes on as `rel` says completes. -/
theorem completes_of {i : Instr} {body : Body} {rel : State → Thread → List Nat → State → Prop}
    (he : ∀ s, exec i s = execLanes i none body s)
    (hb : ∀ s th tids s', rel s th tids s' → body s th tids = (s', none)) : Completes i rel := by
  intro s p tm t h hr
  rw [he, execLanes_ready body h, runBody_of_runs hb hr]

theorem completesCounted_of {i : Instr} {c : BitVec 2} {body : Body} {rel : State → Thread → List Nat → State → Prop}
    (he : ∀ s, exec i s = execLanes i (some c.toFin) body s)
    (hb : ∀ s th tids s', rel s th tids s' → body s th tids = (s', none)) : CompletesCounted i c rel := by
  intro s p tm t h hc hr
  rw [he, execLanes_counted body h hc, runBody_of_runs hb hr]

/-! ## The advance -/

/-- A relation between a thread before and after that a change of state, what follows its drain and its pipes keeps. -/
theorem State.leavePipe_teams (s : State) (i : ThreadId) : (s.leavePipe i).teams = s.teams := rfl
theorem State.leavePipe_threads (s : State) (i : ThreadId) : (s.leavePipe i).threads = s.threads := rfl
theorem State.leavePipe_thread (s : State) (i j : ThreadId) : (s.leavePipe i).thread j = s.thread j := rfl

/-- Two states in which every thread that one has the other has too, with the same registers, counters, mode and identifier. -/
def SameRegisters (s t : State) : Prop :=
  ∀ i th, s.thread i = some th → ∃ th', t.thread i = some th' ∧ th'.t = th.t ∧ th'.k = th.k ∧ th'.p = th.p ∧
    th'.ctr = th.ctr ∧ th'.hm = th.hm ∧ th'.tag = th.tag

theorem SameRegisters.refl (s : State) : SameRegisters s s := fun _ th h => ⟨th, h, rfl, rfl, rfl, rfl, rfl, rfl⟩

theorem SameRegisters.trans {s t u : State} (h : SameRegisters s t) (h' : SameRegisters t u) : SameRegisters s u := by
  intro i th hs
  obtain ⟨th', ht, a1, a2, a3, a4, a5, a6⟩ := h i th hs
  obtain ⟨th'', hu, b1, b2, b3, b4, b5, b6⟩ := h' i th' ht
  exact ⟨th'', hu, b1.trans a1, b2.trans a2, b3.trans a3, b4.trans a4, b5.trans a5, b6.trans a6⟩

theorem SameRegisters.of_threads {s t : State} (h : t.threads = s.threads) : SameRegisters s t := by
  intro i th hs
  refine ⟨th, ?_, rfl, rfl, rfl, rfl, rfl, rfl⟩
  simp only [State.thread, h]; exact hs

theorem SameRegisters.onThread (s : State) (i : ThreadId) (f : Thread → Thread)
    (hf : ∀ t, (f t).id = t.id ∧ (f t).t = t.t ∧ (f t).k = t.k ∧ (f t).p = t.p ∧ (f t).ctr = t.ctr ∧ (f t).hm = t.hm ∧
      (f t).tag = t.tag) : SameRegisters s (s.onThread i f) := by
  intro j th hs
  by_cases hj : j = i
  · subst hj
    refine ⟨f th, ?_, (hf th).2.1, (hf th).2.2.1, (hf th).2.2.2.1, (hf th).2.2.2.2.1, (hf th).2.2.2.2.2.1, (hf th).2.2.2.2.2.2⟩
    rw [s.thread_onThread_same j f fun t ht => (hf t).1.trans ht, hs]; rfl
  · refine ⟨th, ?_, rfl, rfl, rfl, rfl, rfl, rfl⟩
    rw [s.thread_onThread_other i j f hj fun t ht => (hf t).1.trans ht, hs]

/-- Leaving an issue group touches only pipes and the focus. -/
theorem State.besideIssue_leavePipe (s : State) (i : ThreadId) : (s.leavePipe i).besideIssue = s.besideIssue := rfl

theorem State.besideIssue_onThread (s : State) (i : ThreadId) (f : Thread → Thread) :
    (s.onThread i f).besideIssue = s.besideIssue := rfl

theorem State.teams_of_besideIssue {s t : State} (h : t.besideIssue = s.besideIssue) : t.teams = s.teams :=
  show t.besideIssue.teams = s.besideIssue.teams by rw [h]

/-- Threads that leave their group one after another, each changed by an update that keeps its registers. -/
theorem leaveAll_spec (g : Nat → ThreadId) (f : State → Nat → Thread → Thread)
    (hf : ∀ a l t, (f a l t).id = t.id ∧ (f a l t).t = t.t ∧ (f a l t).k = t.k ∧ (f a l t).p = t.p ∧ (f a l t).ctr = t.ctr ∧
      (f a l t).hm = t.hm ∧ (f a l t).tag = t.tag) (ls : List Nat) (s : State) :
    SameRegisters s (ls.foldl (fun s tid => (s.onThread (g tid) (f s tid)).leavePipe (g tid)) s) ∧
      (ls.foldl (fun s tid => (s.onThread (g tid) (f s tid)).leavePipe (g tid)) s).besideIssue = s.besideIssue := by
  induction ls generalizing s with
  | nil => exact ⟨.refl s, rfl⟩
  | cons l ls ih =>
      rw [List.foldl_cons]
      obtain ⟨h1, h2⟩ := ih ((s.onThread (g l) (f s l)).leavePipe (g l))
      exact ⟨.trans (.trans (.onThread s _ (f s l) (hf s l)) (.of_threads rfl)) h1, h2⟩

/-- What a group that no hold keeps changes: states of threads that go alone, pipes and the focus. -/
theorem settle_spec (s : State) (f : PipeId) : SameRegisters s (s.settle f) ∧ (s.settle f).besideIssue = s.besideIssue := by
  unfold State.settle
  split
  · exact ⟨.of_threads rfl, rfl⟩
  · split
    · rename_i p _ _
      exact leaveAll_spec (tidOf p) (fun _ _ t => { t with st := .draining, after := .step p.block p.widx })
        (fun _ _ t => ⟨rfl, rfl, rfl, rfl, rfl, rfl, rfl⟩) _ s
    · split <;> exact ⟨.of_threads rfl, rfl⟩

/-- What the advance to the next word changes. -/
theorem advance_spec (s : State) (f : PipeId) (w : Nat) :
    SameRegisters s (s.advance f w) ∧ (s.advance f w).besideIssue = s.besideIssue := by
  have key : ∀ g : Pipe → Pipe, SameRegisters s ((s.onPipe f g).settle f) ∧
      ((s.onPipe f g).settle f).besideIssue = s.besideIssue := fun g =>
    ⟨.trans (.of_threads rfl) (settle_spec (s.onPipe f g) f).1, (settle_spec (s.onPipe f g) f).2⟩
  unfold State.advance
  split
  · exact ⟨.of_threads rfl, rfl⟩
  · rename_i p _
    by_cases hf : p.hold.contains .fetch = true
    · rw [if_pos hf]; exact ⟨.of_threads rfl, rfl⟩
    · rw [if_neg hf]
      by_cases he : p.hold.isEmpty = true
      · simp only [he, if_true]; exact key _
      · simp only [he]; exact ⟨.of_threads rfl, rfl⟩

theorem keepWord_spec (s : State) (f : PipeId) (i : Instr) :
    SameRegisters s (s.keepWord f i) ∧ (s.keepWord f i).besideIssue = s.besideIssue := ⟨.of_threads rfl, rfl⟩

/-- What the group's going past a word changes. -/
theorem past_spec (s : State) (p : Pipe) (i : Instr) : SameRegisters s (s.past p i) ∧ (s.past p i).besideIssue = s.besideIssue := by
  obtain ⟨h1, h2⟩ := advance_spec s p.id i.words
  exact ⟨h1.trans (keepWord_spec ..).1, (keepWord_spec ..).2.trans h2⟩

theorem past_team (s : State) (p : Pipe) (i : Instr) (k : TeamId) : (s.past p i).team k = s.team k := by
  simp only [State.team, State.teams_of_besideIssue (past_spec s p i).2]

theorem advance_team (s : State) (f : PipeId) (w : Nat) (i : TeamId) : (s.advance f w).team i = s.team i := by
  simp only [State.team, State.teams_of_besideIssue (advance_spec s f w).2]

/-! ## What every path of a word keeps -/

/-- What the faults of lanes change, each with a fault of its own: their threads' states, pipes and the focus. -/
theorem faultEach_spec (p : Pipe) (u : Bool) (f : State → Nat → Flt) (ls : List Nat) (s : State) :
    SameRegisters s (ls.foldl (fun s tid => s.faultLane p u (f s tid) tid) s) ∧
      (ls.foldl (fun s tid => s.faultLane p u (f s tid) tid) s).besideIssue = s.besideIssue :=
  leaveAll_spec (tidOf p) (fun a l t => { t with
      st := .draining, block := p.block, after := .none, age := 0,
      fault := some { cause := (f a l).cause, block := p.block, widx := p.widx, addr := (f a l).addr, extra := (f a l).extra, u := u } })
    (fun _ _ _ => ⟨rfl, rfl, rfl, rfl, rfl, rfl, rfl⟩) ls s

/-- What a fault of several lanes changes. -/
theorem faultLanes_spec (s : State) (p : Pipe) (u : Bool) (f : Flt) (ls : List Nat) :
    SameRegisters s (s.faultLanes p u f ls) ∧ (s.faultLanes p u f ls).besideIssue = s.besideIssue :=
  faultEach_spec p u (fun _ _ => f) ls s

/-- The checks of R35 only fault lanes. -/
theorem precheck_spec (s : State) (i : Instr) (p : Pipe) (tm : Team) :
    SameRegisters s (s.precheck i p tm).1 ∧ (s.precheck i p tm).1.besideIssue = s.besideIssue := by
  have ht : ∀ {a b c : State}, SameRegisters a b ∧ b.besideIssue = a.besideIssue →
      SameRegisters b c ∧ c.besideIssue = b.besideIssue → SameRegisters a c ∧ c.besideIssue = a.besideIssue :=
    fun h1 h2 => ⟨h1.1.trans h2.1, h2.2.trans h1.2⟩
  unfold State.precheck
  split
  · rename_i c _
    exact faultEach_spec p i.uni (fun a tid => fltWord (a.laneCause i p c tid) i) p.lanes s
  · simp only
    split
    · exact ht (faultLanes_spec ..) (faultLanes_spec ..)
    · split
      · exact ht (faultLanes_spec ..) (faultLanes_spec ..)
      · split
        · exact faultLanes_spec ..
        · split
          · exact faultLanes_spec ..
          · split
            · exact ht (ht (faultLanes_spec ..) (faultLanes_spec ..)) (faultLanes_spec ..)
            · exact ht (faultLanes_spec ..) (faultLanes_spec ..)

/-- A pause of a word changes its group alone. -/
theorem pauseRun_spec (s : State) (p : Pipe) (r : Run) :
    SameRegisters s (s.pauseRun p r) ∧ (s.pauseRun p r).besideIssue = s.besideIssue := by
  unfold State.pauseRun State.addHold
  split <;> exact ⟨.of_threads rfl, rfl⟩

/-- A relation that changes of issue alone keep, and that the body keeps, holds between a state and the next. -/
theorem execLanes_keeps {R : State → State → Prop} {i : Instr} {body : Body} {s t : State} {ctr : Option (Fin 4)}
    (hi : ∀ a b, SameRegisters a b → b.besideIssue = a.besideIssue → R a b) (ht : ∀ a b c, R a b → R b c → R a c)
    (hb : ∀ a th tids, R a (body a th tids).1)
    (hf : ∀ a th tids f, (body a th tids).2 = some f → (body a th tids).1.reads = a.reads)
    (h : execLanes i ctr body s = .next t) : R s t := by
  have hrun : ∀ (p : Pipe) (rs : List Run) (a : State), R a (a.runBody i p body rs) := by
    intro p rs
    induction rs with
    | nil => exact fun a => hi _ _ (.refl a) rfl
    | cons r rs ih =>
        intro a
        simp only [State.runBody]
        split
        · exact ih a
        · rename_i th _
          have h1 := hb a th r.targets
          have h2 := hf a th r.targets
          split
          · rename_i s' hs'
            rw [hs'] at h1
            exact ht _ _ _ h1 (ih _)
          · rename_i s' f hs'
            rw [hs'] at h1 h2
            split
            · exact ht _ _ _ h1 (hi _ _ (pauseRun_spec ..).1 (pauseRun_spec ..).2)
            · have he : ({ a with reads := s'.reads } : State) = a := by rw [h2 f rfl]
              rw [he]
              exact ht _ _ _ (hi _ _ (faultLanes_spec ..).1 (faultLanes_spec ..).2) (ih _)
  unfold execLanes at h
  split at h
  · exact absurd h (by simp)
  · rename_i p tm _
    have hp := precheck_spec s i p.left tm
    simp only at h
    split at h
    · cases h
      refine ht _ _ _ (hi _ _ hp.1 hp.2) (hi _ _ ?_ ?_)
      · unfold State.addHold; split <;> exact .of_threads rfl
      · unfold State.addHold; split <;> rfl
    · cases h
      exact ht _ _ _ (hi _ _ hp.1 hp.2) (ht _ _ _ (hrun p _ _) (hi _ _ (past_spec _ p i).1 (past_spec _ p i).2))

/-- The same for a group instruction. -/
theorem execGroup_keeps {R : State → State → Prop} {i : Instr} {body : State → List Thread → State} {s t : State}
    (hi : ∀ a b, SameRegisters a b → b.besideIssue = a.besideIssue → R a b) (ht : ∀ a b c, R a b → R b c → R a c)
    (hb : ∀ a ls, R a (body a ls)) (h : execGroup i body s = .next t) : R s t := by
  unfold execGroup at h
  split at h
  · exact absurd h (by simp)
  · rename_i p tm _
    have hp := precheck_spec s i p tm
    cases h
    exact ht _ _ _ (hi _ _ hp.1 hp.2) (ht _ _ _ (hb _ _) (hi _ _ (advance_spec ..).1 (advance_spec ..).2))

end Sys2Proof.Machine
end

