-- ==== Sys2Proof/Laws/Memory.lean ====
section
/-!
SUPPORT. Memories: every operation keeps the canonical form, a read after a write gives the byte, and a write leaves every
other byte alone.
-/
namespace Sys2Proof.Machine.Memory

/-! ## The canonical form -/

theorem wfFrom_le {m : Memory} {a b : Nat} (h : wfFrom b m = true) (hab : a ≤ b) : wfFrom a m = true := by
  cases m with
  | nil => rfl
  | cons c m =>
      simp only [wfFrom, Bool.and_eq_true, decide_eq_true_eq] at h ⊢
      exact ⟨⟨by omega, h.1.2⟩, h.2⟩

theorem wfFrom_put {m : Memory} {a b : Nat} {v : Byte} (hab : b ≤ a) (h : wfFrom (a + 1) m = true) :
    wfFrom b (put a v m) = true := by
  unfold put
  split
  · exact wfFrom_le h (by omega)
  · simp [wfFrom, *]

theorem wfFrom_set {m : Memory} {a b : Nat} {v : Byte} (hab : b ≤ a) (h : wfFrom b m = true) :
    wfFrom b (m.set a v) = true := by
  induction m generalizing b with
  | nil => exact wfFrom_put hab rfl
  | cons c m ih =>
      obtain ⟨k, w⟩ := c
      simp only [wfFrom, Bool.and_eq_true, decide_eq_true_eq] at h
      simp only [set]
      split
      · subst_vars; exact wfFrom_put hab h.2
      · split
        · refine wfFrom_put hab ?_
          simp only [wfFrom, Bool.and_eq_true, decide_eq_true_eq]
          exact ⟨⟨by omega, h.1.2⟩, h.2⟩
        · simp only [wfFrom, Bool.and_eq_true, decide_eq_true_eq]
          exact ⟨h.1, ih (by omega) h.2⟩

theorem wf_set {m : Memory} (h : m.wf = true) (a : Nat) (v : Byte) : (m.set a v).wf = true :=
  wfFrom_set (Nat.zero_le a) h

theorem wf_setN {m : Memory} (h : m.wf = true) (a : Nat) (bs : List Byte) : (m.setN a bs).wf = true := by
  induction bs generalizing m a with
  | nil => exact h
  | cons b bs ih => exact ih (wf_set h a b) (a + 1)

theorem wf_setLine {m : Memory} (h : m.wf = true) (n : Nat) (l : Line) : (m.setLine n l).wf = true := wf_setN h _ _

theorem wfFrom_filter {m : Memory} {b : Nat} (p : Host.Cell → Bool) (h : wfFrom b m = true) :
    wfFrom b (m.filter p) = true := by
  induction m generalizing b with
  | nil => rfl
  | cons c m ih =>
      obtain ⟨k, w⟩ := c
      simp only [wfFrom, Bool.and_eq_true, decide_eq_true_eq] at h
      by_cases hp : p (k, w) = true
      · rw [List.filter_cons_of_pos hp]
        simp only [wfFrom, Bool.and_eq_true, decide_eq_true_eq]
        exact ⟨h.1, ih h.2⟩
      · rw [List.filter_cons_of_neg hp]
        exact wfFrom_le (ih h.2) (by omega)

theorem wf_clear {m : Memory} (h : m.wf = true) (a n : Nat) : (m.clear a n).wf = true := wfFrom_filter _ h

theorem wf_nil : wf [] = true := rfl

/-! ## Reads after writes -/

theorem get_put_same {m : Memory} {a : Nat} (v : Byte) (h : wfFrom (a + 1) m = true) : (put a v m).get a = v := by
  unfold put
  split
  · cases m with
    | nil => simp [get, *]
    | cons c m =>
        obtain ⟨k, w⟩ := c
        simp only [wfFrom, Bool.and_eq_true, decide_eq_true_eq] at h
        have h1 : a ≠ k := by omega
        have h2 : a < k := by omega
        simp [get, *]
  · simp [get]

theorem get_put_other {m : Memory} {a b : Nat} (v : Byte) (hb : b ≠ a) (h : wfFrom (a + 1) m = true) :
    (put a v m).get b = m.get b := by
  unfold put
  split
  · rfl
  · simp only [get, if_neg hb]
    split
    · cases m with
      | nil => rfl
      | cons c m =>
          obtain ⟨k, w⟩ := c
          simp only [wfFrom, Bool.and_eq_true, decide_eq_true_eq] at h
          have h1 : b ≠ k := by omega
          have h2 : b < k := by omega
          simp [get, h1, h2]
    · rfl

theorem get_set_same_from {m : Memory} {a b : Nat} (v : Byte) (h : wfFrom b m = true) :
    (m.set a v).get a = v := by
  induction m generalizing b with
  | nil => exact get_put_same v rfl
  | cons c m ih =>
      obtain ⟨k, w⟩ := c
      simp only [wfFrom, Bool.and_eq_true, decide_eq_true_eq] at h
      simp only [set]
      split
      · subst_vars; exact get_put_same v h.2
      · split
        · refine get_put_same v ?_
          simp only [wfFrom, Bool.and_eq_true, decide_eq_true_eq]
          exact ⟨⟨by omega, h.1.2⟩, h.2⟩
        · simp only [get]
          rw [if_neg ‹_›, if_neg ‹_›]
          exact ih h.2

theorem get_set_other_from {m : Memory} {a b c : Nat} (v : Byte) (hc : c ≠ a) (h : wfFrom b m = true) :
    (m.set a v).get c = m.get c := by
  induction m generalizing b with
  | nil => exact get_put_other v hc rfl
  | cons x m ih =>
      obtain ⟨k, w⟩ := x
      simp only [wfFrom, Bool.and_eq_true, decide_eq_true_eq] at h
      simp only [set]
      split
      · subst_vars
        rw [get_put_other v hc h.2]
        simp only [get, if_neg hc]
        split
        · cases m with
          | nil => rfl
          | cons y m =>
              obtain ⟨j, u⟩ := y
              have h' := h.2
              simp only [wfFrom, Bool.and_eq_true, decide_eq_true_eq] at h'
              have h1 : c ≠ j := by omega
              have h2 : c < j := by omega
              simp [get, h1, h2]
        · rfl
      · split
        · refine get_put_other v hc ?_
          simp only [wfFrom, Bool.and_eq_true, decide_eq_true_eq]
          exact ⟨⟨by omega, h.1.2⟩, h.2⟩
        · simp only [get, ih h.2]

/-- A read after a write to the same address. -/
theorem get_set_same {m : Memory} (h : m.wf = true) (a : Nat) (v : Byte) : (m.set a v).get a = v := get_set_same_from v h

/-- A read of any other address. -/
theorem get_set_other {m : Memory} (h : m.wf = true) {a c : Nat} (v : Byte) (hc : c ≠ a) : (m.set a v).get c = m.get c :=
  get_set_other_from v hc h

/-- A write of bytes leaves every address outside them alone. -/
theorem get_setN_other {m : Memory} (h : m.wf = true) (a : Nat) (bs : List Byte) {c : Nat} (hc : c < a ∨ a + bs.length ≤ c) :
    (m.setN a bs).get c = m.get c := by
  induction bs generalizing m a with
  | nil => rfl
  | cons b bs ih =>
      simp only [List.length_cons] at hc
      simp only [setN]
      rw [ih (wf_set h a b) (a + 1) (by omega), get_set_other h b (by omega)]

/-- Bytes written are the bytes read. -/
theorem getN_setN_same {m : Memory} (h : m.wf = true) (a : Nat) (bs : List Byte) : (m.setN a bs).getN a bs.length = bs := by
  induction bs generalizing m a with
  | nil => rfl
  | cons b bs ih =>
      simp only [setN, List.length_cons, getN]
      rw [ih (wf_set h a b) (a + 1), get_setN_other (wf_set h a b) (a + 1) bs (by omega), get_set_same h]

/-- Bytes of a range that a write does not meet. -/
theorem getN_setN_other {m : Memory} (h : m.wf = true) (a : Nat) (bs : List Byte) (c n : Nat)
    (hc : c + n ≤ a ∨ a + bs.length ≤ c) : (m.setN a bs).getN c n = m.getN c n := by
  induction n generalizing c with
  | zero => rfl
  | succ n ih => simp only [getN]; rw [ih (c + 1) (by omega), get_setN_other h a bs (by omega)]

end Sys2Proof.Machine.Memory

namespace Sys2Proof.Machine

theorem bytesOfNat_length (n x : Nat) : (bytesOfNat n x).length = n := by
  induction n generalizing x with
  | zero => rfl
  | succ n ih => simp [bytesOfNat, ih]

/-- The value of a value's bytes. -/
theorem natOfBytes_bytesOfNat (n x : Nat) : natOfBytes (bytesOfNat n x) = x % 256 ^ n := by
  induction n generalizing x with
  | zero => simp [natOfBytes, bytesOfNat, Nat.mod_one]
  | succ n ih =>
      simp only [bytesOfNat, natOfBytes, ih, BitVec.toNat_ofNat]
      have : 256 ^ (n + 1) = 256 * 256 ^ n := by rw [Nat.pow_succ, Nat.mul_comm]
      rw [this, Nat.mod_mul]

theorem lineBytes_length (l : Line) (off n : Nat) : (lineBytes l off n).length = n := by
  induction n generalizing off with
  | zero => rfl
  | succ n ih => simp [lineBytes, ih]

end Sys2Proof.Machine
end

