-- ==== Sys2Proof/Laws/Access.lean ====
section
/-!
SUPPORT. Accesses of a thread to its own scratchpad with nothing in flight: where they go, and what they do there.
-/
namespace Sys2Proof.Machine

/-- A plain access of the own scratchpad that passes its checks (07_memory R126, 24_ref R391). -/
theorem State.resolve_own {s : State} {tm : Team} {th : Thread} {base : Opnd} {off : BitVec 14} {n : Nat} {needs : Needs}
    {sc : Scope} (hal : (th.reg base + off.signExtend 32).toNat % n = 0)
    (hown : tm.ownOk (th.reg base + off.signExtend 32).toNat n = true) :
    s.resolve tm th .own true base off n needs .plain sc none =
      (s, .ok { place := .spad tm.id (th.reg base + off.signExtend 32).toNat,
                ea := (th.reg base + off.signExtend 32).setWidth 64, tag := 0, parcel := none }) := by
  have he : effAddr th .own base off = (th.reg base + off.signExtend 32).setWidth 64 := rfl
  have hn : ((th.reg base + off.signExtend 32).setWidth 64 : Addr).toNat = (th.reg base + off.signExtend 32).toNat := by
    rw [BitVec.toNat_setWidth]; exact Nat.mod_eq_of_lt (Nat.lt_trans (BitVec.isLt _) (by decide))
  simp only [State.resolve, he, hn, hal, State.resolveSpad, Option.isSome_none, Bool.not_true, Bool.false_eq_true, if_false,
    ne_eq, not_true_eq_false, Bool.or_self, hown, false_and]

/-- A first access is attempted at once. -/
theorem State.newAcc_first {s : State} {a : Acc} (h : s.accs = []) :
    s.newAcc a = ({ s.bump with accs := [{ a with id := s.fresh }] } : State).attempt s.fresh := by
  simp [State.newAcc, h, State.bump]

/-- Flags of nothing change no team. -/
theorem State.setFlags_zero (s : State) (k : TeamId) : s.setFlags k 0#32 = s := by
  have : (s.teams.map fun u => if u.id = k then { u with tstat := u.tstat ||| 0#32 } else u) = s.teams := by
    conv_rhs => rw [← List.map_id s.teams]
    refine List.map_congr_left fun u _ => ?_
    split
    · simp
    · rfl
  simp only [State.setFlags, State.onTeam, State.flagsWith, BitVec.ofNat_eq_ofNat, if_true]
  rw [this]

/-- A lone access of a scratchpad of a resident team performs there. -/
theorem State.newAcc_spad {s : State} {a : Acc} {t : TeamId} {off : Nat} (h : s.accs = []) (hp : a.place = .spad t off)
    (hph : a.phase = .gated) :
    s.newAcc a = ({ s.bump with accs := [{ a with id := s.fresh }] } : State).performSpad { a with id := s.fresh } t off := by
  rw [State.newAcc_first h]
  simp [State.attempt, State.acc, hph, hp, State.blocked]

/-- A store performs at a scratchpad of a resident team. -/
theorem State.performSpad_store {s : State} {a : Acc} {t : TeamId} {off : Nat} {bs : List Byte} {tm : Team} (ho : a.op = .store bs)
    (ht : s.team t = some tm) : s.performSpad a t off = (s.spadWrite t off bs).dropAcc a.id := by
  simp [State.performSpad, ht, ho, MemOp.effect, State.performed, State.setFlags_zero, MemOp.returns]

/-- A load performs at a scratchpad without damage. -/
theorem State.performSpad_load {s : State} {a : Acc} {t : TeamId} {off : Nat} {size : MemSize} {tm : Team} (hd : s.damage = [])
    (ho : a.op = .load size) (ht : s.team t = some tm) :
    s.performSpad a t off = s.onAcc a.id fun x => { x with phase := .done, got := tm.spad.getN off a.size } := by
  simp [State.performSpad, ht, ho, MemOp.effect, State.performed, State.setFlags_zero, MemOp.returns, State.spadDamaged, hd]

/-- A lone store of a scratchpad leaves its bytes there, and nothing in flight. -/
theorem State.newAcc_store {s : State} {a : Acc} {t : TeamId} {off : Nat} {bs : List Byte} {tm : Team} (h : s.accs = [])
    (hd : s.damage = []) (hp : a.place = .spad t off) (hph : a.phase = .gated) (ho : a.op = .store bs) (ht : s.team t = some tm) :
    s.newAcc a = ({ s.bump with accs := [] } : State).onTeam t fun u => { u with spad := u.spad.setN off bs } := by
  have ht' : ({ s.bump with accs := [{ a with id := s.fresh }] } : State).team t = some tm := ht
  refine (State.newAcc_spad h hp hph).trans ((State.performSpad_store (a := { a with id := s.fresh }) ho ht').trans ?_)
  simp [State.spadWrite, State.dropAcc, State.onTeam, State.bump, hd]

/-- A lone load of an undamaged scratchpad has its bytes. -/
theorem State.newAcc_load {s : State} {a : Acc} {t : TeamId} {off : Nat} {size : MemSize} {tm : Team} (h : s.accs = [])
    (hd : s.damage = []) (hp : a.place = .spad t off) (hph : a.phase = .gated) (ho : a.op = .load size) (ht : s.team t = some tm) :
    s.newAcc a = { s.bump with accs := [{ a with id := s.fresh, phase := .done, got := tm.spad.getN off a.size }] } := by
  have ht' : ({ s.bump with accs := [{ a with id := s.fresh }] } : State).team t = some tm := ht
  have hd' : ({ s.bump with accs := [{ a with id := s.fresh }] } : State).damage = [] := hd
  refine (State.newAcc_spad h hp hph).trans ((State.performSpad_load (a := { a with id := s.fresh }) hd' ho ht').trans ?_)
  simp [State.onAcc]

end Sys2Proof.Machine
end

