-- ==== Sys2Proof/Laws/Encoding.lean ====
section
/-!
SUPPORT. What the packed formats hold at each field, one line per row of the decoder, and that every code table reads its own codes:
what the proofs that decoding undoes encoding cite.
-/
namespace Sys2Proof

/-! ## Fields of a packed word -/

@[simp] theorem fld_packA_op {op u d a b m j len} (h : 24 ≤ j) (h' : j + len ≤ 32) :
    fld (packA op u d a b m) j len = op.extractLsb' (j - 24) len := by
  ext i hi
  simp only [fld, packA, BitVec.getElem_extractLsb']
  repeat rw [BitVec.getLsbD_append]
  simp (disch := omega) only [if_neg, if_pos]
  all_goals (congr 1 <;> omega)

@[simp] theorem flag_packA_u {op u d a b m} : flag (packA op u d a b m) 23 = u := by
  simp only [flag, packA]
  repeat rw [BitVec.getLsbD_append]
  simp

@[simp] theorem fld_packA_d {op u d a b m j len} (h : 16 ≤ j) (h' : j + len ≤ 23) :
    fld (packA op u d a b m) j len = d.extractLsb' (j - 16) len := by
  ext i hi
  simp only [fld, packA, BitVec.getElem_extractLsb']
  repeat rw [BitVec.getLsbD_append]
  simp (disch := omega) only [if_neg, if_pos]
  all_goals (congr 1 <;> omega)

@[simp] theorem fld_packA_a {op u d a b m j len} (h : 9 ≤ j) (h' : j + len ≤ 16) :
    fld (packA op u d a b m) j len = a.extractLsb' (j - 9) len := by
  ext i hi
  simp only [fld, packA, BitVec.getElem_extractLsb']
  repeat rw [BitVec.getLsbD_append]
  simp (disch := omega) only [if_neg, if_pos]
  all_goals (congr 1 <;> omega)

@[simp] theorem fld_packA_b {op u d a b m j len} (h : 2 ≤ j) (h' : j + len ≤ 9) :
    fld (packA op u d a b m) j len = b.extractLsb' (j - 2) len := by
  ext i hi
  simp only [fld, packA, BitVec.getElem_extractLsb']
  repeat rw [BitVec.getLsbD_append]
  simp (disch := omega) only [if_neg, if_pos]
  all_goals (congr 1 <;> omega)

@[simp] theorem fld_packA_m {op u d a b m j len} (h' : j + len ≤ 2) :
    fld (packA op u d a b m) j len = m.extractLsb' (j) len := by
  ext i hi
  simp only [fld, packA, BitVec.getElem_extractLsb']
  repeat rw [BitVec.getLsbD_append]
  simp (disch := omega) only [if_neg, if_pos]
  all_goals (congr 1 <;> omega)

@[simp] theorem fld_packS_op {op u d a imm j len} (h : 24 ≤ j) (h' : j + len ≤ 32) :
    fld (packS op u d a imm) j len = op.extractLsb' (j - 24) len := by
  ext i hi
  simp only [fld, packS, BitVec.getElem_extractLsb']
  repeat rw [BitVec.getLsbD_append]
  simp (disch := omega) only [if_neg, if_pos]
  all_goals (congr 1 <;> omega)

@[simp] theorem flag_packS_u {op u d a imm} : flag (packS op u d a imm) 23 = u := by
  simp only [flag, packS]
  repeat rw [BitVec.getLsbD_append]
  simp

@[simp] theorem fld_packS_d {op u d a imm j len} (h : 16 ≤ j) (h' : j + len ≤ 23) :
    fld (packS op u d a imm) j len = d.extractLsb' (j - 16) len := by
  ext i hi
  simp only [fld, packS, BitVec.getElem_extractLsb']
  repeat rw [BitVec.getLsbD_append]
  simp (disch := omega) only [if_neg, if_pos]
  all_goals (congr 1 <;> omega)

@[simp] theorem fld_packS_a {op u d a imm j len} (h : 9 ≤ j) (h' : j + len ≤ 16) :
    fld (packS op u d a imm) j len = a.extractLsb' (j - 9) len := by
  ext i hi
  simp only [fld, packS, BitVec.getElem_extractLsb']
  repeat rw [BitVec.getLsbD_append]
  simp (disch := omega) only [if_neg, if_pos]
  all_goals (congr 1 <;> omega)

@[simp] theorem fld_packS_imm {op u d a imm j len} (h' : j + len ≤ 9) :
    fld (packS op u d a imm) j len = imm.extractLsb' (j) len := by
  ext i hi
  simp only [fld, packS, BitVec.getElem_extractLsb']
  repeat rw [BitVec.getLsbD_append]
  simp (disch := omega) only [if_neg, if_pos]
  all_goals (congr 1 <;> omega)

@[simp] theorem flag_packS_imm {op u d a imm j} (h' : j < 9) :
    flag (packS op u d a imm) j = imm.getLsbD (j) := by
  simp only [flag, packS]
  repeat rw [BitVec.getLsbD_append]
  simp (disch := omega) only [if_neg, if_pos]
  all_goals (congr 1 <;> omega)

@[simp] theorem fld_packI_op {op u d imm j len} (h : 24 ≤ j) (h' : j + len ≤ 32) :
    fld (packI op u d imm) j len = op.extractLsb' (j - 24) len := by
  ext i hi
  simp only [fld, packI, BitVec.getElem_extractLsb']
  repeat rw [BitVec.getLsbD_append]
  simp (disch := omega) only [if_neg, if_pos]
  all_goals (congr 1 <;> omega)

@[simp] theorem flag_packI_u {op u d imm} : flag (packI op u d imm) 23 = u := by
  simp only [flag, packI]
  repeat rw [BitVec.getLsbD_append]
  simp

@[simp] theorem fld_packI_d {op u d imm j len} (h : 16 ≤ j) (h' : j + len ≤ 23) :
    fld (packI op u d imm) j len = d.extractLsb' (j - 16) len := by
  ext i hi
  simp only [fld, packI, BitVec.getElem_extractLsb']
  repeat rw [BitVec.getLsbD_append]
  simp (disch := omega) only [if_neg, if_pos]
  all_goals (congr 1 <;> omega)

@[simp] theorem fld_packI_imm {op u d imm j len} (h' : j + len ≤ 16) :
    fld (packI op u d imm) j len = imm.extractLsb' (j) len := by
  ext i hi
  simp only [fld, packI, BitVec.getElem_extractLsb']
  repeat rw [BitVec.getLsbD_append]
  simp (disch := omega) only [if_neg, if_pos]
  all_goals (congr 1 <;> omega)

@[simp] theorem fld_packB_op {op u p sn off j len} (h : 24 ≤ j) (h' : j + len ≤ 32) :
    fld (packB op u p sn off) j len = op.extractLsb' (j - 24) len := by
  ext i hi
  simp only [fld, packB, BitVec.getElem_extractLsb']
  repeat rw [BitVec.getLsbD_append]
  simp (disch := omega) only [if_neg, if_pos]
  all_goals (congr 1 <;> omega)

@[simp] theorem flag_packB_u {op u p sn off} : flag (packB op u p sn off) 23 = u := by
  simp only [flag, packB]
  repeat rw [BitVec.getLsbD_append]
  simp

@[simp] theorem fld_packB_p {op u p sn off j len} (h : 20 ≤ j) (h' : j + len ≤ 23) :
    fld (packB op u p sn off) j len = p.extractLsb' (j - 20) len := by
  ext i hi
  simp only [fld, packB, BitVec.getElem_extractLsb']
  repeat rw [BitVec.getLsbD_append]
  simp (disch := omega) only [if_neg, if_pos]
  all_goals (congr 1 <;> omega)

@[simp] theorem flag_packB_sn {op u p sn off} : flag (packB op u p sn off) 19 = sn := by
  simp only [flag, packB]
  repeat rw [BitVec.getLsbD_append]
  simp

@[simp] theorem fld_packB_off {op u p sn off j len} (h' : j + len ≤ 19) :
    fld (packB op u p sn off) j len = off.extractLsb' (j) len := by
  ext i hi
  simp only [fld, packB, BitVec.getElem_extractLsb']
  repeat rw [BitVec.getLsbD_append]
  simp (disch := omega) only [if_neg, if_pos]
  all_goals (congr 1 <;> omega)

@[simp] theorem fld_packX_c {c ext rnd s per j len} (h : 25 ≤ j) (h' : j + len ≤ 32) :
    fld (packX c ext rnd s per) j len = c.extractLsb' (j - 25) len := by
  ext i hi
  simp only [fld, packX, BitVec.getElem_extractLsb']
  repeat rw [BitVec.getLsbD_append]
  simp (disch := omega) only [if_neg, if_pos]
  all_goals (congr 1 <;> omega)

@[simp] theorem fld_packX_ext {c ext rnd s per j len} (h : 21 ≤ j) (h' : j + len ≤ 25) :
    fld (packX c ext rnd s per) j len = ext.extractLsb' (j - 21) len := by
  ext i hi
  simp only [fld, packX, BitVec.getElem_extractLsb']
  repeat rw [BitVec.getLsbD_append]
  simp (disch := omega) only [if_neg, if_pos]
  all_goals (congr 1 <;> omega)

@[simp] theorem fld_packX_rnd {c ext rnd s per j len} (h : 19 ≤ j) (h' : j + len ≤ 21) :
    fld (packX c ext rnd s per) j len = rnd.extractLsb' (j - 19) len := by
  ext i hi
  simp only [fld, packX, BitVec.getElem_extractLsb']
  repeat rw [BitVec.getLsbD_append]
  simp (disch := omega) only [if_neg, if_pos]
  all_goals (congr 1 <;> omega)

@[simp] theorem flag_packX_s {c ext rnd s per} : flag (packX c ext rnd s per) 18 = s := by
  simp only [flag, packX]
  repeat rw [BitVec.getLsbD_append]
  simp

@[simp] theorem fld_packX_per {c ext rnd s per j len} (h' : j + len ≤ 18) :
    fld (packX c ext rnd s per) j len = per.extractLsb' (j) len := by
  ext i hi
  simp only [fld, packX, BitVec.getElem_extractLsb']
  repeat rw [BitVec.getLsbD_append]
  simp (disch := omega) only [if_neg, if_pos]
  all_goals (congr 1 <;> omega)

@[simp] theorem flag_packX_per {c ext rnd s per j} (h' : j < 18) :
    flag (packX c ext rnd s per) j = per.getLsbD (j) := by
  simp only [flag, packX]
  repeat rw [BitVec.getLsbD_append]
  simp (disch := omega) only [if_neg, if_pos]
  all_goals (congr 1 <;> omega)

@[simp] theorem fld_packM_space {space size ord scope cp func off j len} (h : 29 ≤ j) (h' : j + len ≤ 32) :
    fld (packM space size ord scope cp func off) j len = space.extractLsb' (j - 29) len := by
  ext i hi
  simp only [fld, packM, BitVec.getElem_extractLsb']
  repeat rw [BitVec.getLsbD_append]
  simp (disch := omega) only [if_neg, if_pos]
  all_goals (congr 1 <;> omega)

@[simp] theorem fld_packM_size {space size ord scope cp func off j len} (h : 26 ≤ j) (h' : j + len ≤ 29) :
    fld (packM space size ord scope cp func off) j len = size.extractLsb' (j - 26) len := by
  ext i hi
  simp only [fld, packM, BitVec.getElem_extractLsb']
  repeat rw [BitVec.getLsbD_append]
  simp (disch := omega) only [if_neg, if_pos]
  all_goals (congr 1 <;> omega)

@[simp] theorem fld_packM_ord {space size ord scope cp func off j len} (h : 24 ≤ j) (h' : j + len ≤ 26) :
    fld (packM space size ord scope cp func off) j len = ord.extractLsb' (j - 24) len := by
  ext i hi
  simp only [fld, packM, BitVec.getElem_extractLsb']
  repeat rw [BitVec.getLsbD_append]
  simp (disch := omega) only [if_neg, if_pos]
  all_goals (congr 1 <;> omega)

@[simp] theorem fld_packM_scope {space size ord scope cp func off j len} (h : 20 ≤ j) (h' : j + len ≤ 24) :
    fld (packM space size ord scope cp func off) j len = scope.extractLsb' (j - 20) len := by
  ext i hi
  simp only [fld, packM, BitVec.getElem_extractLsb']
  repeat rw [BitVec.getLsbD_append]
  simp (disch := omega) only [if_neg, if_pos]
  all_goals (congr 1 <;> omega)

@[simp] theorem fld_packM_cp {space size ord scope cp func off j len} (h : 18 ≤ j) (h' : j + len ≤ 20) :
    fld (packM space size ord scope cp func off) j len = cp.extractLsb' (j - 18) len := by
  ext i hi
  simp only [fld, packM, BitVec.getElem_extractLsb']
  repeat rw [BitVec.getLsbD_append]
  simp (disch := omega) only [if_neg, if_pos]
  all_goals (congr 1 <;> omega)

@[simp] theorem fld_packM_func {space size ord scope cp func off j len} (h : 14 ≤ j) (h' : j + len ≤ 18) :
    fld (packM space size ord scope cp func off) j len = func.extractLsb' (j - 14) len := by
  ext i hi
  simp only [fld, packM, BitVec.getElem_extractLsb']
  repeat rw [BitVec.getLsbD_append]
  simp (disch := omega) only [if_neg, if_pos]
  all_goals (congr 1 <;> omega)

@[simp] theorem fld_packM_off {space size ord scope cp func off j len} (h' : j + len ≤ 14) :
    fld (packM space size ord scope cp func off) j len = off.extractLsb' (j) len := by
  ext i hi
  simp only [fld, packM, BitVec.getElem_extractLsb']
  repeat rw [BitVec.getLsbD_append]
  simp (disch := omega) only [if_neg, if_pos]
  all_goals (congr 1 <;> omega)

@[simp] theorem fld_packM3_fbase {fbase off j len} (h : 25 ≤ j) (h' : j + len ≤ 32) :
    fld (packM3 fbase off) j len = fbase.extractLsb' (j - 25) len := by
  ext i hi
  simp only [fld, packM3, BitVec.getElem_extractLsb']
  repeat rw [BitVec.getLsbD_append]
  simp (disch := omega) only [if_neg, if_pos]
  all_goals (congr 1 <;> omega)

@[simp] theorem fld_packM3_off {fbase off j len} (h' : j + len ≤ 16) :
    fld (packM3 fbase off) j len = off.extractLsb' (j) len := by
  ext i hi
  simp only [fld, packM3, BitVec.getElem_extractLsb']
  repeat rw [BitVec.getLsbD_append]
  simp (disch := omega) only [if_neg, if_pos]
  all_goals (congr 1 <;> omega)

@[simp] theorem fld_packE_c {c l dsp ssp guard flags j len} (h : 25 ≤ j) (h' : j + len ≤ 32) :
    fld (packE c l dsp ssp guard flags) j len = c.extractLsb' (j - 25) len := by
  ext i hi
  simp only [fld, packE, BitVec.getElem_extractLsb']
  repeat rw [BitVec.getLsbD_append]
  simp (disch := omega) only [if_neg, if_pos]
  all_goals (congr 1 <;> omega)

@[simp] theorem fld_packE_l {c l dsp ssp guard flags j len} (h : 18 ≤ j) (h' : j + len ≤ 25) :
    fld (packE c l dsp ssp guard flags) j len = l.extractLsb' (j - 18) len := by
  ext i hi
  simp only [fld, packE, BitVec.getElem_extractLsb']
  repeat rw [BitVec.getLsbD_append]
  simp (disch := omega) only [if_neg, if_pos]
  all_goals (congr 1 <;> omega)

@[simp] theorem fld_packE_dsp {c l dsp ssp guard flags j len} (h : 15 ≤ j) (h' : j + len ≤ 18) :
    fld (packE c l dsp ssp guard flags) j len = dsp.extractLsb' (j - 15) len := by
  ext i hi
  simp only [fld, packE, BitVec.getElem_extractLsb']
  repeat rw [BitVec.getLsbD_append]
  simp (disch := omega) only [if_neg, if_pos]
  all_goals (congr 1 <;> omega)

@[simp] theorem fld_packE_ssp {c l dsp ssp guard flags j len} (h : 12 ≤ j) (h' : j + len ≤ 15) :
    fld (packE c l dsp ssp guard flags) j len = ssp.extractLsb' (j - 12) len := by
  ext i hi
  simp only [fld, packE, BitVec.getElem_extractLsb']
  repeat rw [BitVec.getLsbD_append]
  simp (disch := omega) only [if_neg, if_pos]
  all_goals (congr 1 <;> omega)

@[simp] theorem fld_packE_guard {c l dsp ssp guard flags j len} (h : 8 ≤ j) (h' : j + len ≤ 12) :
    fld (packE c l dsp ssp guard flags) j len = guard.extractLsb' (j - 8) len := by
  ext i hi
  simp only [fld, packE, BitVec.getElem_extractLsb']
  repeat rw [BitVec.getLsbD_append]
  simp (disch := omega) only [if_neg, if_pos]
  all_goals (congr 1 <;> omega)

@[simp] theorem fld_packE_flags {c l dsp ssp guard flags j len} (h' : j + len ≤ 8) :
    fld (packE c l dsp ssp guard flags) j len = flags.extractLsb' (j) len := by
  ext i hi
  simp only [fld, packE, BitVec.getElem_extractLsb']
  repeat rw [BitVec.getLsbD_append]
  simp (disch := omega) only [if_neg, if_pos]
  all_goals (congr 1 <;> omega)

@[simp] theorem flag_packE_flags {c l dsp ssp guard flags j} (h' : j < 8) :
    flag (packE c l dsp ssp guard flags) j = flags.getLsbD (j) := by
  simp only [flag, packE]
  repeat rw [BitVec.getLsbD_append]
  simp (disch := omega) only [if_neg, if_pos]
  all_goals (congr 1 <;> omega)

/-! ## Spans of fields that are all zero -/

@[simp] theorem zero_packS_0_23 {op u} : fld (packS op u 0#7 0#7 0#9) 0 23 = 0#23 := by
  ext i hi
  simp only [fld, packS, BitVec.getElem_extractLsb']
  repeat rw [BitVec.getLsbD_append]
  simp (disch := omega) only [if_neg, if_pos]
  simp
  all_goals (intros; omega)

@[simp] theorem zero_packS_0_16 {op u d} : fld (packS op u d 0#7 0#9) 0 16 = 0#16 := by
  ext i hi
  simp only [fld, packS, BitVec.getElem_extractLsb']
  repeat rw [BitVec.getLsbD_append]
  simp (disch := omega) only [if_neg, if_pos]
  simp
  all_goals (intros; omega)

@[simp] theorem zero_packS_9_14 {op u imm} : fld (packS op u 0#7 0#7 imm) 9 14 = 0#14 := by
  ext i hi
  simp only [fld, packS, BitVec.getElem_extractLsb']
  repeat rw [BitVec.getLsbD_append]
  simp (disch := omega) only [if_neg, if_pos]
  simp
  all_goals (intros; omega)

@[simp] theorem zero_packI_16_8 {op imm} : fld (packI op false 0#7 imm) 16 8 = 0#8 := by
  ext i hi
  simp only [fld, packI, BitVec.getElem_extractLsb']
  repeat rw [BitVec.getLsbD_append]
  simp (disch := omega) only [if_neg, if_pos]
  simp
  all_goals (intros; omega)

@[simp] theorem zero_packB_19_4 {op u off} : fld (packB op u 0#3 false off) 19 4 = 0#4 := by
  ext i hi
  simp only [fld, packB, BitVec.getElem_extractLsb']
  repeat rw [BitVec.getLsbD_append]
  simp (disch := omega) only [if_neg, if_pos]
  simp
  all_goals (intros; omega)

@[simp] theorem zero_packA_0_9 {op u d a} : fld (packA op u d a 0#7 0#2) 0 9 = 0#9 := by
  ext i hi
  simp only [fld, packA, BitVec.getElem_extractLsb']
  repeat rw [BitVec.getLsbD_append]
  simp (disch := omega) only [if_neg, if_pos]
  simp
  all_goals (intros; omega)

@[simp] theorem zero_packX_0_25 {c} : fld (packX c 0#4 0#2 false 0#18) 0 25 = 0#25 := by
  ext i hi
  simp only [fld, packX, BitVec.getElem_extractLsb']
  repeat rw [BitVec.getLsbD_append]
  simp (disch := omega) only [if_neg, if_pos]
  simp
  all_goals (intros; omega)

@[simp] theorem zero_packX_18_3 {c ext per} : fld (packX c ext 0#2 false per) 18 3 = 0#3 := by
  ext i hi
  simp only [fld, packX, BitVec.getElem_extractLsb']
  repeat rw [BitVec.getLsbD_append]
  simp (disch := omega) only [if_neg, if_pos]
  simp
  all_goals (intros; omega)

@[simp] theorem zero_packX_0_21 {c ext} : fld (packX c ext 0#2 false 0#18) 0 21 = 0#21 := by
  ext i hi
  simp only [fld, packX, BitVec.getElem_extractLsb']
  repeat rw [BitVec.getLsbD_append]
  simp (disch := omega) only [if_neg, if_pos]
  simp
  all_goals (intros; omega)

@[simp] theorem zero_packX_18_7 {c per} : fld (packX c 0#4 0#2 false per) 18 7 = 0#7 := by
  ext i hi
  simp only [fld, packX, BitVec.getElem_extractLsb']
  repeat rw [BitVec.getLsbD_append]
  simp (disch := omega) only [if_neg, if_pos]
  simp
  all_goals (intros; omega)

@[simp] theorem zero_packM_18_11 {sp func off} : fld (packM sp 0#3 0#2 0#4 0#2 func off) 18 11 = 0#11 := by
  ext i hi
  simp only [fld, packM, BitVec.getElem_extractLsb']
  repeat rw [BitVec.getLsbD_append]
  simp (disch := omega) only [if_neg, if_pos]
  simp
  all_goals (intros; omega)

@[simp] theorem zero_packM_18_8 {sp size func off} : fld (packM sp size 0#2 0#4 0#2 func off) 18 8 = 0#8 := by
  ext i hi
  simp only [fld, packM, BitVec.getElem_extractLsb']
  repeat rw [BitVec.getLsbD_append]
  simp (disch := omega) only [if_neg, if_pos]
  simp
  all_goals (intros; omega)

@[simp] theorem zero_packE_18_14 {dsp ssp guard flags} : fld (packE 0#7 0#7 dsp ssp guard flags) 18 14 = 0#14 := by
  ext i hi
  simp only [fld, packE, BitVec.getElem_extractLsb']
  repeat rw [BitVec.getLsbD_append]
  simp (disch := omega) only [if_neg, if_pos]
  simp
  all_goals (intros; omega)

@[simp] theorem zero_packE_0_12 {c l dsp ssp} : fld (packE c l dsp ssp 0#4 0#8) 0 12 = 0#12 := by
  ext i hi
  simp only [fld, packE, BitVec.getElem_extractLsb']
  repeat rw [BitVec.getLsbD_append]
  simp (disch := omega) only [if_neg, if_pos]
  simp
  all_goals (intros; omega)

@[simp] theorem zero_slot {op u} {x : BitVec 4} : fld (packS op u 0#7 0#7 (0#5 ++ x)) 4 19 = 0#19 := by
  ext i hi
  simp only [fld, packS, BitVec.getElem_extractLsb']
  repeat rw [BitVec.getLsbD_append]
  simp
  all_goals (intros; omega)

@[simp] theorem zero_rid {op u} {x : BitVec 3} : fld (packS op u 0#7 0#7 (0#6 ++ x)) 3 20 = 0#20 := by
  ext i hi
  simp only [fld, packS, BitVec.getElem_extractLsb']
  repeat rw [BitVec.getLsbD_append]
  simp
  all_goals (intros; omega)

@[simp] theorem zero_gap {x y} : fld (packM3 x y) 16 9 = 0#9 := by
  ext i hi
  simp only [fld, packM3, BitVec.getElem_extractLsb']
  repeat rw [BitVec.getLsbD_append]
  simp (disch := omega) only [if_neg, if_pos]
  simp

/-! ## Fields made of parts -/

@[simp] theorem bit_1_4_2_2_x0 {x0 : BitVec 1} {x1 : BitVec 4} {x2 : BitVec 2} {x3 : BitVec 2} {j : Nat} (h : 8 ≤ j) (h' : j < 9) :
    (x0 ++ x1 ++ x2 ++ x3 : BitVec 9)[j]'(by omega) = x0.getLsbD (j - 8) := by
  rw [← BitVec.getLsbD_eq_getElem]
  repeat rw [BitVec.getLsbD_append]
  simp (disch := omega) only [if_neg, if_pos]
  all_goals (congr 1 <;> omega)

@[simp] theorem parts_1_4_2_2_x1 {x0 : BitVec 1} {x1 : BitVec 4} {x2 : BitVec 2} {x3 : BitVec 2} {j len : Nat} (h : 4 ≤ j) (h' : j + len ≤ 8) :
    BitVec.extractLsb' (n := 9) j len (x0 ++ x1 ++ x2 ++ x3) = x1.extractLsb' (j - 4) len := by
  ext i hi
  simp only [BitVec.getElem_extractLsb']
  repeat rw [BitVec.getLsbD_append]
  simp (disch := omega) only [if_neg, if_pos]
  all_goals (congr 1 <;> omega)

@[simp] theorem parts_1_4_2_2_x2 {x0 : BitVec 1} {x1 : BitVec 4} {x2 : BitVec 2} {x3 : BitVec 2} {j len : Nat} (h : 2 ≤ j) (h' : j + len ≤ 4) :
    BitVec.extractLsb' (n := 9) j len (x0 ++ x1 ++ x2 ++ x3) = x2.extractLsb' (j - 2) len := by
  ext i hi
  simp only [BitVec.getElem_extractLsb']
  repeat rw [BitVec.getLsbD_append]
  simp (disch := omega) only [if_neg, if_pos]
  all_goals (congr 1 <;> omega)

@[simp] theorem parts_1_4_2_2_x3 {x0 : BitVec 1} {x1 : BitVec 4} {x2 : BitVec 2} {x3 : BitVec 2} {j len : Nat} (h' : j + len ≤ 2) :
    BitVec.extractLsb' (n := 9) j len (x0 ++ x1 ++ x2 ++ x3) = x3.extractLsb' (j) len := by
  ext i hi
  simp only [BitVec.getElem_extractLsb']
  repeat rw [BitVec.getLsbD_append]
  simp (disch := omega) only [if_neg, if_pos]
  all_goals (congr 1 <;> omega)

@[simp] theorem parts_2_3_4_x0 {x0 : BitVec 2} {x1 : BitVec 3} {x2 : BitVec 4} {j len : Nat} (h : 7 ≤ j) (h' : j + len ≤ 9) :
    BitVec.extractLsb' (n := 9) j len (x0 ++ x1 ++ x2) = x0.extractLsb' (j - 7) len := by
  ext i hi
  simp only [BitVec.getElem_extractLsb']
  repeat rw [BitVec.getLsbD_append]
  simp (disch := omega) only [if_neg, if_pos]
  all_goals (congr 1 <;> omega)

@[simp] theorem parts_2_3_4_x1 {x0 : BitVec 2} {x1 : BitVec 3} {x2 : BitVec 4} {j len : Nat} (h : 4 ≤ j) (h' : j + len ≤ 7) :
    BitVec.extractLsb' (n := 9) j len (x0 ++ x1 ++ x2) = x1.extractLsb' (j - 4) len := by
  ext i hi
  simp only [BitVec.getElem_extractLsb']
  repeat rw [BitVec.getLsbD_append]
  simp (disch := omega) only [if_neg, if_pos]
  all_goals (congr 1 <;> omega)

@[simp] theorem parts_2_3_4_x2 {x0 : BitVec 2} {x1 : BitVec 3} {x2 : BitVec 4} {j len : Nat} (h' : j + len ≤ 4) :
    BitVec.extractLsb' (n := 9) j len (x0 ++ x1 ++ x2) = x2.extractLsb' (j) len := by
  ext i hi
  simp only [BitVec.getElem_extractLsb']
  repeat rw [BitVec.getLsbD_append]
  simp (disch := omega) only [if_neg, if_pos]
  all_goals (congr 1 <;> omega)

@[simp] theorem parts_3_2_1_3_x0 {x0 : BitVec 3} {x1 : BitVec 2} {x2 : BitVec 1} {x3 : BitVec 3} {j len : Nat} (h : 6 ≤ j) (h' : j + len ≤ 9) :
    BitVec.extractLsb' (n := 9) j len (x0 ++ x1 ++ x2 ++ x3) = x0.extractLsb' (j - 6) len := by
  ext i hi
  simp only [BitVec.getElem_extractLsb']
  repeat rw [BitVec.getLsbD_append]
  simp (disch := omega) only [if_neg, if_pos]
  all_goals (congr 1 <;> omega)

@[simp] theorem parts_3_2_1_3_x1 {x0 : BitVec 3} {x1 : BitVec 2} {x2 : BitVec 1} {x3 : BitVec 3} {j len : Nat} (h : 4 ≤ j) (h' : j + len ≤ 6) :
    BitVec.extractLsb' (n := 9) j len (x0 ++ x1 ++ x2 ++ x3) = x1.extractLsb' (j - 4) len := by
  ext i hi
  simp only [BitVec.getElem_extractLsb']
  repeat rw [BitVec.getLsbD_append]
  simp (disch := omega) only [if_neg, if_pos]
  all_goals (congr 1 <;> omega)

@[simp] theorem bit_3_2_1_3_x2 {x0 : BitVec 3} {x1 : BitVec 2} {x2 : BitVec 1} {x3 : BitVec 3} {j : Nat} (h : 3 ≤ j) (h' : j < 4) :
    (x0 ++ x1 ++ x2 ++ x3 : BitVec 9)[j]'(by omega) = x2.getLsbD (j - 3) := by
  rw [← BitVec.getLsbD_eq_getElem]
  repeat rw [BitVec.getLsbD_append]
  simp (disch := omega) only [if_neg, if_pos]
  all_goals (congr 1 <;> omega)

@[simp] theorem parts_3_2_1_3_x3 {x0 : BitVec 3} {x1 : BitVec 2} {x2 : BitVec 1} {x3 : BitVec 3} {j len : Nat} (h' : j + len ≤ 3) :
    BitVec.extractLsb' (n := 9) j len (x0 ++ x1 ++ x2 ++ x3) = x3.extractLsb' (j) len := by
  ext i hi
  simp only [BitVec.getElem_extractLsb']
  repeat rw [BitVec.getLsbD_append]
  simp (disch := omega) only [if_neg, if_pos]
  all_goals (congr 1 <;> omega)

@[simp] theorem bit_1_8_x0 {x0 : BitVec 1} {x1 : BitVec 8} {j : Nat} (h : 8 ≤ j) (h' : j < 9) :
    (x0 ++ x1 : BitVec 9)[j]'(by omega) = x0.getLsbD (j - 8) := by
  rw [← BitVec.getLsbD_eq_getElem]
  repeat rw [BitVec.getLsbD_append]
  simp (disch := omega) only [if_neg, if_pos]
  all_goals (congr 1 <;> omega)

@[simp] theorem parts_1_8_x1 {x0 : BitVec 1} {x1 : BitVec 8} {j len : Nat} (h' : j + len ≤ 8) :
    BitVec.extractLsb' (n := 9) j len (x0 ++ x1) = x1.extractLsb' (j) len := by
  ext i hi
  simp only [BitVec.getElem_extractLsb']
  repeat rw [BitVec.getLsbD_append]
  simp (disch := omega) only [if_neg, if_pos]
  all_goals (congr 1 <;> omega)

@[simp] theorem parts_8_1_x0 {x0 : BitVec 8} {x1 : BitVec 1} {j len : Nat} (h : 1 ≤ j) (h' : j + len ≤ 9) :
    BitVec.extractLsb' (n := 9) j len (x0 ++ x1) = x0.extractLsb' (j - 1) len := by
  ext i hi
  simp only [BitVec.getElem_extractLsb']
  repeat rw [BitVec.getLsbD_append]
  simp (disch := omega) only [if_neg, if_pos]
  all_goals (congr 1 <;> omega)

@[simp] theorem bit_8_1_x1 {x0 : BitVec 8} {x1 : BitVec 1} {j : Nat} (h' : j < 1) :
    (x0 ++ x1 : BitVec 9)[j]'(by omega) = x1.getLsbD (j) := by
  rw [← BitVec.getLsbD_eq_getElem]
  repeat rw [BitVec.getLsbD_append]
  simp (disch := omega) only [if_neg, if_pos]
  all_goals (congr 1 <;> omega)

@[simp] theorem parts_5_4_x0 {x0 : BitVec 5} {x1 : BitVec 4} {j len : Nat} (h : 4 ≤ j) (h' : j + len ≤ 9) :
    BitVec.extractLsb' (n := 9) j len (x0 ++ x1) = x0.extractLsb' (j - 4) len := by
  ext i hi
  simp only [BitVec.getElem_extractLsb']
  repeat rw [BitVec.getLsbD_append]
  simp (disch := omega) only [if_neg, if_pos]
  all_goals (congr 1 <;> omega)

@[simp] theorem parts_5_4_x1 {x0 : BitVec 5} {x1 : BitVec 4} {j len : Nat} (h' : j + len ≤ 4) :
    BitVec.extractLsb' (n := 9) j len (x0 ++ x1) = x1.extractLsb' (j) len := by
  ext i hi
  simp only [BitVec.getElem_extractLsb']
  repeat rw [BitVec.getLsbD_append]
  simp (disch := omega) only [if_neg, if_pos]
  all_goals (congr 1 <;> omega)

@[simp] theorem parts_6_3_x1 {x0 : BitVec 6} {x1 : BitVec 3} {j len : Nat} (h' : j + len ≤ 3) :
    BitVec.extractLsb' (n := 9) j len (x0 ++ x1) = x1.extractLsb' (j) len := by
  ext i hi
  simp only [BitVec.getElem_extractLsb']
  repeat rw [BitVec.getLsbD_append]
  simp (disch := omega) only [if_neg, if_pos]
  all_goals (congr 1 <;> omega)

@[simp] theorem parts_7_2_x0 {x0 : BitVec 7} {x1 : BitVec 2} {j len : Nat} (h : 2 ≤ j) (h' : j + len ≤ 9) :
    BitVec.extractLsb' (n := 9) j len (x0 ++ x1) = x0.extractLsb' (j - 2) len := by
  ext i hi
  simp only [BitVec.getElem_extractLsb']
  repeat rw [BitVec.getLsbD_append]
  simp (disch := omega) only [if_neg, if_pos]
  all_goals (congr 1 <;> omega)

@[simp] theorem parts_7_2_x1 {x0 : BitVec 7} {x1 : BitVec 2} {j len : Nat} (h' : j + len ≤ 2) :
    BitVec.extractLsb' (n := 9) j len (x0 ++ x1) = x1.extractLsb' (j) len := by
  ext i hi
  simp only [BitVec.getElem_extractLsb']
  repeat rw [BitVec.getLsbD_append]
  simp (disch := omega) only [if_neg, if_pos]
  all_goals (congr 1 <;> omega)

@[simp] theorem parts_4_3_x0 {x0 : BitVec 4} {x1 : BitVec 3} {j len : Nat} (h : 3 ≤ j) (h' : j + len ≤ 7) :
    BitVec.extractLsb' (n := 7) j len (x0 ++ x1) = x0.extractLsb' (j - 3) len := by
  ext i hi
  simp only [BitVec.getElem_extractLsb']
  repeat rw [BitVec.getLsbD_append]
  simp (disch := omega) only [if_neg, if_pos]
  all_goals (congr 1 <;> omega)

@[simp] theorem parts_4_3_x1 {x0 : BitVec 4} {x1 : BitVec 3} {j len : Nat} (h' : j + len ≤ 3) :
    BitVec.extractLsb' (n := 7) j len (x0 ++ x1) = x1.extractLsb' (j) len := by
  ext i hi
  simp only [BitVec.getElem_extractLsb']
  repeat rw [BitVec.getLsbD_append]
  simp (disch := omega) only [if_neg, if_pos]
  all_goals (congr 1 <;> omega)

@[simp] theorem parts_4_14_x0 {x0 : BitVec 4} {x1 : BitVec 14} {j len : Nat} (h : 14 ≤ j) (h' : j + len ≤ 18) :
    BitVec.extractLsb' (n := 18) j len (x0 ++ x1) = x0.extractLsb' (j - 14) len := by
  ext i hi
  simp only [BitVec.getElem_extractLsb']
  repeat rw [BitVec.getLsbD_append]
  simp (disch := omega) only [if_neg, if_pos]
  all_goals (congr 1 <;> omega)

@[simp] theorem parts_4_14_x1 {x0 : BitVec 4} {x1 : BitVec 14} {j len : Nat} (h' : j + len ≤ 14) :
    BitVec.extractLsb' (n := 18) j len (x0 ++ x1) = x1.extractLsb' (j) len := by
  ext i hi
  simp only [BitVec.getElem_extractLsb']
  repeat rw [BitVec.getLsbD_append]
  simp (disch := omega) only [if_neg, if_pos]
  all_goals (congr 1 <;> omega)

@[simp] theorem parts_4_1_13_x0 {x0 : BitVec 4} {x1 : BitVec 1} {x2 : BitVec 13} {j len : Nat} (h : 14 ≤ j) (h' : j + len ≤ 18) :
    BitVec.extractLsb' (n := 18) j len (x0 ++ x1 ++ x2) = x0.extractLsb' (j - 14) len := by
  ext i hi
  simp only [BitVec.getElem_extractLsb']
  repeat rw [BitVec.getLsbD_append]
  simp (disch := omega) only [if_neg, if_pos]
  all_goals (congr 1 <;> omega)

@[simp] theorem bit_4_1_13_x1 {x0 : BitVec 4} {x1 : BitVec 1} {x2 : BitVec 13} {j : Nat} (h : 13 ≤ j) (h' : j < 14) :
    (x0 ++ x1 ++ x2 : BitVec 18)[j]'(by omega) = x1.getLsbD (j - 13) := by
  rw [← BitVec.getLsbD_eq_getElem]
  repeat rw [BitVec.getLsbD_append]
  simp (disch := omega) only [if_neg, if_pos]
  all_goals (congr 1 <;> omega)

@[simp] theorem parts_4_1_13_x2 {x0 : BitVec 4} {x1 : BitVec 1} {x2 : BitVec 13} {j len : Nat} (h' : j + len ≤ 13) :
    BitVec.extractLsb' (n := 18) j len (x0 ++ x1 ++ x2) = x2.extractLsb' (j) len := by
  ext i hi
  simp only [BitVec.getElem_extractLsb']
  repeat rw [BitVec.getLsbD_append]
  simp (disch := omega) only [if_neg, if_pos]
  all_goals (congr 1 <;> omega)

@[simp] theorem parts_3_1_14_x0 {x0 : BitVec 3} {x1 : BitVec 1} {x2 : BitVec 14} {j len : Nat} (h : 15 ≤ j) (h' : j + len ≤ 18) :
    BitVec.extractLsb' (n := 18) j len (x0 ++ x1 ++ x2) = x0.extractLsb' (j - 15) len := by
  ext i hi
  simp only [BitVec.getElem_extractLsb']
  repeat rw [BitVec.getLsbD_append]
  simp (disch := omega) only [if_neg, if_pos]
  all_goals (congr 1 <;> omega)

@[simp] theorem bit_3_1_14_x1 {x0 : BitVec 3} {x1 : BitVec 1} {x2 : BitVec 14} {j : Nat} (h : 14 ≤ j) (h' : j < 15) :
    (x0 ++ x1 ++ x2 : BitVec 18)[j]'(by omega) = x1.getLsbD (j - 14) := by
  rw [← BitVec.getLsbD_eq_getElem]
  repeat rw [BitVec.getLsbD_append]
  simp (disch := omega) only [if_neg, if_pos]
  all_goals (congr 1 <;> omega)

@[simp] theorem parts_3_1_14_x2 {x0 : BitVec 3} {x1 : BitVec 1} {x2 : BitVec 14} {j len : Nat} (h' : j + len ≤ 14) :
    BitVec.extractLsb' (n := 18) j len (x0 ++ x1 ++ x2) = x2.extractLsb' (j) len := by
  ext i hi
  simp only [BitVec.getElem_extractLsb']
  repeat rw [BitVec.getLsbD_append]
  simp (disch := omega) only [if_neg, if_pos]
  all_goals (congr 1 <;> omega)

@[simp] theorem parts_2_16_x0 {x0 : BitVec 2} {x1 : BitVec 16} {j len : Nat} (h : 16 ≤ j) (h' : j + len ≤ 18) :
    BitVec.extractLsb' (n := 18) j len (x0 ++ x1) = x0.extractLsb' (j - 16) len := by
  ext i hi
  simp only [BitVec.getElem_extractLsb']
  repeat rw [BitVec.getLsbD_append]
  simp (disch := omega) only [if_neg, if_pos]
  all_goals (congr 1 <;> omega)

@[simp] theorem parts_2_16_x1 {x0 : BitVec 2} {x1 : BitVec 16} {j len : Nat} (h' : j + len ≤ 16) :
    BitVec.extractLsb' (n := 18) j len (x0 ++ x1) = x1.extractLsb' (j) len := by
  ext i hi
  simp only [BitVec.getElem_extractLsb']
  repeat rw [BitVec.getLsbD_append]
  simp (disch := omega) only [if_neg, if_pos]
  all_goals (congr 1 <;> omega)

@[simp] theorem parts_3_3_2_2_1_1_4_2_x0 {x0 : BitVec 3} {x1 : BitVec 3} {x2 : BitVec 2} {x3 : BitVec 2} {x4 : BitVec 1} {x5 : BitVec 1} {x6 : BitVec 4} {x7 : BitVec 2} {j len : Nat} (h : 15 ≤ j) (h' : j + len ≤ 18) :
    BitVec.extractLsb' (n := 18) j len (x0 ++ x1 ++ x2 ++ x3 ++ x4 ++ x5 ++ x6 ++ x7) = x0.extractLsb' (j - 15) len := by
  ext i hi
  simp only [BitVec.getElem_extractLsb']
  repeat rw [BitVec.getLsbD_append]
  simp (disch := omega) only [if_neg, if_pos]
  all_goals (congr 1 <;> omega)

@[simp] theorem parts_3_3_2_2_1_1_4_2_x1 {x0 : BitVec 3} {x1 : BitVec 3} {x2 : BitVec 2} {x3 : BitVec 2} {x4 : BitVec 1} {x5 : BitVec 1} {x6 : BitVec 4} {x7 : BitVec 2} {j len : Nat} (h : 12 ≤ j) (h' : j + len ≤ 15) :
    BitVec.extractLsb' (n := 18) j len (x0 ++ x1 ++ x2 ++ x3 ++ x4 ++ x5 ++ x6 ++ x7) = x1.extractLsb' (j - 12) len := by
  ext i hi
  simp only [BitVec.getElem_extractLsb']
  repeat rw [BitVec.getLsbD_append]
  simp (disch := omega) only [if_neg, if_pos]
  all_goals (congr 1 <;> omega)

@[simp] theorem parts_3_3_2_2_1_1_4_2_x2 {x0 : BitVec 3} {x1 : BitVec 3} {x2 : BitVec 2} {x3 : BitVec 2} {x4 : BitVec 1} {x5 : BitVec 1} {x6 : BitVec 4} {x7 : BitVec 2} {j len : Nat} (h : 10 ≤ j) (h' : j + len ≤ 12) :
    BitVec.extractLsb' (n := 18) j len (x0 ++ x1 ++ x2 ++ x3 ++ x4 ++ x5 ++ x6 ++ x7) = x2.extractLsb' (j - 10) len := by
  ext i hi
  simp only [BitVec.getElem_extractLsb']
  repeat rw [BitVec.getLsbD_append]
  simp (disch := omega) only [if_neg, if_pos]
  all_goals (congr 1 <;> omega)

@[simp] theorem parts_3_3_2_2_1_1_4_2_x3 {x0 : BitVec 3} {x1 : BitVec 3} {x2 : BitVec 2} {x3 : BitVec 2} {x4 : BitVec 1} {x5 : BitVec 1} {x6 : BitVec 4} {x7 : BitVec 2} {j len : Nat} (h : 8 ≤ j) (h' : j + len ≤ 10) :
    BitVec.extractLsb' (n := 18) j len (x0 ++ x1 ++ x2 ++ x3 ++ x4 ++ x5 ++ x6 ++ x7) = x3.extractLsb' (j - 8) len := by
  ext i hi
  simp only [BitVec.getElem_extractLsb']
  repeat rw [BitVec.getLsbD_append]
  simp (disch := omega) only [if_neg, if_pos]
  all_goals (congr 1 <;> omega)

@[simp] theorem bit_3_3_2_2_1_1_4_2_x4 {x0 : BitVec 3} {x1 : BitVec 3} {x2 : BitVec 2} {x3 : BitVec 2} {x4 : BitVec 1} {x5 : BitVec 1} {x6 : BitVec 4} {x7 : BitVec 2} {j : Nat} (h : 7 ≤ j) (h' : j < 8) :
    (x0 ++ x1 ++ x2 ++ x3 ++ x4 ++ x5 ++ x6 ++ x7 : BitVec 18)[j]'(by omega) = x4.getLsbD (j - 7) := by
  rw [← BitVec.getLsbD_eq_getElem]
  repeat rw [BitVec.getLsbD_append]
  simp (disch := omega) only [if_neg, if_pos]
  all_goals (congr 1 <;> omega)

@[simp] theorem bit_3_3_2_2_1_1_4_2_x5 {x0 : BitVec 3} {x1 : BitVec 3} {x2 : BitVec 2} {x3 : BitVec 2} {x4 : BitVec 1} {x5 : BitVec 1} {x6 : BitVec 4} {x7 : BitVec 2} {j : Nat} (h : 6 ≤ j) (h' : j < 7) :
    (x0 ++ x1 ++ x2 ++ x3 ++ x4 ++ x5 ++ x6 ++ x7 : BitVec 18)[j]'(by omega) = x5.getLsbD (j - 6) := by
  rw [← BitVec.getLsbD_eq_getElem]
  repeat rw [BitVec.getLsbD_append]
  simp (disch := omega) only [if_neg, if_pos]
  all_goals (congr 1 <;> omega)

@[simp] theorem parts_3_3_2_2_1_1_4_2_x6 {x0 : BitVec 3} {x1 : BitVec 3} {x2 : BitVec 2} {x3 : BitVec 2} {x4 : BitVec 1} {x5 : BitVec 1} {x6 : BitVec 4} {x7 : BitVec 2} {j len : Nat} (h : 2 ≤ j) (h' : j + len ≤ 6) :
    BitVec.extractLsb' (n := 18) j len (x0 ++ x1 ++ x2 ++ x3 ++ x4 ++ x5 ++ x6 ++ x7) = x6.extractLsb' (j - 2) len := by
  ext i hi
  simp only [BitVec.getElem_extractLsb']
  repeat rw [BitVec.getLsbD_append]
  simp (disch := omega) only [if_neg, if_pos]
  all_goals (congr 1 <;> omega)

@[simp] theorem parts_3_3_2_2_1_1_4_2_x7 {x0 : BitVec 3} {x1 : BitVec 3} {x2 : BitVec 2} {x3 : BitVec 2} {x4 : BitVec 1} {x5 : BitVec 1} {x6 : BitVec 4} {x7 : BitVec 2} {j len : Nat} (h' : j + len ≤ 2) :
    BitVec.extractLsb' (n := 18) j len (x0 ++ x1 ++ x2 ++ x3 ++ x4 ++ x5 ++ x6 ++ x7) = x7.extractLsb' (j) len := by
  ext i hi
  simp only [BitVec.getElem_extractLsb']
  repeat rw [BitVec.getLsbD_append]
  simp (disch := omega) only [if_neg, if_pos]
  all_goals (congr 1 <;> omega)

@[simp] theorem parts_2_3_2_11_x0 {x0 : BitVec 2} {x1 : BitVec 3} {x2 : BitVec 2} {x3 : BitVec 11} {j len : Nat} (h : 16 ≤ j) (h' : j + len ≤ 18) :
    BitVec.extractLsb' (n := 18) j len (x0 ++ x1 ++ x2 ++ x3) = x0.extractLsb' (j - 16) len := by
  ext i hi
  simp only [BitVec.getElem_extractLsb']
  repeat rw [BitVec.getLsbD_append]
  simp (disch := omega) only [if_neg, if_pos]
  all_goals (congr 1 <;> omega)

@[simp] theorem parts_2_3_2_11_x1 {x0 : BitVec 2} {x1 : BitVec 3} {x2 : BitVec 2} {x3 : BitVec 11} {j len : Nat} (h : 13 ≤ j) (h' : j + len ≤ 16) :
    BitVec.extractLsb' (n := 18) j len (x0 ++ x1 ++ x2 ++ x3) = x1.extractLsb' (j - 13) len := by
  ext i hi
  simp only [BitVec.getElem_extractLsb']
  repeat rw [BitVec.getLsbD_append]
  simp (disch := omega) only [if_neg, if_pos]
  all_goals (congr 1 <;> omega)

@[simp] theorem parts_2_3_2_11_x2 {x0 : BitVec 2} {x1 : BitVec 3} {x2 : BitVec 2} {x3 : BitVec 11} {j len : Nat} (h : 11 ≤ j) (h' : j + len ≤ 13) :
    BitVec.extractLsb' (n := 18) j len (x0 ++ x1 ++ x2 ++ x3) = x2.extractLsb' (j - 11) len := by
  ext i hi
  simp only [BitVec.getElem_extractLsb']
  repeat rw [BitVec.getLsbD_append]
  simp (disch := omega) only [if_neg, if_pos]
  all_goals (congr 1 <;> omega)

@[simp] theorem parts_2_3_2_11_x3 {x0 : BitVec 2} {x1 : BitVec 3} {x2 : BitVec 2} {x3 : BitVec 11} {j len : Nat} (h' : j + len ≤ 11) :
    BitVec.extractLsb' (n := 18) j len (x0 ++ x1 ++ x2 ++ x3) = x3.extractLsb' (j) len := by
  ext i hi
  simp only [BitVec.getElem_extractLsb']
  repeat rw [BitVec.getLsbD_append]
  simp (disch := omega) only [if_neg, if_pos]
  all_goals (congr 1 <;> omega)

@[simp] theorem bit_1_3_4_x0 {x0 : BitVec 1} {x1 : BitVec 3} {x2 : BitVec 4} {j : Nat} (h : 7 ≤ j) (h' : j < 8) :
    (x0 ++ x1 ++ x2 : BitVec 8)[j]'(by omega) = x0.getLsbD (j - 7) := by
  rw [← BitVec.getLsbD_eq_getElem]
  repeat rw [BitVec.getLsbD_append]
  simp (disch := omega) only [if_neg, if_pos]
  all_goals (congr 1 <;> omega)

@[simp] theorem parts_1_3_4_x1 {x0 : BitVec 1} {x1 : BitVec 3} {x2 : BitVec 4} {j len : Nat} (h : 4 ≤ j) (h' : j + len ≤ 7) :
    BitVec.extractLsb' (n := 8) j len (x0 ++ x1 ++ x2) = x1.extractLsb' (j - 4) len := by
  ext i hi
  simp only [BitVec.getElem_extractLsb']
  repeat rw [BitVec.getLsbD_append]
  simp (disch := omega) only [if_neg, if_pos]
  all_goals (congr 1 <;> omega)

@[simp] theorem bit_1_3_4_x1 {x0 : BitVec 1} {x1 : BitVec 3} {x2 : BitVec 4} {j : Nat} (h : 4 ≤ j) (h' : j < 7) :
    (x0 ++ x1 ++ x2 : BitVec 8)[j]'(by omega) = x1.getLsbD (j - 4) := by
  rw [← BitVec.getLsbD_eq_getElem]
  repeat rw [BitVec.getLsbD_append]
  simp (disch := omega) only [if_neg, if_pos]
  all_goals (congr 1 <;> omega)

@[simp] theorem parts_1_3_4_x2 {x0 : BitVec 1} {x1 : BitVec 3} {x2 : BitVec 4} {j len : Nat} (h' : j + len ≤ 4) :
    BitVec.extractLsb' (n := 8) j len (x0 ++ x1 ++ x2) = x2.extractLsb' (j) len := by
  ext i hi
  simp only [BitVec.getElem_extractLsb']
  repeat rw [BitVec.getLsbD_append]
  simp (disch := omega) only [if_neg, if_pos]
  all_goals (congr 1 <;> omega)

@[simp] theorem parts_2_1_x0 {x0 : BitVec 2} {x1 : BitVec 1} {j len : Nat} (h : 1 ≤ j) (h' : j + len ≤ 3) :
    BitVec.extractLsb' (n := 3) j len (x0 ++ x1) = x0.extractLsb' (j - 1) len := by
  ext i hi
  simp only [BitVec.getElem_extractLsb']
  repeat rw [BitVec.getLsbD_append]
  simp (disch := omega) only [if_neg, if_pos]
  all_goals (congr 1 <;> omega)

@[simp] theorem bit_2_1_x1 {x0 : BitVec 2} {x1 : BitVec 1} {j : Nat} (h' : j < 1) :
    (x0 ++ x1 : BitVec 3)[j]'(by omega) = x1.getLsbD (j) := by
  rw [← BitVec.getLsbD_eq_getElem]
  repeat rw [BitVec.getLsbD_append]
  simp (disch := omega) only [if_neg, if_pos]
  all_goals (congr 1 <;> omega)

@[simp] theorem bit_1_2_x0 {x0 : BitVec 1} {x1 : BitVec 2} {j : Nat} (h : 2 ≤ j) (h' : j < 3) :
    (x0 ++ x1 : BitVec 3)[j]'(by omega) = x0.getLsbD (j - 2) := by
  rw [← BitVec.getLsbD_eq_getElem]
  repeat rw [BitVec.getLsbD_append]
  simp (disch := omega) only [if_neg, if_pos]
  all_goals (congr 1 <;> omega)

@[simp] theorem parts_1_2_x1 {x0 : BitVec 1} {x1 : BitVec 2} {j len : Nat} (h' : j + len ≤ 2) :
    BitVec.extractLsb' (n := 3) j len (x0 ++ x1) = x1.extractLsb' (j) len := by
  ext i hi
  simp only [BitVec.getElem_extractLsb']
  repeat rw [BitVec.getLsbD_append]
  simp (disch := omega) only [if_neg, if_pos]
  all_goals (congr 1 <;> omega)

@[simp] theorem extract_all {n : Nat} (x : BitVec n) : x.extractLsb' 0 n = x := by
  ext i hi
  simp

@[simp] theorem ofBool_bit (b : Bool) : (BitVec.ofBool b).getLsbD 0 = b := by cases b <;> rfl

/-! ## Codes -/

@[simp] theorem Opnd.ofCode_code (o : Opnd) : Opnd.ofCode o.code = o := by
  cases o <;> rename_i n <;> revert n <;> decide

@[simp] theorem Width.ofCode_code (x : Width) : Width.ofCode x.code = some x := by cases x <;> rfl

@[simp] theorem IntType.ofM_mCode (x : IntType) : IntType.ofM x.mCode = x := by cases x <;> rfl

@[simp] theorem IntType.ofFmt_fmtCode (x : IntType) : IntType.ofFmt x.fmtCode = some x := by cases x <;> rfl

@[simp] theorem MulForm.ofCode_code (x : MulForm) : MulForm.ofCode x.code = x := by cases x <;> rfl

@[simp] theorem MovWidth.ofCode_code (x : MovWidth) : MovWidth.ofCode x.code = some x := by cases x <;> rfl

@[simp] theorem MovWidth.ofExt_ext (x : MovWidth) : MovWidth.ofExt x.ext = some x := by cases x <;> rfl

@[simp] theorem Rnd.ofCode_code (x : Rnd) : Rnd.ofCode x.code = x := by cases x <;> rfl

@[simp] theorem Fmt.ofCode_code (x : Fmt) : Fmt.ofCode x.code = some x := by cases x <;> rfl

@[simp] theorem Cond.ofCode_code (x : Cond) : Cond.ofCode x.code = some x := by cases x <;> rfl

@[simp] theorem Space.ofCode_code (x : Space) : Space.ofCode x.code = x := by cases x <;> rfl

@[simp] theorem MemSize.ofCode_code (x : MemSize) : MemSize.ofCode x.code = some x := by cases x <;> rfl

@[simp] theorem AtomType.ofCode_code (x : AtomType) : AtomType.ofCode x.code = x := by cases x <;> rfl

@[simp] theorem Order.ofCode_code (x : Order) : Order.ofCode x.code = x := by cases x <;> rfl

@[simp] theorem Scope.ofCode_code (x : Scope) : Scope.ofCode x.code = some x := by cases x <;> rfl

@[simp] theorem AtomOp.ofCode_code (x : AtomOp) : AtomOp.ofCode x.code = some x := by cases x <;> rfl

@[simp] theorem CmntOp.ofCode_code (x : CmntOp) : CmntOp.ofCode x.code = some x := by cases x <;> rfl

@[simp] theorem Reach.ofCode_code (x : Reach) : Reach.ofCode x.code = some x := by cases x <;> rfl

@[simp] theorem PrefKind.ofCode_code (x : PrefKind) : PrefKind.ofCode x.code = some x := by cases x <;> rfl

@[simp] theorem FenceKind.ofCode_code (x : FenceKind) : FenceKind.ofCode x.code = x := by cases x <;> rfl

@[simp] theorem ShflMode.ofCode_code (x : ShflMode) : ShflMode.ofCode x.code = some x := by cases x <;> rfl

@[simp] theorem VoteMode.ofCode_code (x : VoteMode) : VoteMode.ofCode x.code = x := by cases x <;> rfl

@[simp] theorem GrOp.ofCode_code (x : GrOp) : GrOp.ofCode x.code = some x := by cases x <;> rfl

@[simp] theorem GrType.ofCode_code (x : GrType) : GrType.ofCode x.code = some x := by cases x <;> rfl

@[simp] theorem CredType.ofCode_code (x : CredType) : CredType.ofCode x.code = some x := by cases x <;> rfl

@[simp] theorem Rows.ofCode_code (x : Rows) : Rows.ofCode x.code = some x := by cases x <;> rfl

@[simp] theorem GroupLen.ofCode_code (x : GroupLen) : GroupLen.ofCode x.code = some x := by cases x <;> rfl

/-! ## Control words -/

@[simp] theorem decMemCtl_word (m : MemCtl) : decMemCtl m.word = some m := by
  simp [decMemCtl, MemCtl.word, keepIf]

@[simp] theorem decAtomCtl_word (m : AtomCtl) (f : BitVec 4) : decAtomCtl (m.word f) = some m := by
  simp [decAtomCtl, AtomCtl.word]

@[simp] theorem func_word (m : AtomCtl) (f : BitVec 4) : fld (m.word f) 14 4 = f := by
  simp [AtomCtl.word]

@[simp] theorem decEngCtl_word (e : EngCtl) (mid : BitVec 3) : decEngCtl (e.word mid) = some e := by
  simp [decEngCtl, EngCtl.word, fC, opndAt]

@[simp] theorem mid_word {e : EngCtl} {mid : BitVec 3} {p n : Nat} (h : 4 ≤ p) (h' : p + n ≤ 7) :
    fld (e.word mid) p n = mid.extractLsb' (p - 4) n := by
  have h8 : p + n ≤ 8 := by omega
  simp [EngCtl.word, h, h', h8]

@[simp] theorem midBit_word {e : EngCtl} {mid : BitVec 3} {p : Nat} (h : 4 ≤ p) (h' : p < 7) :
    flag (e.word mid) p = mid.getLsbD (p - 4) := by
  have h8 : p < 8 := by omega
  simp [EngCtl.word, h, h', h8]

/-! ## The decoder, row by row -/

theorem decodeFields_00 {w v x : Word} (h : fld w 24 8 = 0x00) : decodeFields w v x =
    (keepIf (fld w 0 24 == 0) .nop) := by
  unfold decodeFields
  rw [h]
  rfl

theorem decodeFields_01 {w v x : Word} (h : fld w 24 8 = 0x01) : decodeFields w v x =
    (decW .iadd w) := by
  unfold decodeFields
  rw [h]
  rfl

theorem decodeFields_02 {w v x : Word} (h : fld w 24 8 = 0x02) : decodeFields w v x =
    (decW .isub w) := by
  unfold decodeFields
  rw [h]
  rfl

theorem decodeFields_03 {w v x : Word} (h : fld w 24 8 = 0x03) : decodeFields w v x =
    (some (.iaddi (fU w) (fD w) (fA w) (fImm9 w))) := by
  unfold decodeFields
  rw [h]
  rfl

theorem decodeFields_04 {w v x : Word} (h : fld w 24 8 = 0x04) : decodeFields w v x =
    (some (.imul (fU w) (fD w) (fA w) (fB w) (MulForm.ofCode (fM w)))) := by
  unfold decodeFields
  rw [h]
  rfl

theorem decodeFields_05 {w v x : Word} (h : fld w 24 8 = 0x05) : decodeFields w v x =
    ((IntType.ofFmt (fld v 21 4)).bind fun ty =>
      keepIf (fM w == 0 && fld v 19 2 == 0 && fld v 0 18 == 0)
        (.imad (fU w) (fD w) (fA w) (fB w) (fC v) ty (flag v 18))) := by
  unfold decodeFields
  rw [h]
  rfl

theorem decodeFields_06 {w v x : Word} (h : fld w 24 8 = 0x06) : decodeFields w v x =
    (decTy .imin w) := by
  unfold decodeFields
  rw [h]
  rfl

theorem decodeFields_07 {w v x : Word} (h : fld w 24 8 = 0x07) : decodeFields w v x =
    (decTy .imax w) := by
  unfold decodeFields
  rw [h]
  rfl

theorem decodeFields_08 {w v x : Word} (h : fld w 24 8 = 0x08) : decodeFields w v x =
    (decW1 .iabs w) := by
  unfold decodeFields
  rw [h]
  rfl

theorem decodeFields_09 {w v x : Word} (h : fld w 24 8 = 0x09) : decodeFields w v x =
    (decW .and w) := by
  unfold decodeFields
  rw [h]
  rfl

theorem decodeFields_0A {w v x : Word} (h : fld w 24 8 = 0x0A) : decodeFields w v x =
    (decW .or w) := by
  unfold decodeFields
  rw [h]
  rfl

theorem decodeFields_0B {w v x : Word} (h : fld w 24 8 = 0x0B) : decodeFields w v x =
    (decW .xor w) := by
  unfold decodeFields
  rw [h]
  rfl

theorem decodeFields_0C {w v x : Word} (h : fld w 24 8 = 0x0C) : decodeFields w v x =
    (decW .shl w) := by
  unfold decodeFields
  rw [h]
  rfl

theorem decodeFields_0D {w v x : Word} (h : fld w 24 8 = 0x0D) : decodeFields w v x =
    (decW .shr w) := by
  unfold decodeFields
  rw [h]
  rfl

theorem decodeFields_0E {w v x : Word} (h : fld w 24 8 = 0x0E) : decodeFields w v x =
    (decW .sar w) := by
  unfold decodeFields
  rw [h]
  rfl

theorem decodeFields_0F {w v x : Word} (h : fld w 24 8 = 0x0F) : decodeFields w v x =
    (decW .rol w) := by
  unfold decodeFields
  rw [h]
  rfl

theorem decodeFields_10 {w v x : Word} (h : fld w 24 8 = 0x10) : decodeFields w v x =
    ((IntType.ofFmt (fld v 21 4)).bind fun ty =>
      keepIf (fM w == 0 && fld v 25 7 == 0 && fld v 0 21 == 0) (.bfx (fU w) (fD w) (fA w) (fB w) ty)) := by
  unfold decodeFields
  rw [h]
  rfl

theorem decodeFields_11 {w v x : Word} (h : fld w 24 8 = 0x11) : decodeFields w v x =
    ((match (fld v 21 4).toNat with
        | 0x7 => some Width.w32
        | 0xD => some Width.w64
        | _ => none).bind fun wd =>
      keepIf (fM w == 0 && fld v 0 21 == 0) (.bfi (fU w) (fD w) (fA w) (fB w) (fC v) wd)) := by
  unfold decodeFields
  rw [h]
  rfl

theorem decodeFields_12 {w v x : Word} (h : fld w 24 8 = 0x12) : decodeFields w v x =
    (decW1 .popc w) := by
  unfold decodeFields
  rw [h]
  rfl

theorem decodeFields_13 {w v x : Word} (h : fld w 24 8 = 0x13) : decodeFields w v x =
    (decW1 .clz w) := by
  unfold decodeFields
  rw [h]
  rfl

theorem decodeFields_14 {w v x : Word} (h : fld w 24 8 = 0x14) : decodeFields w v x =
    (decW1 .brev w) := by
  unfold decodeFields
  rw [h]
  rfl

theorem decodeFields_15 {w v x : Word} (h : fld w 24 8 = 0x15) : decodeFields w v x =
    ((Cond.ofCode (fld w 19 4)).bind fun c => (Width.ofCode (fM w)).map fun wd =>
      .icmp (fU w) c (fld w 16 3) (fA w) (fB w) wd) := by
  unfold decodeFields
  rw [h]
  rfl

theorem decodeFields_16 {w v x : Word} (h : fld w 24 8 = 0x16) : decodeFields w v x =
    ((MovWidth.ofExt (fld v 21 4)).bind fun wd =>
      keepIf (fM w == 0 && fld v 25 7 == 0 && fld v 18 3 == 0 && fld v 0 14 == 0)
        (.sel (fU w) (fD w) (fA w) (fB w) (fld v 15 3) (flag v 14) wd)) := by
  unfold decodeFields
  rw [h]
  rfl

theorem decodeFields_17 {w v x : Word} (h : fld w 24 8 = 0x17) : decodeFields w v x =
    ((MovWidth.ofCode (fM w)).bind fun wd => keepIf (fld w 2 7 == 0) (.mov (fU w) (fD w) (fA w) wd)) := by
  unfold decodeFields
  rw [h]
  rfl

theorem decodeFields_18 {w v x : Word} (h : fld w 24 8 = 0x18) : decodeFields w v x =
    (some (.movi (fU w) (fD w) (fld w 0 16))) := by
  unfold decodeFields
  rw [h]
  rfl

theorem decodeFields_19 {w v x : Word} (h : fld w 24 8 = 0x19) : decodeFields w v x =
    (some (.movh (fU w) (fD w) (fld w 0 16))) := by
  unfold decodeFields
  rw [h]
  rfl

theorem decodeFields_1A {w v x : Word} (h : fld w 24 8 = 0x1A) : decodeFields w v x =
    (decTy .idiv w) := by
  unfold decodeFields
  rw [h]
  rfl

theorem decodeFields_1B {w v x : Word} (h : fld w 24 8 = 0x1B) : decodeFields w v x =
    (decTy .irem w) := by
  unfold decodeFields
  rw [h]
  rfl

theorem decodeFields_1C {w v x : Word} (h : fld w 24 8 = 0x1C) : decodeFields w v x =
    (keepIf (fld w 19 4 == 0 && fld w 12 4 == 0 && fld w 7 2 == 0)
      (.plop (fU w) (fld w 16 3) (fld w 9 3) (fld w 4 3) (fld w 0 4))) := by
  unfold decodeFields
  rw [h]
  rfl

theorem decodeFields_1D {w v x : Word} (h : fld w 24 8 = 0x1D) : decodeFields w v x =
    (if flag w 8 then keepIf (fld w 16 7 == 0) (.pmovUnpack (fU w) (fA w) (fld w 0 8))
      else keepIf (fld w 0 16 == 0) (.pmovPack (fU w) (fD w))) := by
  unfold decodeFields
  rw [h]
  rfl

theorem decodeFields_20 {w v x : Word} (h : fld w 24 8 = 0x20) : decodeFields w v x =
    (decRnd .fadd w) := by
  unfold decodeFields
  rw [h]
  rfl

theorem decodeFields_21 {w v x : Word} (h : fld w 24 8 = 0x21) : decodeFields w v x =
    (decRnd .fsub w) := by
  unfold decodeFields
  rw [h]
  rfl

theorem decodeFields_22 {w v x : Word} (h : fld w 24 8 = 0x22) : decodeFields w v x =
    (decRnd .fmul w) := by
  unfold decodeFields
  rw [h]
  rfl

theorem decodeFields_23 {w v x : Word} (h : fld w 24 8 = 0x23) : decodeFields w v x =
    (decFma .ffma w v) := by
  unfold decodeFields
  rw [h]
  rfl

theorem decodeFields_24 {w v x : Word} (h : fld w 24 8 = 0x24) : decodeFields w v x =
    (decA .fmin w) := by
  unfold decodeFields
  rw [h]
  rfl

theorem decodeFields_25 {w v x : Word} (h : fld w 24 8 = 0x25) : decodeFields w v x =
    (decA .fmax w) := by
  unfold decodeFields
  rw [h]
  rfl

theorem decodeFields_26 {w v x : Word} (h : fld w 24 8 = 0x26) : decodeFields w v x =
    (decCmp .fcmp w) := by
  unfold decodeFields
  rw [h]
  rfl

theorem decodeFields_27 {w v x : Word} (h : fld w 24 8 = 0x27) : decodeFields w v x =
    (decA1 .frcp w) := by
  unfold decodeFields
  rw [h]
  rfl

theorem decodeFields_28 {w v x : Word} (h : fld w 24 8 = 0x28) : decodeFields w v x =
    (decA1 .frsq w) := by
  unfold decodeFields
  rw [h]
  rfl

theorem decodeFields_29 {w v x : Word} (h : fld w 24 8 = 0x29) : decodeFields w v x =
    (decA1Rnd .fsqrt w) := by
  unfold decodeFields
  rw [h]
  rfl

theorem decodeFields_2A {w v x : Word} (h : fld w 24 8 = 0x2A) : decodeFields w v x =
    (decRnd .fdiv w) := by
  unfold decodeFields
  rw [h]
  rfl

theorem decodeFields_2B {w v x : Word} (h : fld w 24 8 = 0x2B) : decodeFields w v x =
    (decA1 .fex2 w) := by
  unfold decodeFields
  rw [h]
  rfl

theorem decodeFields_2C {w v x : Word} (h : fld w 24 8 = 0x2C) : decodeFields w v x =
    (decA1 .flg2 w) := by
  unfold decodeFields
  rw [h]
  rfl

theorem decodeFields_2D {w v x : Word} (h : fld w 24 8 = 0x2D) : decodeFields w v x =
    (decA1 .fsin w) := by
  unfold decodeFields
  rw [h]
  rfl

theorem decodeFields_2E {w v x : Word} (h : fld w 24 8 = 0x2E) : decodeFields w v x =
    (decA1 .fcos w) := by
  unfold decodeFields
  rw [h]
  rfl

theorem decodeFields_2F {w v x : Word} (h : fld w 24 8 = 0x2F) : decodeFields w v x =
    (decW1 .fcls w) := by
  unfold decodeFields
  rw [h]
  rfl

theorem decodeFields_30 {w v x : Word} (h : fld w 24 8 = 0x30) : decodeFields w v x =
    (decRnd .dadd w) := by
  unfold decodeFields
  rw [h]
  rfl

theorem decodeFields_31 {w v x : Word} (h : fld w 24 8 = 0x31) : decodeFields w v x =
    (decRnd .dsub w) := by
  unfold decodeFields
  rw [h]
  rfl

theorem decodeFields_32 {w v x : Word} (h : fld w 24 8 = 0x32) : decodeFields w v x =
    (decRnd .dmul w) := by
  unfold decodeFields
  rw [h]
  rfl

theorem decodeFields_33 {w v x : Word} (h : fld w 24 8 = 0x33) : decodeFields w v x =
    (decFma .dfma w v) := by
  unfold decodeFields
  rw [h]
  rfl

theorem decodeFields_34 {w v x : Word} (h : fld w 24 8 = 0x34) : decodeFields w v x =
    (decA .dmin w) := by
  unfold decodeFields
  rw [h]
  rfl

theorem decodeFields_35 {w v x : Word} (h : fld w 24 8 = 0x35) : decodeFields w v x =
    (decA .dmax w) := by
  unfold decodeFields
  rw [h]
  rfl

theorem decodeFields_36 {w v x : Word} (h : fld w 24 8 = 0x36) : decodeFields w v x =
    (decCmp .dcmp w) := by
  unfold decodeFields
  rw [h]
  rfl

theorem decodeFields_37 {w v x : Word} (h : fld w 24 8 = 0x37) : decodeFields w v x =
    (decRnd .ddiv w) := by
  unfold decodeFields
  rw [h]
  rfl

theorem decodeFields_38 {w v x : Word} (h : fld w 24 8 = 0x38) : decodeFields w v x =
    (decA1Rnd .dsqrt w) := by
  unfold decodeFields
  rw [h]
  rfl

theorem decodeFields_39 {w v x : Word} (h : fld w 24 8 = 0x39) : decodeFields w v x =
    (decA1 .drcp w) := by
  unfold decodeFields
  rw [h]
  rfl

theorem decodeFields_3C {w v x : Word} (h : fld w 24 8 = 0x3C) : decodeFields w v x =
    (decH2 .hadd2 w v) := by
  unfold decodeFields
  rw [h]
  rfl

theorem decodeFields_3D {w v x : Word} (h : fld w 24 8 = 0x3D) : decodeFields w v x =
    (decH2 .hmul2 w v) := by
  unfold decodeFields
  rw [h]
  rfl

theorem decodeFields_3E {w v x : Word} (h : fld w 24 8 = 0x3E) : decodeFields w v x =
    ((decBf (fld v 21 4)).bind fun bf =>
      keepIf (fM w == 0 && !flag v 18 && fld v 0 18 == 0)
        (.hfma2 (fU w) (fD w) (fA w) (fB w) (fC v) bf (Rnd.ofCode (fld v 19 2)))) := by
  unfold decodeFields
  rw [h]
  rfl

theorem decodeFields_40 {w v x : Word} (h : fld w 24 8 = 0x40) : decodeFields w v x =
    ((Fmt.ofCode (fld v 21 4)).bind fun df => (Fmt.ofCode (fld v 14 4)).bind fun sf =>
      keepIf (fImm9 w == 0 && fld v 25 7 == 0 && fld v 0 14 == 0)
        (.cvt (fU w) (fD w) (fA w) df sf (Rnd.ofCode (fld v 19 2)) (flag v 18))) := by
  unfold decodeFields
  rw [h]
  rfl

theorem decodeFields_41 {w v x : Word} (h : fld w 24 8 = 0x41) : decodeFields w v x =
    ((Fmt.ofCode (fld v 21 4)).bind fun sf => (decQ4 (fld v 14 4)).bind fun q4 =>
      keepIf (fM w == 0 && !flag v 18 && fld v 0 14 == 0)
        (.qnt (fU w) (fD w) (fA w) (fB w) (fC v) sf (Rnd.ofCode (fld v 19 2)) q4)) := by
  unfold decodeFields
  rw [h]
  rfl

theorem decodeFields_42 {w v x : Word} (h : fld w 24 8 = 0x42) : decodeFields w v x =
    ((Fmt.ofCode (fld v 21 4)).bind fun df => (decQ4 (fld v 14 4)).bind fun q4 =>
      keepIf (fM w == 0 && fld v 0 14 == 0)
        (.dqnt (fU w) (fD w) (fA w) (fB w) (fC v) df (Rnd.ofCode (fld v 19 2)) (flag v 18) q4)) := by
  unfold decodeFields
  rw [h]
  rfl

theorem decodeFields_48 {w v x : Word} (h : fld w 24 8 = 0x48) : decodeFields w v x =
    ((ShflMode.ofCode (fld v 21 4)).bind fun mode => (Width.ofCode (fld v 16 2)).bind fun wd =>
      keepIf (!fU w && fM w == 0 && fld v 25 7 == 0 && fld v 18 3 == 0 && fld v 0 16 == 0)
        (.shfl (fD w) (fA w) (fB w) mode wd)) := by
  unfold decodeFields
  rw [h]
  rfl

theorem decodeFields_49 {w v x : Word} (h : fld w 24 8 = 0x49) : decodeFields w v x =
    (keepIf (!fU w && fld w 9 7 == 0 && fld w 6 3 == 0)
      (.vote (fD w) (VoteMode.ofCode (fld w 4 2)) (flag w 3) (fld w 0 3))) := by
  unfold decodeFields
  rw [h]
  rfl

theorem decodeFields_4A {w v x : Word} (h : fld w 24 8 = 0x4A) : decodeFields w v x =
    ((GrOp.ofCode (fld v 21 4)).bind fun op => (GrType.ofCode (fld v 14 4)).bind fun ty =>
      keepIf (!fU w && fImm9 w == 0 && fld v 25 7 == 0 && fld v 0 14 == 0)
        (.gred (fD w) (fA w) op ty (Rnd.ofCode (fld v 19 2)) (flag v 18))) := by
  unfold decodeFields
  rw [h]
  rfl

theorem decodeFields_4B {w v x : Word} (h : fld w 24 8 = 0x4B) : decodeFields w v x =
    ((GrOp.ofCode (fld v 21 4)).bind fun op => (GrType.ofCode (fld v 14 4)).bind fun ty =>
      keepIf (!fU w && fImm9 w == 0 && fld v 25 7 == 0 && fld v 0 13 == 0)
        (.gscan (fD w) (fA w) op ty (Rnd.ofCode (fld v 19 2)) (flag v 18) (flag v 13))) := by
  unfold decodeFields
  rw [h]
  rfl

theorem decodeFields_50 {w v x : Word} (h : fld w 24 8 = 0x50) : decodeFields w v x =
    ((decMemCtl v).bind fun mc => keepIf (fld w 2 7 == 0) (.ld (fU w) (fD w) (fA w) (fM w) mc)) := by
  unfold decodeFields
  rw [h]
  rfl

theorem decodeFields_51 {w v x : Word} (h : fld w 24 8 = 0x51) : decodeFields w v x =
    ((decMemCtl v).bind fun mc =>
      keepIf (fld w 5 4 == 0) (.ldnr (fU w) (fD w) (fA w) (fld w 2 3) (fM w) mc)) := by
  unfold decodeFields
  rw [h]
  rfl

theorem decodeFields_52 {w v x : Word} (h : fld w 24 8 = 0x52) : decodeFields w v x =
    ((decMemCtl v).bind fun mc => keepIf (fImm9 w == 0) (.st (fU w) (fD w) (fA w) mc)) := by
  unfold decodeFields
  rw [h]
  rfl

theorem decodeFields_53 {w v x : Word} (h : fld w 24 8 = 0x53) : decodeFields w v x =
    ((decMemCtl v).bind fun mc =>
      keepIf (fImm9 w == 0 && fld x 16 9 == 0) (.stf (fU w) (fD w) (fA w) mc (fC x) (fld x 0 16))) := by
  unfold decodeFields
  rw [h]
  rfl

theorem decodeFields_54 {w v x : Word} (h : fld w 24 8 = 0x54) : decodeFields w v x =
    ((decAtomCtl v).bind fun mc => (AtomOp.ofCode (fld v 14 4)).map fun op =>
      .atom (fU w) (fD w) (fA w) (fB w) (fM w) op mc) := by
  unfold decodeFields
  rw [h]
  rfl

theorem decodeFields_55 {w v x : Word} (h : fld w 24 8 = 0x55) : decodeFields w v x =
    ((decAtomCtl v).bind fun mc => (AtomOp.ofCode (fld v 14 4)).bind fun op =>
      keepIf (fImm9 w == 0) (.atomn (fU w) (fD w) (fA w) op mc)) := by
  unfold decodeFields
  rw [h]
  rfl

theorem decodeFields_56 {w v x : Word} (h : fld w 24 8 = 0x56) : decodeFields w v x =
    ((decAtomCtl v).bind fun mc =>
      keepIf (fld v 14 4 == 0) (.cas (fU w) (fD w) (fA w) (fB w) (fM w) mc)) := by
  unfold decodeFields
  rw [h]
  rfl

theorem decodeFields_57 {w v x : Word} (h : fld w 24 8 = 0x57) : decodeFields w v x =
    ((Scope.ofCode (fld w 4 4)).bind fun scope =>
      keepIf (fld w 9 14 == 0 && !flag w 8 && fld w 2 2 == 0) (.fence (fU w) scope (FenceKind.ofCode (fM w)))) := by
  unfold decodeFields
  rw [h]
  rfl

theorem decodeFields_58 {w v x : Word} (h : fld w 24 8 = 0x58) : decodeFields w v x =
    ((PrefKind.ofCode (fld v 14 4)).bind fun kind =>
      keepIf (fld w 16 7 == 0 && fImm9 w == 0 && fld v 18 11 == 0)
        (.pref (fU w) (fA w) kind (Space.ofCode (fld v 29 3)) (fld v 0 14))) := by
  unfold decodeFields
  rw [h]
  rfl

theorem decodeFields_59 {w v x : Word} (h : fld w 24 8 = 0x59) : decodeFields w v x =
    ((CmntOp.ofCode (fld v 14 4)).bind fun op => (Reach.ofCode (fld v 26 3)).bind fun reach =>
      keepIf (fld w 16 7 == 0 && fImm9 w == 0 && fld v 18 8 == 0)
        (.cmnt (fU w) (fA w) op reach (Space.ofCode (fld v 29 3)) (fld v 0 14))) := by
  unfold decodeFields
  rw [h]
  rfl

theorem decodeFields_5A {w v x : Word} (h : fld w 24 8 = 0x5A) : decodeFields w v x =
    (if flag w 8 then keepIf (fld w 16 7 == 0 && fld w 0 8 == 0) (.ttagRegister (fU w) (fA w))
      else keepIf (fld w 9 14 == 0) (.ttagImmediate (fU w) (fld w 0 8))) := by
  unfold decodeFields
  rw [h]
  rfl

theorem decodeFields_5B {w v x : Word} (h : fld w 24 8 = 0x5B) : decodeFields w v x =
    ((match (fImm9 w).toNat with
        | 4 => some false
        | 5 => some true
        | _ => none).bind fun pkg => keepIf (fld w 16 7 == 0) (.tdrop (fU w) (fA w) pkg)) := by
  unfold decodeFields
  rw [h]
  rfl

theorem decodeFields_5C {w v x : Word} (h : fld w 24 8 = 0x5C) : decodeFields w v x =
    ((match (fld v 14 4).toNat with
        | 0 => some false
        | 1 => some true
        | _ => none).bind fun wr =>
      keepIf (fld w 16 7 == 0 && fM w == 0 && fld v 18 11 == 0)
        (.resq (fU w) (fA w) (fB w) wr (Space.ofCode (fld v 29 3)) (fld v 0 14))) := by
  unfold decodeFields
  rw [h]
  rfl

theorem decodeFields_60 {w v x : Word} (h : fld w 24 8 = 0x60) : decodeFields w v x =
    (keepIf (fld w 16 7 == 0 && fM w == 0 && fld v 0 25 == 0) (.sinit (fU w) (fA w) (fB w) (fC v))) := by
  unfold decodeFields
  rw [h]
  rfl

theorem decodeFields_61 {w v x : Word} (h : fld w 24 8 = 0x61) : decodeFields w v x =
    (keepIf (fld w 16 7 == 0 && fld w 1 8 == 0) (.sarv (fU w) (fA w) (flag w 0))) := by
  unfold decodeFields
  rw [h]
  rfl

theorem decodeFields_62 {w v x : Word} (h : fld w 24 8 = 0x62) : decodeFields w v x =
    (keepIf (fImm9 w == 0) (.sexp (fU w) (fD w) (fA w))) := by
  unfold decodeFields
  rw [h]
  rfl

theorem decodeFields_63 {w v x : Word} (h : fld w 24 8 = 0x63) : decodeFields w v x =
    (keepIf (fld w 16 7 == 0 && fld w 1 8 == 0) (.swait (fU w) (fA w) (flag w 0))) := by
  unfold decodeFields
  rw [h]
  rfl

theorem decodeFields_64 {w v x : Word} (h : fld w 24 8 = 0x64) : decodeFields w v x =
    (decU .tbar w) := by
  unfold decodeFields
  rw [h]
  rfl

theorem decodeFields_65 {w v x : Word} (h : fld w 24 8 = 0x65) : decodeFields w v x =
    (decU .cbar w) := by
  unfold decodeFields
  rw [h]
  rfl

theorem decodeFields_66 {w v x : Word} (h : fld w 24 8 = 0x66) : decodeFields w v x =
    (keepIf (fld w 4 19 == 0) (.garm (fU w) (fld w 0 4))) := by
  unfold decodeFields
  rw [h]
  rfl

theorem decodeFields_67 {w v x : Word} (h : fld w 24 8 = 0x67) : decodeFields w v x =
    (keepIf (fld w 16 7 == 0 && fld w 4 5 == 0) (.gset (fU w) (fA w) (fld w 0 4))) := by
  unfold decodeFields
  rw [h]
  rfl

theorem decodeFields_70 {w v x : Word} (h : fld w 24 8 = 0x70) : decodeFields w v x =
    (decB .bra w) := by
  unfold decodeFields
  rw [h]
  rfl

theorem decodeFields_71 {w v x : Word} (h : fld w 24 8 = 0x71) : decodeFields w v x =
    (some (.brc (fU w) (fld w 20 3) (flag w 19) (fld w 0 19))) := by
  unfold decodeFields
  rw [h]
  rfl

theorem decodeFields_72 {w v x : Word} (h : fld w 24 8 = 0x72) : decodeFields w v x =
    (decSA .brx w) := by
  unfold decodeFields
  rw [h]
  rfl

theorem decodeFields_73 {w v x : Word} (h : fld w 24 8 = 0x73) : decodeFields w v x =
    (decB .call w) := by
  unfold decodeFields
  rw [h]
  rfl

theorem decodeFields_74 {w v x : Word} (h : fld w 24 8 = 0x74) : decodeFields w v x =
    (decSA .callx w) := by
  unfold decodeFields
  rw [h]
  rfl

theorem decodeFields_75 {w v x : Word} (h : fld w 24 8 = 0x75) : decodeFields w v x =
    (decU .ret w) := by
  unfold decodeFields
  rw [h]
  rfl

theorem decodeFields_76 {w v x : Word} (h : fld w 24 8 = 0x76) : decodeFields w v x =
    (decU .exit w) := by
  unfold decodeFields
  rw [h]
  rfl

theorem decodeFields_77 {w v x : Word} (h : fld w 24 8 = 0x77) : decodeFields w v x =
    (keepIf (fld w 16 8 == 0) (.trap (fld w 0 16))) := by
  unfold decodeFields
  rw [h]
  rfl

theorem decodeFields_78 {w v x : Word} (h : fld w 24 8 = 0x78) : decodeFields w v x =
    (if fld w 0 24 == 0 then some .resume else if fld w 0 24 == 1 then some .resumeSkip else none) := by
  unfold decodeFields
  rw [h]
  rfl

theorem decodeFields_79 {w v x : Word} (h : fld w 24 8 = 0x79) : decodeFields w v x =
    (keepIf (fld w 16 8 == 0) (.bkpt (fld w 0 16))) := by
  unfold decodeFields
  rw [h]
  rfl

theorem decodeFields_80 {w v x : Word} (h : fld w 24 8 = 0x80) : decodeFields w v x =
    ((decEngCtl v).bind fun e => keepIf (fM w == 0 && fld v 4 3 == 0) (.cpy (fU w) (fD w) (fA w) (fB w) e)) := by
  unfold decodeFields
  rw [h]
  rfl

theorem decodeFields_81 {w v x : Word} (h : fld w 24 8 = 0x81) : decodeFields w v x =
    ((decEngCtl v).bind fun e => keepIf (fM w == 0 && fld v 4 3 == 0) (.cpym (fU w) (fD w) (fA w) (fB w) e)) := by
  unfold decodeFields
  rw [h]
  rfl

theorem decodeFields_82 {w v x : Word} (h : fld w 24 8 = 0x82) : decodeFields w v x =
    ((decEngCtl v).bind fun e =>
      keepIf (fM w == 0 && fld v 5 2 == 0) (.cpyt (fU w) (fD w) (fA w) (fB w) (flag v 4) e)) := by
  unfold decodeFields
  rw [h]
  rfl

theorem decodeFields_83 {w v x : Word} (h : fld w 24 8 = 0x83) : decodeFields w v x =
    ((decEngCtl v).bind fun e => (CredType.ofCode (fld v 4 2)).bind fun ty =>
      keepIf (fM w == 0 && !flag v 6) (.cred (fU w) (fD w) (fA w) (fB w) ty e)) := by
  unfold decodeFields
  rw [h]
  rfl

theorem decodeFields_84 {w v x : Word} (h : fld w 24 8 = 0x84) : decodeFields w v x =
    (keepIf (fld w 16 7 == 0 && fM w == 0 && fld v 18 14 == 0 && fld v 0 12 == 0)
      (.tdld (fU w) (fA w) (fB w) (Space.ofCode (fld v 15 3)) (Space.ofCode (fld v 12 3)))) := by
  unfold decodeFields
  rw [h]
  rfl

theorem decodeFields_90 {w v x : Word} (h : fld w 24 8 = 0x90) : decodeFields w v x =
    ((Fmt.ofCode (fld v 21 4)).bind fun fmt => (GroupLen.ofCode (fld v 16 2)).bind fun gl =>
      (Rows.ofCode (fld v 11 2)).bind fun rw =>
      keepIf (fU w && fld w 16 7 == 0 && fM w == 0 && fld v 18 3 == 0 && fld v 0 11 == 0)
        (.ores (fA w) (fB w) (fC v) fmt gl (fld v 13 3) rw)) := by
  unfold decodeFields
  rw [h]
  rfl

theorem decodeFields_91 {w v x : Word} (h : fld w 24 8 = 0x91) : decodeFields w v x =
    (keepIf (fU w && fld w 3 20 == 0) (.orel (fld w 0 3))) := by
  unfold decodeFields
  rw [h]
  rfl

theorem decodeFields_92 {w v x : Word} (h : fld w 24 8 = 0x92) : decodeFields w v x =
    ((decEngCtl v).bind fun e =>
      keepIf (fU w && fld w 16 7 == 0 && fM w == 0) (.mfeed (fA w) (fB w) (fld v 4 3) e)) := by
  unfold decodeFields
  rw [h]
  rfl

theorem decodeFields_93 {w v x : Word} (h : fld w 24 8 = 0x93) : decodeFields w v x =
    ((Rows.ofCode (fld v 10 2)).bind fun m => (Rows.ofCode (fld v 8 2)).bind fun n =>
      keepIf (fU w && fld w 16 7 == 0 && fM w == 0 && fld v 18 7 == 0 && fld v 0 2 == 0)
        (.mloop (fA w) (fB w) (fC v)
          { arid := fld v 15 3, brid := fld v 12 3, m := m, n := n, ak := flag v 7, bk := flag v 6,
            guard := fld v 2 4 })) := by
  unfold decodeFields
  rw [h]
  rfl

theorem decodeFields_94 {w v x : Word} (h : fld w 24 8 = 0x94) : decodeFields w v x =
    ((decEngCtl v).bind fun e =>
      keepIf (fU w && fM w == 0 && fld v 4 2 == 0) (.mdrain (fD w) (fA w) (fB w) (flag v 6) e)) := by
  unfold decodeFields
  rw [h]
  rfl

theorem decodeFields_95 {w v x : Word} (h : fld w 24 8 = 0x95) : decodeFields w v x =
    (keepIf (fU w && fld w 16 7 == 0) (.mzero (fA w) (fImm9 w))) := by
  unfold decodeFields
  rw [h]
  rfl

theorem decodeFields_96 {w v x : Word} (h : fld w 24 8 = 0x96) : decodeFields w v x =
    (keepIf (fU w && fImm9 w == 0) (.aalloc (fD w) (fA w))) := by
  unfold decodeFields
  rw [h]
  rfl

theorem decodeFields_97 {w v x : Word} (h : fld w 24 8 = 0x97) : decodeFields w v x =
    (keepIf (fU w && fld w 16 7 == 0) (.afree (fA w) (fImm9 w))) := by
  unfold decodeFields
  rw [h]
  rfl

theorem decodeFields_A0 {w v x : Word} (h : fld w 24 8 = 0xA0) : decodeFields w v x =
    (keepIf (fImm9 w == 0) (.pnew (fU w) (fD w) (fA w))) := by
  unfold decodeFields
  rw [h]
  rfl

theorem decodeFields_A1 {w v x : Word} (h : fld w 24 8 = 0xA1) : decodeFields w v x =
    (decSA .pseal w) := by
  unfold decodeFields
  rw [h]
  rfl

theorem decodeFields_A2 {w v x : Word} (h : fld w 24 8 = 0xA2) : decodeFields w v x =
    ((decEngCtl v).bind fun e => keepIf (fM w == 0 && fld v 4 3 == 0) (.post (fU w) (fD w) (fA w) (fB w) e)) := by
  unfold decodeFields
  rw [h]
  rfl

theorem decodeFields_A3 {w v x : Word} (h : fld w 24 8 = 0xA3) : decodeFields w v x =
    (keepIf (fld w 16 7 == 0 && fImm9 w == 0 && fld v 25 7 == 0 && fld v 0 12 == 0)
      (.precv (fU w) (fA w) (opndAt v 18) (Space.ofCode (fld v 15 3)) (Space.ofCode (fld v 12 3)))) := by
  unfold decodeFields
  rw [h]
  rfl

theorem decodeFields_A4 {w v x : Word} (h : fld w 24 8 = 0xA4) : decodeFields w v x =
    (decSA .pwait w) := by
  unfold decodeFields
  rw [h]
  rfl

theorem decodeFields_A5 {w v x : Word} (h : fld w 24 8 = 0xA5) : decodeFields w v x =
    (decSA .pfree w) := by
  unfold decodeFields
  rw [h]
  rfl

theorem decodeFields_A6 {w v x : Word} (h : fld w 24 8 = 0xA6) : decodeFields w v x =
    ((decMemCtl v).bind fun mc => keepIf (fld w 2 7 == 0) (.pld (fU w) (fD w) (fA w) (fM w) mc)) := by
  unfold decodeFields
  rw [h]
  rfl

theorem decodeFields_A7 {w v x : Word} (h : fld w 24 8 = 0xA7) : decodeFields w v x =
    ((decMemCtl v).bind fun mc => keepIf (fImm9 w == 0) (.pst (fU w) (fD w) (fA w) mc)) := by
  unfold decodeFields
  rw [h]
  rfl

theorem decodeFields_A8 {w v x : Word} (h : fld w 24 8 = 0xA8) : decodeFields w v x =
    ((decMemCtl v).bind fun mc => keepIf (fld w 2 7 == 0) (.pldr (fU w) (fD w) (fA w) (fM w) mc)) := by
  unfold decodeFields
  rw [h]
  rfl

theorem decodeFields_A9 {w v x : Word} (h : fld w 24 8 = 0xA9) : decodeFields w v x =
    ((decMemCtl v).bind fun mc => keepIf (fImm9 w == 0) (.pstr (fU w) (fD w) (fA w) mc)) := by
  unfold decodeFields
  rw [h]
  rfl

theorem decodeFields_AA {w v x : Word} (h : fld w 24 8 = 0xAA) : decodeFields w v x =
    (decA .padd w) := by
  unfold decodeFields
  rw [h]
  rfl

theorem decodeFields_AB {w v x : Word} (h : fld w 24 8 = 0xAB) : decodeFields w v x =
    (keepIf (fld w 2 7 == 0) (.pqry (fU w) (fD w) (fA w) (fM w))) := by
  unfold decodeFields
  rw [h]
  rfl

theorem decodeFields_B0 {w v x : Word} (h : fld w 24 8 = 0xB0) : decodeFields w v x =
    ((decEngCtl v).bind fun e =>
      keepIf (fld w 16 7 == 0 && fM w == 0 && fld v 4 3 == 0) (.jpost (fU w) (fA w) (fB w) e)) := by
  unfold decodeFields
  rw [h]
  rfl

theorem decodeFields_C0 {w v x : Word} (h : fld w 24 8 = 0xC0) : decodeFields w v x =
    (keepIf (fld w 9 7 == 0) (.gets (fU w) (fD w) (fImm9 w))) := by
  unfold decodeFields
  rw [h]
  rfl

theorem decodeFields_C1 {w v x : Word} (h : fld w 24 8 = 0xC1) : decodeFields w v x =
    (keepIf (fld w 16 7 == 0) (.sets (fU w) (fA w) (fImm9 w))) := by
  unfold decodeFields
  rw [h]
  rfl

theorem decodeFields_C2 {w v x : Word} (h : fld w 24 8 = 0xC2) : decodeFields w v x =
    (decU .mrst w) := by
  unfold decodeFields
  rw [h]
  rfl

theorem decode_ok {w v x : Word} {i : Instr} (h : (fld w 28 4 == 0xF) = false) (hk : opcodeKnown (fld w 24 8) = true)
    (hd : decodeFields w v x = some i) (hf : i.formOk = true) : decode w v x = .ok i := by
  simp only [decode, h, hk, hd, hf, if_true, if_false, Bool.false_eq_true]

end Sys2Proof
end

