-- ==== Sys2Proof/Laws/Equations.lean ====
section
/-!
SUPPORT. The shared shape that each register instruction's meaning has: a value and flags (`execAlu`), predicates and flags
(`execPred`), or a value that depends on every lane (`execGroupAlu`).
-/
namespace Sys2Proof.Machine

theorem exec_iadd (u : Bool) (d a b : Opnd) (w : Width) (s : State) :
    exec (.iadd u d a b w) s =
    execAlu (.iadd u d a b w) d w.regs (fun t => (t.regN a w.regs + t.regN b w.regs, 0)) s := rfl

theorem exec_isub (u : Bool) (d a b : Opnd) (w : Width) (s : State) :
    exec (.isub u d a b w) s =
    execAlu (.isub u d a b w) d w.regs
      (fun t => (t.regN a w.regs + (2 ^ bitsOfRegs w.regs - t.regN b w.regs), 0)) s := rfl

theorem exec_iaddi (u : Bool) (d a : Opnd) (imm : BitVec 9) (s : State) :
    exec (.iaddi u d a imm) s =
    execAlu (.iaddi u d a imm) d 1 (fun t => ((t.reg a + imm.signExtend 32).toNat, 0)) s := rfl

theorem exec_iabs (u : Bool) (d a : Opnd) (w : Width) (s : State) :
    exec (.iabs u d a w) s =
    execAlu (.iabs u d a w) d w.regs (fun t => ((signedOf (bitsOfRegs w.regs) (t.regN a w.regs)).natAbs, 0)) s := rfl

theorem exec_imin (u : Bool) (d a b : Opnd) (ty : IntType) (s : State) :
    exec (.imin u d a b ty) s =
    execAlu (.imin u d a b ty) d ty.regs
      (fun t => (if t.int ty a ≤ t.int ty b then t.regN a ty.regs else t.regN b ty.regs, 0)) s := rfl

theorem exec_imax (u : Bool) (d a b : Opnd) (ty : IntType) (s : State) :
    exec (.imax u d a b ty) s =
    execAlu (.imax u d a b ty) d ty.regs
      (fun t => (if t.int ty a ≤ t.int ty b then t.regN b ty.regs else t.regN a ty.regs, 0)) s := rfl

theorem exec_imul (u : Bool) (d a b : Opnd) (form : MulForm) (s : State) :
    exec (.imul u d a b form) s =
    execAlu (.imul u d a b form) d form.regs (fun t => (mulValue form (t.regN a form.regs) (t.regN b form.regs), 0)) s := rfl

theorem exec_imad (u : Bool) (d a b c : Opnd) (ty : IntType) (sat : Bool) (s : State) :
    exec (.imad u d a b c ty sat) s =
    execAlu (.imad u d a b c ty sat) d ty.regs
      (fun t => narrow (typeBits ty) (signedType ty) sat (t.int ty a * t.int ty b + t.int ty c)) s := rfl

theorem exec_idiv (u : Bool) (d a b : Opnd) (ty : IntType) (s : State) :
    exec (.idiv u d a b ty) s =
    execAlu (.idiv u d a b ty) d ty.regs
      (fun t => intDiv (typeBits ty) (signedType ty) (t.regN a ty.regs) (t.regN b ty.regs)) s := rfl

theorem exec_irem (u : Bool) (d a b : Opnd) (ty : IntType) (s : State) :
    exec (.irem u d a b ty) s =
    execAlu (.irem u d a b ty) d ty.regs
      (fun t => intRem (typeBits ty) (signedType ty) (t.regN a ty.regs) (t.regN b ty.regs)) s := rfl

theorem exec_and (u : Bool) (d a b : Opnd) (w : Width) (s : State) :
    exec (.and u d a b w) s =
    execAlu (.and u d a b w) d w.regs (fun t => (t.regN a w.regs &&& t.regN b w.regs, 0)) s := rfl

theorem exec_or (u : Bool) (d a b : Opnd) (w : Width) (s : State) :
    exec (.or u d a b w) s =
    execAlu (.or u d a b w) d w.regs (fun t => (t.regN a w.regs ||| t.regN b w.regs, 0)) s := rfl

theorem exec_xor (u : Bool) (d a b : Opnd) (w : Width) (s : State) :
    exec (.xor u d a b w) s =
    execAlu (.xor u d a b w) d w.regs (fun t => (t.regN a w.regs ^^^ t.regN b w.regs, 0)) s := rfl

theorem exec_shl (u : Bool) (d a n : Opnd) (w : Width) (s : State) :
    exec (.shl u d a n w) s =
    execAlu (.shl u d a n w) d w.regs
      (fun t => (shlValue (bitsOfRegs w.regs) (t.regN a w.regs) (t.reg n).toNat, 0)) s := rfl

theorem exec_shr (u : Bool) (d a n : Opnd) (w : Width) (s : State) :
    exec (.shr u d a n w) s =
    execAlu (.shr u d a n w) d w.regs
      (fun t => (shrValue (bitsOfRegs w.regs) (t.regN a w.regs) (t.reg n).toNat, 0)) s := rfl

theorem exec_sar (u : Bool) (d a n : Opnd) (w : Width) (s : State) :
    exec (.sar u d a n w) s =
    execAlu (.sar u d a n w) d w.regs
      (fun t => (sarValue (bitsOfRegs w.regs) (t.regN a w.regs) (t.reg n).toNat, 0)) s := rfl

theorem exec_rol (u : Bool) (d a n : Opnd) (w : Width) (s : State) :
    exec (.rol u d a n w) s =
    execAlu (.rol u d a n w) d w.regs
      (fun t => (rolValue (bitsOfRegs w.regs) (t.regN a w.regs) (t.reg n).toNat, 0)) s := rfl

theorem exec_brev (u : Bool) (d a : Opnd) (w : Width) (s : State) :
    exec (.brev u d a w) s =
    execAlu (.brev u d a w) d w.regs (fun t => (reverseBits (bitsOfRegs w.regs) (t.regN a w.regs), 0)) s := rfl

theorem exec_clz (u : Bool) (d a : Opnd) (w : Width) (s : State) :
    exec (.clz u d a w) s =
    execAlu (.clz u d a w) d 1 (fun t => (leadingZeros (bitsOfRegs w.regs) (t.regN a w.regs), 0)) s := rfl

theorem exec_popc (u : Bool) (d a : Opnd) (w : Width) (s : State) :
    exec (.popc u d a w) s =
    execAlu (.popc u d a w) d 1 (fun t => (popcount (bitsOfRegs w.regs) (t.regN a w.regs), 0)) s := rfl

theorem exec_bfx (u : Bool) (d a ctl : Opnd) (ty : IntType) (s : State) :
    exec (.bfx u d a ctl ty) s =
    execAlu (.bfx u d a ctl ty) d ty.regs
      (fun t => (bfxValue (typeBits ty) (signedType ty) (t.regN a ty.regs) (t.reg ctl).toNat, 0)) s := rfl

theorem exec_bfi (u : Bool) (d a b ctl : Opnd) (w : Width) (s : State) :
    exec (.bfi u d a b ctl w) s =
    execAlu (.bfi u d a b ctl w) d w.regs
      (fun t => (bfiValue (bitsOfRegs w.regs) (t.regN a w.regs) (t.regN b w.regs) (t.reg ctl).toNat, 0)) s := rfl

theorem exec_mov (u : Bool) (d a : Opnd) (w : MovWidth) (s : State) :
    exec (.mov u d a w) s =
    execAlu (.mov u d a w) d w.regs (fun t => (t.regN a w.regs, 0)) s := rfl

theorem exec_movi (u : Bool) (d : Opnd) (imm : BitVec 16) (s : State) :
    exec (.movi u d imm) s =
    execAlu (.movi u d imm) d 1 (fun _ => (imm.toNat, 0)) s := rfl

theorem exec_movh (u : Bool) (d : Opnd) (imm : BitVec 16) (s : State) :
    exec (.movh u d imm) s =
    execAlu (.movh u d imm) d 1 (fun t => (imm.toNat * 2 ^ 16 + (t.reg d).toNat % 2 ^ 16, 0)) s := rfl

theorem exec_sel (u : Bool) (d a b : Opnd) (p : BitVec 3) (neg : Bool) (w : MovWidth) (s : State) :
    exec (.sel u d a b p neg w) s =
    execAlu (.sel u d a b p neg w) d w.regs
      (fun t => (if t.pred p != neg then t.regN a w.regs else t.regN b w.regs, 0)) s := rfl

theorem exec_icmp (u : Bool) (cond : Cond) (p : BitVec 3) (a b : Opnd) (w : Width) (s : State) :
    exec (.icmp u cond p a b w) s =
    execPred (.icmp u cond p a b w)
      (fun t => (fun x => x.setPred p (Sys2Proof.Machine.Cond.intHolds cond (bitsOfRegs w.regs) (t.regN a w.regs)
        (t.regN b w.regs)), 0)) s := rfl

theorem exec_plop (u : Bool) (pd pa pb : BitVec 3) (lut : BitVec 4) (s : State) :
    exec (.plop u pd pa pb lut) s =
    execPred (.plop u pd pa pb lut)
      (fun t => (fun x => x.setPred pd (lut.getLsbD ((if t.pred pa then 2 else 0) + if t.pred pb then 1 else 0)), 0)) s := rfl

theorem exec_pmovPack (u : Bool) (d : Opnd) (s : State) :
    exec (.pmovPack u d) s =
    execAlu (.pmovPack u d) d 1 (fun t => (t.p.toNat, 0)) s := rfl

theorem exec_pmovUnpack (u : Bool) (a : Opnd) (mask : BitVec 8) (s : State) :
    exec (.pmovUnpack u a mask) s =
    execPred (.pmovUnpack u a mask)
      (fun t => (fun x => { x with p := (x.p &&& ~~~ mask) ||| ((t.reg a).setWidth 8 &&& mask) }, 0)) s := rfl

theorem exec_fadd (u : Bool) (d a b : Opnd) (rnd : Rnd) (s : State) :
    exec (.fadd u d a b rnd) s =
    execAlu (.fadd u d a b rnd) d 1 (fun t => fp32.add rnd (t.v32 a) (t.v32 b)) s := rfl

theorem exec_fsub (u : Bool) (d a b : Opnd) (rnd : Rnd) (s : State) :
    exec (.fsub u d a b rnd) s =
    execAlu (.fsub u d a b rnd) d 1 (fun t => fp32.sub rnd (t.v32 a) (t.v32 b)) s := rfl

theorem exec_fmul (u : Bool) (d a b : Opnd) (rnd : Rnd) (s : State) :
    exec (.fmul u d a b rnd) s =
    execAlu (.fmul u d a b rnd) d 1 (fun t => fp32.mul rnd (t.v32 a) (t.v32 b)) s := rfl

theorem exec_fdiv (u : Bool) (d a b : Opnd) (rnd : Rnd) (s : State) :
    exec (.fdiv u d a b rnd) s =
    execAlu (.fdiv u d a b rnd) d 1 (fun t => fp32.div rnd (t.v32 a) (t.v32 b)) s := rfl

theorem exec_fmin (u : Bool) (d a b : Opnd) (s : State) :
    exec (.fmin u d a b) s =
    execAlu (.fmin u d a b) d 1 (fun t => fp32.minmax false (t.f32 a) (t.f32 b)) s := rfl

theorem exec_fmax (u : Bool) (d a b : Opnd) (s : State) :
    exec (.fmax u d a b) s =
    execAlu (.fmax u d a b) d 1 (fun t => fp32.minmax true (t.f32 a) (t.f32 b)) s := rfl

theorem exec_ffma (u : Bool) (d a b c : Opnd) (rnd : Rnd) (s : State) :
    exec (.ffma u d a b c rnd) s =
    execAlu (.ffma u d a b c rnd) d 1 (fun t => fp32.fma rnd (t.v32 a) (t.v32 b) (t.v32 c)) s := rfl

theorem exec_fsqrt (u : Bool) (d a : Opnd) (rnd : Rnd) (s : State) :
    exec (.fsqrt u d a rnd) s =
    execAlu (.fsqrt u d a rnd) d 1 (fun t => fp32.sqrt rnd (t.v32 a)) s := rfl

theorem exec_frcp (u : Bool) (d a : Opnd) (s : State) :
    exec (.frcp u d a) s =
    execAlu (.frcp u d a) d 1 (fun t => fp32.recip (t.v32 a)) s := rfl

theorem exec_frsq (u : Bool) (d a : Opnd) (s : State) :
    exec (.frsq u d a) s =
    execAlu (.frsq u d a) d 1 (fun t => fp32.rsqrt (t.v32 a)) s := rfl

theorem exec_fex2 (u : Bool) (d a : Opnd) (s : State) :
    exec (.fex2 u d a) s =
    execAlu (.fex2 u d a) d 1 (fun t => fexp2 (t.v32 a)) s := rfl

theorem exec_flg2 (u : Bool) (d a : Opnd) (s : State) :
    exec (.flg2 u d a) s =
    execAlu (.flg2 u d a) d 1 (fun t => flog2 (t.v32 a)) s := rfl

theorem exec_fsin (u : Bool) (d a : Opnd) (s : State) :
    exec (.fsin u d a) s =
    execAlu (.fsin u d a) d 1 (fun t => ftrig false (t.v32 a)) s := rfl

theorem exec_fcos (u : Bool) (d a : Opnd) (s : State) :
    exec (.fcos u d a) s =
    execAlu (.fcos u d a) d 1 (fun t => ftrig true (t.v32 a)) s := rfl

theorem exec_fcmp (u : Bool) (cond : Cond) (p : BitVec 3) (a b : Opnd) (s : State) :
    exec (.fcmp u cond p a b) s =
    execPred (.fcmp u cond p a b)
      (fun t => (fun x => x.setPred p (fp32.compare cond (t.f32 a) (t.f32 b)).1,
        (fp32.compare cond (t.f32 a) (t.f32 b)).2)) s := rfl

theorem exec_fcls (u : Bool) (d a : Opnd) (w : Width) (s : State) :
    exec (.fcls u d a w) s =
    execAlu (.fcls u d a w) d 1 (fun t =>
      (2 ^ (match w with
        | .w32 => fp32.classOf (t.f32 a)
        | .w64 => fp64.classOf (t.f64 a)), 0)) s := rfl

theorem exec_dadd (u : Bool) (d a b : Opnd) (rnd : Rnd) (s : State) :
    exec (.dadd u d a b rnd) s =
    execAlu (.dadd u d a b rnd) d 2 (fun t => fp64.add rnd (t.v64 a) (t.v64 b)) s := rfl

theorem exec_dsub (u : Bool) (d a b : Opnd) (rnd : Rnd) (s : State) :
    exec (.dsub u d a b rnd) s =
    execAlu (.dsub u d a b rnd) d 2 (fun t => fp64.sub rnd (t.v64 a) (t.v64 b)) s := rfl

theorem exec_dmul (u : Bool) (d a b : Opnd) (rnd : Rnd) (s : State) :
    exec (.dmul u d a b rnd) s =
    execAlu (.dmul u d a b rnd) d 2 (fun t => fp64.mul rnd (t.v64 a) (t.v64 b)) s := rfl

theorem exec_ddiv (u : Bool) (d a b : Opnd) (rnd : Rnd) (s : State) :
    exec (.ddiv u d a b rnd) s =
    execAlu (.ddiv u d a b rnd) d 2 (fun t => fp64.div rnd (t.v64 a) (t.v64 b)) s := rfl

theorem exec_dmin (u : Bool) (d a b : Opnd) (s : State) :
    exec (.dmin u d a b) s =
    execAlu (.dmin u d a b) d 2 (fun t => fp64.minmax false (t.f64 a) (t.f64 b)) s := rfl

theorem exec_dmax (u : Bool) (d a b : Opnd) (s : State) :
    exec (.dmax u d a b) s =
    execAlu (.dmax u d a b) d 2 (fun t => fp64.minmax true (t.f64 a) (t.f64 b)) s := rfl

theorem exec_dfma (u : Bool) (d a b c : Opnd) (rnd : Rnd) (s : State) :
    exec (.dfma u d a b c rnd) s =
    execAlu (.dfma u d a b c rnd) d 2 (fun t => fp64.fma rnd (t.v64 a) (t.v64 b) (t.v64 c)) s := rfl

theorem exec_dsqrt (u : Bool) (d a : Opnd) (rnd : Rnd) (s : State) :
    exec (.dsqrt u d a rnd) s =
    execAlu (.dsqrt u d a rnd) d 2 (fun t => fp64.sqrt rnd (t.v64 a)) s := rfl

theorem exec_drcp (u : Bool) (d a : Opnd) (s : State) :
    exec (.drcp u d a) s =
    execAlu (.drcp u d a) d 2 (fun t => fp64.recip (t.v64 a)) s := rfl

theorem exec_dcmp (u : Bool) (cond : Cond) (p : BitVec 3) (a b : Opnd) (s : State) :
    exec (.dcmp u cond p a b) s =
    execPred (.dcmp u cond p a b)
      (fun t => (fun x => x.setPred p (fp64.compare cond (t.f64 a) (t.f64 b)).1,
        (fp64.compare cond (t.f64 a) (t.f64 b)).2)) s := rfl

theorem exec_hadd2 (u : Bool) (d a b : Opnd) (bf : Bool) (rnd : Rnd) (s : State) :
    exec (.hadd2 u d a b bf rnd) s =
    execAlu (.hadd2 u d a b bf rnd) d 1 (fun t =>
      let f := packedFmt bf
      let x := t.halves f a
      let y := t.halves f b
      packHalves (f.add rnd x.1 y.1) (f.add rnd x.2 y.2)) s := rfl

theorem exec_hmul2 (u : Bool) (d a b : Opnd) (bf : Bool) (rnd : Rnd) (s : State) :
    exec (.hmul2 u d a b bf rnd) s =
    execAlu (.hmul2 u d a b bf rnd) d 1 (fun t =>
      let f := packedFmt bf
      let x := t.halves f a
      let y := t.halves f b
      packHalves (f.mul rnd x.1 y.1) (f.mul rnd x.2 y.2)) s := rfl

theorem exec_hfma2 (u : Bool) (d a b c : Opnd) (bf : Bool) (rnd : Rnd) (s : State) :
    exec (.hfma2 u d a b c bf rnd) s =
    execAlu (.hfma2 u d a b c bf rnd) d 1 (fun t =>
      let f := packedFmt bf
      let x := t.halves f a
      let y := t.halves f b
      let z := t.halves f c
      packHalves (f.fma rnd x.1 y.1 z.1) (f.fma rnd x.2 y.2 z.2)) s := rfl

theorem exec_cvt (u : Bool) (d a : Opnd) (df sf : Fmt) (rnd : Rnd) (sat : Bool) (s : State) :
    exec (.cvt u d a df sf rnd sat) s =
    execAlu (.cvt u d a df sf rnd sat) d df.regs (fun t =>
      let v := convert df sf rnd sat (t.fmtBits sf a)
      (placeFmt df v.1, v.2)) s := rfl

theorem exec_qnt (u : Bool) (d x sc z : Opnd) (sf : Fmt) (rnd : Rnd) (q4 : Bool) (s : State) :
    exec (.qnt u d x sc z sf rnd q4) s =
    execAlu (.qnt u d x sc z sf rnd q4) d 1 (fun t =>
      match fmtLayout sf with
      | some l =>
          quantise (codeBits q4) rnd (l.read (t.fmtBits sf x)) (t.scale sc) ((t.reg z).toNat % 2 ^ codeBits q4)
      | none => (0, 0)) s := rfl

theorem exec_dqnt (u : Bool) (d q sc z : Opnd) (df : Fmt) (rnd : Rnd) (sat q4 : Bool) (s : State) :
    exec (.dqnt u d q sc z df rnd sat q4) s =
    execAlu (.dqnt u d q sc z df rnd sat q4) d df.regs (fun t =>
      match fmtLayout df with
      | some l =>
          dequantise l rnd sat ((t.reg q).toNat % 2 ^ codeBits q4) (t.scale sc) ((t.reg z).toNat % 2 ^ codeBits q4)
      | none => (0, 0)) s := rfl

theorem exec_gred (d a : Opnd) (op : GrOp) (ty : GrType) (rnd : Rnd) (sat : Bool) (s : State) :
    exec (.gred d a op ty rnd sat) s =
    execGroupAlu (.gred d a op ty rnd sat) d ty.regs
      (fun ls _ => reduce op ty rnd sat (ls.map fun t => t.grBits ty a)) s := rfl

theorem exec_gscan (d a : Opnd) (op : GrOp) (ty : GrType) (rnd : Rnd) (sat ex : Bool) (s : State) :
    exec (.gscan d a op ty rnd sat ex) s =
    execGroupAlu (.gscan d a op ty rnd sat ex) d ty.regs
      (fun ls th =>
        let before := ls.filter fun t => decide (t.lane < th.lane) || (!ex && decide (t.lane = th.lane))
        reduce op ty rnd sat (before.map fun t => t.grBits ty a)) s := rfl

theorem exec_shfl (d a b : Opnd) (mode : ShflMode) (w : Width) (s : State) :
    exec (.shfl d a b mode w) s =
    execGroupAlu (.shfl d a b mode w) d w.regs
      (fun ls th =>
        match ls.find? fun t => t.lane = shflLane mode th.lane (th.reg b) with
        | some t => (t.regN a w.regs, 0)
        | none => (th.regN a w.regs, 0)) s := rfl

theorem exec_vote (d : Opnd) (mode : VoteMode) (neg : Bool) (p : BitVec 3) (s : State) :
    exec (.vote d mode neg p) s =
    execGroupAlu (.vote d mode neg p) d 1
      (fun ls _ => (voteValue mode (ls.map fun t => (t.lane, t.pred p != neg)), 0)) s := rfl

end Sys2Proof.Machine
end

