-- ==== Sys2Proof/Laws/MemOk.lean ====
section
/-!
SUPPORT. Every memory stays in canonical form: `MemOk s` is what `MemoriesCanonical s` says, and for each shared operation of
Machine/Ops, Walk, Exec and Flags one lemma says that it keeps it. The later MemOk files say the same of the other operations.
-/
namespace Sys2Proof.Machine

/-- What `MemoriesCanonical` says of a state, of the five fields that hold memories. -/
def MemCanon (pool host : Memory) (teams : List Team) (cores : List (CoreId × Core)) (ctx : List Context) : Prop :=
  pool.wf = true ∧ host.wf = true ∧ (∀ t ∈ teams, t.spad.wf = true) ∧ (∀ c ∈ cores, c.2.acc.wf = true) ∧
    ∀ x ∈ ctx, ∀ t ∈ x.teams, t.spad.wf = true

/-- Every memory of the state is in canonical form. -/
abbrev MemOk (s : State) : Prop := MemCanon s.pool s.host s.teams s.cores s.contexts
/-- So is every state that the operation answers. -/
def OptMemOk (o : Option State) : Prop := ∀ t, o = some t → MemOk t
/-- So is the state beside every value that the operation answers. -/
def PairMemOk {α : Type} (o : Option (State × α)) : Prop := ∀ t, o = some t → MemOk t.1
/-- So is every next state. -/
def OutMemOk (o : Out) : Prop := ∀ t, o = .next t → MemOk t
/-- The body of an instruction keeps it. -/
def BodyMemOk (b : Body) : Prop := ∀ s th tids, MemOk s → MemOk (b s th tids).1

/-- So is the state of whatever comes of the need for some data. -/
def FillMemOk {α : Type} (f : Fill α) : Prop := (∀ s x, f = .got s x → MemOk s) ∧ ∀ s, f = .wait s → MemOk s

theorem memOk_ofPair {α : Type} {p : State × α} {s : State} {x : α} (e : p = (s, x)) (h : MemOk p.1) : MemOk s := by subst e; exact h
theorem memOk_ofSome {o : Option State} {s : State} (e : o = some s) (h : OptMemOk o) : MemOk s := h s e
theorem memOk_ofSome1 {α : Type} {o : Option (State × α)} {s : State} {x : α} (e : o = some (s, x)) (h : PairMemOk o) : MemOk s := h _ e
theorem memOk_ofSome2 {α : Type} {o : Option (State × α)} {s : State × α} (e : o = some s) (h : PairMemOk o) : MemOk s.1 := h _ e
theorem optMemOk_none : OptMemOk none := fun _ h => by cases h
theorem optMemOk_some {s : State} (h : MemOk s) : OptMemOk (some s) := fun _ e => by cases e; exact h
theorem pairMemOk_none {α : Type} : PairMemOk (none : Option (State × α)) := fun _ h => by cases h
theorem pairMemOk_some {α : Type} {p : State × α} (h : MemOk p.1) : PairMemOk (some p) := fun _ e => by cases e; exact h
theorem outMemOk_next {s : State} (h : MemOk s) : OutMemOk (.next s) := fun _ e => by cases e; exact h
theorem outMemOk_event {s : State} (h : MemOk s) : OutMemOk (event s) := fun _ e => by cases e; exact h
theorem outMemOk_fault {r : Fault} : OutMemOk (.fault r) := fun _ e => by cases e
theorem outMemOk_refused {r : Refusal} : OutMemOk (.refused r) := fun _ e => by cases e
theorem memOk_ofGot {α : Type} {f : Fill α} {s : State} {x : α} (e : f = .got s x) (h : FillMemOk f) : MemOk s := h.1 s x e
theorem memOk_ofWait {α : Type} {f : Fill α} {s : State} (e : f = .wait s) (h : FillMemOk f) : MemOk s := h.2 s e
theorem fillMemOk_got {α : Type} {s : State} {x : α} (h : MemOk s) : FillMemOk (.got s x) :=
  ⟨fun _ _ e => (by cases e; exact h), fun _ e => (by cases e)⟩
theorem fillMemOk_wait {α : Type} {s : State} (h : MemOk s) : FillMemOk (.wait s : Fill α) :=
  ⟨fun _ _ e => (by cases e), fun _ e => (by cases e; exact h)⟩
theorem fillMemOk_dead {α : Type} : FillMemOk (.dead : Fill α) := ⟨fun _ _ e => (by cases e), fun _ e => (by cases e)⟩
theorem memOk_cut {P Q : Prop} (hp : P) (hq : P → Q) : Q := hq hp
theorem memOk_foldl {α : Type} {f : State → α → State} {s : State} {xs : List α} (hf : ∀ s x, MemOk s → MemOk (f s x)) (h : MemOk s) :
    MemOk (xs.foldl f s) := by
  induction xs generalizing s with
  | nil => exact h
  | cons x xs ih => exact ih (hf s x h)
theorem memOk_foldlPair {α β : Type} {f : State × β → α → State × β} {s : State × β} {xs : List α}
    (hf : ∀ s x, MemOk s.1 → MemOk (f s x).1) (h : MemOk s.1) : MemOk (xs.foldl f s).1 := by
  induction xs generalizing s with
  | nil => exact h
  | cons x xs ih => exact ih (hf s x h)
theorem memOk_onTeam {s : State} {i : TeamId} {f : Team → Team} (hf : ∀ x, x.spad.wf = true → (f x).spad.wf = true) (h : MemOk s) :
    MemOk (s.onTeam i f) := by
  obtain ⟨h1, h2, h3, h4, h5⟩ := h
  refine ⟨h1, h2, ?_, h4, h5⟩
  intro x hx
  simp only [State.onTeam, List.mem_map] at hx
  obtain ⟨y, hy, rfl⟩ := hx
  split
  · exact hf y (h3 y hy)
  · exact h3 y hy
theorem wf_coreAcc {s : State} (h : MemOk s) (i : CoreId) : (s.core i).acc.wf = true := by
  unfold State.core
  split
  · rename_i c hc; exact h.2.2.2.1 _ (List.mem_of_find?_eq_some hc)
  · rfl
theorem memOk_onCore {s : State} {i : CoreId} {f : Core → Core} (hf : ∀ x, x.acc.wf = true → (f x).acc.wf = true) (h : MemOk s) :
    MemOk (s.onCore i f) := by
  obtain ⟨h1, h2, h3, h4, h5⟩ := id h
  refine ⟨h1, h2, h3, ?_, h5⟩
  intro x hx
  simp only [State.onCore, List.mem_cons, List.mem_filter] at hx
  rcases hx with rfl | ⟨hx, _⟩
  · exact hf _ (wf_coreAcc h i)
  · exact h4 x hx
theorem wf_spill {t : Team} {tid : Nat} {b : Addr} (h : t.spad.wf = true) : (t.spill tid b).spad.wf = true := Memory.wf_setN h _ _
theorem wf_freeEntry {t : Team} {e : Nat} (h : t.spad.wf = true) : (t.freeEntry e).spad.wf = true := Memory.wf_set h _ _
theorem wf_freeOwn {t : Team} {e tid : Nat} (h : t.spad.wf = true) : (t.freeOwn e tid).spad.wf = true := by
  unfold Team.freeOwn
  split
  · exact wf_freeEntry h
  · exact h
theorem memCanon_pool {pool pool' host ts cs cx} (hp : pool.wf = true → pool'.wf = true) (h : MemCanon pool host ts cs cx) :
    MemCanon pool' host ts cs cx := ⟨hp h.1, h.2⟩
theorem memCanon_host {pool host host' ts cs cx} (hp : host.wf = true → host'.wf = true) (h : MemCanon pool host ts cs cx) :
    MemCanon pool host' ts cs cx := ⟨h.1, hp h.2.1, h.2.2⟩
theorem memCanon_pool_line {pool host ts cs cx} {n : Nat} {l : Line} (h : MemCanon pool host ts cs cx) :
    MemCanon (pool.setLine n l) host ts cs cx := memCanon_pool (fun hw => Memory.wf_setLine hw _ _) h
theorem memCanon_pool_setN {pool host ts cs cx} {n : Nat} {l : List Byte} (h : MemCanon pool host ts cs cx) :
    MemCanon (pool.setN n l) host ts cs cx := memCanon_pool (fun hw => Memory.wf_setN hw _ _) h
theorem memCanon_host_line {pool host ts cs cx} {n : Nat} {l : Line} (h : MemCanon pool host ts cs cx) :
    MemCanon pool (host.setLine n l) ts cs cx := memCanon_host (fun hw => Memory.wf_setLine hw _ _) h
theorem memCanon_filterTeams {pool host ts cs cx} {p : Team → Bool} (h : MemCanon pool host ts cs cx) :
    MemCanon pool host (ts.filter p) cs cx := ⟨h.1, h.2.1, fun t ht => h.2.2.1 t (List.mem_filter.mp ht).1, h.2.2.2⟩
theorem memCanon_filterCores {pool host ts cs cx} {p : CoreId × Core → Bool} (h : MemCanon pool host ts cs cx) :
    MemCanon pool host ts (cs.filter p) cx := ⟨h.1, h.2.1, h.2.2.1, fun t ht => h.2.2.2.1 t (List.mem_filter.mp ht).1, h.2.2.2.2⟩
theorem memCanon_filterContexts {pool host ts cs cx} {p : Context → Bool} (h : MemCanon pool host ts cs cx) :
    MemCanon pool host ts cs (cx.filter p) := ⟨h.1, h.2.1, h.2.2.1, h.2.2.2.1, fun t ht => h.2.2.2.2 t (List.mem_filter.mp ht).1⟩
theorem bodyMemOk_at {b : Body} {s : State} {th : Thread} {tids : List Nat} (hb : BodyMemOk b) (h : MemOk s) : MemOk (b s th tids).1 := hb s th tids h
theorem memOk_id {s : State} (h : MemOk s) : MemOk (id s) := h
theorem memCanon_addTeam {pool host ts cs cx} {t : Team} (ht : t.spad.wf = true) (h : MemCanon pool host ts cs cx) :
    MemCanon pool host (ts ++ [t]) cs cx :=
  ⟨h.1, h.2.1, fun x hx => by
    rcases List.mem_append.mp hx with hx | hx
    · exact h.2.2.1 x hx
    · rw [List.mem_singleton] at hx; subst hx; exact ht, h.2.2.2⟩
theorem memCanon_putTeam {pool host ts cs cx} {t : Team} (ht : t.spad.wf = true) (h : MemCanon pool host ts cs cx) :
    MemCanon pool host (t :: ts) cs cx :=
  ⟨h.1, h.2.1, fun x hx => by
    rcases List.mem_cons.mp hx with rfl | hx
    · exact ht
    · exact h.2.2.1 x hx, h.2.2.2⟩
theorem memCanon_mapTeams {pool host ts cs cx} {f : Team → Team} (hf : ∀ t, (f t).spad = t.spad) (h : MemCanon pool host ts cs cx) :
    MemCanon pool host (ts.map f) cs cx :=
  ⟨h.1, h.2.1, fun x hx => by
    obtain ⟨t, ht, rfl⟩ := List.mem_map.mp hx
    rw [hf]; exact h.2.2.1 t ht, h.2.2.2⟩
theorem memCanon_addContext {pool host ts cs cx} {x : Context} (hx : ∀ t ∈ x.teams, t.spad.wf = true) (h : MemCanon pool host ts cs cx) :
    MemCanon pool host ts cs (cx ++ [x]) :=
  ⟨h.1, h.2.1, h.2.2.1, h.2.2.2.1, fun y hy => by
    rcases List.mem_append.mp hy with hy | hy
    · exact h.2.2.2.2 y hy
    · rw [List.mem_singleton] at hy; subst hy; exact hx⟩
theorem memOk_foldlMem {α : Type} {f : State → α → State} {xs : List α} {s : State} (hf : ∀ s, ∀ x ∈ xs, MemOk s → MemOk (f s x)) (h : MemOk s) :
    MemOk (xs.foldl f s) := by
  induction xs generalizing s with
  | nil => exact h
  | cons x xs ih => exact ih (fun s y hy => hf s y (List.mem_cons_of_mem _ hy)) (hf s x List.mem_cons_self h)
theorem wf_foldlMem {α : Type} {f : Memory → α → Memory} {xs : List α} (hf : ∀ m a, m.wf = true → (f m a).wf = true) :
    ∀ {m : Memory}, m.wf = true → (xs.foldl f m).wf = true := by
  induction xs with
  | nil => intro m h; exact h
  | cons x xs ih => intro m h; exact ih (hf m x h)

/-! ## Ops -/

theorem memOk_setThread {s : State} {t : Thread} (h0 : MemOk s) :
    MemOk (State.setThread s t) := by
  unfold State.setThread
  repeat' first | with_reducible assumption

theorem memOk_onThread {s : State} {i : ThreadId} {f : Thread → Thread} (h0 : MemOk s) :
    MemOk (State.onThread s i f) := by
  unfold State.onThread
  repeat' first | with_reducible assumption

theorem memOk_onPipe {s : State} {i : PipeId} {f : Pipe → Pipe} (h0 : MemOk s) :
    MemOk (State.onPipe s i f) := by
  unfold State.onPipe
  repeat' first | with_reducible assumption

theorem memOk_onDie {s : State} {i : Fin 8} {f : Die → Die} (h0 : MemOk s) :
    MemOk (State.onDie s i f) := by
  unfold State.onDie
  repeat' first | with_reducible assumption

theorem memOk_onAcc {s : State} {i : Nat} {f : Acc → Acc} (h0 : MemOk s) :
    MemOk (State.onAcc s i f) := by
  unfold State.onAcc
  repeat' first | with_reducible assumption

theorem memOk_dropAcc {s : State} {i : Nat} (h0 : MemOk s) :
    MemOk (State.dropAcc s i) := by
  unfold State.dropAcc
  repeat' first | with_reducible assumption

theorem memOk_onCmd {s : State} {i : Nat} {f : Cmd → Cmd} (h0 : MemOk s) :
    MemOk (State.onCmd s i f) := by
  unfold State.onCmd
  repeat' first | with_reducible assumption

theorem memOk_onGrid {s : State} {i : Nat} {f : Grid → Grid} (h0 : MemOk s) :
    MemOk (State.onGrid s i f) := by
  unfold State.onGrid
  repeat' first | with_reducible assumption

theorem memOk_bump {s : State} (h0 : MemOk s) :
    MemOk (State.bump s) := by
  unfold State.bump
  repeat' first | with_reducible assumption

theorem memOk_repair {s : State} {d : Damage} (h0 : MemOk s) :
    MemOk (State.repair s d) := by
  unfold State.repair
  repeat' first | with_reducible assumption

theorem memOk_spadWrite {s : State} {t : TeamId} {off : Nat} {bs : List Byte} (h0 : MemOk s) :
    MemOk (State.spadWrite s t off bs) := by
  unfold State.spadWrite
  repeat' first | with_reducible assumption | with_reducible apply memOk_onTeam | with_reducible apply Memory.wf_setN | intro _

theorem memOk_teamReport {s : State} {t : TeamId} {cause : BitVec 8} {tid : Nat} {kind : Bool} {data : Word} (h0 : MemOk s) :
    MemOk (State.teamReport s t cause tid kind data) := by
  unfold State.teamReport
  repeat' first | with_reducible assumption | with_reducible apply memOk_onDie | split

theorem memOk_setEntry {s : State} {e : Sheet} (h0 : MemOk s) :
    MemOk (State.setEntry s e) := by
  unfold State.setEntry
  repeat' first | with_reducible assumption | (extract_lets +descend +onlyGivenNames x; clear_value x) | split

theorem memOk_leaveSheet {s : State} {i : ThreadId} (h0 : MemOk s) :
    MemOk (State.leaveSheet s i) := by
  unfold State.leaveSheet
  repeat' first | with_reducible assumption | with_reducible apply memOk_onTeam | with_reducible apply Memory.wf_set | intro _

theorem memOk_leavePipe {s : State} {i : ThreadId} (h0 : MemOk s) :
    MemOk (State.leavePipe s i) := by
  unfold State.leavePipe
  repeat' first | with_reducible assumption

theorem memOk_takeFault {s : State} {i : ThreadId} {f : FaultInfo} (h0 : MemOk s) :
    MemOk (State.takeFault s i f) := by
  unfold State.takeFault
  repeat' first | with_reducible assumption | with_reducible apply memOk_onThread | with_reducible apply memOk_leavePipe

theorem memOk_splitTest {s : State} {t : TeamId} {grp : Nat} (h0 : MemOk s) :
    MemOk (State.splitTest s t grp) := by
  unfold State.splitTest
  repeat' first
    | with_reducible assumption | with_reducible apply memOk_onThread | with_reducible apply memOk_leaveSheet
    | with_reducible refine memOk_foldl (fun _ _ _ => ?_) ?_ | (extract_lets +descend +onlyGivenNames x; clear_value x)
    | split

theorem memOk_spillEntry {s : State} {e : Sheet} (h0 : MemOk s) :
    MemOk (State.spillEntry s e) := by
  unfold State.spillEntry
  repeat' first
    | with_reducible assumption | with_reducible apply memOk_onTeam | with_reducible apply memOk_onCore
    | with_reducible apply memOk_setEntry | with_reducible refine memOk_foldl (fun _ _ _ => ?_) ?_
    | with_reducible apply wf_spill | intro _

theorem memOk_allocEntry {s : State} {t : TeamId} {block : Addr} {word : Word} {slots : List Nat} (h0 : MemOk s) :
    MemOk (State.allocEntry s t block word slots) := by
  unfold State.allocEntry
  repeat' first
    | with_reducible assumption | with_reducible apply memOk_onTeam | with_reducible apply memOk_onCore
    | with_reducible apply memOk_bump | with_reducible refine memOk_foldl (fun _ _ _ => ?_) ?_ | split
    | with_reducible apply Memory.wf_set | intro _

theorem memOk_spillSelf {s : State} {i : ThreadId} {block : Addr} (h0 : MemOk s) :
    MemOk (State.spillSelf s i block) := by
  unfold State.spillSelf
  repeat' first
    | with_reducible assumption | with_reducible apply memOk_onTeam | with_reducible apply memOk_onCore
    | with_reducible apply wf_spill | intro _

theorem memOk_sheetAdd {s : State} {i : ThreadId} {block : Addr} {word : Word} (h0 : MemOk s) :
    MemOk (State.sheetAdd s i block word) := by
  unfold State.sheetAdd
  repeat' first
    | with_reducible assumption | with_reducible apply memOk_bump | with_reducible apply memOk_setEntry
    | with_reducible apply memOk_spillEntry | with_reducible apply memOk_allocEntry
    | with_reducible apply memOk_spillSelf | split

theorem memOk_enrol {s : State} {i : ThreadId} {block : Addr} {word : Word} {r : Option Resume} (h0 : MemOk s) :
    MemOk (State.enrol s i block word r) := by
  unfold State.enrol
  repeat' first | with_reducible assumption | with_reducible apply memOk_onThread | with_reducible apply memOk_onCore | intro _

theorem memOk_enrolDue {s : State} {x : ThreadId × Addr × Word} (h0 : MemOk s) :
    MemOk (State.enrolDue s x) := by
  unfold State.enrolDue
  repeat' first
    | with_reducible assumption | with_reducible apply memOk_splitTest | with_reducible apply memOk_sheetAdd | split

theorem memOk_enrolAll {s : State} {core : CoreId} (h0 : MemOk s) :
    MemOk (State.enrolAll s core) := by
  unfold State.enrolAll
  repeat' first
    | with_reducible assumption | with_reducible apply memOk_onCore | with_reducible apply memOk_enrolDue
    | with_reducible refine memOk_foldl (fun _ _ _ => ?_) ?_ | intro _

theorem memOk_enrolNext {s : State} {i : ThreadId} {block : Addr} {word : Word} {r : Option Resume} (h0 : MemOk s) :
    MemOk (State.enrolNext s i block word r) := by
  unfold State.enrolNext
  repeat' first | with_reducible assumption | with_reducible apply memOk_onThread | with_reducible apply memOk_enrol | split

theorem memOk_recordFault {s : State} {i : ThreadId} {hword : Word} (h0 : MemOk s) :
    MemOk (State.recordFault s i hword) := by
  unfold State.recordFault
  repeat' first
    | with_reducible assumption | with_reducible apply memOk_onThread | with_reducible apply memOk_onTeam
    | with_reducible apply memOk_repair | with_reducible apply memOk_spadWrite | with_reducible apply memOk_teamReport
    | with_reducible apply memOk_enrol
    | (extract_lets +descend +onlyGivenNames x; refine memOk_cut (P := MemOk x) ?_ ?_
       (on_goal 1 => (dsimp only [x]; clear x))
       (on_goal 2 => (intro hx; clear_value x)))
    | (extract_lets +descend +onlyGivenNames x; clear_value x) | split | intro _

theorem memOk_release {s : State} {i : ThreadId} (h0 : MemOk s) :
    MemOk (State.release s i) := by
  unfold State.release
  repeat' first | with_reducible assumption | with_reducible apply memOk_enrolNext | split

theorem memOk_teamBarrier {s : State} {t : TeamId} (h0 : MemOk s) :
    MemOk (State.teamBarrier s t) := by
  unfold State.teamBarrier
  repeat' first
    | with_reducible assumption | with_reducible apply memOk_release
    | with_reducible refine memOk_foldl (fun _ _ _ => ?_) ?_ | (extract_lets +descend +onlyGivenNames x; clear_value x)
    | split

theorem memOk_clusterBarrier {s : State} {c : Nat} (h0 : MemOk s) :
    MemOk (State.clusterBarrier s c) := by
  unfold State.clusterBarrier
  repeat' first
    | with_reducible assumption | with_reducible apply memOk_release
    | with_reducible refine memOk_foldl (fun _ _ _ => ?_) ?_ | (extract_lets +descend +onlyGivenNames x; clear_value x)
    | split

theorem memOk_afterExit {s : State} {i : ThreadId} (h0 : MemOk s) :
    MemOk (State.afterExit s i) := by
  unfold State.afterExit
  repeat' first
    | with_reducible assumption | with_reducible apply memOk_splitTest | with_reducible apply memOk_teamBarrier
    | with_reducible apply memOk_clusterBarrier
    | (extract_lets +descend +onlyGivenNames x; refine memOk_cut (P := MemOk x) ?_ ?_
       (on_goal 1 => (dsimp only [x]; clear x))
       (on_goal 2 => (intro hx; clear_value x)))
    | split

theorem memOk_exitThread {s : State} {i : ThreadId} (h0 : MemOk s) :
    MemOk (State.exitThread s i) := by
  unfold State.exitThread
  repeat' first
    | with_reducible assumption | with_reducible apply memOk_onThread | with_reducible apply memOk_onTeam
    | with_reducible apply memOk_onCore | with_reducible apply memOk_afterExit | split
    | with_reducible apply wf_freeOwn | intro _

/-! ## Walk -/

theorem memOk_l3Put {s : State} {n : Nat} {d : Line} {dirty : Bool} {tag : BitVec 8} (h0 : MemOk s) :
    MemOk (State.l3Put s n d dirty tag) := by
  unfold State.l3Put
  repeat' first | with_reducible assumption | with_reducible apply memOk_repair

theorem memOk_l3Drop {s : State} {n : Nat} (h0 : MemOk s) :
    MemOk (State.l3Drop s n) := by
  unfold State.l3Drop
  repeat' first | with_reducible assumption | with_reducible apply memOk_repair

theorem memOk_onFolio {s : State} {n : Nat} {f : Folio → Folio} (h0 : MemOk s) :
    MemOk (State.onFolio s n f) := by
  unfold State.onFolio
  repeat' first | with_reducible assumption

/-! ## Exec -/

theorem memOk_faultLane {s : State} {p : Pipe} {u : Bool} {f : Flt} {tid : Nat} (h0 : MemOk s) :
    MemOk (State.faultLane s p u f tid) := by
  unfold State.faultLane
  repeat' first | with_reducible assumption | with_reducible apply memOk_takeFault

theorem memOk_faultLanes {s : State} {p : Pipe} {u : Bool} {f : Flt} {tids : List Nat} (h0 : MemOk s) :
    MemOk (State.faultLanes s p u f tids) := by
  unfold State.faultLanes
  repeat' first
    | with_reducible assumption | with_reducible apply memOk_faultLane
    | with_reducible refine memOk_foldl (fun _ _ _ => ?_) ?_

theorem memOk_addHold {s : State} {h : Hold} (h0 : MemOk s) :
    MemOk (State.addHold s h) := by
  unfold State.addHold
  repeat' first | with_reducible assumption | with_reducible apply memOk_onPipe | split

theorem memOk_precheck {s : State} {i : Instr} {p : Pipe} {t : Team} (h0 : MemOk s) :
    MemOk (State.precheck s i p t).1 := by
  unfold State.precheck
  repeat' first
    | with_reducible assumption | with_reducible apply memOk_faultLane | with_reducible apply memOk_faultLanes
    | with_reducible refine memOk_foldl (fun _ _ _ => ?_) ?_
    | (extract_lets +descend +onlyGivenNames x; refine memOk_cut (P := MemOk x) ?_ ?_
       (on_goal 1 => (dsimp only [x]; clear x))
       (on_goal 2 => (intro hx; clear_value x)))
    | (extract_lets +descend +onlyGivenNames x; clear_value x) | split

theorem memOk_pauseRun {s : State} {p : Pipe} {r : Run} (h0 : MemOk s) :
    MemOk (State.pauseRun s p r) := by
  unfold State.pauseRun
  repeat' first | with_reducible assumption | with_reducible apply memOk_onPipe | with_reducible apply memOk_addHold

theorem memOk_runBody {i : Instr} {p : Pipe} {body : Body} {runs : List Run} (hb : BodyMemOk body) : ∀ {s : State}, MemOk s →
    MemOk (s.runBody i p body runs) := by
  induction runs with
  | nil => intro s h0; exact h0
  | cons r rs ih =>
    intro s h0
    simp only [State.runBody]
    split
    · exact ih h0
    · rename_i th _
      have h1 : MemOk (body s th r.targets).1 := hb s th r.targets h0
      split
      · exact ih (memOk_ofPair (by assumption) h1)
      · split
        · exact memOk_pauseRun (memOk_ofPair (by assumption) h1)
        · exact ih (memOk_faultLanes h0)

theorem memOk_settle {s : State} {f : PipeId} (h0 : MemOk s) :
    MemOk (State.settle s f) := by
  unfold State.settle
  repeat' first
    | with_reducible assumption | with_reducible apply memOk_onThread | with_reducible apply memOk_leavePipe
    | with_reducible refine memOk_foldl (fun _ _ _ => ?_) ?_ | split

theorem memOk_advance {s : State} {f : PipeId} {words : Nat} (h0 : MemOk s) :
    MemOk (State.advance s f words) := by
  unfold State.advance
  repeat' first
    | with_reducible assumption | with_reducible apply memOk_onPipe | with_reducible apply memOk_settle
    | (extract_lets +descend +onlyGivenNames x; refine memOk_cut (P := MemOk x) ?_ ?_
       (on_goal 1 => (dsimp only [x]; clear x))
       (on_goal 2 => (intro hx; clear_value x)))
    | (extract_lets +descend +onlyGivenNames x; clear_value x) | split

theorem memOk_keepWord {s : State} {f : PipeId} {i : Instr} (h0 : MemOk s) :
    MemOk (State.keepWord s f i) := by
  unfold State.keepWord
  repeat' first | with_reducible assumption | with_reducible apply memOk_onPipe

theorem memOk_execLanes {i : Instr} {ctr : Option (Fin 4)} {body : Body} {s : State} (h0 : MemOk s) (hbbody : BodyMemOk body) :
    OutMemOk (execLanes i ctr body s) := by
  unfold execLanes
  repeat' first
    | with_reducible assumption | with_reducible apply outMemOk_next | with_reducible apply outMemOk_fault
    | with_reducible apply memOk_addHold | with_reducible apply memOk_precheck | with_reducible apply memOk_runBody
    | with_reducible apply memOk_advance | with_reducible apply memOk_keepWord
    | (with_reducible refine memOk_ofPair (by assumption) ?_) | (extract_lets +descend +onlyGivenNames x; clear_value x)
    | split

theorem memOk_execGroup {i : Instr} {body : State → List Thread → State} {s : State} (h0 : MemOk s) (hbody : ∀ s a, MemOk s → MemOk (body s a)) :
    OutMemOk (execGroup i body s) := by
  unfold execGroup
  repeat' first
    | with_reducible assumption | with_reducible apply outMemOk_next | with_reducible apply outMemOk_fault
    | with_reducible apply hbody | with_reducible apply memOk_precheck | with_reducible apply memOk_advance | split

/-! ## Flags -/

theorem memOk_writeRegs {s : State} {team : TeamId} {tids : List Nat} {os : List Opnd} {f : Thread → Thread} (h0 : MemOk s) :
    MemOk (State.writeRegs s team tids os f) := by
  unfold State.writeRegs
  repeat' first
    | with_reducible assumption | with_reducible apply memOk_onThread
    | with_reducible refine memOk_foldl (fun _ _ _ => ?_) ?_
    | (extract_lets +descend +onlyGivenNames x; refine memOk_cut (P := MemOk x) ?_ ?_
       (on_goal 1 => (dsimp only [x]; clear x))
       (on_goal 2 => (intro hx; clear_value x)))
    | split

theorem memOk_repairPreds {s : State} {team : TeamId} {tids : List Nat} {ps : List (BitVec 3)} (h0 : MemOk s) :
    MemOk (State.repairPreds s team tids ps) := by
  unfold State.repairPreds
  repeat' first | with_reducible assumption | split

theorem memOk_setFlags {s : State} {team : TeamId} {fl : Word} (h0 : MemOk s) :
    MemOk (State.setFlags s team fl) := by
  unfold State.setFlags
  repeat' first | with_reducible assumption | with_reducible apply memOk_onTeam | intro _

theorem memOk_execAlu {i : Instr} {d : Opnd} {n : Nat} {f : Thread → Nat × Word} {s : State} (h0 : MemOk s) :
    OutMemOk (execAlu i d n f s) := by
  unfold execAlu
  repeat' first
    | with_reducible assumption | with_reducible apply memOk_execLanes | with_reducible apply memOk_writeRegs
    | with_reducible apply memOk_setFlags | intro _

theorem memOk_execPred {i : Instr} {f : Thread → (Thread → Thread) × Word} {s : State} (h0 : MemOk s) :
    OutMemOk (execPred i f s) := by
  unfold execPred
  repeat' first
    | with_reducible assumption | with_reducible apply memOk_execLanes | with_reducible apply memOk_writeRegs
    | with_reducible apply memOk_repairPreds | with_reducible apply memOk_setFlags | intro _

theorem memOk_execGroupAlu {i : Instr} {d : Opnd} {n : Nat} {f : List Thread → Thread → Nat × Word} {s : State} (h0 : MemOk s) :
    OutMemOk (execGroupAlu i d n f s) := by
  unfold execGroupAlu
  repeat' first
    | with_reducible assumption | with_reducible apply memOk_execGroup | with_reducible apply memOk_writeRegs
    | with_reducible apply memOk_setFlags | with_reducible refine memOk_foldl (fun _ _ _ => ?_) ?_ | intro _

end Sys2Proof.Machine
end

