-- ==== Sys2Proof/Laws/MemOkAlu.lean ====
section
/-!
SUPPORT. Every operation of Machine/Alu, Fp, Group and Routes keeps every memory in canonical form.
-/
namespace Sys2Proof.Machine

/-! ## Alu -/

theorem memOk_execIadd {u : Bool} {d a b : Opnd} {w : Width} {s : State} (h0 : MemOk s) :
    OutMemOk (execIadd u d a b w s) := by
  unfold execIadd
  repeat' first | with_reducible assumption | with_reducible apply memOk_execAlu

theorem memOk_execIsub {u : Bool} {d a b : Opnd} {w : Width} {s : State} (h0 : MemOk s) :
    OutMemOk (execIsub u d a b w s) := by
  unfold execIsub
  repeat' first | with_reducible assumption | with_reducible apply memOk_execAlu

theorem memOk_execIaddi {u : Bool} {d a : Opnd} {imm : BitVec 9} {s : State} (h0 : MemOk s) :
    OutMemOk (execIaddi u d a imm s) := by
  unfold execIaddi
  repeat' first | with_reducible assumption | with_reducible apply memOk_execAlu

theorem memOk_execIabs {u : Bool} {d a : Opnd} {w : Width} {s : State} (h0 : MemOk s) :
    OutMemOk (execIabs u d a w s) := by
  unfold execIabs
  repeat' first | with_reducible assumption | with_reducible apply memOk_execAlu

theorem memOk_execImin {u : Bool} {d a b : Opnd} {ty : IntType} {s : State} (h0 : MemOk s) :
    OutMemOk (execImin u d a b ty s) := by
  unfold execImin
  repeat' first | with_reducible assumption | with_reducible apply memOk_execAlu

theorem memOk_execImax {u : Bool} {d a b : Opnd} {ty : IntType} {s : State} (h0 : MemOk s) :
    OutMemOk (execImax u d a b ty s) := by
  unfold execImax
  repeat' first | with_reducible assumption | with_reducible apply memOk_execAlu

theorem memOk_execImul {u : Bool} {d a b : Opnd} {form : MulForm} {s : State} (h0 : MemOk s) :
    OutMemOk (execImul u d a b form s) := by
  unfold execImul
  repeat' first | with_reducible assumption | with_reducible apply memOk_execAlu

theorem memOk_execImad {u : Bool} {d a b c : Opnd} {ty : IntType} {sat : Bool} {s : State} (h0 : MemOk s) :
    OutMemOk (execImad u d a b c ty sat s) := by
  unfold execImad
  repeat' first | with_reducible assumption | with_reducible apply memOk_execAlu

theorem memOk_execIdiv {u : Bool} {d a b : Opnd} {ty : IntType} {s : State} (h0 : MemOk s) :
    OutMemOk (execIdiv u d a b ty s) := by
  unfold execIdiv
  repeat' first | with_reducible assumption | with_reducible apply memOk_execAlu

theorem memOk_execIrem {u : Bool} {d a b : Opnd} {ty : IntType} {s : State} (h0 : MemOk s) :
    OutMemOk (execIrem u d a b ty s) := by
  unfold execIrem
  repeat' first | with_reducible assumption | with_reducible apply memOk_execAlu

theorem memOk_execAnd {u : Bool} {d a b : Opnd} {w : Width} {s : State} (h0 : MemOk s) :
    OutMemOk (execAnd u d a b w s) := by
  unfold execAnd
  repeat' first | with_reducible assumption | with_reducible apply memOk_execAlu

theorem memOk_execOr {u : Bool} {d a b : Opnd} {w : Width} {s : State} (h0 : MemOk s) :
    OutMemOk (execOr u d a b w s) := by
  unfold execOr
  repeat' first | with_reducible assumption | with_reducible apply memOk_execAlu

theorem memOk_execXor {u : Bool} {d a b : Opnd} {w : Width} {s : State} (h0 : MemOk s) :
    OutMemOk (execXor u d a b w s) := by
  unfold execXor
  repeat' first | with_reducible assumption | with_reducible apply memOk_execAlu

theorem memOk_execShl {u : Bool} {d a n : Opnd} {w : Width} {s : State} (h0 : MemOk s) :
    OutMemOk (execShl u d a n w s) := by
  unfold execShl
  repeat' first | with_reducible assumption | with_reducible apply memOk_execAlu

theorem memOk_execShr {u : Bool} {d a n : Opnd} {w : Width} {s : State} (h0 : MemOk s) :
    OutMemOk (execShr u d a n w s) := by
  unfold execShr
  repeat' first | with_reducible assumption | with_reducible apply memOk_execAlu

theorem memOk_execSar {u : Bool} {d a n : Opnd} {w : Width} {s : State} (h0 : MemOk s) :
    OutMemOk (execSar u d a n w s) := by
  unfold execSar
  repeat' first | with_reducible assumption | with_reducible apply memOk_execAlu

theorem memOk_execRol {u : Bool} {d a n : Opnd} {w : Width} {s : State} (h0 : MemOk s) :
    OutMemOk (execRol u d a n w s) := by
  unfold execRol
  repeat' first | with_reducible assumption | with_reducible apply memOk_execAlu

theorem memOk_execBrev {u : Bool} {d a : Opnd} {w : Width} {s : State} (h0 : MemOk s) :
    OutMemOk (execBrev u d a w s) := by
  unfold execBrev
  repeat' first | with_reducible assumption | with_reducible apply memOk_execAlu

theorem memOk_execClz {u : Bool} {d a : Opnd} {w : Width} {s : State} (h0 : MemOk s) :
    OutMemOk (execClz u d a w s) := by
  unfold execClz
  repeat' first | with_reducible assumption | with_reducible apply memOk_execAlu

theorem memOk_execPopc {u : Bool} {d a : Opnd} {w : Width} {s : State} (h0 : MemOk s) :
    OutMemOk (execPopc u d a w s) := by
  unfold execPopc
  repeat' first | with_reducible assumption | with_reducible apply memOk_execAlu

theorem memOk_execBfx {u : Bool} {d a ctl : Opnd} {ty : IntType} {s : State} (h0 : MemOk s) :
    OutMemOk (execBfx u d a ctl ty s) := by
  unfold execBfx
  repeat' first | with_reducible assumption | with_reducible apply memOk_execAlu

theorem memOk_execBfi {u : Bool} {d a b ctl : Opnd} {w : Width} {s : State} (h0 : MemOk s) :
    OutMemOk (execBfi u d a b ctl w s) := by
  unfold execBfi
  repeat' first | with_reducible assumption | with_reducible apply memOk_execAlu

theorem memOk_execMov {u : Bool} {d a : Opnd} {w : MovWidth} {s : State} (h0 : MemOk s) :
    OutMemOk (execMov u d a w s) := by
  unfold execMov
  repeat' first | with_reducible assumption | with_reducible apply memOk_execAlu

theorem memOk_execMovi {u : Bool} {d : Opnd} {imm : BitVec 16} {s : State} (h0 : MemOk s) :
    OutMemOk (execMovi u d imm s) := by
  unfold execMovi
  repeat' first | with_reducible assumption | with_reducible apply memOk_execAlu

theorem memOk_execMovh {u : Bool} {d : Opnd} {imm : BitVec 16} {s : State} (h0 : MemOk s) :
    OutMemOk (execMovh u d imm s) := by
  unfold execMovh
  repeat' first | with_reducible assumption | with_reducible apply memOk_execAlu

theorem memOk_execSel {u : Bool} {d a b : Opnd} {p : BitVec 3} {neg : Bool} {w : MovWidth} {s : State} (h0 : MemOk s) :
    OutMemOk (execSel u d a b p neg w s) := by
  unfold execSel
  repeat' first | with_reducible assumption | with_reducible apply memOk_execAlu

theorem memOk_execNop {s : State} (h0 : MemOk s) :
    OutMemOk (execNop s) := by
  unfold execNop
  repeat' first | with_reducible assumption | with_reducible apply memOk_execLanes | intro _

theorem memOk_execIcmp {u : Bool} {cond : Cond} {p : BitVec 3} {a b : Opnd} {w : Width} {s : State} (h0 : MemOk s) :
    OutMemOk (execIcmp u cond p a b w s) := by
  unfold execIcmp
  repeat' first | with_reducible assumption | with_reducible apply memOk_execPred

theorem memOk_execPlop {u : Bool} {pd pa pb : BitVec 3} {lut : BitVec 4} {s : State} (h0 : MemOk s) :
    OutMemOk (execPlop u pd pa pb lut s) := by
  unfold execPlop
  repeat' first | with_reducible assumption | with_reducible apply memOk_execPred

theorem memOk_execPmovPack {u : Bool} {d : Opnd} {s : State} (h0 : MemOk s) :
    OutMemOk (execPmovPack u d s) := by
  unfold execPmovPack
  repeat' first | with_reducible assumption | with_reducible apply memOk_execAlu

theorem memOk_execPmovUnpack {u : Bool} {a : Opnd} {mask : BitVec 8} {s : State} (h0 : MemOk s) :
    OutMemOk (execPmovUnpack u a mask s) := by
  unfold execPmovUnpack
  repeat' first | with_reducible assumption | with_reducible apply memOk_execPred

/-! ## Fp -/

theorem memOk_execFadd {u : Bool} {d a b : Opnd} {rnd : Rnd} {s : State} (h0 : MemOk s) :
    OutMemOk (execFadd u d a b rnd s) := by
  unfold execFadd
  repeat' first | with_reducible assumption | with_reducible apply memOk_execAlu

theorem memOk_execFsub {u : Bool} {d a b : Opnd} {rnd : Rnd} {s : State} (h0 : MemOk s) :
    OutMemOk (execFsub u d a b rnd s) := by
  unfold execFsub
  repeat' first | with_reducible assumption | with_reducible apply memOk_execAlu

theorem memOk_execFmul {u : Bool} {d a b : Opnd} {rnd : Rnd} {s : State} (h0 : MemOk s) :
    OutMemOk (execFmul u d a b rnd s) := by
  unfold execFmul
  repeat' first | with_reducible assumption | with_reducible apply memOk_execAlu

theorem memOk_execFdiv {u : Bool} {d a b : Opnd} {rnd : Rnd} {s : State} (h0 : MemOk s) :
    OutMemOk (execFdiv u d a b rnd s) := by
  unfold execFdiv
  repeat' first | with_reducible assumption | with_reducible apply memOk_execAlu

theorem memOk_execFmin {u : Bool} {d a b : Opnd} {s : State} (h0 : MemOk s) :
    OutMemOk (execFmin u d a b s) := by
  unfold execFmin
  repeat' first | with_reducible assumption | with_reducible apply memOk_execAlu

theorem memOk_execFmax {u : Bool} {d a b : Opnd} {s : State} (h0 : MemOk s) :
    OutMemOk (execFmax u d a b s) := by
  unfold execFmax
  repeat' first | with_reducible assumption | with_reducible apply memOk_execAlu

theorem memOk_execFfma {u : Bool} {d a b c : Opnd} {rnd : Rnd} {s : State} (h0 : MemOk s) :
    OutMemOk (execFfma u d a b c rnd s) := by
  unfold execFfma
  repeat' first | with_reducible assumption | with_reducible apply memOk_execAlu

theorem memOk_execFsqrt {u : Bool} {d a : Opnd} {rnd : Rnd} {s : State} (h0 : MemOk s) :
    OutMemOk (execFsqrt u d a rnd s) := by
  unfold execFsqrt
  repeat' first | with_reducible assumption | with_reducible apply memOk_execAlu

theorem memOk_execFrcp {u : Bool} {d a : Opnd} {s : State} (h0 : MemOk s) :
    OutMemOk (execFrcp u d a s) := by
  unfold execFrcp
  repeat' first | with_reducible assumption | with_reducible apply memOk_execAlu

theorem memOk_execFrsq {u : Bool} {d a : Opnd} {s : State} (h0 : MemOk s) :
    OutMemOk (execFrsq u d a s) := by
  unfold execFrsq
  repeat' first | with_reducible assumption | with_reducible apply memOk_execAlu

theorem memOk_execFex2 {u : Bool} {d a : Opnd} {s : State} (h0 : MemOk s) :
    OutMemOk (execFex2 u d a s) := by
  unfold execFex2
  repeat' first | with_reducible assumption | with_reducible apply memOk_execAlu

theorem memOk_execFlg2 {u : Bool} {d a : Opnd} {s : State} (h0 : MemOk s) :
    OutMemOk (execFlg2 u d a s) := by
  unfold execFlg2
  repeat' first | with_reducible assumption | with_reducible apply memOk_execAlu

theorem memOk_execFsin {u : Bool} {d a : Opnd} {s : State} (h0 : MemOk s) :
    OutMemOk (execFsin u d a s) := by
  unfold execFsin
  repeat' first | with_reducible assumption | with_reducible apply memOk_execAlu

theorem memOk_execFcos {u : Bool} {d a : Opnd} {s : State} (h0 : MemOk s) :
    OutMemOk (execFcos u d a s) := by
  unfold execFcos
  repeat' first | with_reducible assumption | with_reducible apply memOk_execAlu

theorem memOk_execFcmp {u : Bool} {cond : Cond} {p : BitVec 3} {a b : Opnd} {s : State} (h0 : MemOk s) :
    OutMemOk (execFcmp u cond p a b s) := by
  unfold execFcmp
  repeat' first | with_reducible assumption | with_reducible apply memOk_execPred

theorem memOk_execFcls {u : Bool} {d a : Opnd} {w : Width} {s : State} (h0 : MemOk s) :
    OutMemOk (execFcls u d a w s) := by
  unfold execFcls
  repeat' first | with_reducible assumption | with_reducible apply memOk_execAlu

theorem memOk_execDadd {u : Bool} {d a b : Opnd} {rnd : Rnd} {s : State} (h0 : MemOk s) :
    OutMemOk (execDadd u d a b rnd s) := by
  unfold execDadd
  repeat' first | with_reducible assumption | with_reducible apply memOk_execAlu

theorem memOk_execDsub {u : Bool} {d a b : Opnd} {rnd : Rnd} {s : State} (h0 : MemOk s) :
    OutMemOk (execDsub u d a b rnd s) := by
  unfold execDsub
  repeat' first | with_reducible assumption | with_reducible apply memOk_execAlu

theorem memOk_execDmul {u : Bool} {d a b : Opnd} {rnd : Rnd} {s : State} (h0 : MemOk s) :
    OutMemOk (execDmul u d a b rnd s) := by
  unfold execDmul
  repeat' first | with_reducible assumption | with_reducible apply memOk_execAlu

theorem memOk_execDdiv {u : Bool} {d a b : Opnd} {rnd : Rnd} {s : State} (h0 : MemOk s) :
    OutMemOk (execDdiv u d a b rnd s) := by
  unfold execDdiv
  repeat' first | with_reducible assumption | with_reducible apply memOk_execAlu

theorem memOk_execDmin {u : Bool} {d a b : Opnd} {s : State} (h0 : MemOk s) :
    OutMemOk (execDmin u d a b s) := by
  unfold execDmin
  repeat' first | with_reducible assumption | with_reducible apply memOk_execAlu

theorem memOk_execDmax {u : Bool} {d a b : Opnd} {s : State} (h0 : MemOk s) :
    OutMemOk (execDmax u d a b s) := by
  unfold execDmax
  repeat' first | with_reducible assumption | with_reducible apply memOk_execAlu

theorem memOk_execDfma {u : Bool} {d a b c : Opnd} {rnd : Rnd} {s : State} (h0 : MemOk s) :
    OutMemOk (execDfma u d a b c rnd s) := by
  unfold execDfma
  repeat' first | with_reducible assumption | with_reducible apply memOk_execAlu

theorem memOk_execDsqrt {u : Bool} {d a : Opnd} {rnd : Rnd} {s : State} (h0 : MemOk s) :
    OutMemOk (execDsqrt u d a rnd s) := by
  unfold execDsqrt
  repeat' first | with_reducible assumption | with_reducible apply memOk_execAlu

theorem memOk_execDrcp {u : Bool} {d a : Opnd} {s : State} (h0 : MemOk s) :
    OutMemOk (execDrcp u d a s) := by
  unfold execDrcp
  repeat' first | with_reducible assumption | with_reducible apply memOk_execAlu

theorem memOk_execDcmp {u : Bool} {cond : Cond} {p : BitVec 3} {a b : Opnd} {s : State} (h0 : MemOk s) :
    OutMemOk (execDcmp u cond p a b s) := by
  unfold execDcmp
  repeat' first | with_reducible assumption | with_reducible apply memOk_execPred

theorem memOk_execHadd2 {u : Bool} {d a b : Opnd} {bf : Bool} {rnd : Rnd} {s : State} (h0 : MemOk s) :
    OutMemOk (execHadd2 u d a b bf rnd s) := by
  unfold execHadd2
  repeat' first | with_reducible assumption | with_reducible apply memOk_execAlu

theorem memOk_execHmul2 {u : Bool} {d a b : Opnd} {bf : Bool} {rnd : Rnd} {s : State} (h0 : MemOk s) :
    OutMemOk (execHmul2 u d a b bf rnd s) := by
  unfold execHmul2
  repeat' first | with_reducible assumption | with_reducible apply memOk_execAlu

theorem memOk_execHfma2 {u : Bool} {d a b c : Opnd} {bf : Bool} {rnd : Rnd} {s : State} (h0 : MemOk s) :
    OutMemOk (execHfma2 u d a b c bf rnd s) := by
  unfold execHfma2
  repeat' first | with_reducible assumption | with_reducible apply memOk_execAlu

theorem memOk_execCvt {u : Bool} {d a : Opnd} {df sf : Fmt} {rnd : Rnd} {sat : Bool} {s : State} (h0 : MemOk s) :
    OutMemOk (execCvt u d a df sf rnd sat s) := by
  unfold execCvt
  repeat' first | with_reducible assumption | with_reducible apply memOk_execAlu

theorem memOk_execQnt {u : Bool} {d x sc z : Opnd} {sf : Fmt} {rnd : Rnd} {q4 : Bool} {s : State} (h0 : MemOk s) :
    OutMemOk (execQnt u d x sc z sf rnd q4 s) := by
  unfold execQnt
  repeat' first | with_reducible assumption | with_reducible apply memOk_execAlu

theorem memOk_execDqnt {u : Bool} {d q sc z : Opnd} {df : Fmt} {rnd : Rnd} {sat q4 : Bool} {s : State} (h0 : MemOk s) :
    OutMemOk (execDqnt u d q sc z df rnd sat q4 s) := by
  unfold execDqnt
  repeat' first | with_reducible assumption | with_reducible apply memOk_execAlu

/-! ## Group -/

theorem memOk_execGred {d a : Opnd} {op : GrOp} {ty : GrType} {rnd : Rnd} {sat : Bool} {s : State} (h0 : MemOk s) :
    OutMemOk (execGred d a op ty rnd sat s) := by
  unfold execGred
  repeat' first | with_reducible assumption | with_reducible apply memOk_execGroupAlu

theorem memOk_execGscan {d a : Opnd} {op : GrOp} {ty : GrType} {rnd : Rnd} {sat ex : Bool} {s : State} (h0 : MemOk s) :
    OutMemOk (execGscan d a op ty rnd sat ex s) := by
  unfold execGscan
  repeat' first | with_reducible assumption | with_reducible apply memOk_execGroupAlu

theorem memOk_execShfl {d a b : Opnd} {mode : ShflMode} {w : Width} {s : State} (h0 : MemOk s) :
    OutMemOk (execShfl d a b mode w s) := by
  unfold execShfl
  repeat' first | with_reducible assumption | with_reducible apply memOk_execGroupAlu

theorem memOk_execVote {d : Opnd} {mode : VoteMode} {neg : Bool} {p : BitVec 3} {s : State} (h0 : MemOk s) :
    OutMemOk (execVote d mode neg p s) := by
  unfold execVote
  repeat' first | with_reducible assumption | with_reducible apply memOk_execGroupAlu

/-! ## Routes -/

theorem memOk_onTree {s : State} {r : RouterId} {l : LineId} {f : TreeEntry → TreeEntry} (h0 : MemOk s) :
    MemOk (State.onTree s r l f) := by
  unfold State.onTree
  repeat' first | with_reducible assumption

theorem memOk_freeTree {s : State} {r : RouterId} {l : LineId} (h0 : MemOk s) :
    MemOk (State.freeTree s r l) := by
  unfold State.freeTree
  repeat' first | with_reducible assumption

theorem memOk_want {s : State} {l : LineId} {st : FolioState} (h0 : MemOk s) :
    MemOk (State.want s l st) := by
  unfold State.want
  repeat' first
    | with_reducible assumption | with_reducible apply memOk_onFolio
    | (extract_lets +descend +onlyGivenNames x; clear_value x) | split

theorem memOk_send {s : State} {m : Msg} (h0 : MemOk s) :
    MemOk (State.send s m) := by
  unfold State.send
  repeat' first | with_reducible assumption

theorem memOk_dropMsg {s : State} {id : Nat} (h0 : MemOk s) :
    MemOk (State.dropMsg s id) := by
  unfold State.dropMsg
  repeat' first | with_reducible assumption

theorem memOk_sendOut {s : State} {r : RouterId} {p : Port} {l : LineId} {req : CacheId} {k : MsgKind} (h0 : MemOk s) :
    MemOk (State.sendOut s r p l req k) := by
  unfold State.sendOut
  repeat' first | with_reducible assumption | with_reducible apply memOk_bump | with_reducible apply memOk_send | split

theorem memOk_forward {s : State} {m : Msg} {p : Port} (h0 : MemOk s) :
    MemOk (State.forward s m p) := by
  unfold State.forward
  repeat' first | with_reducible assumption | with_reducible apply memOk_send | with_reducible apply memOk_dropMsg | split

theorem memOk_holdMsg {s : State} {m : Msg} (h0 : MemOk s) :
    MemOk (State.holdMsg s m) := by
  unfold State.holdMsg
  repeat' first
    | with_reducible assumption | with_reducible apply memOk_dropMsg
    | (extract_lets +descend +onlyGivenNames x; refine memOk_cut (P := MemOk x) ?_ ?_
       (on_goal 1 => (dsimp only [x]; clear x))
       (on_goal 2 => (intro hx; clear_value x)))
    | split

theorem memOk_reapply {s : State} {r : RouterId} {l : LineId} (h0 : MemOk s) :
    MemOk (State.reapply s r l) := by
  unfold State.reapply
  repeat' first | with_reducible assumption

theorem memOk_pruneTest {s : State} {r : RouterId} {l : LineId} (h0 : MemOk s) :
    MemOk (State.pruneTest s r l) := by
  unfold State.pruneTest
  repeat' first
    | with_reducible assumption | with_reducible apply memOk_freeTree | with_reducible apply memOk_sendOut
    | with_reducible apply memOk_reapply
    | (extract_lets +descend +onlyGivenNames x; refine memOk_cut (P := MemOk x) ?_ ?_
       (on_goal 1 => (dsimp only [x]; clear x))
       (on_goal 2 => (intro hx; clear_value x)))
    | split

theorem memOk_leaveTree {s : State} {c : CacheId} {l : LineId} (h0 : MemOk s) :
    MemOk (State.leaveTree s c l) := by
  unfold State.leaveTree
  repeat' first | with_reducible assumption | with_reducible apply memOk_onTree | with_reducible apply memOk_pruneTest

theorem memOk_sendHeld {s : State} (h0 : MemOk s) :
    MemOk (State.sendHeld s) := by
  unfold State.sendHeld
  repeat' first | with_reducible assumption | with_reducible refine memOk_foldl (fun _ _ _ => ?_) ?_ | split

theorem memOk_portRequest {s : State} {die : Fin 8} {pa : Nat} {w : PoolWhat} (h0 : MemOk s) :
    OptMemOk (State.portRequest s die pa w) := by
  unfold State.portRequest
  repeat' first
    | with_reducible assumption | with_reducible apply optMemOk_none | with_reducible apply optMemOk_some
    | with_reducible apply memOk_bump | with_reducible apply memOk_sendHeld
    | (extract_lets +descend +onlyGivenNames x; refine memOk_cut (P := MemOk x) ?_ ?_
       (on_goal 1 => (dsimp only [x]; clear x))
       (on_goal 2 => (intro hx; clear_value x)))
    | split

theorem memOk_poolStore {s : State} {die : Fin 8} {num : Nat} {new : Line} {mask : BitVec 128} (h0 : MemOk s) :
    MemOk (State.poolStore s die num new mask) := by
  unfold State.poolStore
  repeat' first
    | with_reducible assumption | with_reducible apply memOk_portRequest
    | (with_reducible refine memOk_ofSome (by assumption) ?_) | split

theorem memOk_lineRequest {s : State} {die : Fin 8} {num : Nat} (h0 : MemOk s) :
    OptMemOk (State.lineRequest s die num) := by
  unfold State.lineRequest
  repeat' first | with_reducible assumption | with_reducible apply optMemOk_some | with_reducible apply memOk_portRequest | split

end Sys2Proof.Machine
end

