-- ==== Sys2Proof/Laws/MemOkAccess.lean ====
section
/-!
SUPPORT. Every operation of Machine/Access, Translate, Tree, Fabric, Hardware and Mem keeps every memory in canonical form.
-/
namespace Sys2Proof.Machine

/-! ## Access -/

theorem memOk_performed {s : State} {a : Acc} {got : List Byte} {fl : Word} (h0 : MemOk s) :
    MemOk (State.performed s a got fl) := by
  unfold State.performed
  repeat' first
    | with_reducible assumption | with_reducible apply memOk_onAcc | with_reducible apply memOk_dropAcc
    | with_reducible apply memOk_setFlags
    | (extract_lets +descend +onlyGivenNames x; refine memOk_cut (P := MemOk x) ?_ ?_
       (on_goal 1 => (dsimp only [x]; clear x))
       (on_goal 2 => (intro hx; clear_value x)))
    | split

theorem memOk_failAcc {s : State} {a : Acc} {cause : BitVec 8} {addr : Addr} {extra : Word} (h0 : MemOk s) :
    MemOk (State.failAcc s a cause addr extra) := by
  unfold State.failAcc
  repeat' first
    | with_reducible assumption | with_reducible apply memOk_onAcc | with_reducible apply memOk_dropAcc
    | with_reducible apply memOk_teamReport | split

theorem memOk_performSpad {s : State} {a : Acc} {t : TeamId} {off : Nat} (h0 : MemOk s) :
    MemOk (State.performSpad s a t off) := by
  unfold State.performSpad
  repeat' first
    | with_reducible assumption | with_reducible apply memOk_dropAcc | with_reducible apply memOk_spadWrite
    | with_reducible apply memOk_performed | with_reducible apply memOk_failAcc
    | (extract_lets +descend +onlyGivenNames x; clear_value x) | split

theorem memOk_retag {s : State} {c : CacheId} {l : LineId} {tag : BitVec 8} (h0 : MemOk s) :
    MemOk (State.retag s c l tag) := by
  unfold State.retag
  repeat' first | with_reducible assumption

theorem memOk_retagL3 {s : State} {num : Nat} {tag : BitVec 8} (h0 : MemOk s) :
    MemOk (State.retagL3 s num tag) := by
  unfold State.retagL3
  repeat' first | with_reducible assumption

theorem memOk_putCopy {s : State} {x : CacheLine} (h0 : MemOk s) :
    MemOk (State.putCopy s x) := by
  unfold State.putCopy
  repeat' first | with_reducible assumption | with_reducible apply memOk_retag

theorem memOk_dropCopy {s : State} {c : CacheId} {l : LineId} (h0 : MemOk s) :
    MemOk (State.dropCopy s c l) := by
  unfold State.dropCopy
  repeat' first | with_reducible assumption | with_reducible apply memOk_repair

theorem memOk_scrubL3 {s : State} {num : Nat} (h0 : MemOk s) :
    MemOk (State.scrubL3 s num) := by
  unfold State.scrubL3
  repeat' first | with_reducible assumption | with_reducible apply memOk_l3Drop | split

theorem memOk_fillL3 {s : State} {die : Fin 8} {num : Nat} {tag : BitVec 8} (h0 : MemOk s) :
    FillMemOk (State.fillL3 s die num tag) := by
  unfold State.fillL3
  repeat' first
    | with_reducible assumption | with_reducible apply fillMemOk_got | with_reducible apply fillMemOk_wait
    | with_reducible apply fillMemOk_dead | with_reducible apply memOk_lineRequest | with_reducible apply memOk_retagL3
    | with_reducible apply memOk_scrubL3 | (with_reducible refine memOk_ofSome (by assumption) ?_)
    | (extract_lets +descend +onlyGivenNames x; refine memOk_cut (P := MemOk x) ?_ ?_
       (on_goal 1 => (dsimp only [x]; clear x))
       (on_goal 2 => (intro hx; clear_value x)))
    | split

theorem memOk_updateHealth {s : State} {margin : BitVec 4} {again : Bool} (h0 : MemOk s) :
    MemOk (State.updateHealth s margin again) := by
  unfold State.updateHealth
  repeat' first | with_reducible assumption | (extract_lets +descend +onlyGivenNames x; clear_value x) | split

theorem memOk_lineLost {s : State} {die : Fin 8} {code : Word} {l : LineId} (h0 : MemOk s) :
    MemOk (State.lineLost s die code l) := by
  unfold State.lineLost
  repeat' first | with_reducible assumption | with_reducible apply memOk_onDie | with_reducible apply memOk_updateHealth

theorem memOk_dropHome {s : State} {die : Fin 8} {code : Word} {l : LineId} (h0 : MemOk s) :
    MemOk (State.dropHome s die code l) := by
  unfold State.dropHome
  repeat' first
    | with_reducible assumption | with_reducible apply memOk_repair | with_reducible apply memOk_l3Drop
    | with_reducible apply memOk_lineLost | split

theorem memOk_cleanHome {s : State} {die : Fin 8} {l : LineId} (h0 : MemOk s) :
    MemOk (State.cleanHome s die l) := by
  unfold State.cleanHome
  repeat' first | with_reducible assumption | with_reducible apply memOk_scrubL3 | with_reducible apply memOk_dropHome | split

theorem memOk_loseCopy {s : State} {die : Fin 8} {x : CacheLine} (h0 : MemOk s) :
    MemOk (State.loseCopy s die x) := by
  unfold State.loseCopy
  repeat' first
    | with_reducible assumption | with_reducible apply memOk_leaveTree | with_reducible apply memOk_dropCopy
    | with_reducible apply memOk_lineLost

theorem memOk_heldInM {s : State} {c : CacheId} {l : LineId} (h0 : MemOk s) :
    MemOk (State.heldInM s c l) := by
  unfold State.heldInM
  repeat' first | with_reducible assumption | split

theorem memOk_markNext {s : State} {c : CacheId} {l : LineId} (h0 : MemOk s) :
    MemOk (State.markNext s c l) := by
  unfold State.markNext
  repeat' first | with_reducible assumption

theorem memOk_performCopy {s : State} {a : Acc} {x : CacheLine} {off : Nat} (h0 : MemOk s) :
    MemOk (State.performCopy s a x off) := by
  unfold State.performCopy
  repeat' first
    | with_reducible assumption | with_reducible apply memOk_performed | with_reducible apply memOk_failAcc
    | with_reducible apply memOk_retag | with_reducible apply memOk_putCopy | with_reducible apply memOk_loseCopy
    | with_reducible apply memOk_heldInM | with_reducible apply memOk_markNext
    | (extract_lets +descend +onlyGivenNames x; refine memOk_cut (P := MemOk x) ?_ ?_
       (on_goal 1 => (dsimp only [x]; clear x))
       (on_goal 2 => (intro hx; clear_value x)))
    | (extract_lets +descend +onlyGivenNames x; clear_value x) | split

theorem memOk_spillCopy {s : State} {x : CacheLine} (h0 : MemOk s) :
    MemOk (State.spillCopy s x) := by
  unfold State.spillCopy
  repeat' first
    | with_reducible assumption | with_reducible apply memOk_l3Put | with_reducible apply memOk_poolStore
    | with_reducible apply memOk_retagL3 | with_reducible apply memOk_putCopy | with_reducible apply memOk_dropCopy
    | with_reducible apply memOk_lineLost | with_reducible apply memOk_cleanHome
    | (extract_lets +descend +onlyGivenNames x; refine memOk_cut (P := MemOk x) ?_ ?_
       (on_goal 1 => (dsimp only [x]; clear x))
       (on_goal 2 => (intro hx; clear_value x)))
    | (extract_lets +descend +onlyGivenNames x; clear_value x) | split | with_reducible apply memCanon_host_line

theorem memOk_cleanCopy {s : State} {c : CacheId} {l : LineId} (h0 : MemOk s) :
    MemOk (State.cleanCopy s c l) := by
  unfold State.cleanCopy
  repeat' first | with_reducible assumption | with_reducible apply memOk_putCopy | with_reducible apply memOk_spillCopy | split

theorem memOk_evict {s : State} {c : CacheId} {l : LineId} (h0 : MemOk s) :
    MemOk (State.evict s c l) := by
  unfold State.evict
  repeat' first
    | with_reducible assumption | with_reducible apply memOk_bump | with_reducible apply memOk_want
    | with_reducible apply memOk_send | with_reducible apply memOk_leaveTree | with_reducible apply memOk_dropCopy
    | with_reducible apply memOk_loseCopy | with_reducible apply memOk_spillCopy | split

theorem memOk_shrink {c : CacheId} {n : Nat} : ∀ {s : State}, MemOk s → MemOk (s.shrink c n) := by
  induction n with
  | zero => intro s h0; exact h0
  | succ n ih =>
    intro s h0
    simp only [State.shrink]
    split
    · split
      · rename_i v _
        refine ih ?_
        split
        · exact h0
        · exact memOk_evict h0
      · exact h0
    · exact h0

theorem memOk_newCopy {s : State} {x : CacheLine} (h0 : MemOk s) :
    MemOk (State.newCopy s x) := by
  unfold State.newCopy
  repeat' first
    | with_reducible assumption | with_reducible apply memOk_repair | with_reducible apply memOk_putCopy
    | with_reducible apply memOk_shrink | split

theorem memOk_ncFill {s : State} {die : Fin 8} {c : CacheId} {l : LineId} {tag : BitVec 8} {next : Bool} (h0 : MemOk s) :
    FillMemOk (State.ncFill s die c l tag next) := by
  unfold State.ncFill
  repeat' first
    | with_reducible assumption | with_reducible apply fillMemOk_got | with_reducible apply fillMemOk_wait
    | with_reducible apply fillMemOk_dead | with_reducible apply memOk_want | with_reducible apply memOk_retag
    | with_reducible apply memOk_fillL3 | with_reducible apply memOk_newCopy
    | (with_reducible refine memOk_ofGot (by assumption) ?_) | (with_reducible refine memOk_ofWait (by assumption) ?_)
    | (extract_lets +descend +onlyGivenNames x; refine memOk_cut (P := ∀ s a, MemOk s → FillMemOk (x s a)) ?_ ?_
       (on_goal 1 => (dsimp only [x]; clear x))
       (on_goal 2 => (intro hI; clear_value x)))
    | (extract_lets +descend +onlyGivenNames x; clear_value x) | split | with_reducible apply hI | intro _

theorem memOk_sendRequest {s : State} {c : CacheId} {l : LineId} {own once : Bool} (h0 : MemOk s) :
    MemOk (State.sendRequest s c l own once) := by
  unfold State.sendRequest
  repeat' first | with_reducible assumption | with_reducible apply memOk_bump | with_reducible apply memOk_send

theorem memOk_startMiss {s : State} {id : Nat} {c : CacheId} {l : LineId} {own once : Bool} (h0 : MemOk s) :
    MemOk (State.startMiss s id c l own once) := by
  unfold State.startMiss
  repeat' first
    | with_reducible assumption | with_reducible apply memOk_sendRequest
    | (extract_lets +descend +onlyGivenNames x; refine memOk_cut (P := MemOk x) ?_ ?_
       (on_goal 1 => (dsimp only [x]; clear x))
       (on_goal 2 => (intro hx; clear_value x)))
    | (extract_lets +descend +onlyGivenNames x; clear_value x) | split

theorem memOk_scrubCopy {s : State} {c : CacheId} {l : LineId} (h0 : MemOk s) :
    MemOk (State.scrubCopy s c l) := by
  unfold State.scrubCopy
  repeat' first
    | with_reducible assumption | with_reducible apply memOk_leaveTree | with_reducible apply memOk_dropCopy | split

theorem memOk_giveUp {s : State} {c : CacheId} {l : LineId} (h0 : MemOk s) :
    MemOk (State.giveUp s c l) := by
  unfold State.giveUp
  repeat' first
    | with_reducible assumption | with_reducible apply memOk_dropCopy | with_reducible apply memOk_spillCopy
    | (extract_lets +descend +onlyGivenNames x; refine memOk_cut (P := ∀ s a, MemOk s → MemOk (x s a)) ?_ ?_
       (on_goal 1 => (dsimp only [x]; clear x))
       (on_goal 2 => (intro hB; clear_value x)))
    | split | with_reducible apply hB | intro _

theorem memOk_leaveFar {s : State} {a : Acc} {l : LineId} (h0 : MemOk s) :
    MemOk (State.leaveFar s a l) := by
  unfold State.leaveFar
  repeat' first
    | with_reducible assumption | with_reducible apply memOk_onAcc | with_reducible apply memOk_want
    | with_reducible apply memOk_failAcc | with_reducible apply memOk_loseCopy | with_reducible apply memOk_scrubCopy
    | with_reducible apply memOk_giveUp
    | (extract_lets +descend +onlyGivenNames x; refine memOk_cut (P := MemOk x) ?_ ?_
       (on_goal 1 => (dsimp only [x]; clear x))
       (on_goal 2 => (intro hx; clear_value x)))
    | (extract_lets +descend +onlyGivenNames x; clear_value x) | split

theorem memOk_performFar {s : State} {a : Acc} {l : LineId} {off : Nat} (h0 : MemOk s) :
    MemOk (State.performFar s a l off) := by
  unfold State.performFar
  repeat' first
    | with_reducible assumption | with_reducible apply memOk_l3Put | with_reducible apply memOk_performed
    | with_reducible apply memOk_failAcc | with_reducible apply memOk_retagL3 | with_reducible apply memOk_fillL3
    | with_reducible apply memOk_dropHome | with_reducible apply memOk_giveUp
    | (with_reducible refine memOk_ofGot (by assumption) ?_) | (with_reducible refine memOk_ofWait (by assumption) ?_)
    | (extract_lets +descend +onlyGivenNames x; refine memOk_cut (P := MemOk x) ?_ ?_
       (on_goal 1 => (dsimp only [x]; clear x))
       (on_goal 2 => (intro hx; clear_value x)))
    | (extract_lets +descend +onlyGivenNames x; clear_value x) | split

theorem memOk_performHost {s : State} {a : Acc} {l : LineId} {off : Nat} (h0 : MemOk s) :
    MemOk (State.performHost s a l off) := by
  unfold State.performHost
  repeat' first
    | with_reducible assumption | with_reducible apply memOk_performed | with_reducible apply memOk_failAcc
    | (extract_lets +descend +onlyGivenNames x; clear_value x) | split | with_reducible apply memCanon_host_line

theorem memOk_l3Writeback {s : State} {die : Fin 8} {num : Nat} {keep : Bool} (h0 : MemOk s) :
    MemOk (State.l3Writeback s die num keep) := by
  unfold State.l3Writeback
  repeat' first
    | with_reducible assumption | with_reducible apply memOk_l3Drop | with_reducible apply memOk_poolStore
    | with_reducible apply memOk_lineLost
    | (extract_lets +descend +onlyGivenNames x; refine memOk_cut (P := MemOk x) ?_ ?_
       (on_goal 1 => (dsimp only [x]; clear x))
       (on_goal 2 => (intro hx; clear_value x)))
    | split

theorem memOk_cmntData {s : State} {c : CacheId} {l : LineId} {op : CmntOp} {reach : Reach} (h0 : MemOk s) :
    MemOk (State.cmntData s c l op reach) := by
  unfold State.cmntData
  repeat' first
    | with_reducible assumption | with_reducible apply memOk_l3Drop | with_reducible apply memOk_dropCopy
    | with_reducible apply memOk_cleanCopy | with_reducible apply memOk_l3Writeback
    | (extract_lets +descend +onlyGivenNames x; refine memOk_cut (P := MemOk x) ?_ ?_
       (on_goal 1 => (dsimp only [x]; clear x))
       (on_goal 2 => (intro hx; clear_value x)))
    | (extract_lets +descend +onlyGivenNames x; refine memOk_cut (P := ∀ s a, MemOk s → MemOk (x s a)) ?_ ?_
       (on_goal 1 => (dsimp only [x]; clear x))
       (on_goal 2 => (intro hB; clear_value x)))
    | split | with_reducible apply hB | intro _

theorem memOk_cmntFetch {s : State} {c : CacheId} {l : LineId} {op : CmntOp} {reach : Reach} (h0 : MemOk s) :
    MemOk (State.cmntFetch s c l op reach) := by
  unfold State.cmntFetch
  repeat' first | with_reducible assumption | split

theorem memOk_performCmnt {s : State} {a : Acc} {l : LineId} {cls : BitVec 2} {op : CmntOp} {reach : Reach} (h0 : MemOk s) :
    MemOk (State.performCmnt s a l cls op reach) := by
  unfold State.performCmnt
  repeat' first
    | with_reducible assumption | with_reducible apply memOk_want | with_reducible apply memOk_performed
    | with_reducible apply memOk_cmntData | with_reducible apply memOk_cmntFetch
    | (extract_lets +descend +onlyGivenNames x; refine memOk_cut (P := MemOk x) ?_ ?_
       (on_goal 1 => (dsimp only [x]; clear x))
       (on_goal 2 => (intro hx; clear_value x)))
    | split

theorem memOk_noteClass {s : State} {l : LineId} {cls : BitVec 2} (h0 : MemOk s) :
    MemOk (State.noteClass s l cls) := by
  unfold State.noteClass
  repeat' first | with_reducible assumption | split

theorem memOk_shareNc {s : State} {core : CoreId} {l : LineId} (h0 : MemOk s) :
    OptMemOk (State.shareNc s core l) := by
  unfold State.shareNc
  repeat' first
    | with_reducible assumption | with_reducible apply optMemOk_none | with_reducible apply optMemOk_some
    | with_reducible apply memOk_cleanCopy | split

theorem memOk_attemptNcIn {s : State} {a : Acc} {c : CacheId} {l : LineId} {off : Nat} (h0 : MemOk s) :
    MemOk (State.attemptNcIn s a c l off) := by
  unfold State.attemptNcIn
  repeat' first
    | with_reducible assumption | with_reducible apply memOk_failAcc | with_reducible apply memOk_dropHome
    | with_reducible apply memOk_loseCopy | with_reducible apply memOk_performCopy | with_reducible apply memOk_ncFill
    | (with_reducible refine memOk_ofGot (by assumption) ?_) | (with_reducible refine memOk_ofWait (by assumption) ?_)
    | (extract_lets +descend +onlyGivenNames x; clear_value x) | split

theorem memOk_attemptNc {s : State} {a : Acc} {l : LineId} {off : Nat} (h0 : MemOk s) : MemOk (s.attemptNc a l off) := by
  unfold State.attemptNc
  dsimp only
  split
  · exact memOk_failAcc (memOk_loseCopy h0)
  · split
    · exact memOk_want h0
    · rename_i s' h
      have h1 : MemOk s' := by
        split at h
        · exact memOk_ofSome h (memOk_shareNc h0)
        · cases h; exact h0
      exact memOk_attemptNcIn (memOk_scrubCopy (memOk_scrubCopy h1))

theorem memOk_attemptTile {s : State} {a : Acc} {l : LineId} {off : Nat} (h0 : MemOk s) :
    MemOk (State.attemptTile s a l off) := by
  unfold State.attemptTile
  repeat' first
    | with_reducible assumption | with_reducible apply memOk_performCopy | with_reducible apply memOk_startMiss
    | with_reducible apply memOk_scrubCopy
    | (extract_lets +descend +onlyGivenNames x; refine memOk_cut (P := MemOk x) ?_ ?_
       (on_goal 1 => (dsimp only [x]; clear x))
       (on_goal 2 => (intro hx; clear_value x)))
    | split

theorem memOk_attemptLine {s : State} {a : Acc} {l : LineId} {off : Nat} {cls : BitVec 2} (h0 : MemOk s) :
    MemOk (State.attemptLine s a l off cls) := by
  unfold State.attemptLine
  repeat' first
    | with_reducible assumption | with_reducible apply memOk_performCopy | with_reducible apply memOk_startMiss
    | with_reducible apply memOk_scrubCopy | with_reducible apply memOk_leaveFar
    | with_reducible apply memOk_performHost | with_reducible apply memOk_performCmnt
    | with_reducible apply memOk_noteClass | with_reducible apply memOk_attemptNc
    | with_reducible apply memOk_attemptTile
    | (extract_lets +descend +onlyGivenNames x; refine memOk_cut (P := MemOk x) ?_ ?_
       (on_goal 1 => (dsimp only [x]; clear x))
       (on_goal 2 => (intro hx; clear_value x)))
    | (extract_lets +descend +onlyGivenNames x; clear_value x) | split

theorem memOk_attempt {s : State} {id : Nat} (h0 : MemOk s) :
    MemOk (State.attempt s id) := by
  unfold State.attempt
  repeat' first
    | with_reducible assumption | with_reducible apply memOk_performSpad | with_reducible apply memOk_attemptLine
    | split

theorem memOk_readEnds {s : State} {id : Nat} {r : ReadRes} (h0 : MemOk s) :
    MemOk (State.readEnds s id r) := by
  unfold State.readEnds
  repeat' first | with_reducible assumption

theorem memOk_settleReads {s : State} (h0 : MemOk s) :
    MemOk (State.settleReads s) := by
  unfold State.settleReads
  repeat' first | with_reducible assumption

theorem memOk_attemptRead {s : State} {r : HwRead} (h0 : MemOk s) :
    MemOk (State.attemptRead s r) := by
  unfold State.attemptRead
  repeat' first
    | with_reducible assumption | with_reducible apply memOk_retag | with_reducible apply memOk_loseCopy
    | with_reducible apply memOk_startMiss | with_reducible apply memOk_scrubCopy
    | with_reducible apply memOk_readEnds
    | (extract_lets +descend +onlyGivenNames x; refine memOk_cut (P := MemOk x) ?_ ?_
       (on_goal 1 => (dsimp only [x]; clear x))
       (on_goal 2 => (intro hx; clear_value x)))
    | split

theorem memOk_progress {s : State} (h0 : MemOk s) :
    MemOk (State.progress s) := by
  unfold State.progress
  repeat' first
    | with_reducible assumption | with_reducible apply memOk_attempt | with_reducible apply memOk_attemptRead
    | with_reducible refine memOk_foldl (fun _ _ _ => ?_) ?_ | split

theorem memOk_newAcc {s : State} {a : Acc} (h0 : MemOk s) :
    MemOk (State.newAcc s a) := by
  unfold State.newAcc
  repeat' first | with_reducible assumption | with_reducible apply memOk_bump | with_reducible apply memOk_attempt

/-! ## Translate -/

theorem memOk_takeRead {s : State} {r : HwRead} (h0 : MemOk s) :
    MemOk (State.takeRead s r).1 := by
  unfold State.takeRead
  repeat' first
    | with_reducible assumption | with_reducible apply memOk_readEnds
    | (extract_lets +descend +onlyGivenNames x; refine memOk_cut (P := MemOk x) ?_ ?_
       (on_goal 1 => (dsimp only [x]; clear x))
       (on_goal 2 => (intro hx; clear_value x)))
    | split

theorem memOk_dcRead {s : State} {die : Fin 8} {c : CacheId} {l : LineId} {tag : BitVec 8} (h0 : MemOk s) :
    MemOk (State.dcRead s die c l tag).1 := by
  unfold State.dcRead
  repeat' first
    | with_reducible assumption | with_reducible apply memOk_bump | with_reducible apply memOk_attemptRead
    | with_reducible apply memOk_takeRead
    | (extract_lets +descend +onlyGivenNames x; refine memOk_cut (P := MemOk x) ?_ ?_
       (on_goal 1 => (dsimp only [x]; clear x))
       (on_goal 2 => (intro hx; clear_value x)))
    | (extract_lets +descend +onlyGivenNames x; clear_value x) | split

theorem memOk_tableEntry {s : State} {die : Fin 8} {pa : Nat} (h0 : MemOk s) :
    MemOk (State.tableEntry s die pa).1 := by
  unfold State.tableEntry
  repeat' first
    | with_reducible assumption | with_reducible apply memOk_dcRead
    | (with_reducible refine memOk_ofPair (by assumption) ?_) | (extract_lets +descend +onlyGivenNames x; clear_value x)
    | split

theorem memOk_walkLevel {s : State} {die : Fin 8} {level : Nat} {table : Nat} {idx : Nat} (h0 : MemOk s) :
    MemOk (State.walkLevel s die level table idx).1 := by
  unfold State.walkLevel
  repeat' first
    | with_reducible assumption | with_reducible apply memOk_tableEntry
    | (with_reducible refine memOk_ofPair (by assumption) ?_) | split

theorem memOk_walkLeaf {s : State} {die : Fin 8} {asid : BitVec 16} {host : Bool} {va : Addr} (h0 : MemOk s) :
    MemOk (State.walkLeaf s die asid host va).1 := by
  unfold State.walkLeaf
  repeat' first
    | with_reducible assumption | with_reducible apply memOk_walkLevel
    | (with_reducible refine memOk_ofPair (by assumption) ?_) | split

theorem memOk_leafOf {s : State} {die : Fin 8} {a : TlbAt} {asid : BitVec 16} {host : Bool} {va : Addr} (h0 : MemOk s) :
    MemOk (State.leafOf s die a asid host va).1 := by
  unfold State.leafOf
  repeat' first
    | with_reducible assumption | with_reducible apply memOk_walkLeaf
    | (with_reducible refine memOk_ofPair (by assumption) ?_) | split

theorem memOk_translate {s : State} {die : Fin 8} {a : TlbAt} {asid : BitVec 16} {host : Bool} {needs : Needs} {va : Addr} (h0 : MemOk s) :
    MemOk (State.translate s die a asid host needs va).1 := by
  unfold State.translate
  repeat' first
    | with_reducible assumption | with_reducible apply memOk_onDie | with_reducible apply memOk_leafOf
    | (with_reducible refine memOk_ofPair (by assumption) ?_)
    | (extract_lets +descend +onlyGivenNames x; refine memOk_cut (P := MemOk x) ?_ ?_
       (on_goal 1 => (dsimp only [x]; clear x))
       (on_goal 2 => (intro hx; clear_value x)))
    | (extract_lets +descend +onlyGivenNames x; clear_value x) | split

theorem memOk_ownerCheck {s : State} {owner : Fin 8} {handle : Word} {asid : BitVec 16} {off : Nat} {needs : Needs} {ord : Order} {sc : Scope} {atomic : Bool} {op : Option (Option AtomOp × AtomType)} (h0 : MemOk s) :
    MemOk (State.ownerCheck s owner handle asid off needs ord sc atomic op).1 := by
  unfold State.ownerCheck
  repeat' first
    | with_reducible assumption | with_reducible apply memOk_translate
    | (with_reducible refine memOk_ofPair (by assumption) ?_) | (extract_lets +descend +onlyGivenNames x; clear_value x)
    | split

theorem memOk_endAsk {s : State} {die : Fin 8} {pa : Nat} {needs : Needs} (h0 : MemOk s) :
    MemOk (State.endAsk s die pa needs) := by
  unfold State.endAsk
  repeat' first | with_reducible assumption

theorem memOk_noteImport {s : State} {die : Fin 8} {entry : BitVec 64} {pa : Nat} (h0 : MemOk s) :
    MemOk (State.noteImport s die entry pa) := by
  unfold State.noteImport
  repeat' first | with_reducible assumption | (extract_lets +descend +onlyGivenNames x; clear_value x) | split

theorem memOk_sendAsk {s : State} {die : Fin 8} {pa : Nat} {needs : Needs} (h0 : MemOk s) :
    MemOk (State.sendAsk s die pa needs).1 := by
  unfold State.sendAsk
  repeat' first
    | with_reducible assumption | with_reducible apply memOk_bump
    | (extract_lets +descend +onlyGivenNames x; refine memOk_cut (P := MemOk x) ?_ ?_
       (on_goal 1 => (dsimp only [x]; clear x))
       (on_goal 2 => (intro hx; clear_value x)))
    | split

theorem memOk_useAnswer {s : State} {k : PeerAsk} {pa : Nat} (h0 : MemOk s) :
    MemOk (State.useAnswer s k pa).1 := by
  unfold State.useAnswer
  repeat' first
    | with_reducible assumption | with_reducible apply memOk_noteImport
    | (extract_lets +descend +onlyGivenNames x; refine memOk_cut (P := MemOk x) ?_ ?_
       (on_goal 1 => (dsimp only [x]; clear x))
       (on_goal 2 => (intro hx; clear_value x)))
    | split

theorem memOk_ownAnswer {s : State} {k : PeerAsk} {pa : Nat} {needs : Needs} (h0 : MemOk s) :
    MemOk (State.ownAnswer s k pa needs).1 := by
  unfold State.ownAnswer
  repeat' first
    | with_reducible assumption | with_reducible apply memOk_ownerCheck | with_reducible apply memOk_noteImport
    | (with_reducible refine memOk_ofPair (by assumption) ?_)
    | (extract_lets +descend +onlyGivenNames x; refine memOk_cut (P := ∀ s, MemOk s → MemOk (x s)) ?_ ?_
       (on_goal 1 => (dsimp only [x]; clear x))
       (on_goal 2 => (intro hA; clear_value x)))
    | split | with_reducible apply hA | intro _ | (unfold MemOk; dsimp only)

theorem memOk_peerNow {s : State} {die : Fin 8} {pa : Nat} {needs : Needs} (h0 : MemOk s) :
    MemOk (State.peerNow s die pa needs).1 := by
  unfold State.peerNow
  repeat' first
    | with_reducible assumption | with_reducible apply memOk_sendAsk | with_reducible apply memOk_useAnswer
    | with_reducible apply memOk_ownAnswer
    | (extract_lets +descend +onlyGivenNames x; refine memOk_cut (P := MemOk x.1) ?_ ?_
       (on_goal 1 => (dsimp only [x]; clear x))
       (on_goal 2 => (intro hx; clear_value x)))
    | split

theorem memOk_translateAll {s : State} {die : Fin 8} {a : TlbAt} {asid : BitVec 16} {host : Bool} {needs : Needs} {va : Addr} (h0 : MemOk s) :
    MemOk (State.translateAll s die a asid host needs va).1 := by
  unfold State.translateAll
  repeat' first
    | with_reducible assumption | with_reducible apply memOk_translate | with_reducible apply memOk_endAsk
    | with_reducible apply memOk_peerNow | (with_reducible refine memOk_ofPair (by assumption) ?_) | split

theorem memOk_overAll {s : State} {die : Fin 8} {needs : Needs} {win : Option Nat} {r : Except (BitVec 8 × Word) α} (h0 : MemOk s) :
    MemOk (State.overAll s die needs win r) := by
  unfold State.overAll
  repeat' first
    | with_reducible assumption | with_reducible apply memOk_endAsk
    | (extract_lets +descend +onlyGivenNames x; clear_value x) | split

/-! ## Tree -/

theorem memOk_event {s : State} (h0 : MemOk s) :
    OutMemOk (event s) := by
  unfold event
  repeat' first | with_reducible assumption | with_reducible apply outMemOk_next

theorem memOk_endMiss {s : State} {c : CacheId} {l : LineId} (h0 : MemOk s) :
    MemOk (State.endMiss s c l) := by
  unfold State.endMiss
  repeat' first | with_reducible assumption

theorem memOk_useOnce {s : State} {c : CacheId} {l : LineId} {d : Line} (h0 : MemOk s) :
    MemOk (State.useOnce s c l d) := by
  unfold State.useOnce
  repeat' first
    | with_reducible assumption | with_reducible apply memOk_performed | with_reducible apply memOk_readEnds | split

theorem memOk_failMiss {s : State} {c : CacheId} {l : LineId} {cause : BitVec 8} {extra : Word} (h0 : MemOk s) :
    MemOk (State.failMiss s c l cause extra) := by
  unfold State.failMiss
  repeat' first | with_reducible assumption | with_reducible apply memOk_failAcc | with_reducible apply memOk_readEnds | split

theorem memOk_install {s : State} {c : CacheId} {l : LineId} {st : LineState} {d : Line} (h0 : MemOk s) :
    MemOk (State.install s c l st d) := by
  unfold State.install
  repeat' first
    | with_reducible assumption | with_reducible apply memOk_heldInM | with_reducible apply memOk_newCopy
    | with_reducible apply memOk_progress | with_reducible apply memOk_endMiss | split

theorem memOk_startCut {s : State} {r : RouterId} {l : LineId} {req : CacheId} {discard own trim : Bool} (h0 : MemOk s) :
    MemOk (State.startCut s r l req discard own trim) := by
  unfold State.startCut
  repeat' first
    | with_reducible assumption | with_reducible apply memOk_onTree | with_reducible apply memOk_sendOut
    | with_reducible refine memOk_foldl (fun _ _ _ => ?_) ?_ | split

theorem memOk_cutLocals {s : State} {r : RouterId} {l : LineId} {req : CacheId} {discard own : Bool} (h0 : MemOk s) :
    MemOk (State.cutLocals s r l req discard own) := by
  unfold State.cutLocals
  repeat' first
    | with_reducible assumption | with_reducible apply memOk_onTree | with_reducible apply memOk_dropCopy
    | with_reducible apply memOk_lineLost | with_reducible apply memOk_failMiss
    | with_reducible refine memOk_foldl (fun _ _ _ => ?_) ?_
    | (extract_lets +descend +onlyGivenNames x; refine memOk_cut (P := MemOk x) ?_ ?_
       (on_goal 1 => (dsimp only [x]; clear x))
       (on_goal 2 => (intro hx; clear_value x)))
    | split

theorem memOk_homeData {s : State} {l : LineId} {d : Option Datum} (h0 : MemOk s) :
    MemOk (State.homeData s l d) := by
  unfold State.homeData
  repeat' first
    | with_reducible assumption | with_reducible apply memOk_l3Put | with_reducible apply memOk_retagL3 | split
    | with_reducible apply memCanon_host_line

theorem memOk_jobCut {s : State} {l : LineId} {d : Option Datum} (h0 : MemOk s) :
    MemOk (State.jobCut s l d) := by
  unfold State.jobCut
  repeat' first | with_reducible assumption | split

theorem memOk_finishCut {s : State} {r : RouterId} {l : LineId} (h0 : MemOk s) :
    MemOk (State.finishCut s r l) := by
  unfold State.finishCut
  repeat' first
    | with_reducible assumption | with_reducible apply memOk_bump | with_reducible apply memOk_freeTree
    | with_reducible apply memOk_send | with_reducible apply memOk_sendOut | with_reducible apply memOk_reapply
    | with_reducible apply memOk_homeData | with_reducible apply memOk_jobCut | split

theorem memOk_trimTree {s : State} {r : RouterId} {l : LineId} (h0 : MemOk s) :
    MemOk (State.trimTree s r l) := by
  unfold State.trimTree
  repeat' first
    | with_reducible assumption | with_reducible apply memOk_startCut | with_reducible apply memOk_cutLocals
    | with_reducible apply memOk_finishCut

theorem memOk_newTree {s : State} {e : TreeEntry} {way : Bool} (h0 : MemOk s) :
    FillMemOk (State.newTree s e way) := by
  unfold State.newTree
  repeat' first
    | with_reducible assumption | with_reducible apply fillMemOk_got | with_reducible apply fillMemOk_wait
    | with_reducible apply fillMemOk_dead | with_reducible apply memOk_bump | with_reducible apply memOk_trimTree
    | (extract_lets +descend +onlyGivenNames x; refine memOk_cut (P := MemOk x) ?_ ?_
       (on_goal 1 => (dsimp only [x]; clear x))
       (on_goal 2 => (intro hx; clear_value x)))
    | (extract_lets +descend +onlyGivenNames x; refine memOk_cut (P := ∀ s, MemOk s → MemOk (x s)) ?_ ?_
       (on_goal 1 => (dsimp only [x]; clear x))
       (on_goal 2 => (intro hA; clear_value x)))
    | (extract_lets +descend +onlyGivenNames x; clear_value x) | split | with_reducible apply hA

theorem memOk_useTree {s : State} {r : RouterId} {l : LineId} (h0 : MemOk s) :
    MemOk (State.useTree s r l) := by
  unfold State.useTree
  repeat' first | with_reducible assumption | with_reducible apply memOk_bump | with_reducible apply memOk_onTree

theorem memOk_awaitWay {s : State} {m : Msg} (h0 : MemOk s) :
    MemOk (State.awaitWay s m) := by
  unfold State.awaitWay
  repeat' first | with_reducible assumption

theorem memOk_splice {s : State} {m : Msg} {root : Port} {rootHint : Nat} {link : Option (Port × Nat)} {caught : Bool} (h0 : MemOk s) :
    FillMemOk (State.splice s m root rootHint link caught) := by
  unfold State.splice
  repeat' first
    | with_reducible assumption | with_reducible apply fillMemOk_got | with_reducible apply fillMemOk_wait
    | with_reducible apply fillMemOk_dead | with_reducible apply memOk_onTree | with_reducible apply memOk_reapply
    | with_reducible apply memOk_newTree | with_reducible apply memOk_useTree
    | (with_reducible refine memOk_ofGot (by assumption) ?_) | (with_reducible refine memOk_ofWait (by assumption) ?_)
    | (extract_lets +descend +onlyGivenNames x; clear_value x) | split

theorem memOk_replyOn {s : State} {m : Msg} {k : MsgKind} {done : State → State} (h0 : MemOk s) (hdone : ∀ s, MemOk s → MemOk (done s )) :
    MemOk (State.replyOn s m k done) := by
  unfold State.replyOn
  repeat' first
    | with_reducible assumption | with_reducible apply hdone | with_reducible apply memOk_send
    | with_reducible apply memOk_dropMsg | split

theorem memOk_replyStep {s : State} {m : Msg} {d : Line} {flagged excl : Bool} {hops : Nat} {holder : Bool} (h0 : MemOk s) :
    MemOk (State.replyStep s m d flagged excl hops holder) := by
  unfold State.replyStep
  repeat' first
    | with_reducible assumption | with_reducible apply fillMemOk_dead | with_reducible apply memOk_onTree
    | with_reducible apply memOk_progress | with_reducible apply memOk_endMiss | with_reducible apply memOk_useOnce
    | with_reducible apply memOk_install | with_reducible apply memOk_awaitWay | with_reducible apply memOk_splice
    | with_reducible apply memOk_replyOn | with_reducible apply memOk_sendOut
    | (extract_lets +descend +onlyGivenNames x; refine memOk_cut (P := MemOk x) ?_ ?_
       (on_goal 1 => (dsimp only [x]; clear x))
       (on_goal 2 => (intro hx; clear_value x)))
    | (extract_lets +descend +onlyGivenNames x; refine memOk_cut (P := ∀ s, MemOk s → MemOk (x s)) ?_ ?_
       (on_goal 1 => (dsimp only [x]; clear x))
       (on_goal 2 => (intro hA; clear_value x)))
    | (extract_lets +descend +onlyGivenNames x; refine memOk_cut (P := ∀ s a, MemOk s → MemOk (x s a)) ?_ ?_
       (on_goal 1 => (dsimp only [x]; clear x))
       (on_goal 2 => (intro hB; clear_value x)))
    | (extract_lets +descend +onlyGivenNames x; refine memOk_cut (P := ∀ a s, MemOk s → MemOk (x a s)) ?_ ?_
       (on_goal 1 => (dsimp only [x]; clear x))
       (on_goal 2 => (intro hC; clear_value x)))
    | (extract_lets +descend +onlyGivenNames x; refine memOk_cut (P := FillMemOk x) ?_ ?_
       (on_goal 1 => (dsimp only [x]; clear x))
       (on_goal 2 => (intro hL; clear_value x)))
    | (extract_lets +descend +onlyGivenNames x; clear_value x) | split | with_reducible apply hA | with_reducible apply hB
    | with_reducible apply hC | exact hL.1 _ _ rfl | exact hL.2 _ rfl | intro _

theorem memOk_grantStep {s : State} {m : Msg} {d : Line} (h0 : MemOk s) :
    MemOk (State.grantStep s m d) := by
  unfold State.grantStep
  repeat' first
    | with_reducible assumption | with_reducible apply memOk_install | with_reducible apply memOk_awaitWay
    | with_reducible apply memOk_splice | with_reducible apply memOk_replyOn
    | (with_reducible refine memOk_ofGot (by assumption) ?_) | (with_reducible refine memOk_ofWait (by assumption) ?_) | split
    | intro _

theorem memOk_failRead {s : State} {m : Msg} {cause : BitVec 8} {extra : Word} (h0 : MemOk s) :
    MemOk (State.failRead s m cause extra) := by
  unfold State.failRead
  repeat' first
    | with_reducible assumption | with_reducible apply memOk_dropMsg | with_reducible apply memOk_progress
    | with_reducible apply memOk_endMiss | with_reducible apply memOk_failMiss

theorem memOk_serveFrom {s : State} {m : Msg} {x : CacheLine} (h0 : MemOk s) :
    MemOk (State.serveFrom s m x) := by
  unfold State.serveFrom
  repeat' first
    | with_reducible assumption | with_reducible apply memOk_retag | with_reducible apply memOk_loseCopy
    | with_reducible apply memOk_scrubCopy | with_reducible apply memOk_replyStep
    | with_reducible apply memOk_failRead
    | (extract_lets +descend +onlyGivenNames x; refine memOk_cut (P := MemOk x) ?_ ?_
       (on_goal 1 => (dsimp only [x]; clear x))
       (on_goal 2 => (intro hx; clear_value x)))
    | split

theorem memOk_serveHome {s : State} {m : Msg} (h0 : MemOk s) :
    MemOk (State.serveHome s m) := by
  unfold State.serveHome
  repeat' first
    | with_reducible assumption | with_reducible apply memOk_fillL3 | with_reducible apply memOk_dropHome
    | with_reducible apply memOk_replyStep | with_reducible apply memOk_failRead
    | (with_reducible refine memOk_ofGot (by assumption) ?_) | (with_reducible refine memOk_ofWait (by assumption) ?_)
    | (extract_lets +descend +onlyGivenNames x; refine memOk_cut (P := ∀ s a b, MemOk s → MemOk (x s a b)) ?_ ?_
       (on_goal 1 => (dsimp only [x]; clear x))
       (on_goal 2 => (intro hD; clear_value x)))
    | (extract_lets +descend +onlyGivenNames x; clear_value x) | split | with_reducible apply hD | intro _

theorem memOk_homeRead {s : State} {m : Msg} (h0 : MemOk s) :
    MemOk (State.homeRead s m) := by
  unfold State.homeRead
  repeat' first
    | with_reducible assumption | with_reducible apply memOk_want | with_reducible apply memOk_holdMsg
    | with_reducible apply memOk_serveHome | split

theorem memOk_catchable {s : State} {m : Msg} (h0 : MemOk s) :
    MemOk (State.catchable s m) := by
  unfold State.catchable
  repeat' first
    | with_reducible assumption | with_reducible apply memOk_send | with_reducible apply memOk_dropMsg
    | with_reducible apply memOk_forward | with_reducible apply memOk_holdMsg | with_reducible apply memOk_useTree
    | with_reducible apply memOk_homeRead | split

theorem memOk_steered {s : State} {m : Msg} (h0 : MemOk s) :
    MemOk (State.steered s m) := by
  unfold State.steered
  repeat' first
    | with_reducible assumption | with_reducible apply memOk_send | with_reducible apply memOk_dropMsg
    | with_reducible apply memOk_forward | with_reducible apply memOk_holdMsg | with_reducible apply memOk_serveFrom
    | split

theorem memOk_direct {s : State} {m : Msg} (h0 : MemOk s) :
    MemOk (State.direct s m) := by
  unfold State.direct
  repeat' first
    | with_reducible assumption | with_reducible apply memOk_forward | with_reducible apply memOk_holdMsg
    | with_reducible apply memOk_useTree | with_reducible apply memOk_homeRead | split

theorem memOk_endJob {s : State} {j : HomeJob} (h0 : MemOk s) :
    MemOk (State.endJob s j) := by
  unfold State.endJob
  repeat' first | with_reducible assumption | with_reducible apply memOk_reapply

theorem memOk_onJob {s : State} {id : Nat} {f : HomeJob → HomeJob} (h0 : MemOk s) :
    MemOk (State.onJob s id f) := by
  unfold State.onJob
  repeat' first | with_reducible assumption

theorem memOk_startGrant {s : State} {j : HomeJob} {m : Msg} {d : Line} (h0 : MemOk s) :
    MemOk (State.startGrant s j m d) := by
  unfold State.startGrant
  repeat' first
    | with_reducible assumption | with_reducible apply memOk_reapply | with_reducible apply memOk_splice
    | with_reducible apply memOk_replyOn | with_reducible apply memOk_onJob
    | (with_reducible refine memOk_ofGot (by assumption) ?_) | (with_reducible refine memOk_ofWait (by assumption) ?_)
    | (extract_lets +descend +onlyGivenNames x; clear_value x) | split | with_reducible apply memOk_id
    | (unfold MemOk; dsimp only)

theorem memOk_failOwn {s : State} {j : HomeJob} {m : Msg} {cause : BitVec 8} {extra : Word} (h0 : MemOk s) :
    MemOk (State.failOwn s j m cause extra) := by
  unfold State.failOwn
  repeat' first
    | with_reducible assumption | with_reducible apply memOk_endMiss | with_reducible apply memOk_failMiss
    | with_reducible apply memOk_endJob

theorem memOk_advanceJob {s : State} {j : HomeJob} {hostOk : Bool} (h0 : MemOk s) :
    MemOk (State.advanceJob s j hostOk) := by
  unfold State.advanceJob
  repeat' first
    | with_reducible assumption | with_reducible apply memOk_l3Put | with_reducible apply memOk_l3Drop
    | with_reducible apply memOk_want | with_reducible apply memOk_fillL3 | with_reducible apply memOk_dropHome
    | with_reducible apply memOk_cleanHome | with_reducible apply memOk_homeData | with_reducible apply memOk_endJob
    | with_reducible apply memOk_onJob | with_reducible apply memOk_startGrant | with_reducible apply memOk_failOwn
    | (with_reducible refine memOk_ofGot (by assumption) ?_) | (with_reducible refine memOk_ofWait (by assumption) ?_)
    | (extract_lets +descend +onlyGivenNames x; refine memOk_cut (P := MemOk x) ?_ ?_
       (on_goal 1 => (dsimp only [x]; clear x))
       (on_goal 2 => (intro hx; clear_value x)))
    | (extract_lets +descend +onlyGivenNames x; clear_value x) | split | with_reducible apply memCanon_host_line

theorem memOk_flushJobs {s : State} {l : LineId} (h0 : MemOk s) :
    MemOk (State.flushJobs s l) := by
  unfold State.flushJobs
  repeat' first
    | with_reducible assumption | with_reducible apply memOk_homeData
    | with_reducible refine memOk_foldl (fun _ _ _ => ?_) ?_ | split

theorem memOk_startJob {s : State} {j : HomeJob} (h0 : MemOk s) :
    MemOk (State.startJob s j) := by
  unfold State.startJob
  repeat' first
    | with_reducible assumption | with_reducible apply memOk_startCut | with_reducible apply memOk_finishCut
    | with_reducible apply memOk_onJob | with_reducible apply memOk_flushJobs
    | (extract_lets +descend +onlyGivenNames x; refine memOk_cut (P := MemOk x) ?_ ?_
       (on_goal 1 => (dsimp only [x]; clear x))
       (on_goal 2 => (intro hx; clear_value x)))
    | (extract_lets +descend +onlyGivenNames x; refine memOk_cut (P := ∀ a s, MemOk s → MemOk (x a s)) ?_ ?_
       (on_goal 1 => (dsimp only [x]; clear x))
       (on_goal 2 => (intro hC; clear_value x)))
    | (extract_lets +descend +onlyGivenNames x; clear_value x) | split | with_reducible apply hC | intro _

theorem memOk_kickHomes {s : State} (h0 : MemOk s) :
    MemOk (State.kickHomes s) := by
  unfold State.kickHomes
  repeat' first
    | with_reducible assumption | with_reducible apply memOk_advanceJob | with_reducible apply memOk_startJob
    | with_reducible refine memOk_foldl (fun _ _ _ => ?_) ?_
    | (extract_lets +descend +onlyGivenNames x; refine memOk_cut (P := MemOk x) ?_ ?_
       (on_goal 1 => (dsimp only [x]; clear x))
       (on_goal 2 => (intro hx; clear_value x)))
    | split

theorem memOk_addJob {s : State} {l : LineId} {op : HomeOp} (h0 : MemOk s) :
    MemOk (State.addJob s l op) := by
  unfold State.addJob
  repeat' first | with_reducible assumption | with_reducible apply memOk_bump

theorem memOk_ownership {s : State} {m : Msg} (h0 : MemOk s) :
    MemOk (State.ownership s m) := by
  unfold State.ownership
  repeat' first
    | with_reducible assumption | with_reducible apply memOk_want | with_reducible apply memOk_dropMsg
    | with_reducible apply memOk_forward | with_reducible apply memOk_holdMsg | with_reducible apply memOk_addJob
    | (extract_lets +descend +onlyGivenNames x; refine memOk_cut (P := MemOk x) ?_ ?_
       (on_goal 1 => (dsimp only [x]; clear x))
       (on_goal 2 => (intro hx; clear_value x)))
    | split

theorem memOk_noteBounce {s : State} {x : CacheLine} {req : CacheId} (h0 : MemOk s) :
    MemOk (State.noteBounce s x req) := by
  unfold State.noteBounce
  repeat' first
    | with_reducible assumption | with_reducible apply memOk_bump
    | (extract_lets +descend +onlyGivenNames x; refine memOk_cut (P := MemOk x) ?_ ?_
       (on_goal 1 => (dsimp only [x]; clear x))
       (on_goal 2 => (intro hx; clear_value x)))
    | (extract_lets +descend +onlyGivenNames x; clear_value x) | split

theorem memOk_cutStep {s : State} {m : Msg} {discard own : Bool} (h0 : MemOk s) :
    MemOk (State.cutStep s m discard own) := by
  unfold State.cutStep
  repeat' first
    | with_reducible assumption | with_reducible apply memOk_onTree | with_reducible apply memOk_dropMsg
    | with_reducible apply memOk_sendOut | with_reducible apply memOk_startCut | with_reducible apply memOk_cutLocals
    | with_reducible apply memOk_finishCut | with_reducible apply memOk_noteBounce
    | with_reducible refine memOk_foldl (fun _ _ _ => ?_) ?_
    | (extract_lets +descend +onlyGivenNames x; refine memOk_cut (P := MemOk x) ?_ ?_
       (on_goal 1 => (dsimp only [x]; clear x))
       (on_goal 2 => (intro hx; clear_value x)))
    | (extract_lets +descend +onlyGivenNames x; clear_value x) | split

theorem memOk_ackStep {s : State} {m : Msg} {d : Option Datum} (h0 : MemOk s) :
    MemOk (State.ackStep s m d) := by
  unfold State.ackStep
  repeat' first
    | with_reducible assumption | with_reducible apply memOk_onTree | with_reducible apply memOk_dropMsg
    | with_reducible apply memOk_finishCut

theorem memOk_relieve {s : State} (h0 : MemOk s) :
    MemOk (State.relieve s) := by
  unfold State.relieve
  repeat' first
    | with_reducible assumption | with_reducible apply memOk_shrink | with_reducible apply memOk_l3Writeback
    | (extract_lets +descend +onlyGivenNames x; refine memOk_cut (P := MemOk x) ?_ ?_
       (on_goal 1 => (dsimp only [x]; clear x))
       (on_goal 2 => (intro hx; clear_value x)))
    | split

theorem memOk_kick {s : State} (h0 : MemOk s) :
    MemOk (State.kick s) := by
  unfold State.kick
  repeat' first
    | with_reducible assumption | with_reducible apply memOk_progress | with_reducible apply memOk_kickHomes
    | with_reducible apply memOk_relieve | with_reducible apply memOk_settleReads

theorem memOk_writebackStep {s : State} {m : Msg} {d : Datum} (h0 : MemOk s) :
    MemOk (State.writebackStep s m d) := by
  unfold State.writebackStep
  repeat' first
    | with_reducible assumption | with_reducible apply memOk_freeTree | with_reducible apply memOk_dropMsg
    | with_reducible apply memOk_sendOut | with_reducible apply memOk_reapply | with_reducible apply memOk_leaveTree
    | with_reducible apply memOk_dropCopy | with_reducible apply memOk_homeData
    | (extract_lets +descend +onlyGivenNames x; refine memOk_cut (P := MemOk x) ?_ ?_
       (on_goal 1 => (dsimp only [x]; clear x))
       (on_goal 2 => (intro hx; clear_value x)))
    | split

theorem memOk_pruneStep {s : State} {m : Msg} (h0 : MemOk s) :
    MemOk (State.pruneStep s m) := by
  unfold State.pruneStep
  repeat' first
    | with_reducible assumption | with_reducible apply memOk_onTree | with_reducible apply memOk_dropMsg
    | with_reducible apply memOk_reapply | with_reducible apply memOk_pruneTest
    | (extract_lets +descend +onlyGivenNames x; refine memOk_cut (P := MemOk x) ?_ ?_
       (on_goal 1 => (dsimp only [x]; clear x))
       (on_goal 2 => (intro hx; clear_value x)))
    | split

theorem memOk_onMsg {s : State} {id : Nat} {f : Msg → State} (h0 : MemOk s) (hf : ∀ a, MemOk (f a)) :
    MemOk (State.onMsg s id f) := by
  unfold State.onMsg
  repeat' first | with_reducible assumption | with_reducible apply hf | with_reducible apply memOk_kick | split

theorem memOk_execCatchableRead {id : Nat} {s : State} (h0 : MemOk s) :
    OutMemOk (execCatchableRead id s) := by
  unfold execCatchableRead
  repeat' first
    | with_reducible assumption | with_reducible apply outMemOk_event | with_reducible apply memOk_catchable
    | with_reducible apply memOk_onMsg | split | intro _

theorem memOk_execSteeredRead {id : Nat} {s : State} (h0 : MemOk s) :
    OutMemOk (execSteeredRead id s) := by
  unfold execSteeredRead
  repeat' first
    | with_reducible assumption | with_reducible apply outMemOk_event | with_reducible apply memOk_steered
    | with_reducible apply memOk_onMsg | split | intro _

theorem memOk_execDirectRead {id : Nat} {s : State} (h0 : MemOk s) :
    OutMemOk (execDirectRead id s) := by
  unfold execDirectRead
  repeat' first
    | with_reducible assumption | with_reducible apply outMemOk_event | with_reducible apply memOk_direct
    | with_reducible apply memOk_onMsg | split | intro _

theorem memOk_execReadReply {id : Nat} {s : State} (h0 : MemOk s) :
    OutMemOk (execReadReply id s) := by
  unfold execReadReply
  repeat' first
    | with_reducible assumption | with_reducible apply outMemOk_event | with_reducible apply memOk_replyStep
    | with_reducible apply memOk_onMsg | split | intro _

theorem memOk_execOwnershipRequest {id : Nat} {s : State} (h0 : MemOk s) :
    OutMemOk (execOwnershipRequest id s) := by
  unfold execOwnershipRequest
  repeat' first
    | with_reducible assumption | with_reducible apply outMemOk_event | with_reducible apply memOk_ownership
    | with_reducible apply memOk_onMsg | split | intro _

theorem memOk_execCut {id : Nat} {s : State} (h0 : MemOk s) :
    OutMemOk (execCut id s) := by
  unfold execCut
  repeat' first
    | with_reducible assumption | with_reducible apply outMemOk_event | with_reducible apply memOk_cutStep
    | with_reducible apply memOk_onMsg | split | intro _

theorem memOk_execCutAcknowledgement {id : Nat} {s : State} (h0 : MemOk s) :
    OutMemOk (execCutAcknowledgement id s) := by
  unfold execCutAcknowledgement
  repeat' first
    | with_reducible assumption | with_reducible apply outMemOk_event | with_reducible apply memOk_ackStep
    | with_reducible apply memOk_onMsg | split | intro _

theorem memOk_execGrant {id : Nat} {s : State} (h0 : MemOk s) :
    OutMemOk (execGrant id s) := by
  unfold execGrant
  repeat' first
    | with_reducible assumption | with_reducible apply outMemOk_event | with_reducible apply memOk_grantStep
    | with_reducible apply memOk_onMsg | split | intro _

theorem memOk_execHolderEviction {cache : CacheId} {line : LineId} {s : State} (h0 : MemOk s) :
    OutMemOk (execHolderEviction cache line s) := by
  unfold execHolderEviction
  repeat' first
    | with_reducible assumption | with_reducible apply outMemOk_event | with_reducible apply memOk_evict
    | with_reducible apply memOk_kick

theorem memOk_execWritebackAcknowledgement {id : Nat} {s : State} (h0 : MemOk s) :
    OutMemOk (execWritebackAcknowledgement id s) := by
  unfold execWritebackAcknowledgement
  repeat' first
    | with_reducible assumption | with_reducible apply outMemOk_event | with_reducible apply memOk_writebackStep
    | with_reducible apply memOk_onMsg | split | intro _

theorem memOk_execPrune {id : Nat} {s : State} (h0 : MemOk s) :
    OutMemOk (execPrune id s) := by
  unfold execPrune
  repeat' first
    | with_reducible assumption | with_reducible apply outMemOk_event | with_reducible apply memOk_pruneStep
    | with_reducible apply memOk_onMsg | split | intro _

theorem memOk_execBackoffResend {id : Nat} {s : State} (h0 : MemOk s) :
    OutMemOk (execBackoffResend id s) := by
  unfold execBackoffResend
  repeat' first
    | with_reducible assumption | with_reducible apply outMemOk_event | with_reducible apply memOk_send
    | (extract_lets +descend +onlyGivenNames x; refine memOk_cut (P := MemOk x) ?_ ?_
       (on_goal 1 => (dsimp only [x]; clear x))
       (on_goal 2 => (intro hx; clear_value x)))
    | split

theorem memOk_execOwnershipDelayExpiry {id : Nat} {s : State} (h0 : MemOk s) :
    OutMemOk (execOwnershipDelayExpiry id s) := by
  unfold execOwnershipDelayExpiry
  repeat' first | with_reducible assumption | with_reducible apply outMemOk_event | with_reducible apply memOk_sendRequest | split

theorem memOk_execBounceEntryClear {die : Fin 8} {core : Fin 64} {line : LineId} {s : State} (h0 : MemOk s) :
    OutMemOk (execBounceEntryClear die core line s) := by
  unfold execBounceEntryClear
  repeat' first
    | with_reducible assumption | with_reducible apply outMemOk_event
    | (extract_lets +descend +onlyGivenNames x; clear_value x) | split

theorem memOk_execFarAtomic {id : Nat} {s : State} (h0 : MemOk s) :
    OutMemOk (execFarAtomic id s) := by
  unfold execFarAtomic
  repeat' first
    | with_reducible assumption | with_reducible apply outMemOk_event | with_reducible apply memOk_performFar
    | with_reducible apply memOk_kick | split

/-! ## Fabric -/

theorem memOk_failAll {s : State} {failing : List Acc} {rds : List HwRead} (h0 : MemOk s) :
    MemOk (State.failAll s failing rds) := by
  unfold State.failAll
  repeat' first
    | with_reducible assumption | with_reducible apply memOk_failAcc | with_reducible apply memOk_readEnds
    | with_reducible refine memOk_foldl (fun _ _ _ => ?_) ?_

theorem memOk_lineFailed {s : State} {n : Nat} (h0 : MemOk s) :
    MemOk (State.lineFailed s n) := by
  unfold State.lineFailed
  repeat' first | with_reducible assumption | with_reducible apply memOk_failAll

theorem memOk_folioFailed {s : State} {n : Nat} (h0 : MemOk s) :
    MemOk (State.folioFailed s n) := by
  unfold State.folioFailed
  repeat' first | with_reducible assumption | with_reducible apply memOk_onFolio | with_reducible apply memOk_failAll

theorem memOk_linkFailed {s : State} {w : PoolWhat} (h0 : MemOk s) :
    MemOk (State.linkFailed s w) := by
  unfold State.linkFailed
  repeat' first
    | with_reducible assumption | with_reducible apply memOk_dropAcc | with_reducible apply memOk_onCmd
    | with_reducible apply memOk_teamReport | with_reducible apply memOk_failAcc
    | with_reducible apply memOk_lineFailed | with_reducible apply memOk_folioFailed | split

theorem memOk_poolRequest {s : State} {die : Fin 8} {pa : Nat} {w : PoolWhat} (h0 : MemOk s) :
    MemOk (State.poolRequest s die pa w) := by
  unfold State.poolRequest
  repeat' first
    | with_reducible assumption | with_reducible apply memOk_portRequest | with_reducible apply memOk_linkFailed
    | (with_reducible refine memOk_ofSome (by assumption) ?_) | split

theorem memOk_answer {s : State} {r : PoolReq} (h0 : MemOk s) :
    MemOk (State.answer s r) := by
  unfold State.answer
  repeat' first | with_reducible assumption

theorem memOk_dropReq {s : State} {id : Nat} (h0 : MemOk s) :
    MemOk (State.dropReq s id) := by
  unfold State.dropReq
  repeat' first | with_reducible assumption

theorem memOk_resendAll {s : State} {p : Fin 48} (h0 : MemOk s) :
    MemOk (State.resendAll s p) := by
  unfold State.resendAll
  repeat' first
    | with_reducible assumption | with_reducible apply memOk_linkFailed | with_reducible apply memOk_dropReq
    | with_reducible refine memOk_foldl (fun _ _ _ => ?_) ?_ | split

theorem memOk_onPort {s : State} {p : Fin 48} {f : PoolPort → PoolPort} (h0 : MemOk s) :
    MemOk (State.onPort s p f) := by
  unfold State.onPort
  repeat' first | with_reducible assumption

theorem memOk_healthNow {s : State} (h0 : MemOk s) :
    MemOk (State.healthNow s) := by
  unfold State.healthNow
  repeat' first | with_reducible assumption | with_reducible apply memOk_updateHealth

theorem memOk_execLaneFailure {port : Fin 48} {s : State} (h0 : MemOk s) :
    OutMemOk (execLaneFailure port s) := by
  unfold execLaneFailure
  repeat' first
    | with_reducible assumption | with_reducible apply outMemOk_event | with_reducible apply memOk_sendHeld
    | with_reducible apply memOk_kick | with_reducible apply memOk_resendAll | with_reducible apply memOk_onPort
    | with_reducible apply memOk_healthNow
    | (extract_lets +descend +onlyGivenNames x; refine memOk_cut (P := MemOk x) ?_ ?_
       (on_goal 1 => (dsimp only [x]; clear x))
       (on_goal 2 => (intro hx; clear_value x)))
    | (extract_lets +descend +onlyGivenNames x; clear_value x) | split

theorem memOk_execRetrainStepComplete {port : Fin 48} {s : State} (h0 : MemOk s) :
    OutMemOk (execRetrainStepComplete port s) := by
  unfold execRetrainStepComplete
  repeat' first
    | with_reducible assumption | with_reducible apply outMemOk_event | with_reducible apply memOk_sendHeld
    | with_reducible apply memOk_kick | with_reducible apply memOk_onPort
    | (extract_lets +descend +onlyGivenNames x; clear_value x) | split

theorem memOk_execPortReset {port : Fin 48} {s : State} (h0 : MemOk s) :
    OutMemOk (execPortReset port s) := by
  unfold execPortReset
  repeat' first
    | with_reducible assumption | with_reducible apply outMemOk_event | with_reducible apply memOk_onPort
    | with_reducible apply memOk_healthNow | (extract_lets +descend +onlyGivenNames x; clear_value x) | split

theorem memOk_lineRead {s : State} {n : Nat} (h0 : MemOk s) :
    MemOk (State.lineRead s n) := by
  unfold State.lineRead
  repeat' first
    | with_reducible assumption | with_reducible apply memOk_l3Put
    | (extract_lets +descend +onlyGivenNames x; clear_value x) | split

theorem memOk_storePool {s : State} {n : Nat} {new : Line} {mask : BitVec 128} (h0 : MemOk s) :
    MemOk (State.storePool s n new mask) := by
  unfold State.storePool
  repeat' first
    | with_reducible assumption | with_reducible apply memOk_repair
    | (extract_lets +descend +onlyGivenNames x; refine memOk_cut (P := MemOk x) ?_ ?_
       (on_goal 1 => (dsimp only [x]; clear x))
       (on_goal 2 => (intro hx; clear_value x)))
    | split | with_reducible apply memCanon_pool_line

theorem memOk_execPoolResponse {id : Nat} {s : State} (h0 : MemOk s) :
    OutMemOk (execPoolResponse id s) := by
  unfold execPoolResponse
  repeat' first
    | with_reducible assumption | with_reducible apply outMemOk_event | with_reducible apply memOk_sendHeld
    | with_reducible apply memOk_kick | with_reducible apply memOk_dropReq | with_reducible apply memOk_lineRead
    | with_reducible apply memOk_storePool | split

theorem memOk_execPoolRequestTimeout {id : Nat} {s : State} (h0 : MemOk s) :
    OutMemOk (execPoolRequestTimeout id s) := by
  unfold execPoolRequestTimeout
  repeat' first
    | with_reducible assumption | with_reducible apply outMemOk_event | with_reducible apply memOk_sendHeld
    | with_reducible apply memOk_kick | with_reducible apply memOk_linkFailed | with_reducible apply memOk_dropReq
    | split

theorem memOk_reapplyFolio {s : State} {n : Nat} (h0 : MemOk s) :
    MemOk (State.reapplyFolio s n) := by
  unfold State.reapplyFolio
  repeat' first
    | with_reducible assumption | with_reducible apply memOk_reapply
    | with_reducible refine memOk_foldl (fun _ _ _ => ?_) ?_

theorem memOk_startFolioCut {s : State} {n : Nat} {toShared : Bool} (h0 : MemOk s) :
    MemOk (State.startFolioCut s n toShared) := by
  unfold State.startFolioCut
  repeat' first
    | with_reducible assumption | with_reducible apply memOk_onFolio | with_reducible apply memOk_addJob
    | with_reducible refine memOk_foldl (fun _ _ _ => ?_) ?_

theorem memOk_execFolioRequest {folio : Nat} {s : State} (h0 : MemOk s) :
    OutMemOk (execFolioRequest folio s) := by
  unfold execFolioRequest
  repeat' first
    | with_reducible assumption | with_reducible apply outMemOk_event | with_reducible apply memOk_onFolio
    | with_reducible apply memOk_kick | with_reducible apply memOk_poolRequest
    | with_reducible apply memOk_startFolioCut | (extract_lets +descend +onlyGivenNames x; clear_value x) | split

theorem memOk_execFolioGrant {folio : Nat} {s : State} (h0 : MemOk s) :
    OutMemOk (execFolioGrant folio s) := by
  unfold execFolioGrant
  repeat' first
    | with_reducible assumption | with_reducible apply outMemOk_event | with_reducible apply memOk_onFolio
    | with_reducible apply memOk_kick | with_reducible apply memOk_answer | with_reducible apply memOk_reapplyFolio
    | split

theorem memOk_execFolioCut {folio : Nat} {toShared : Bool} {s : State} (h0 : MemOk s) :
    OutMemOk (execFolioCut folio toShared s) := by
  unfold execFolioCut
  repeat' first
    | with_reducible assumption | with_reducible apply outMemOk_event | with_reducible apply memOk_kick
    | with_reducible apply memOk_startFolioCut | (extract_lets +descend +onlyGivenNames x; clear_value x) | split

theorem memOk_execFolioLineAck {id : Nat} {s : State} (h0 : MemOk s) :
    OutMemOk (execFolioLineAck id s) := by
  unfold execFolioLineAck
  repeat' first
    | with_reducible assumption | with_reducible apply outMemOk_event | with_reducible apply memOk_onFolio
    | with_reducible apply memOk_l3Writeback | with_reducible apply memOk_homeData | with_reducible apply memOk_endJob
    | with_reducible apply memOk_kick | with_reducible apply memOk_reapplyFolio
    | (extract_lets +descend +onlyGivenNames x; refine memOk_cut (P := MemOk x) ?_ ?_
       (on_goal 1 => (dsimp only [x]; clear x))
       (on_goal 2 => (intro hx; clear_value x)))
    | (extract_lets +descend +onlyGivenNames x; clear_value x) | split

theorem memOk_execSnpInv {line : Nat} {s : State} (h0 : MemOk s) :
    OutMemOk (execSnpInv line s) := by
  unfold execSnpInv
  repeat' first
    | with_reducible assumption | with_reducible apply outMemOk_event | with_reducible apply memOk_addJob
    | with_reducible apply memOk_kick

theorem memOk_execSnpData {line : Nat} {s : State} (h0 : MemOk s) :
    OutMemOk (execSnpData line s) := by
  unfold execSnpData
  repeat' first
    | with_reducible assumption | with_reducible apply outMemOk_event | with_reducible apply memOk_addJob
    | with_reducible apply memOk_kick

theorem memOk_execSnpCur {_line : Nat} {s : State} (h0 : MemOk s) :
    OutMemOk (execSnpCur _line s) := by
  unfold execSnpCur
  repeat' first | with_reducible assumption | with_reducible apply outMemOk_event

theorem memOk_execCxlCacheResponse {id : Nat} {s : State} (h0 : MemOk s) :
    OutMemOk (execCxlCacheResponse id s) := by
  unfold execCxlCacheResponse
  repeat' first
    | with_reducible assumption | with_reducible apply outMemOk_event | with_reducible apply memOk_failRead
    | with_reducible apply memOk_serveHome | with_reducible apply memOk_failOwn
    | with_reducible apply memOk_advanceJob | with_reducible apply memOk_kick | split

theorem memOk_execInboundWrite {line : LineId} {cls : BitVec 2} {off : Fin 128} {data : List Byte} {s : State} (h0 : MemOk s) :
    OutMemOk (execInboundWrite line cls off data s) := by
  unfold execInboundWrite
  repeat' first
    | with_reducible assumption | with_reducible apply outMemOk_event | with_reducible apply memOk_noteClass
    | with_reducible apply memOk_addJob | with_reducible apply memOk_kick
    | (extract_lets +descend +onlyGivenNames x; refine memOk_cut (P := MemOk x) ?_ ?_
       (on_goal 1 => (dsimp only [x]; clear x))
       (on_goal 2 => (intro hx; clear_value x)))
    | split | with_reducible apply memCanon_host_line

theorem memOk_execInboundRead {_line : LineId} {_off : Fin 128} {_len : Nat} {s : State} (h0 : MemOk s) :
    OutMemOk (execInboundRead _line _off _len s) := by
  unfold execInboundRead
  repeat' first | with_reducible assumption | with_reducible apply outMemOk_event

theorem memOk_stfDone {s : State} {a : Acc} {l : LineId} {foff : Nat} (h0 : MemOk s) :
    MemOk (State.stfDone s a l foff) := by
  unfold State.stfDone
  repeat' first
    | with_reducible assumption | with_reducible apply memOk_onAcc | with_reducible apply memOk_poolRequest
    | with_reducible apply memOk_answer | split

theorem memOk_poolWrite {s : State} {l : LineId} {off : Nat} {bs : List Byte} (h0 : MemOk s) :
    MemOk (State.poolWrite s l off bs) := by
  unfold State.poolWrite
  repeat' first | with_reducible assumption | with_reducible apply memCanon_pool_setN

theorem memOk_stfWrite {s : State} {a : Acc} {l : LineId} {off : Nat} {cls : BitVec 2} {bs : List Byte} {flag : LineId} {foff : Nat} (h0 : MemOk s) :
    MemOk (State.stfWrite s a l off cls bs flag foff) := by
  unfold State.stfWrite
  repeat' first
    | with_reducible assumption | with_reducible apply memOk_l3Put | with_reducible apply memOk_want
    | with_reducible apply memOk_failAcc | with_reducible apply memOk_fillL3 | with_reducible apply memOk_dropHome
    | with_reducible apply memOk_giveUp | with_reducible apply memOk_addJob | with_reducible apply memOk_startFolioCut
    | with_reducible apply memOk_stfDone | with_reducible apply memOk_poolWrite
    | (with_reducible refine memOk_ofGot (by assumption) ?_) | (with_reducible refine memOk_ofWait (by assumption) ?_)
    | (extract_lets +descend +onlyGivenNames x; refine memOk_cut (P := MemOk x) ?_ ?_
       (on_goal 1 => (dsimp only [x]; clear x))
       (on_goal 2 => (intro hx; clear_value x)))
    | (extract_lets +descend +onlyGivenNames x; clear_value x) | split | with_reducible apply memCanon_host_line

theorem memOk_execStfDataAcknowledgement {id : Nat} {s : State} (h0 : MemOk s) :
    OutMemOk (execStfDataAcknowledgement id s) := by
  unfold execStfDataAcknowledgement
  repeat' first
    | with_reducible assumption | with_reducible apply outMemOk_event | with_reducible apply memOk_kick
    | with_reducible apply memOk_stfWrite | split

theorem memOk_execFlagIncrement {id : Nat} {s : State} (h0 : MemOk s) :
    OutMemOk (execFlagIncrement id s) := by
  unfold execFlagIncrement
  repeat' first
    | with_reducible assumption | with_reducible apply outMemOk_event | with_reducible apply memOk_dropAcc
    | with_reducible apply memOk_kick | with_reducible apply memOk_answer | with_reducible apply memOk_startFolioCut
    | (extract_lets +descend +onlyGivenNames x; clear_value x) | split | with_reducible apply memCanon_pool_setN

/-! ## Hardware -/

theorem memOk_homeFetch {s : State} {die : Fin 8} {l : LineId} {tag : BitVec 8} (h0 : MemOk s) :
    MemOk (State.homeFetch s die l tag).1 := by
  unfold State.homeFetch
  repeat' first
    | with_reducible assumption | with_reducible apply memOk_want | with_reducible apply memOk_fillL3
    | with_reducible apply memOk_dropHome | (with_reducible refine memOk_ofGot (by assumption) ?_)
    | (with_reducible refine memOk_ofWait (by assumption) ?_) | split

theorem memOk_copyFetch {s : State} {die : Fin 8} {x : CacheLine} {tag : BitVec 8} (h0 : MemOk s) :
    MemOk (State.copyFetch s die x tag).1 := by
  unfold State.copyFetch
  repeat' first
    | with_reducible assumption | with_reducible apply memOk_retag | with_reducible apply memOk_loseCopy
    | with_reducible apply memOk_scrubCopy | split

theorem memOk_ncRead {s : State} {die : Fin 8} {l1 : CacheId} {l : LineId} {tag : BitVec 8} (h0 : MemOk s) :
    MemOk (State.ncRead s die l1 l tag).1 := by
  unfold State.ncRead
  repeat' first
    | with_reducible assumption | with_reducible apply memOk_homeFetch | with_reducible apply memOk_copyFetch | split

theorem memOk_readAs {s : State} {die : Fin 8} {a : TlbAt} {asid : BitVec 16} {needs : Needs} {va : Addr} {n : Nat} (h0 : MemOk s) :
    MemOk (State.readAs s die a asid needs va n).1 := by
  unfold State.readAs
  repeat' first
    | with_reducible assumption | with_reducible apply memOk_dcRead | with_reducible apply memOk_translateAll
    | with_reducible apply memOk_overAll | with_reducible apply memOk_homeFetch
    | (with_reducible refine memOk_ofPair (by assumption) ?_) | split

theorem memOk_readGlobal {s : State} {die : Fin 8} {a : TlbAt} {asid : BitVec 16} {va : Addr} {n : Nat} (h0 : MemOk s) :
    MemOk (State.readGlobal s die a asid va n).1 := by
  unfold State.readGlobal
  repeat' first | with_reducible assumption | with_reducible apply memOk_readAs

theorem memOk_homeWrite {s : State} {die : Fin 8} {l : LineId} {cls : BitVec 2} {tag : BitVec 8} {off : Nat} {bs : List Byte} (h0 : MemOk s) :
    MemOk (State.homeWrite s die l cls tag off bs).1 := by
  unfold State.homeWrite
  repeat' first
    | with_reducible assumption | with_reducible apply memOk_l3Put | with_reducible apply memOk_want
    | with_reducible apply memOk_retagL3 | with_reducible apply memOk_noteClass | with_reducible apply memOk_addJob
    | with_reducible apply memOk_homeFetch | (with_reducible refine memOk_ofPair (by assumption) ?_)
    | (extract_lets +descend +onlyGivenNames x; refine memOk_cut (P := MemOk x) ?_ ?_
       (on_goal 1 => (dsimp only [x]; clear x))
       (on_goal 2 => (intro hx; clear_value x)))
    | (extract_lets +descend +onlyGivenNames x; clear_value x) | split

theorem memOk_writeGlobal {s : State} {die : Fin 8} {asid : BitVec 16} {va : Addr} {bs : List Byte} (h0 : MemOk s) :
    MemOk (State.writeGlobal s die asid va bs).1 := by
  unfold State.writeGlobal
  repeat' first
    | with_reducible assumption | with_reducible apply memOk_translateAll | with_reducible apply memOk_overAll
    | with_reducible apply memOk_homeWrite | (with_reducible refine memOk_ofPair (by assumption) ?_) | split

theorem memOk_fetchLine {s : State} {c : CoreId} {l : LineId} {cc : BitVec 2} {tag : BitVec 8} (h0 : MemOk s) :
    MemOk (State.fetchLine s c l cc tag).1 := by
  unfold State.fetchLine
  repeat' first
    | with_reducible assumption | with_reducible apply memOk_retag | with_reducible apply memOk_newCopy
    | with_reducible apply memOk_dcRead | with_reducible apply memOk_ncRead
    | (with_reducible refine memOk_ofPair (by assumption) ?_) | (extract_lets +descend +onlyGivenNames x; clear_value x)
    | split

theorem memOk_fetchWord {s : State} {c : CoreId} {asid : BitVec 16} {va : Addr} (h0 : MemOk s) :
    MemOk (State.fetchWord s c asid va).1 := by
  unfold State.fetchWord
  repeat' first
    | with_reducible assumption | with_reducible apply memOk_translateAll | with_reducible apply memOk_overAll
    | with_reducible apply memOk_fetchLine | (with_reducible refine memOk_ofPair (by assumption) ?_) | split

theorem memOk_checkBlock {s : State} {c : CoreId} {asid : BitVec 16} {target : Addr} (h0 : MemOk s) :
    MemOk (State.checkBlock s c asid target).1 := by
  unfold State.checkBlock
  repeat' first
    | with_reducible assumption | with_reducible apply memOk_fetchWord
    | (with_reducible refine memOk_ofPair (by assumption) ?_) | split

/-! ## Mem -/

theorem memOk_resolveVa {s : State} {tm : Team} {th : Thread} {host flat : Bool} {va : Addr} {needs : Needs} {ord : Order} {sc : Scope} {atomic : Option (Option AtomOp × AtomType)} (h0 : MemOk s) :
    MemOk (State.resolveVa s tm th host flat va needs ord sc atomic).1 := by
  unfold State.resolveVa
  repeat' first
    | with_reducible assumption | with_reducible apply memOk_translate
    | (with_reducible refine memOk_ofPair (by assumption) ?_) | (extract_lets +descend +onlyGivenNames x; clear_value x)
    | split

theorem memOk_resolve {s : State} {tm : Team} {th : Thread} {sp : Space} {legal : Bool} {base : Opnd} {off : BitVec 14} {n : Nat} {needs : Needs} {ord : Order} {sc : Scope} {atomic : Option (Option AtomOp × AtomType)} (h0 : MemOk s) :
    MemOk (State.resolve s tm th sp legal base off n needs ord sc atomic).1 := by
  unfold State.resolve
  repeat' first
    | with_reducible assumption | with_reducible apply memOk_resolveVa
    | (extract_lets +descend +onlyGivenNames x; clear_value x) | split

theorem memOk_askStf {s : State} {id : Nat} (h0 : MemOk s) :
    MemOk (State.askStf s id) := by
  unfold State.askStf
  repeat' first | with_reducible assumption | with_reducible apply memOk_poolRequest | split

theorem memOk_launch {s : State} {a : Acc} (h0 : MemOk s) :
    MemOk (State.launch s a) := by
  unfold State.launch
  repeat' first
    | with_reducible assumption | with_reducible apply memOk_onThread | with_reducible apply memOk_addHold
    | with_reducible apply memOk_newAcc | with_reducible apply memOk_askStf
    | with_reducible refine memOk_foldl (fun _ _ _ => ?_) ?_
    | (extract_lets +descend +onlyGivenNames x; refine memOk_cut (P := MemOk x) ?_ ?_
       (on_goal 1 => (dsimp only [x]; clear x))
       (on_goal 2 => (intro hx; clear_value x)))
    | split

theorem memOk_loadBody {i : Instr} {d base : Opnd} {cnt : Fin 4} {pred : Option (BitVec 3)} {mc : MemCtl} :
    BodyMemOk (loadBody i d base cnt pred mc) := by
  intro s th tids h0
  unfold loadBody
  try dsimp only
  repeat' first
    | with_reducible assumption | with_reducible apply memOk_writeRegs | with_reducible apply memOk_repairPreds
    | with_reducible apply memOk_resolve | with_reducible apply memOk_launch
    | (with_reducible refine memOk_ofPair (by assumption) ?_) | split

theorem memOk_execLd {u : Bool} {d base : Opnd} {cnt : BitVec 2} {mc : MemCtl} {s : State} (h0 : MemOk s) :
    OutMemOk (execLd u d base cnt mc s) := by
  unfold execLd
  repeat' first | with_reducible assumption | with_reducible apply memOk_execLanes | with_reducible apply memOk_loadBody

theorem memOk_execLdnr {u : Bool} {d base : Opnd} {q : BitVec 3} {cnt : BitVec 2} {mc : MemCtl} {s : State} (h0 : MemOk s) :
    OutMemOk (execLdnr u d base q cnt mc s) := by
  unfold execLdnr
  repeat' first | with_reducible assumption | with_reducible apply memOk_execLanes | with_reducible apply memOk_loadBody

theorem memOk_storeBody {i : Instr} {d base : Opnd} {mc : MemCtl} :
    BodyMemOk (storeBody i d base mc) := by
  intro s th tids h0
  unfold storeBody
  try dsimp only
  repeat' first
    | with_reducible assumption | with_reducible apply memOk_resolve | with_reducible apply memOk_launch
    | (with_reducible refine memOk_ofPair (by assumption) ?_) | split

theorem memOk_execSt {u : Bool} {d base : Opnd} {mc : MemCtl} {s : State} (h0 : MemOk s) :
    OutMemOk (execSt u d base mc s) := by
  unfold execSt
  repeat' first | with_reducible assumption | with_reducible apply memOk_execLanes | with_reducible apply memOk_storeBody

theorem memOk_resolveFlag {s : State} {tm : Team} {fa : Addr} (h0 : MemOk s) :
    MemOk (State.resolveFlag s tm fa).1 := by
  unfold State.resolveFlag
  repeat' first
    | with_reducible assumption | with_reducible apply memOk_translate
    | (with_reducible refine memOk_ofPair (by assumption) ?_) | (extract_lets +descend +onlyGivenNames x; clear_value x)
    | split

theorem memOk_stfBody {i : Instr} {d base : Opnd} {mc : MemCtl} {fbase : Opnd} {foff : BitVec 16} :
    BodyMemOk (stfBody i d base mc fbase foff) := by
  intro s th tids h0
  unfold stfBody
  try dsimp only
  repeat' first
    | with_reducible assumption | with_reducible apply memOk_resolve | with_reducible apply memOk_launch
    | with_reducible apply memOk_resolveFlag | (with_reducible refine memOk_ofPair (by assumption) ?_) | split

theorem memOk_execStf {u : Bool} {d base : Opnd} {mc : MemCtl} {fbase : Opnd} {foff : BitVec 16} {s : State} (h0 : MemOk s) :
    OutMemOk (execStf u d base mc fbase foff s) := by
  unfold execStf
  repeat' first | with_reducible assumption | with_reducible apply memOk_execLanes | with_reducible apply memOk_stfBody

theorem memOk_atomBody {i : Instr} {base : Opnd} {mc : AtomCtl} {op : Option AtomOp} {ctr : Option (Fin 4)} {dst : List Opnd} {mk : Thread → MemOp} :
    BodyMemOk (atomBody i base mc op ctr dst mk) := by
  intro s th tids h0
  unfold atomBody
  try dsimp only
  repeat' first
    | with_reducible assumption | with_reducible apply memOk_resolve | with_reducible apply memOk_launch
    | (with_reducible refine memOk_ofPair (by assumption) ?_) | split

theorem memOk_execAtom {u : Bool} {d base b : Opnd} {cnt : BitVec 2} {op : AtomOp} {mc : AtomCtl} {s : State} (h0 : MemOk s) :
    OutMemOk (execAtom u d base b cnt op mc s) := by
  unfold execAtom
  repeat' first | with_reducible assumption | with_reducible apply memOk_execLanes | with_reducible apply memOk_atomBody

theorem memOk_execAtomn {u : Bool} {b base : Opnd} {op : AtomOp} {mc : AtomCtl} {s : State} (h0 : MemOk s) :
    OutMemOk (execAtomn u b base op mc s) := by
  unfold execAtomn
  repeat' first | with_reducible assumption | with_reducible apply memOk_execLanes | with_reducible apply memOk_atomBody

theorem memOk_execCas {u : Bool} {d base b : Opnd} {cnt : BitVec 2} {mc : AtomCtl} {s : State} (h0 : MemOk s) :
    OutMemOk (execCas u d base b cnt mc s) := by
  unfold execCas
  repeat' first | with_reducible assumption | with_reducible apply memOk_execLanes | with_reducible apply memOk_atomBody

theorem memOk_countDown {s : State} {a : Acc} (h0 : MemOk s) :
    MemOk (State.countDown s a) := by
  unfold State.countDown
  repeat' first
    | with_reducible assumption | with_reducible apply memOk_onThread
    | with_reducible refine memOk_foldl (fun _ _ _ => ?_) ?_ | split

theorem memOk_deferFault {s : State} {a : Acc} {cause : BitVec 8} {addr : Addr} {extra : Word} (h0 : MemOk s) :
    MemOk (State.deferFault s a cause addr extra) := by
  unfold State.deferFault
  repeat' first
    | with_reducible assumption | with_reducible apply memOk_onThread | with_reducible apply memOk_dropAcc
    | with_reducible apply memOk_countDown | with_reducible refine memOk_foldl (fun _ _ _ => ?_) ?_

theorem memOk_returnLoad {s : State} {a : Acc} {v : Nat} {part : BitVec 4} (h0 : MemOk s) :
    MemOk (State.returnLoad s a v part) := by
  unfold State.returnLoad
  repeat' first
    | with_reducible assumption | with_reducible apply memOk_onAcc | with_reducible apply memOk_dropAcc
    | with_reducible apply memOk_writeRegs | with_reducible apply memOk_repairPreds
    | with_reducible apply memOk_countDown
    | (extract_lets +descend +onlyGivenNames x; refine memOk_cut (P := MemOk x) ?_ ?_
       (on_goal 1 => (dsimp only [x]; clear x))
       (on_goal 2 => (intro hx; clear_value x)))
    | (extract_lets +descend +onlyGivenNames x; clear_value x) | split

theorem memOk_execLoadReturn {id : Nat} {part : BitVec 4} {s : State} (h0 : MemOk s) :
    OutMemOk (execLoadReturn id part s) := by
  unfold execLoadReturn
  repeat' first
    | with_reducible assumption | with_reducible apply outMemOk_event | with_reducible apply memOk_deferFault
    | with_reducible apply memOk_returnLoad | split

theorem memOk_addPage {s : State} {id : Nat} {p : Page} (h0 : MemOk s) :
    MemOk (State.addPage s id p) := by
  unfold State.addPage
  repeat' first | with_reducible assumption | with_reducible apply memOk_onCmd

theorem memOk_acceptBlock {s : State} {a : Acc} {id : Nat} {entry : BitVec 64} {pa : Nat} {cc : BitVec 2} (h0 : MemOk s) :
    MemOk (State.acceptBlock s a id entry pa cc) := by
  unfold State.acceptBlock
  repeat' first
    | with_reducible assumption | with_reducible apply memOk_onAcc | with_reducible apply memOk_dropAcc
    | with_reducible apply memOk_addPage | split

theorem memOk_execPeerWindowRequest {id : Nat} {s : State} (h0 : MemOk s) :
    OutMemOk (execPeerWindowRequest id s) := by
  unfold execPeerWindowRequest
  repeat' first
    | with_reducible assumption | with_reducible apply outMemOk_event | with_reducible apply memOk_onAcc
    | with_reducible apply memOk_ownerCheck | (with_reducible refine memOk_ofPair (by assumption) ?_)
    | (extract_lets +descend +onlyGivenNames x; refine memOk_cut (P := ∀ s a b, MemOk s → OutMemOk (x s a b)) ?_ ?_
       (on_goal 1 => (dsimp only [x]; clear x))
       (on_goal 2 => (intro hJ; clear_value x)))
    | split | with_reducible apply hJ | intro _

theorem memOk_refuseAcc {s : State} {a : Acc} {c : BitVec 8} (h0 : MemOk s) :
    MemOk (State.refuseAcc s a c) := by
  unfold State.refuseAcc
  repeat' first
    | with_reducible assumption | with_reducible apply memOk_onAcc | with_reducible apply memOk_dropAcc
    | with_reducible apply memOk_takeFault | with_reducible apply memOk_countDown
    | with_reducible apply memOk_deferFault | with_reducible refine memOk_foldl (fun _ _ _ => ?_) ?_ | split

theorem memOk_placeAcc {s : State} {a : Acc} {pa : Nat} {cls : BitVec 2} (h0 : MemOk s) :
    MemOk (State.placeAcc s a pa cls) := by
  unfold State.placeAcc
  repeat' first | with_reducible assumption | with_reducible apply memOk_onAcc | with_reducible apply memOk_askStf

theorem memOk_answerAsk {s : State} {id : Nat} {x : PeerAnswer} (h0 : MemOk s) :
    MemOk (State.answerAsk s id x) := by
  unfold State.answerAsk
  repeat' first | with_reducible assumption

theorem memOk_execPeerWindowResponse {id : Nat} {answer : PeerAnswer} {s : State} (h0 : MemOk s) :
    OutMemOk (execPeerWindowResponse id answer s) := by
  unfold execPeerWindowResponse
  repeat' first
    | with_reducible assumption | with_reducible apply outMemOk_event | with_reducible apply memOk_failAcc
    | with_reducible apply memOk_noteImport | with_reducible apply memOk_kick | with_reducible apply memOk_acceptBlock
    | with_reducible apply memOk_refuseAcc | with_reducible apply memOk_placeAcc
    | with_reducible apply memOk_answerAsk
    | (extract_lets +descend +onlyGivenNames x; refine memOk_cut (P := MemOk x) ?_ ?_
       (on_goal 1 => (dsimp only [x]; clear x))
       (on_goal 2 => (intro hx; clear_value x)))
    | (extract_lets +descend +onlyGivenNames x; clear_value x) | split

theorem memOk_prefBody {i : Instr} {base : Opnd} {kind : PrefKind} {sp : Space} {off : BitVec 14} :
    BodyMemOk (prefBody i base kind sp off) := by
  intro s th tids h0
  unfold prefBody
  try dsimp only
  repeat' first
    | with_reducible assumption | with_reducible apply memOk_resolveVa | with_reducible apply memOk_launch
    | (with_reducible refine memOk_ofPair (by assumption) ?_) | split

theorem memOk_execPref {u : Bool} {base : Opnd} {kind : PrefKind} {sp : Space} {off : BitVec 14} {s : State} (h0 : MemOk s) :
    OutMemOk (execPref u base kind sp off s) := by
  unfold execPref
  repeat' first | with_reducible assumption | with_reducible apply memOk_execLanes | with_reducible apply memOk_prefBody

theorem memOk_cmntBody {i : Instr} {base : Opnd} {op : CmntOp} {reach : Reach} {sp : Space} {off : BitVec 14} :
    BodyMemOk (cmntBody i base op reach sp off) := by
  intro s th tids h0
  unfold cmntBody
  try dsimp only
  repeat' first
    | with_reducible assumption | with_reducible apply memOk_resolveVa | with_reducible apply memOk_launch
    | (with_reducible refine memOk_ofPair (by assumption) ?_) | split

theorem memOk_execCmnt {u : Bool} {base : Opnd} {op : CmntOp} {reach : Reach} {sp : Space} {off : BitVec 14} {s : State} (h0 : MemOk s) :
    OutMemOk (execCmnt u base op reach sp off s) := by
  unfold execCmnt
  repeat' first | with_reducible assumption | with_reducible apply memOk_execLanes | with_reducible apply memOk_cmntBody

theorem memOk_setTag {s : State} {team : TeamId} {tids : List Nat} {id : BitVec 8} (h0 : MemOk s) :
    MemOk (State.setTag s team tids id) := by
  unfold State.setTag
  repeat' first
    | with_reducible assumption | with_reducible apply memOk_onThread
    | with_reducible refine memOk_foldl (fun _ _ _ => ?_) ?_

theorem memOk_execTtagImmediate {u : Bool} {id : BitVec 8} {s : State} (h0 : MemOk s) :
    OutMemOk (execTtagImmediate u id s) := by
  unfold execTtagImmediate
  repeat' first
    | with_reducible assumption | with_reducible apply memOk_execLanes | with_reducible apply memOk_setTag | intro _

theorem memOk_execTtagRegister {u : Bool} {a : Opnd} {s : State} (h0 : MemOk s) :
    OutMemOk (execTtagRegister u a s) := by
  unfold execTtagRegister
  repeat' first
    | with_reducible assumption | with_reducible apply memOk_execLanes | with_reducible apply memOk_setTag | split
    | intro _ | dsimp only

theorem memOk_discardCopy {s : State} {x : CacheLine} (h0 : MemOk s) :
    MemOk (State.discardCopy s x) := by
  unfold State.discardCopy
  repeat' first
    | with_reducible assumption | with_reducible apply memOk_leaveTree | with_reducible apply memOk_dropCopy
    | (extract_lets +descend +onlyGivenNames x; refine memOk_cut (P := MemOk x) ?_ ?_
       (on_goal 1 => (dsimp only [x]; clear x))
       (on_goal 2 => (intro hx; clear_value x)))
    | split

theorem memOk_discard {s : State} {tag : BitVec 8} {die : Option (Fin 8)} (h0 : MemOk s) :
    MemOk (State.discard s tag die) := by
  unfold State.discard
  repeat' first
    | with_reducible assumption | with_reducible apply memOk_addJob | with_reducible apply memOk_discardCopy
    | with_reducible refine memOk_foldl (fun _ _ _ => ?_) ?_
    | (extract_lets +descend +onlyGivenNames x; refine memOk_cut (P := MemOk x) ?_ ?_
       (on_goal 1 => (dsimp only [x]; clear x))
       (on_goal 2 => (intro hx; clear_value x)))
    | (extract_lets +descend +onlyGivenNames x; clear_value x) | split

theorem memOk_execTdrop {u : Bool} {a : Opnd} {pkg : Bool} {s : State} (h0 : MemOk s) :
    OutMemOk (execTdrop u a pkg s) := by
  unfold execTdrop
  repeat' first
    | with_reducible assumption | with_reducible apply memOk_addHold | with_reducible apply memOk_execLanes
    | with_reducible apply memOk_kick | with_reducible apply memOk_discard
    | with_reducible refine memOk_foldl (fun _ _ _ => ?_) ?_ | (extract_lets +descend +onlyGivenNames x; clear_value x)
    | split | intro _ | dsimp only

theorem memOk_creditAt {s : State} {a : SlateAt} {bytes arrivals : Nat} {err : Bool} {after : List Nat} (h0 : MemOk s) :
    MemOk (State.creditAt s a bytes arrivals err after) := by
  unfold State.creditAt
  repeat' first | with_reducible assumption | with_reducible apply memOk_bump

theorem memOk_sendCredit {s : State} {t : TeamId} {off bytes arrivals : Nat} {err : Bool} {after : List Nat} (h0 : MemOk s) :
    MemOk (State.sendCredit s t off bytes arrivals err after) := by
  unfold State.sendCredit
  repeat' first | with_reducible assumption | with_reducible apply memOk_creditAt

theorem memOk_requestResidency {s : State} {tm : Team} {tid : Nat} {wr : Bool} {slate : Word} {va : Addr} (h0 : MemOk s) :
    MemOk (State.requestResidency s tm tid wr slate va) := by
  unfold State.requestResidency
  repeat' first
    | with_reducible assumption | with_reducible apply memOk_onDie | with_reducible apply memOk_sendCredit
    | (extract_lets +descend +onlyGivenNames x; clear_value x) | split

theorem memOk_resqBody {base b : Opnd} {wr : Bool} {sp : Space} {off : BitVec 14} :
    BodyMemOk (resqBody base b wr sp off) := by
  intro s th tids h0
  unfold resqBody
  try dsimp only
  repeat' first
    | with_reducible assumption | with_reducible apply memOk_translate | with_reducible apply memOk_sendCredit
    | with_reducible apply memOk_requestResidency | (with_reducible refine memOk_ofPair (by assumption) ?_) | split

theorem memOk_execResq {u : Bool} {base b : Opnd} {wr : Bool} {sp : Space} {off : BitVec 14} {s : State} (h0 : MemOk s) :
    OutMemOk (execResq u base b wr sp off s) := by
  unfold execResq
  repeat' first | with_reducible assumption | with_reducible apply memOk_execLanes | with_reducible apply memOk_resqBody

end Sys2Proof.Machine
end

