-- ==== Sys2Proof/Laws/MemOkEngine.lean ====
section
/-!
SUPPORT. Every operation of Machine/Control, Sync, Engine, System and Matrix keeps every memory in canonical form.
-/
namespace Sys2Proof.Machine

/-! ## Control -/

theorem memOk_leaveTo {s : State} {team : TeamId} {tids : List Nat} {a : After} (h0 : MemOk s) :
    MemOk (State.leaveTo s team tids a) := by
  unfold State.leaveTo
  repeat' first
    | with_reducible assumption | with_reducible apply memOk_onThread | with_reducible apply memOk_leavePipe
    | with_reducible refine memOk_foldl (fun _ _ _ => ?_) ?_

theorem memOk_checkTarget {s : State} {tm : Team} {target : Addr} (h0 : MemOk s) :
    MemOk (State.checkTarget s tm target).1 := by
  unfold State.checkTarget
  repeat' first
    | with_reducible assumption | with_reducible apply memOk_checkBlock
    | (with_reducible refine memOk_ofPair (by assumption) ?_) | split

theorem memOk_targetFails {s : State} {f : Flt} (h0 : MemOk s) :
    MemOk (State.targetFails s f).1 := by
  unfold State.targetFails
  repeat' first | with_reducible assumption | with_reducible apply memOk_addHold | split

theorem memOk_branchBody {link : Bool} {tgt : Pipe → Thread → Addr} :
    BodyMemOk (branchBody link tgt) := by
  intro s th tids h0
  unfold branchBody
  try dsimp only
  repeat' first
    | with_reducible assumption | with_reducible apply memOk_writeRegs | with_reducible apply memOk_leaveTo
    | with_reducible apply memOk_checkTarget | with_reducible apply memOk_targetFails
    | (with_reducible refine memOk_ofPair (by assumption) ?_) | split

theorem memOk_execBra {u : Bool} {off : BitVec 19} {s : State} (h0 : MemOk s) :
    OutMemOk (execBra u off s) := by
  unfold execBra
  repeat' first | with_reducible assumption | with_reducible apply memOk_execLanes | with_reducible apply memOk_branchBody

theorem memOk_execBrc {u : Bool} {q : BitVec 3} {sn : Bool} {off : BitVec 19} {s : State} (h0 : MemOk s) :
    OutMemOk (execBrc u q sn off s) := by
  unfold execBrc
  repeat' first | with_reducible assumption | with_reducible apply memOk_execLanes | with_reducible apply memOk_branchBody

theorem memOk_execBrx {u : Bool} {a : Opnd} {s : State} (h0 : MemOk s) :
    OutMemOk (execBrx u a s) := by
  unfold execBrx
  repeat' first | with_reducible assumption | with_reducible apply memOk_execLanes | with_reducible apply memOk_branchBody

theorem memOk_execCall {u : Bool} {off : BitVec 19} {s : State} (h0 : MemOk s) :
    OutMemOk (execCall u off s) := by
  unfold execCall
  repeat' first | with_reducible assumption | with_reducible apply memOk_execLanes | with_reducible apply memOk_branchBody

theorem memOk_execCallx {u : Bool} {a : Opnd} {s : State} (h0 : MemOk s) :
    OutMemOk (execCallx u a s) := by
  unfold execCallx
  repeat' first | with_reducible assumption | with_reducible apply memOk_execLanes | with_reducible apply memOk_branchBody

theorem memOk_execRet {u : Bool} {s : State} (h0 : MemOk s) :
    OutMemOk (execRet u s) := by
  unfold execRet
  repeat' first | with_reducible assumption | with_reducible apply memOk_execLanes | with_reducible apply memOk_branchBody

theorem memOk_execExit {u : Bool} {s : State} (h0 : MemOk s) :
    OutMemOk (execExit u s) := by
  unfold execExit
  repeat' first
    | with_reducible assumption | with_reducible apply memOk_execLanes | with_reducible apply memOk_leaveTo | intro _

theorem memOk_execTrap {imm : BitVec 16} {s : State} (h0 : MemOk s) :
    OutMemOk (execTrap imm s) := by
  unfold execTrap
  repeat' first | with_reducible assumption | with_reducible apply memOk_execLanes | intro _

theorem memOk_execBkpt {imm : BitVec 16} {s : State} (h0 : MemOk s) :
    OutMemOk (execBkpt imm s) := by
  unfold execBkpt
  repeat' first | with_reducible assumption | with_reducible apply memOk_execLanes | intro _

theorem memOk_waitBody {k : WaitKind} :
    BodyMemOk (waitBody k) := by
  intro s th tids h0
  unfold waitBody
  try dsimp only
  repeat' first
    | with_reducible assumption | with_reducible apply memOk_leaveTo | with_reducible apply memOk_checkTarget
    | with_reducible apply memOk_targetFails | (with_reducible refine memOk_ofPair (by assumption) ?_) | split

theorem memOk_execCbar {u : Bool} {s : State} (h0 : MemOk s) :
    OutMemOk (execCbar u s) := by
  unfold execCbar
  repeat' first | with_reducible assumption | with_reducible apply memOk_execLanes | with_reducible apply memOk_waitBody

theorem memOk_execTbar {u : Bool} {s : State} (h0 : MemOk s) :
    OutMemOk (execTbar u s) := by
  unfold execTbar
  repeat' first | with_reducible assumption | with_reducible apply memOk_execLanes | with_reducible apply memOk_waitBody

theorem memOk_execSwait {u : Bool} {a : Opnd} {v : Bool} {s : State} (h0 : MemOk s) :
    OutMemOk (execSwait u a v s) := by
  unfold execSwait
  repeat' first
    | with_reducible assumption | with_reducible apply memOk_execLanes
    | with_reducible refine bodyMemOk_at memOk_waitBody ?_ | split | intro _ | dsimp only

theorem memOk_tryWait {s : State} {i : ThreadId} {k : WaitKind} (h0 : MemOk s) :
    MemOk (State.tryWait s i k) := by
  unfold State.tryWait
  repeat' first | with_reducible assumption | with_reducible apply memOk_onThread | with_reducible apply memOk_release | split

theorem memOk_execResume {s : State} (h0 : MemOk s) :
    OutMemOk (execResume s) := by
  unfold execResume
  repeat' first
    | with_reducible assumption | with_reducible apply memOk_execLanes | with_reducible apply memOk_leaveTo | split
    | intro _ | dsimp only

theorem memOk_execResumeSkip {s : State} (h0 : MemOk s) :
    OutMemOk (execResumeSkip s) := by
  unfold execResumeSkip
  repeat' first
    | with_reducible assumption | with_reducible apply memOk_execLanes | with_reducible apply memOk_leaveTo | split
    | intro _ | dsimp only

theorem memOk_wordAt {s : State} {tm : Team} {block : Addr} {i : Nat} (h0 : MemOk s) :
    MemOk (State.wordAt s tm block i).1 := by
  unfold State.wordAt
  repeat' first | with_reducible assumption | with_reducible apply memOk_fetchWord

theorem memOk_headerOf {tm : Team} {block : Addr} {w : Nat} {fuel : Nat} : ∀ {s : State} {h : Nat}, MemOk s →
    MemOk (s.headerOf tm block w fuel h).1 := by
  induction fuel with
  | zero => intro s h h0; exact h0
  | succ n ih =>
    intro s h h0
    unfold State.headerOf
    have hw : MemOk (s.wordAt tm block h).1 := memOk_wordAt h0
    split
    · exact h0
    · split
      · exact memOk_ofPair (by assumption) hw
      · dsimp only
        split
        · exact memOk_ofPair (by assumption) hw
        · exact ih (memOk_ofPair (by assumption) hw)

theorem memOk_checkResume {s : State} {tm : Team} {block : Addr} (h0 : MemOk s) :
    MemOk (State.checkResume s tm block).1 := by
  unfold State.checkResume
  repeat' first
    | with_reducible assumption | with_reducible apply memOk_checkBlock
    | (with_reducible refine memOk_ofPair (by assumption) ?_) | split

theorem memOk_resumePoint {s : State} {tm : Team} {tid e : Nat} {skip : Bool} {own : Word} (h0 : MemOk s) :
    MemOk (State.resumePoint s tm tid e skip own).1 := by
  unfold State.resumePoint
  repeat' first
    | with_reducible assumption | with_reducible apply memOk_wordAt | with_reducible apply memOk_headerOf
    | with_reducible apply memOk_checkResume | (with_reducible refine memOk_ofPair (by assumption) ?_)
    | (extract_lets +descend +onlyGivenNames x; clear_value x) | split

theorem memOk_resumeNow {s : State} {th : Thread} {skip : Bool} {widx : Nat} (h0 : MemOk s) :
    MemOk (State.resumeNow s th skip widx) := by
  unfold State.resumeNow
  repeat' first
    | with_reducible assumption | with_reducible apply memOk_onThread | with_reducible apply memOk_onTeam
    | with_reducible apply memOk_takeFault | with_reducible apply memOk_enrolNext
    | with_reducible apply memOk_resumePoint | (with_reducible refine memOk_ofPair (by assumption) ?_)
    | (extract_lets +descend +onlyGivenNames x; refine memOk_cut (P := ∀ s a, MemOk s → MemOk (x s a)) ?_ ?_
       (on_goal 1 => (dsimp only [x]; clear x))
       (on_goal 2 => (intro hB; clear_value x)))
    | (extract_lets +descend +onlyGivenNames x; clear_value x) | split | with_reducible apply hB
    | with_reducible apply wf_freeEntry | intro _

theorem memOk_afterDrain {s : State} {th : Thread} (h0 : MemOk s) :
    MemOk (State.afterDrain s th) := by
  unfold State.afterDrain
  repeat' first
    | with_reducible assumption | with_reducible apply memOk_onThread | with_reducible apply memOk_enrolNext
    | with_reducible apply memOk_exitThread | with_reducible apply memOk_tryWait
    | with_reducible apply memOk_resumeNow | split

theorem memOk_execDrainComplete {th : ThreadId} {s : State} (h0 : MemOk s) :
    OutMemOk (execDrainComplete th s) := by
  unfold execDrainComplete
  repeat' first | with_reducible assumption | with_reducible apply outMemOk_event | with_reducible apply memOk_afterDrain | split

theorem memOk_handlerWord {s : State} {t : TeamId} (h0 : MemOk s) :
    MemOk (State.handlerWord s t).1 := by
  unfold State.handlerWord
  repeat' first
    | with_reducible assumption | with_reducible apply memOk_fetchWord
    | (with_reducible refine memOk_ofPair (by assumption) ?_) | split

theorem memOk_execFaultRecord {th : ThreadId} {s : State} (h0 : MemOk s) :
    OutMemOk (execFaultRecord th s) := by
  unfold execFaultRecord
  repeat' first
    | with_reducible assumption | with_reducible apply outMemOk_event | with_reducible apply memOk_recordFault
    | with_reducible apply memOk_kick | with_reducible apply memOk_handlerWord
    | (with_reducible refine memOk_ofPair (by assumption) ?_) | split

theorem memOk_execBarrierArrival {th : ThreadId} {s : State} (h0 : MemOk s) :
    OutMemOk (execBarrierArrival th s) := by
  unfold execBarrierArrival
  repeat' first
    | with_reducible assumption | with_reducible apply outMemOk_event | with_reducible apply memOk_onThread
    | with_reducible apply memOk_teamBarrier | with_reducible apply memOk_clusterBarrier
    | (extract_lets +descend +onlyGivenNames x; refine memOk_cut (P := MemOk x) ?_ ?_
       (on_goal 1 => (dsimp only [x]; clear x))
       (on_goal 2 => (intro hx; clear_value x)))
    | split

/-! ## Sync -/

theorem memOk_putSlate {s : State} {t : TeamId} {off : Nat} {v : BitVec 128} (h0 : MemOk s) :
    MemOk (State.putSlate s t off v) := by
  unfold State.putSlate
  repeat' first | with_reducible assumption | with_reducible apply memOk_spadWrite

theorem memOk_releaseSlate {s : State} {t : TeamId} {off : Nat} (h0 : MemOk s) :
    MemOk (State.releaseSlate s t off) := by
  unfold State.releaseSlate
  repeat' first
    | with_reducible assumption | with_reducible apply memOk_release
    | with_reducible refine memOk_foldl (fun _ _ _ => ?_) ?_ | split

theorem memOk_applyCredit {s : State} {t : TeamId} {off : Nat} {c : Credit} (h0 : MemOk s) :
    MemOk (State.applyCredit s t off c) := by
  unfold State.applyCredit
  repeat' first
    | with_reducible assumption | with_reducible apply memOk_onCmd | with_reducible apply memOk_teamReport
    | with_reducible apply memOk_putSlate | with_reducible apply memOk_releaseSlate
    | (extract_lets +descend +onlyGivenNames x; refine memOk_cut (P := MemOk x) ?_ ?_
       (on_goal 1 => (dsimp only [x]; clear x))
       (on_goal 2 => (intro hx; clear_value x)))
    | (extract_lets +descend +onlyGivenNames x; clear_value x) | split

theorem memOk_execSinit {u : Bool} {a b c : Opnd} {s : State} (h0 : MemOk s) :
    OutMemOk (execSinit u a b c s) := by
  unfold execSinit
  repeat' first
    | with_reducible assumption | with_reducible apply memOk_execLanes | with_reducible apply memOk_putSlate
    | with_reducible apply memOk_releaseSlate | split | intro _ | dsimp only

theorem memOk_execSarv {u : Bool} {a : Opnd} {ps : Bool} {s : State} (h0 : MemOk s) :
    OutMemOk (execSarv u a ps s) := by
  unfold execSarv
  repeat' first
    | with_reducible assumption | with_reducible apply memOk_execLanes | with_reducible apply memOk_sendCredit | split
    | intro _ | dsimp only

theorem memOk_execSexp {u : Bool} {bytes slate : Opnd} {s : State} (h0 : MemOk s) :
    OutMemOk (execSexp u bytes slate s) := by
  unfold execSexp
  repeat' first
    | with_reducible assumption | with_reducible apply memOk_execLanes | with_reducible apply memOk_putSlate | split
    | intro _ | dsimp only

theorem memOk_setGuard {s : State} {i : ThreadId} {slot : BitVec 4} {g : Guard} {rel : List Nat} (h0 : MemOk s) :
    MemOk (State.setGuard s i slot g rel) := by
  unfold State.setGuard
  repeat' first | with_reducible assumption | with_reducible apply memOk_onTeam | intro _

theorem memOk_noteGuard {s : State} {p : Pipe} {tm : Team} {slot : BitVec 4} (h0 : MemOk s) :
    MemOk (State.noteGuard s p tm slot) := by
  unfold State.noteGuard
  repeat' first
    | with_reducible assumption | with_reducible apply memOk_onTeam
    | (extract_lets +descend +onlyGivenNames x; clear_value x) | intro _

theorem memOk_execGuard {i : Instr} {slot : BitVec 4} {body : Body} {s : State} (h0 : MemOk s) (hbbody : BodyMemOk body) :
    OutMemOk (execGuard i slot body s) := by
  unfold execGuard
  repeat' first
    | with_reducible assumption | with_reducible apply outMemOk_next | with_reducible apply outMemOk_fault
    | with_reducible apply memOk_addHold | with_reducible apply memOk_keepWord | with_reducible apply memOk_execLanes
    | with_reducible apply memOk_noteGuard
    | (extract_lets +descend +onlyGivenNames x; refine memOk_cut (P := MemOk x) ?_ ?_
       (on_goal 1 => (dsimp only [x]; clear x))
       (on_goal 2 => (intro hx; clear_value x)))
    | split

theorem memOk_execGarm {u : Bool} {slot : BitVec 4} {s : State} (h0 : MemOk s) :
    OutMemOk (execGarm u slot s) := by
  unfold execGarm
  repeat' first
    | with_reducible assumption | with_reducible apply memOk_setGuard | with_reducible apply memOk_execGuard | intro _

theorem memOk_execGset {u : Bool} {a : Opnd} {slot : BitVec 4} {s : State} (h0 : MemOk s) :
    OutMemOk (execGset u a slot s) := by
  unfold execGset
  repeat' first
    | with_reducible assumption | with_reducible apply memOk_setGuard | with_reducible apply memOk_execGuard | split
    | intro _ | dsimp only

theorem memOk_execFence {u : Bool} {scope : Scope} {kind : FenceKind} {s : State} (h0 : MemOk s) :
    OutMemOk (execFence u scope kind s) := by
  unfold execFence
  repeat' first
    | with_reducible assumption | with_reducible apply memOk_addHold | with_reducible apply memOk_execLanes
    | with_reducible refine memOk_foldl (fun _ _ _ => ?_) ?_ | intro _

/-! ## Engine -/

theorem memOk_accWrite {s : State} {t : Team} {a : Nat} {bs : List Byte} (h0 : MemOk s) :
    MemOk (State.accWrite s t a bs) := by
  unfold State.accWrite
  repeat' first
    | with_reducible assumption | with_reducible apply memOk_onCore | split | with_reducible apply Memory.wf_setN | intro _

theorem memOk_cmdCredit {s : State} {c : Cmd} {q bytes arrivals : Nat} {err : Bool} (h0 : MemOk s) :
    MemOk (State.cmdCredit s c q bytes arrivals err) := by
  unfold State.cmdCredit
  repeat' first
    | with_reducible assumption | with_reducible apply memOk_bump
    | (extract_lets +descend +onlyGivenNames x; refine memOk_cut (P := MemOk x) ?_ ?_
       (on_goal 1 => (dsimp only [x]; clear x))
       (on_goal 2 => (intro hx; clear_value x)))
    | split

theorem memOk_failDest {s : State} {id q : Nat} {cause : BitVec 8} {slate : Bool} (h0 : MemOk s) :
    MemOk (State.failDest s id q cause slate) := by
  unfold State.failDest
  repeat' first | with_reducible assumption | with_reducible apply memOk_onCmd | with_reducible apply memOk_cmdCredit | split

theorem memOk_releaseLines {s : State} {id : Nat} (h0 : MemOk s) :
    MemOk (State.releaseLines s id) := by
  unfold State.releaseLines
  repeat' first | with_reducible assumption

theorem memOk_stopCmd {s : State} {id : Nat} {cause : BitVec 8} (h0 : MemOk s) :
    MemOk (State.stopCmd s id cause) := by
  unfold State.stopCmd
  repeat' first
    | with_reducible assumption | with_reducible apply memOk_onCmd | with_reducible apply memOk_failDest
    | with_reducible apply memOk_releaseLines | with_reducible refine memOk_foldl (fun _ _ _ => ?_) ?_ | split

theorem memOk_finishCmd {s : State} {id : Nat} (h0 : MemOk s) :
    MemOk (State.finishCmd s id) := by
  unfold State.finishCmd
  repeat' first
    | with_reducible assumption | with_reducible apply memOk_onCmd | with_reducible apply memOk_cmdCredit
    | with_reducible apply memOk_releaseLines | with_reducible refine memOk_foldl (fun _ _ _ => ?_) ?_ | split

theorem memOk_discardCmd {s : State} {id : Nat} (h0 : MemOk s) :
    MemOk (State.discardCmd s id) := by
  unfold State.discardCmd
  repeat' first | with_reducible assumption | with_reducible apply memOk_onCmd | with_reducible apply memOk_finishCmd

theorem memOk_issue {s : State} {c : Cmd} (h0 : MemOk s) :
    MemOk (State.issue s c) := by
  unfold State.issue
  repeat' first
    | with_reducible assumption | with_reducible apply memOk_bump | with_reducible apply memOk_addHold
    | (extract_lets +descend +onlyGivenNames x; refine memOk_cut (P := MemOk x) ?_ ?_
       (on_goal 1 => (dsimp only [x]; clear x))
       (on_goal 2 => (intro hx; clear_value x)))
    | split

theorem memOk_engBody {e : EngCtl} {checks : State → Team → Thread → List (Bool × Flt)} {owner : State → Team → Thread → Option Team} {op : Team → Thread → CmdOp} :
    BodyMemOk (engBody e checks owner op) := by
  intro s th tids h0
  unfold engBody
  try dsimp only
  repeat' first | with_reducible assumption | with_reducible apply memOk_issue | split

theorem memOk_execCpy {u : Bool} {d a b : Opnd} {e : EngCtl} {s : State} (h0 : MemOk s) :
    OutMemOk (execCpy u d a b e s) := by
  unfold execCpy
  repeat' first | with_reducible assumption | with_reducible apply memOk_execLanes | with_reducible apply memOk_engBody

theorem memOk_execCred {u : Bool} {d a b : Opnd} {ty : CredType} {e : EngCtl} {s : State} (h0 : MemOk s) :
    OutMemOk (execCred u d a b ty e s) := by
  unfold execCred
  repeat' first | with_reducible assumption | with_reducible apply memOk_execLanes | with_reducible apply memOk_engBody

theorem memOk_execCpym {u : Bool} {d a b : Opnd} {e : EngCtl} {s : State} (h0 : MemOk s) :
    OutMemOk (execCpym u d a b e s) := by
  unfold execCpym
  repeat' first | with_reducible assumption | with_reducible apply memOk_execLanes | with_reducible apply memOk_engBody

theorem memOk_execCpyt {u : Bool} {d a b : Opnd} {st : Bool} {e : EngCtl} {s : State} (h0 : MemOk s) :
    OutMemOk (execCpyt u d a b st e s) := by
  unfold execCpyt
  repeat' first | with_reducible assumption | with_reducible apply memOk_execLanes | with_reducible apply memOk_engBody

theorem memOk_tdldBody {i : Instr} {a b : Opnd} {dsp ssp : Space} :
    BodyMemOk (tdldBody i a b dsp ssp) := by
  intro s th tids h0
  unfold tdldBody
  try dsimp only
  repeat' first
    | with_reducible assumption | with_reducible apply memOk_addHold | with_reducible apply memOk_resolveVa
    | with_reducible apply memOk_launch | (with_reducible refine memOk_ofPair (by assumption) ?_) | split

theorem memOk_execTdld {u : Bool} {a b : Opnd} {dsp ssp : Space} {s : State} (h0 : MemOk s) :
    OutMemOk (execTdld u a b dsp ssp s) := by
  unfold execTdld
  repeat' first | with_reducible assumption | with_reducible apply memOk_execLanes | with_reducible apply memOk_tdldBody

theorem memOk_tileLoaded {s : State} {a : Acc} {slot : Fin 16} {word : Word} (h0 : MemOk s) :
    MemOk (State.tileLoaded s a slot word) := by
  unfold State.tileLoaded
  repeat' first
    | with_reducible assumption | with_reducible apply memOk_onTeam | with_reducible apply memOk_dropAcc
    | with_reducible apply memOk_takeFault | with_reducible refine memOk_foldl (fun _ _ _ => ?_) ?_
    | (extract_lets +descend +onlyGivenNames x; refine memOk_cut (P := MemOk x) ?_ ?_
       (on_goal 1 => (dsimp only [x]; clear x))
       (on_goal 2 => (intro hx; clear_value x)))
    | (extract_lets +descend +onlyGivenNames x; refine memOk_cut (P := ∀ s a b c, MemOk s → MemOk (x s a b c)) ?_ ?_
       (on_goal 1 => (dsimp only [x]; clear x))
       (on_goal 2 => (intro hK; clear_value x)))
    | (extract_lets +descend +onlyGivenNames x; clear_value x) | split | with_reducible apply hK | intro _

theorem memOk_enterNow {s : State} {id : Nat} (h0 : MemOk s) :
    MemOk (State.enterNow s id) := by
  unfold State.enterNow
  repeat' first | with_reducible assumption

theorem memOk_execCommandEnter {core : CoreId} {s : State} (h0 : MemOk s) :
    OutMemOk (execCommandEnter core s) := by
  unfold execCommandEnter
  repeat' first
    | with_reducible assumption | with_reducible apply outMemOk_event | with_reducible apply memOk_enterNow
    | (extract_lets +descend +onlyGivenNames x; clear_value x) | split

theorem memOk_engPlace {s : State} {c : Cmd} {host tile flat : Bool} {va : Addr} {needs : Needs} (h0 : MemOk s) :
    MemOk (State.engPlace s c host tile flat va needs).1 := by
  unfold State.engPlace
  repeat' first
    | with_reducible assumption | with_reducible apply memOk_translate
    | (with_reducible refine memOk_ofPair (by assumption) ?_) | (extract_lets +descend +onlyGivenNames x; clear_value x)
    | split

theorem memOk_vaSource {s : State} {c : Cmd} {host tile flat : Bool} {va : Addr} {h : Option Nat} (h0 : MemOk s) :
    MemOk (State.vaSource s c host tile flat va h).1 := by
  unfold State.vaSource
  repeat' first
    | with_reducible assumption | with_reducible apply memOk_onCmd | with_reducible apply memOk_newAcc
    | with_reducible apply memOk_engPlace | (with_reducible refine memOk_ofPair (by assumption) ?_) | split

theorem memOk_readSource {s : State} {c : Cmd} {a : Nat} (h0 : MemOk s) :
    MemOk (State.readSource s c a).1 := by
  unfold State.readSource
  repeat' first
    | with_reducible assumption | with_reducible apply memOk_vaSource
    | (extract_lets +descend +onlyGivenNames x; clear_value x) | split

theorem memOk_gotSource {s : State} {id : Nat} {bs : List Byte} (h0 : MemOk s) :
    MemOk (State.gotSource s id bs) := by
  unfold State.gotSource
  repeat' first | with_reducible assumption | with_reducible apply memOk_onCmd

theorem memOk_sourceFailed {s : State} {id : Nat} {k : BitVec 8} (h0 : MemOk s) :
    MemOk (State.sourceFailed s id k) := by
  unfold State.sourceFailed
  repeat' first
    | with_reducible assumption | with_reducible apply memOk_onCmd | with_reducible apply memOk_releaseLines
    | with_reducible apply memOk_stopCmd | split

theorem memOk_sourceStep {s : State} {c : Cmd} {a : Nat} (h0 : MemOk s) :
    MemOk (State.sourceStep s c a) := by
  unfold State.sourceStep
  repeat' first
    | with_reducible assumption | with_reducible apply memOk_dropAcc | with_reducible apply memOk_readSource
    | with_reducible apply memOk_gotSource | with_reducible apply memOk_sourceFailed
    | (with_reducible refine memOk_ofPair (by assumption) ?_) | split

theorem memOk_walkAhead {s : State} {c : Cmd} {page : Nat} (h0 : MemOk s) :
    MemOk (State.walkAhead s c page) := by
  unfold State.walkAhead
  repeat' first
    | with_reducible assumption | with_reducible apply memOk_translate
    | with_reducible refine memOk_foldl (fun _ _ _ => ?_) ?_

theorem memOk_copyRead {s : State} {c : Cmd} (h0 : MemOk s) :
    MemOk (State.copyRead s c) := by
  unfold State.copyRead
  repeat' first
    | with_reducible assumption | with_reducible apply memOk_sourceStep | with_reducible apply memOk_walkAhead | split

theorem memOk_openBlock {s : State} {c : Cmd} {host tile flat : Bool} {h : Option Nat} {va : Nat} (h0 : MemOk s) :
    MemOk (State.openBlock s c host tile flat h va).1 := by
  unfold State.openBlock
  repeat' first
    | with_reducible assumption | with_reducible apply memOk_newAcc | with_reducible apply memOk_addPage
    | with_reducible apply memOk_engPlace | (with_reducible refine memOk_ofPair (by assumption) ?_) | split

theorem memOk_openBlocks {c : Cmd} {host tile flat : Bool} {h : Option Nat} {vs : List Nat} : ∀ {s : State}, MemOk s →
    MemOk (s.openBlocks c host tile flat h vs).1 := by
  induction vs with
  | nil => intro s h0; exact h0
  | cons v vs ih =>
    intro s h0
    have hw : MemOk (s.openBlock c host tile flat h v).1 := memOk_openBlock h0
    unfold State.openBlocks
    split
    · exact memOk_ofPair (by assumption) hw
    · exact ih (memOk_ofPair (by assumption) hw)

theorem memOk_checkDest {s : State} {c : Cmd} {tm : Team} (h0 : MemOk s) :
    MemOk (State.checkDest s c tm).1 := by
  unfold State.checkDest
  repeat' first
    | with_reducible assumption | with_reducible apply memOk_openBlocks
    | (extract_lets +descend +onlyGivenNames x; clear_value x) | split

theorem memOk_checkMember {s : State} {c : Cmd} {tm : Team} {q : Nat} (h0 : MemOk s) :
    MemOk (State.checkMember s c tm q) := by
  unfold State.checkMember
  repeat' first
    | with_reducible assumption | with_reducible apply memOk_failDest
    | (extract_lets +descend +onlyGivenNames x; clear_value x) | split

theorem memOk_obtainLines {s : State} {id : Nat} (h0 : MemOk s) :
    MemOk (State.obtainLines s id) := by
  unfold State.obtainLines
  repeat' first
    | with_reducible assumption | with_reducible apply memOk_onCmd | with_reducible apply memOk_newAcc
    | with_reducible refine memOk_foldl (fun _ _ _ => ?_) ?_ | split

theorem memOk_startCopy {s : State} {id : Nat} (h0 : MemOk s) :
    MemOk (State.startCopy s id) := by
  unfold State.startCopy
  repeat' first
    | with_reducible assumption | with_reducible apply memOk_onCmd | with_reducible apply memOk_stopCmd
    | with_reducible apply memOk_finishCmd | with_reducible apply memOk_checkDest
    | with_reducible apply memOk_checkMember | with_reducible apply memOk_obtainLines
    | with_reducible refine memOk_foldl (fun _ _ _ => ?_) ?_ | (with_reducible refine memOk_ofPair (by assumption) ?_)
    | (extract_lets +descend +onlyGivenNames x; refine memOk_cut (P := MemOk x) ?_ ?_
       (on_goal 1 => (dsimp only [x]; clear x))
       (on_goal 2 => (intro hx; clear_value x)))
    | (extract_lets +descend +onlyGivenNames x; refine memOk_cut (P := ∀ s, MemOk s → MemOk (x s)) ?_ ?_
       (on_goal 1 => (dsimp only [x]; clear x))
       (on_goal 2 => (intro hA; clear_value x)))
    | (extract_lets +descend +onlyGivenNames x; clear_value x) | split | with_reducible apply hA | intro _

theorem memOk_wrote {s : State} {c : Cmd} {fl : Word} (h0 : MemOk s) :
    MemOk (State.wrote s c fl).1 := by
  unfold State.wrote
  repeat' first | with_reducible assumption | with_reducible apply memOk_setFlags

theorem memOk_credFar {s : State} {c : Cmd} {l : LineId} {p : Page} {ps : List Piece} (h0 : MemOk s) :
    MemOk (State.credFar s c l p ps).1 := by
  unfold State.credFar
  repeat' first
    | with_reducible assumption | with_reducible apply memOk_l3Put | with_reducible apply memOk_want
    | with_reducible apply memOk_retagL3 | with_reducible apply memOk_fillL3 | with_reducible apply memOk_dropHome
    | with_reducible apply memOk_giveUp | with_reducible apply memOk_wrote
    | (with_reducible refine memOk_ofGot (by assumption) ?_) | (with_reducible refine memOk_ofWait (by assumption) ?_)
    | (extract_lets +descend +onlyGivenNames x; refine memOk_cut (P := MemOk x) ?_ ?_
       (on_goal 1 => (dsimp only [x]; clear x))
       (on_goal 2 => (intro hx; clear_value x)))
    | (extract_lets +descend +onlyGivenNames x; clear_value x) | split

theorem memOk_writeNc {s : State} {c : Cmd} {l : LineId} {p : Page} {ps : List Piece} (h0 : MemOk s) :
    MemOk (State.writeNc s c l p ps).1 := by
  unfold State.writeNc
  repeat' first
    | with_reducible assumption | with_reducible apply memOk_want | with_reducible apply memOk_putCopy
    | with_reducible apply memOk_dropCopy | with_reducible apply memOk_dropHome | with_reducible apply memOk_loseCopy
    | with_reducible apply memOk_ncFill | with_reducible apply memOk_scrubCopy | with_reducible apply memOk_shareNc
    | with_reducible apply memOk_wrote | (with_reducible refine memOk_ofSome (by assumption) ?_)
    | (with_reducible refine memOk_ofGot (by assumption) ?_) | (with_reducible refine memOk_ofWait (by assumption) ?_)
    | (extract_lets +descend +onlyGivenNames x; refine memOk_cut (P := MemOk x) ?_ ?_
       (on_goal 1 => (dsimp only [x]; clear x))
       (on_goal 2 => (intro hx; clear_value x)))
    | (extract_lets +descend +onlyGivenNames x; clear_value x) | split

theorem memOk_writeOwned {s : State} {c : Cmd} {l : LineId} {p : Page} {ps : List Piece} (h0 : MemOk s) :
    MemOk (State.writeOwned s c l p ps).1 := by
  unfold State.writeOwned
  repeat' first
    | with_reducible assumption | with_reducible apply memOk_putCopy | with_reducible apply memOk_newAcc
    | with_reducible apply memOk_wrote | split

theorem memOk_writeLine {s : State} {c : Cmd} {l : LineId} {p : Page} {ps : List Piece} (h0 : MemOk s) :
    MemOk (State.writeLine s c l p ps).1 := by
  unfold State.writeLine
  repeat' first
    | with_reducible assumption | with_reducible apply memOk_wrote | with_reducible apply memOk_credFar
    | with_reducible apply memOk_writeNc | with_reducible apply memOk_writeOwned
    | (extract_lets +descend +onlyGivenNames x; clear_value x) | split | with_reducible apply memCanon_host_line

theorem memOk_writeLocal {s : State} {c : Cmd} {acc : Bool} {t : TeamId} {base : Nat} {ps : List Piece} (h0 : MemOk s) :
    MemOk (State.writeLocal s c acc t base ps) := by
  unfold State.writeLocal
  repeat' first
    | with_reducible assumption | with_reducible apply memOk_spadWrite | with_reducible apply memOk_setFlags
    | with_reducible apply memOk_accWrite | with_reducible refine memOk_foldl (fun _ _ _ => ?_) ?_ | split

theorem memOk_lineDone {s : State} {id units : Nat} (h0 : MemOk s) :
    MemOk (State.lineDone s id units) := by
  unfold State.lineDone
  repeat' first
    | with_reducible assumption | with_reducible apply memOk_onCmd | with_reducible apply memOk_cmdCredit
    | with_reducible apply memOk_finishCmd | with_reducible refine memOk_foldl (fun _ _ _ => ?_) ?_
    | (extract_lets +descend +onlyGivenNames x; refine memOk_cut (P := MemOk x) ?_ ?_
       (on_goal 1 => (dsimp only [x]; clear x))
       (on_goal 2 => (intro hx; clear_value x)))
    | (extract_lets +descend +onlyGivenNames x; clear_value x) | split

theorem memOk_writeGroup {s : State} {c : Cmd} (h0 : MemOk s) :
    MemOk (State.writeGroup s c) := by
  unfold State.writeGroup
  repeat' first
    | with_reducible assumption | with_reducible apply memOk_stopCmd | with_reducible apply memOk_writeLine
    | with_reducible apply memOk_writeLocal | with_reducible apply memOk_lineDone
    | with_reducible refine memOk_foldl (fun _ _ _ => ?_) ?_ | (with_reducible refine memOk_ofPair (by assumption) ?_)
    | (extract_lets +descend +onlyGivenNames x; clear_value x) | split

theorem memOk_copyStep {s : State} {c : Cmd} (h0 : MemOk s) :
    MemOk (State.copyStep s c) := by
  unfold State.copyStep
  repeat' first
    | with_reducible assumption | with_reducible apply memOk_stopCmd | with_reducible apply memOk_obtainLines
    | with_reducible apply memOk_writeGroup
    | (extract_lets +descend +onlyGivenNames x; refine memOk_cut (P := MemOk x) ?_ ?_
       (on_goal 1 => (dsimp only [x]; clear x))
       (on_goal 2 => (intro hx; clear_value x)))
    | split

theorem memOk_ruleGuards {s : State} {ids : List Nat} (h0 : MemOk s) :
    MemOk (State.ruleGuards s ids) := by
  unfold State.ruleGuards
  repeat' first | with_reducible assumption

theorem memOk_execEngineCompletionRecord {id : Nat} {s : State} (h0 : MemOk s) :
    OutMemOk (execEngineCompletionRecord id s) := by
  unfold execEngineCompletionRecord
  repeat' first
    | with_reducible assumption | with_reducible apply outMemOk_event | with_reducible apply memOk_spadWrite
    | (extract_lets +descend +onlyGivenNames x; refine memOk_cut (P := MemOk x) ?_ ?_
       (on_goal 1 => (dsimp only [x]; clear x))
       (on_goal 2 => (intro hx; clear_value x)))
    | split

/-! ## System -/

theorem memOk_execGets {u : Bool} {d : Opnd} {num : BitVec 9} {s : State} (h0 : MemOk s) :
    OutMemOk (execGets u d num s) := by
  unfold execGets
  repeat' first
    | with_reducible assumption | with_reducible apply outMemOk_next | with_reducible apply outMemOk_fault
    | with_reducible apply memOk_addHold | with_reducible apply memOk_keepWord | with_reducible apply memOk_execLanes
    | with_reducible apply memOk_writeRegs | split | intro _ | dsimp only

theorem memOk_execSets {u : Bool} {a : Opnd} {num : BitVec 9} {s : State} (h0 : MemOk s) :
    OutMemOk (execSets u a num s) := by
  unfold execSets
  repeat' first
    | with_reducible assumption | with_reducible apply memOk_onTeam | with_reducible apply memOk_execLanes | split
    | intro _ | dsimp only

/-! ## Matrix -/

theorem memOk_matrixBody {op : State → Pipe → Team → Thread → List Nat → State × Option Flt} (hop : ∀ s a b c d, MemOk s → MemOk (op s a b c d).1) :
    BodyMemOk (matrixBody op) := by
  intro s th tids h0
  unfold matrixBody
  try dsimp only
  repeat' first | with_reducible assumption | with_reducible apply hop | split

theorem memOk_zeroGranule {s : State} {core : CoreId} {g : Nat} (h0 : MemOk s) :
    MemOk (State.zeroGranule s core g) := by
  unfold State.zeroGranule
  repeat' first | with_reducible assumption | with_reducible apply memOk_onCore | with_reducible apply Memory.wf_clear | intro _

theorem memOk_dropCmd {s : State} {id : Nat} (h0 : MemOk s) :
    MemOk (State.dropCmd s id) := by
  unfold State.dropCmd
  repeat' first | with_reducible assumption

theorem memOk_afreeStep {s : State} {c : Cmd} (h0 : MemOk s) :
    MemOk (State.afreeStep s c) := by
  unfold State.afreeStep
  repeat' first
    | with_reducible assumption | with_reducible apply memOk_onTeam | with_reducible apply memOk_dropCmd | split
    | intro _

theorem memOk_settleFrees {s : State} {core : CoreId} (h0 : MemOk s) :
    MemOk (State.settleFrees s core) := by
  unfold State.settleFrees
  repeat' first
    | with_reducible assumption | with_reducible apply memOk_afreeStep
    | with_reducible refine memOk_foldl (fun _ _ _ => ?_) ?_ | split

theorem memOk_allocGranules {s : State} {t : Team} {c : Nat} (h0 : MemOk s) :
    MemOk (State.allocGranules s t c).1 := by
  unfold State.allocGranules
  repeat' first
    | with_reducible assumption | with_reducible apply memOk_onTeam | with_reducible apply memOk_zeroGranule
    | with_reducible refine memOk_foldl (fun _ _ _ => ?_) ?_
    | (extract_lets +descend +onlyGivenNames x; refine memOk_cut (P := MemOk x) ?_ ?_
       (on_goal 1 => (dsimp only [x]; clear x))
       (on_goal 2 => (intro hx; clear_value x)))
    | (extract_lets +descend +onlyGivenNames x; clear_value x) | split | intro _

theorem memOk_execAalloc {d c : Opnd} {s : State} (h0 : MemOk s) : OutMemOk (execAalloc d c s) := by
  unfold execAalloc
  refine memOk_execLanes h0 (memOk_matrixBody fun s' p tm th tids h => ?_)
  dsimp only
  split
  · exact h
  · exact memOk_writeRegs (memOk_allocGranules (memOk_settleFrees h))

theorem memOk_enterMatrix {s : State} {tm : Team} {th : Thread} {tids : List Nat} {op : CmdOp} {guard : BitVec 4} {scope : Scope} {slate : SlateAt} {status : Option Word} (h0 : MemOk s) :
    MemOk (State.enterMatrix s tm th tids op guard scope slate status) := by
  unfold State.enterMatrix
  repeat' first | with_reducible assumption | with_reducible apply memOk_issue

theorem memOk_execAfree {g : Opnd} {count : BitVec 9} {s : State} (h0 : MemOk s) :
    OutMemOk (execAfree g count s) := by
  unfold execAfree
  repeat' first
    | with_reducible assumption | with_reducible apply memOk_execLanes | with_reducible apply memOk_matrixBody
    | with_reducible apply memOk_enterMatrix | split | intro _

theorem memOk_execMzero {g : Opnd} {count : BitVec 9} {s : State} (h0 : MemOk s) :
    OutMemOk (execMzero g count s) := by
  unfold execMzero
  repeat' first
    | with_reducible assumption | with_reducible apply memOk_execLanes | with_reducible apply memOk_matrixBody
    | with_reducible apply memOk_enterMatrix | split | intro _

theorem memOk_execOres {a b c : Opnd} {fmt : Fmt} {gl : GroupLen} {rid : BitVec 3} {rw : Rows} {s : State} (h0 : MemOk s) :
    OutMemOk (execOres a b c fmt gl rid rw s) := by
  unfold execOres
  repeat' first
    | with_reducible assumption | with_reducible apply memOk_onTeam | with_reducible apply memOk_execLanes
    | with_reducible apply memOk_matrixBody | (extract_lets +descend +onlyGivenNames x; clear_value x) | split
    | intro _

theorem memOk_execOrel {rid : BitVec 3} {s : State} (h0 : MemOk s) :
    OutMemOk (execOrel rid s) := by
  unfold execOrel
  repeat' first
    | with_reducible assumption | with_reducible apply memOk_execLanes | with_reducible apply memOk_matrixBody
    | with_reducible apply memOk_enterMatrix | split | intro _

theorem memOk_execMfeed {a b : Opnd} {rid : BitVec 3} {e : EngCtl} {s : State} (h0 : MemOk s) :
    OutMemOk (execMfeed a b rid e s) := by
  unfold execMfeed
  repeat' first
    | with_reducible assumption | with_reducible apply memOk_execLanes | with_reducible apply memOk_matrixBody
    | with_reducible apply memOk_enterMatrix | (extract_lets +descend +onlyGivenNames x; clear_value x) | split
    | intro _

theorem memOk_execMloop {a b c : Opnd} {lc : LoopCtl} {s : State} (h0 : MemOk s) :
    OutMemOk (execMloop a b c lc s) := by
  unfold execMloop
  repeat' first
    | with_reducible assumption | with_reducible apply memOk_execLanes | with_reducible apply memOk_matrixBody
    | with_reducible apply memOk_enterMatrix | (extract_lets +descend +onlyGivenNames x; clear_value x) | split
    | intro _

theorem memOk_onElem {s : State} {tm : Team} {a w : Nat} {f : Nat → Nat × Word} (h0 : MemOk s) :
    MemOk (State.onElem s tm a w f).1 := by
  unfold State.onElem
  repeat' first
    | with_reducible assumption | with_reducible apply memOk_accWrite
    | (extract_lets +descend +onlyGivenNames x; clear_value x) | split

theorem memOk_overShape {s : State} {m n : Nat} {f : State → Nat → Nat → State × Word × Bool} (h0 : MemOk s) (hf : ∀ s a b, MemOk s → MemOk (f s a b).1) :
    MemOk (State.overShape s m n f).1 := by
  unfold State.overShape
  repeat' first | with_reducible assumption | with_reducible apply hf | with_reducible refine memOk_foldlPair (fun _ _ _ => ?_) ?_

theorem memOk_stepFloat {s : State} {tm : Team} {g m n : Nat} {ra rb : Resv} {sa sb : Nat} (h0 : MemOk s) :
    MemOk (State.stepFloat s tm g m n ra rb sa sb).1 := by
  unfold State.stepFloat
  repeat' first
    | with_reducible assumption | with_reducible apply memOk_onElem | with_reducible apply memOk_overShape | split
    | intro _

theorem memOk_stepQuant {s : State} {tm : Team} {g m n k : Nat} {ra rb : Resv} {sa sb : Nat} {old : List Int} {oldBad : Bool} (h0 : MemOk s) :
    MemOk (State.stepQuant s tm g m n k ra rb sa sb old oldBad).1 := by
  unfold State.stepQuant
  repeat' first
    | with_reducible assumption | with_reducible apply memOk_onElem | with_reducible apply memOk_overShape
    | with_reducible refine memOk_foldlPair (fun _ _ _ => ?_) ?_
    | (extract_lets +descend +onlyGivenNames x; refine memOk_cut (P := MemOk x.1) ?_ ?_
       (on_goal 1 => (dsimp only [x]; clear x))
       (on_goal 2 => (intro hx; clear_value x)))
    | (extract_lets +descend +onlyGivenNames x; clear_value x) | split | intro _

theorem memOk_onResv {s : State} {t : TeamId} {rid : BitVec 3} {f : Resv → Resv} (h0 : MemOk s) :
    MemOk (State.onResv s t rid f) := by
  unfold State.onResv
  repeat' first | with_reducible assumption | with_reducible apply memOk_onTeam | intro _

theorem memOk_madeProgress {s : State} {core : CoreId} (h0 : MemOk s) :
    MemOk (State.madeProgress s core) := by
  unfold State.madeProgress
  repeat' first | with_reducible assumption | with_reducible apply memOk_onCore | intro _

theorem memOk_finishLoop {s : State} {c : Cmd} {steps : Nat} {arid brid : BitVec 3} {ak bk : Bool} (h0 : MemOk s) :
    MemOk (State.finishLoop s c steps arid brid ak bk) := by
  unfold State.finishLoop
  repeat' first
    | with_reducible assumption | with_reducible apply memOk_onCmd | with_reducible apply memOk_cmdCredit
    | with_reducible apply memOk_onResv
    | (extract_lets +descend +onlyGivenNames x; refine memOk_cut (P := MemOk x) ?_ ?_
       (on_goal 1 => (dsimp only [x]; clear x))
       (on_goal 2 => (intro hx; clear_value x)))
    | (extract_lets +descend +onlyGivenNames x; clear_value x) | split

theorem memOk_noteFormat {s : State} {tm : Team} {g n : Nat} {f64 : Bool} (h0 : MemOk s) :
    MemOk (State.noteFormat s tm g n f64) := by
  unfold State.noteFormat
  repeat' first | with_reducible assumption | with_reducible apply memOk_onTeam | split | intro _

theorem memOk_loopStep {s : State} {c : Cmd} {tm : Team} {steps g : Nat} {arid brid : BitVec 3} {m n : Rows} {ak bk : Bool} {ra rb : Resv} (h0 : MemOk s) :
    MemOk (State.loopStep s c tm steps g arid brid m n ak bk ra rb) := by
  unfold State.loopStep
  repeat' first
    | with_reducible assumption | with_reducible apply memOk_onCmd | with_reducible apply memOk_setFlags
    | with_reducible apply memOk_stepFloat | with_reducible apply memOk_stepQuant | with_reducible apply memOk_onResv
    | with_reducible apply memOk_madeProgress | with_reducible apply memOk_finishLoop
    | with_reducible apply memOk_noteFormat
    | (extract_lets +descend +onlyGivenNames x; refine memOk_cut (P := MemOk x) ?_ ?_
       (on_goal 1 => (dsimp only [x]; clear x))
       (on_goal 2 => (intro hx; clear_value x)))
    | (extract_lets +descend +onlyGivenNames x; refine memOk_cut (P := MemOk x.1) ?_ ?_
       (on_goal 1 => (dsimp only [x]; clear x))
       (on_goal 2 => (intro hx; clear_value x)))
    | (extract_lets +descend +onlyGivenNames x; clear_value x) | split

theorem memOk_execMloopStep {id : Nat} {s : State} (h0 : MemOk s) :
    OutMemOk (execMloopStep id s) := by
  unfold execMloopStep
  repeat' first | with_reducible assumption | with_reducible apply outMemOk_event | with_reducible apply memOk_loopStep | split

theorem memOk_enterLine {s : State} {c : Cmd} {rid : BitVec 3} {r : Resv} (h0 : MemOk s) :
    MemOk (State.enterLine s c rid r) := by
  unfold State.enterLine
  repeat' first
    | with_reducible assumption | with_reducible apply memOk_onCore | with_reducible apply memOk_onCmd
    | with_reducible apply memOk_cmdCredit | with_reducible apply memOk_releaseLines
    | with_reducible apply memOk_onResv | with_reducible apply memOk_madeProgress
    | (extract_lets +descend +onlyGivenNames x; refine memOk_cut (P := MemOk x) ?_ ?_
       (on_goal 1 => (dsimp only [x]; clear x))
       (on_goal 2 => (intro hx; clear_value x)))
    | (extract_lets +descend +onlyGivenNames x; clear_value x) | split | intro _

theorem memOk_execMfeedLineEnter {id : Nat} {s : State} (h0 : MemOk s) :
    OutMemOk (execMfeedLineEnter id s) := by
  unfold execMfeedLineEnter
  repeat' first | with_reducible assumption | with_reducible apply outMemOk_event | with_reducible apply memOk_enterLine | split

theorem memOk_execMdrain {d a b : Opnd} {zero : Bool} {e : EngCtl} {s : State} (h0 : MemOk s) :
    OutMemOk (execMdrain d a b zero e s) := by
  unfold execMdrain
  repeat' first
    | with_reducible assumption | with_reducible apply memOk_execLanes | with_reducible apply memOk_matrixBody
    | with_reducible apply memOk_enterMatrix | (extract_lets +descend +onlyGivenNames x; clear_value x) | split
    | intro _

theorem memOk_drainRead {s : State} {c : Cmd} {tm : Team} {g : Nat} {r : Drain} (h0 : MemOk s) :
    MemOk (State.drainRead s c tm g r) := by
  unfold State.drainRead
  repeat' first
    | with_reducible assumption | with_reducible apply memOk_onCmd | with_reducible apply memOk_setFlags
    | with_reducible apply memOk_zeroGranule | with_reducible refine memOk_foldl (fun _ _ _ => ?_) ?_ | split

theorem memOk_startDrain {s : State} {c : Cmd} {tm : Team} {dsp : Space} {d : Addr} {g : Nat} {r : Drain} (h0 : MemOk s) :
    MemOk (State.startDrain s c tm dsp d g r) := by
  unfold State.startDrain
  repeat' first
    | with_reducible assumption | with_reducible apply memOk_onCmd | with_reducible apply memOk_stopCmd
    | with_reducible apply memOk_startCopy | with_reducible apply memOk_drainRead
    | (extract_lets +descend +onlyGivenNames x; refine memOk_cut (P := MemOk x) ?_ ?_
       (on_goal 1 => (dsimp only [x]; clear x))
       (on_goal 2 => (intro hx; clear_value x)))
    | split

theorem memOk_discardMatrix {s : State} {c : Cmd} (h0 : MemOk s) :
    MemOk (State.discardMatrix s c) := by
  unfold State.discardMatrix
  repeat' first
    | with_reducible assumption | with_reducible apply memOk_onCmd | with_reducible apply memOk_cmdCredit
    | with_reducible apply memOk_discardCmd | split

theorem memOk_startMatrix {s : State} {c : Cmd} {tm : Team} (h0 : MemOk s) :
    MemOk (State.startMatrix s c tm) := by
  unfold State.startMatrix
  repeat' first | with_reducible assumption | with_reducible apply memOk_onCmd | with_reducible apply memOk_startDrain | split

theorem memOk_execMzeroEffect {id : Nat} {s : State} (h0 : MemOk s) :
    OutMemOk (execMzeroEffect id s) := by
  unfold execMzeroEffect
  repeat' first
    | with_reducible assumption | with_reducible apply outMemOk_event | with_reducible apply memOk_zeroGranule
    | with_reducible apply memOk_dropCmd | with_reducible refine memOk_foldl (fun _ _ _ => ?_) ?_
    | (extract_lets +descend +onlyGivenNames x; refine memOk_cut (P := MemOk x) ?_ ?_
       (on_goal 1 => (dsimp only [x]; clear x))
       (on_goal 2 => (intro hx; clear_value x)))
    | split

theorem memOk_execAfreeEffect {id : Nat} {s : State} (h0 : MemOk s) :
    OutMemOk (execAfreeEffect id s) := by
  unfold execAfreeEffect
  repeat' first | with_reducible assumption | with_reducible apply outMemOk_event | with_reducible apply memOk_afreeStep | split

theorem memOk_execOrelEffect {id : Nat} {s : State} (h0 : MemOk s) :
    OutMemOk (execOrelEffect id s) := by
  unfold execOrelEffect
  repeat' first
    | with_reducible assumption | with_reducible apply outMemOk_event | with_reducible apply memOk_onTeam
    | with_reducible apply memOk_dropCmd | split | intro _

theorem memOk_creditNow {s : State} {c : Credit} (h0 : MemOk s) :
    MemOk (State.creditNow s c) := by
  unfold State.creditNow
  repeat' first | with_reducible assumption | with_reducible apply memOk_applyCredit | split

theorem memOk_flushCredits {s : State} {id : Nat} (h0 : MemOk s) :
    MemOk (State.flushCredits s id) := by
  unfold State.flushCredits
  repeat' first
    | with_reducible assumption | with_reducible apply memOk_creditNow
    | with_reducible refine memOk_foldl (fun _ _ _ => ?_) ?_

theorem memOk_resetCmd {s : State} {c : Cmd} (h0 : MemOk s) :
    MemOk (State.resetCmd s c) := by
  unfold State.resetCmd
  repeat' first
    | with_reducible assumption | with_reducible apply memOk_spadWrite | with_reducible apply memOk_cmdCredit
    | with_reducible apply memOk_releaseLines | with_reducible apply memOk_dropCmd
    | with_reducible apply memOk_flushCredits
    | (extract_lets +descend +onlyGivenNames x; refine memOk_cut (P := MemOk x) ?_ ?_
       (on_goal 1 => (dsimp only [x]; clear x))
       (on_goal 2 => (intro hx; clear_value x)))
    | split

theorem memOk_matrixReset {s : State} {core : CoreId} (h0 : MemOk s) : MemOk (s.matrixReset core) := by
  unfold State.matrixReset
  refine memOk_onCore (fun _ _ => rfl) ?_
  refine memCanon_mapTeams (fun t => ?_) ?_
  · split <;> rfl
  · exact memOk_foldl (fun _ _ h => memOk_resetCmd h) h0

theorem memOk_execMrst {u : Bool} {s : State} (h0 : MemOk s) :
    OutMemOk (execMrst u s) := by
  unfold execMrst
  repeat' first
    | with_reducible assumption | with_reducible apply memOk_execLanes | with_reducible apply memOk_matrixReset
    | intro _

theorem memOk_execMatrixWatchdogExpiry {core : CoreId} {s : State} (h0 : MemOk s) :
    OutMemOk (execMatrixWatchdogExpiry core s) := by
  unfold execMatrixWatchdogExpiry
  repeat' first | with_reducible assumption | with_reducible apply outMemOk_event | with_reducible apply memOk_matrixReset | split

end Sys2Proof.Machine
end

