-- ==== Sys2Proof/Laws/MemOkPackage.lean ====
section
/-!
SUPPORT. Every operation of Machine/Parcels, Jobs, Contexts, Start, Selector, Function, Firmware and Fetch keeps every memory in
canonical form.
-/
namespace Sys2Proof.Machine

/-! ## Parcels -/

theorem memOk_onHandle {s : State} {die : Fin 8} {h : Nat} {f : Handle → Handle} (h0 : MemOk s) :
    MemOk (State.onHandle s die h f) := by
  unfold State.onHandle
  repeat' first | with_reducible assumption | with_reducible apply memOk_onDie

theorem memOk_wakeParcel {s : State} {die : Fin 8} {h : Nat} (h0 : MemOk s) :
    MemOk (State.wakeParcel s die h) := by
  unfold State.wakeParcel
  repeat' first
    | with_reducible assumption | with_reducible apply memOk_tryWait
    | with_reducible refine memOk_foldl (fun _ _ _ => ?_) ?_ | split

theorem memOk_freeParcel {s : State} {die : Fin 8} {h : Nat} (h0 : MemOk s) :
    MemOk (State.freeParcel s die h) := by
  unfold State.freeParcel
  repeat' first | with_reducible assumption | with_reducible apply memOk_onHandle | with_reducible apply memOk_wakeParcel

theorem memOk_sealParcel {s : State} {die : Fin 8} {h : Nat} (h0 : MemOk s) :
    MemOk (State.sealParcel s die h) := by
  unfold State.sealParcel
  repeat' first | with_reducible assumption | with_reducible apply memOk_onHandle

theorem memOk_allocParcel {s : State} {tm : Team} {size : Nat} (h0 : MemOk s) :
    MemOk (State.allocParcel s tm size).1 := by
  unfold State.allocParcel
  repeat' first
    | with_reducible assumption | with_reducible apply memOk_onHandle
    | (extract_lets +descend +onlyGivenNames x; clear_value x) | split

theorem memOk_execPnew {u : Bool} {d a : Opnd} {s : State} (h0 : MemOk s) :
    OutMemOk (execPnew u d a s) := by
  unfold execPnew
  repeat' first
    | with_reducible assumption | with_reducible apply memOk_execLanes | with_reducible apply memOk_writeRegs
    | with_reducible apply memOk_allocParcel | split | intro _ | dsimp only

theorem memOk_execPadd {u : Bool} {d a b : Opnd} {s : State} (h0 : MemOk s) :
    OutMemOk (execPadd u d a b s) := by
  unfold execPadd
  repeat' first
    | with_reducible assumption | with_reducible apply memOk_execLanes | with_reducible apply memOk_writeRegs | split
    | intro _ | dsimp only

theorem memOk_execPqry {u : Bool} {d a : Opnd} {fn : BitVec 2} {s : State} (h0 : MemOk s) :
    OutMemOk (execPqry u d a fn s) := by
  unfold execPqry
  repeat' first
    | with_reducible assumption | with_reducible apply memOk_execLanes | with_reducible apply memOk_writeRegs | split
    | intro _ | dsimp only

theorem memOk_execPseal {u : Bool} {a : Opnd} {s : State} (h0 : MemOk s) :
    OutMemOk (execPseal u a s) := by
  unfold execPseal
  repeat' first
    | with_reducible assumption | with_reducible apply memOk_addHold | with_reducible apply memOk_execLanes
    | with_reducible apply memOk_sealParcel | split | intro _ | dsimp only

theorem memOk_execPfree {u : Bool} {a : Opnd} {s : State} (h0 : MemOk s) :
    OutMemOk (execPfree u a s) := by
  unfold execPfree
  repeat' first
    | with_reducible assumption | with_reducible apply memOk_addHold | with_reducible apply memOk_execLanes
    | with_reducible apply memOk_freeParcel | split | intro _ | dsimp only

theorem memOk_resolveParcel {s : State} {tm : Team} {th : Thread} {sp : Space} {base : Opnd} {off : BitVec 14} {n : Nat} {needs : Needs} {ord : Order} {sc : Scope} {more : Handle → Addr → Bool} (h0 : MemOk s) :
    MemOk (State.resolveParcel s tm th sp base off n needs ord sc more).1 := by
  unfold State.resolveParcel
  repeat' first
    | with_reducible assumption | with_reducible apply memOk_resolveVa
    | (with_reducible refine memOk_ofPair (by assumption) ?_) | (extract_lets +descend +onlyGivenNames x; clear_value x)
    | split

theorem memOk_parcelLoadBody {i : Instr} {d base : Opnd} {cnt : Fin 4} {mc : MemCtl} {refs : Bool} :
    BodyMemOk (parcelLoadBody i d base cnt mc refs) := by
  intro s th tids h0
  unfold parcelLoadBody
  try dsimp only
  repeat' first
    | with_reducible assumption | with_reducible apply memOk_launch | with_reducible apply memOk_resolveParcel
    | (with_reducible refine memOk_ofPair (by assumption) ?_) | split

theorem memOk_execPld {u : Bool} {d base : Opnd} {cnt : BitVec 2} {mc : MemCtl} {s : State} (h0 : MemOk s) :
    OutMemOk (execPld u d base cnt mc s) := by
  unfold execPld
  repeat' first | with_reducible assumption | with_reducible apply memOk_execLanes | with_reducible apply memOk_parcelLoadBody

theorem memOk_execPldr {u : Bool} {d base : Opnd} {cnt : BitVec 2} {mc : MemCtl} {s : State} (h0 : MemOk s) :
    OutMemOk (execPldr u d base cnt mc s) := by
  unfold execPldr
  repeat' first | with_reducible assumption | with_reducible apply memOk_execLanes | with_reducible apply memOk_parcelLoadBody

theorem memOk_parcelStoreBody {i : Instr} {base : Opnd} {mc : MemCtl} {bytes : Thread → List Byte} {bad : State → Team → Thread → Handle → Addr → Bool} :
    BodyMemOk (parcelStoreBody i base mc bytes bad) := by
  intro s th tids h0
  unfold parcelStoreBody
  try dsimp only
  repeat' first
    | with_reducible assumption | with_reducible apply memOk_launch | with_reducible apply memOk_resolveParcel
    | (with_reducible refine memOk_ofPair (by assumption) ?_) | split

theorem memOk_execPst {u : Bool} {d base : Opnd} {mc : MemCtl} {s : State} (h0 : MemOk s) :
    OutMemOk (execPst u d base mc s) := by
  unfold execPst
  repeat' first | with_reducible assumption | with_reducible apply memOk_execLanes | with_reducible apply memOk_parcelStoreBody

theorem memOk_execPstr {u : Bool} {d base : Opnd} {mc : MemCtl} {s : State} (h0 : MemOk s) :
    OutMemOk (execPstr u d base mc s) := by
  unfold execPstr
  repeat' first | with_reducible assumption | with_reducible apply memOk_execLanes | with_reducible apply memOk_parcelStoreBody

theorem memOk_acceptPost {s : State} {tm : Team} {h sl : Nat} {w : Word} {sr : Addr} (h0 : MemOk s) :
    MemOk (State.acceptPost s tm h sl w sr) := by
  unfold State.acceptPost
  repeat' first | with_reducible assumption | with_reducible apply memOk_onHandle

theorem memOk_faultHeld {s : State} {p : Pipe} {words : Nat} {u : Bool} {f : Flt} {tids : List Nat} (h0 : MemOk s) :
    MemOk (State.faultHeld s p words u f tids) := by
  unfold State.faultHeld
  repeat' first | with_reducible assumption | with_reducible apply memOk_faultLanes

theorem memOk_parcelEffect {s : State} {p : Pipe} {tm : Team} {h : Hold} (h0 : MemOk s) :
    MemOk (State.parcelEffect s p tm h) := by
  unfold State.parcelEffect
  repeat' first
    | with_reducible assumption | with_reducible apply memOk_onCmd | with_reducible apply memOk_dropCmd
    | with_reducible apply memOk_freeParcel | with_reducible apply memOk_sealParcel
    | with_reducible apply memOk_acceptPost | with_reducible apply memOk_faultHeld
    | (extract_lets +descend +onlyGivenNames x; clear_value x) | split

theorem memOk_execPwait {u : Bool} {a : Opnd} {s : State} (h0 : MemOk s) :
    OutMemOk (execPwait u a s) := by
  unfold execPwait
  repeat' first
    | with_reducible assumption | with_reducible apply memOk_execLanes
    | with_reducible refine bodyMemOk_at memOk_waitBody ?_ | split | intro _ | dsimp only

theorem memOk_execPrecv {u : Bool} {a l : Opnd} {dsp ssp : Space} {s : State} (h0 : MemOk s) :
    OutMemOk (execPrecv u a l dsp ssp s) := by
  unfold execPrecv
  repeat' first
    | with_reducible assumption | with_reducible apply memOk_execLanes | with_reducible apply memOk_issue
    | with_reducible apply memOk_onHandle | split | intro _ | dsimp only

theorem memOk_execPost {u : Bool} {d a b : Opnd} {e : EngCtl} {s : State} (h0 : MemOk s) :
    OutMemOk (execPost u d a b e s) := by
  unfold execPost
  repeat' first
    | with_reducible assumption | with_reducible apply memOk_addHold | with_reducible apply memOk_execLanes
    | with_reducible apply memOk_issue | with_reducible apply memOk_acceptPost | split | intro _ | dsimp only

theorem memOk_endCarry {s : State} {id : Nat} (h0 : MemOk s) :
    MemOk (State.endCarry s id) := by
  unfold State.endCarry
  repeat' first | with_reducible assumption | with_reducible apply memOk_onCmd | with_reducible apply memOk_releaseLines

theorem memOk_scrambleLine {s : State} {l : LineId} (h0 : MemOk s) :
    MemOk (State.scrambleLine s l) := by
  unfold State.scrambleLine
  repeat' first
    | with_reducible assumption
    | (extract_lets +descend +onlyGivenNames x; refine memOk_cut (P := MemOk x) ?_ ?_
       (on_goal 1 => (dsimp only [x]; clear x))
       (on_goal 2 => (intro hx; clear_value x)))
    | (extract_lets +descend +onlyGivenNames x; clear_value x) | split | with_reducible apply memCanon_pool_line
    | with_reducible apply memCanon_host_line

theorem memOk_unclaim {s : State} {die : Fin 8} {h : Nat} (h0 : MemOk s) :
    MemOk (State.unclaim s die h) := by
  unfold State.unclaim
  repeat' first
    | with_reducible assumption | with_reducible apply memOk_onHandle | with_reducible apply memOk_scrambleLine
    | with_reducible refine memOk_foldl (fun _ _ _ => ?_) ?_ | split

theorem memOk_failPost {s : State} {c : Cmd} {cause : BitVec 8} (h0 : MemOk s) :
    MemOk (State.failPost s c cause) := by
  unfold State.failPost
  repeat' first
    | with_reducible assumption | with_reducible apply memOk_onCmd | with_reducible apply memOk_cmdCredit
    | with_reducible apply memOk_onHandle | with_reducible apply memOk_endCarry | with_reducible apply memOk_unclaim
    | (extract_lets +descend +onlyGivenNames x; refine memOk_cut (P := MemOk x) ?_ ?_
       (on_goal 1 => (dsimp only [x]; clear x))
       (on_goal 2 => (intro hx; clear_value x)))
    | split

theorem memOk_discardPost {s : State} {c : Cmd} {h : Nat} (h0 : MemOk s) :
    MemOk (State.discardPost s c h) := by
  unfold State.discardPost
  repeat' first
    | with_reducible assumption | with_reducible apply memOk_onCmd | with_reducible apply memOk_cmdCredit
    | with_reducible apply memOk_onHandle | with_reducible apply memOk_endCarry

theorem memOk_slotArrives {s : State} {die : Fin 8} {h size : Nat} (h0 : MemOk s) :
    MemOk (State.slotArrives s die h size) := by
  unfold State.slotArrives
  repeat' first
    | with_reducible assumption | with_reducible apply memOk_creditAt | with_reducible apply memOk_onHandle
    | with_reducible apply memOk_wakeParcel

theorem memOk_arrivePost {s : State} {c : Cmd} (h0 : MemOk s) :
    MemOk (State.arrivePost s c) := by
  unfold State.arrivePost
  repeat' first
    | with_reducible assumption | with_reducible apply memOk_cmdCredit | with_reducible apply memOk_onHandle
    | with_reducible apply memOk_endCarry | with_reducible apply memOk_slotArrives
    | (extract_lets +descend +onlyGivenNames x; refine memOk_cut (P := MemOk x) ?_ ?_
       (on_goal 1 => (dsimp only [x]; clear x))
       (on_goal 2 => (intro hx; clear_value x)))
    | (extract_lets +descend +onlyGivenNames x; clear_value x) | split

theorem memOk_claimSlot {s : State} {c : Cmd} {die : Fin 8} {sref : Addr} (h0 : MemOk s) :
    MemOk (State.claimSlot s c die sref) := by
  unfold State.claimSlot
  repeat' first
    | with_reducible assumption | with_reducible apply memOk_onCmd | with_reducible apply memOk_onHandle
    | with_reducible apply memOk_failPost | split

theorem memOk_execParcelClaim {id : Nat} {accept : Bool} {inc : Option Incoming} {s : State} (h0 : MemOk s) :
    OutMemOk (execParcelClaim id accept inc s) := by
  unfold execParcelClaim
  repeat' first
    | with_reducible assumption | with_reducible apply outMemOk_event | with_reducible apply memOk_onCmd
    | with_reducible apply memOk_bump | with_reducible apply memOk_kick | with_reducible apply memOk_failPost
    | with_reducible apply memOk_claimSlot
    | (extract_lets +descend +onlyGivenNames x; refine memOk_cut (P := MemOk x) ?_ ?_
       (on_goal 1 => (dsimp only [x]; clear x))
       (on_goal 2 => (intro hx; clear_value x)))
    | (extract_lets +descend +onlyGivenNames x; refine memOk_cut (P := ∀ a, OutMemOk (x a)) ?_ ?_
       (on_goal 1 => (dsimp only [x]; clear x))
       (on_goal 2 => (intro hH; clear_value x)))
    | (extract_lets +descend +onlyGivenNames x; clear_value x) | split | with_reducible apply hH | intro _

theorem memOk_parcelLine {s : State} {die : Fin 8} {h k : Nat} {needs : Needs} (h0 : MemOk s) :
    MemOk (State.parcelLine s die h k needs).1 := by
  unfold State.parcelLine
  repeat' first
    | with_reducible assumption | with_reducible apply memOk_translate | with_reducible apply memOk_peerNow
    | (with_reducible refine memOk_ofPair (by assumption) ?_) | (extract_lets +descend +onlyGivenNames x; clear_value x)
    | split

theorem memOk_readParcel {s : State} {c : Cmd} {h : Nat} (h0 : MemOk s) :
    MemOk (State.readParcel s c h).1 := by
  unfold State.readParcel
  repeat' first
    | with_reducible assumption | with_reducible apply memOk_overAll | with_reducible apply memOk_addJob
    | with_reducible apply memOk_homeFetch | with_reducible apply memOk_parcelLine
    | (with_reducible refine memOk_ofPair (by assumption) ?_)
    | (extract_lets +descend +onlyGivenNames x; refine memOk_cut (P := MemOk x) ?_ ?_
       (on_goal 1 => (dsimp only [x]; clear x))
       (on_goal 2 => (intro hx; clear_value x)))
    | (extract_lets +descend +onlyGivenNames x; clear_value x) | split

theorem memOk_postRead {s : State} {c : Cmd} {h : Nat} {w : Word} (h0 : MemOk s) :
    MemOk (State.postRead s c h w) := by
  unfold State.postRead
  repeat' first
    | with_reducible assumption | with_reducible apply memOk_onCmd | with_reducible apply memOk_failPost
    | with_reducible apply memOk_readParcel | (with_reducible refine memOk_ofPair (by assumption) ?_) | split

theorem memOk_writeSlot {s : State} {c : Cmd} {die : Fin 8} {h k : Nat} {bs : List Byte} (h0 : MemOk s) :
    MemOk (State.writeSlot s c die h k bs).1 := by
  unfold State.writeSlot
  repeat' first
    | with_reducible assumption | with_reducible apply memOk_endAsk | with_reducible apply memOk_writeLine
    | with_reducible apply memOk_parcelLine | (with_reducible refine memOk_ofPair (by assumption) ?_)
    | (extract_lets +descend +onlyGivenNames x; clear_value x) | split

theorem memOk_slotStep {s : State} {c : Cmd} {die : Fin 8} {h : Nat} {bs : List Byte} (h0 : MemOk s) :
    MemOk (State.slotStep s c die h bs) := by
  unfold State.slotStep
  repeat' first
    | with_reducible assumption | with_reducible apply memOk_onCmd | with_reducible apply memOk_failPost
    | with_reducible apply memOk_writeSlot | (with_reducible refine memOk_ofPair (by assumption) ?_) | split

theorem memOk_lineOut {s : State} {c : Cmd} {h : Nat} (h0 : MemOk s) :
    MemOk (State.lineOut s c h) := by
  unfold State.lineOut
  repeat' first
    | with_reducible assumption | with_reducible apply memOk_onCmd | with_reducible apply memOk_endAsk
    | with_reducible apply memOk_poolRequest | with_reducible apply memOk_answer | with_reducible apply memOk_failPost
    | with_reducible apply memOk_parcelLine | (with_reducible refine memOk_ofPair (by assumption) ?_) | split

theorem memOk_postWrite {s : State} {c : Cmd} {h : Nat} {w : Word} (h0 : MemOk s) :
    MemOk (State.postWrite s c h w) := by
  unfold State.postWrite
  repeat' first
    | with_reducible assumption | with_reducible apply memOk_failPost | with_reducible apply memOk_slotStep
    | with_reducible apply memOk_lineOut | split

theorem memOk_incomingWrite {s : State} {c : Cmd} {size mtu : Nat} {data : List Byte} (h0 : MemOk s) :
    MemOk (State.incomingWrite s c size mtu data) := by
  unfold State.incomingWrite
  repeat' first
    | with_reducible assumption | with_reducible apply memOk_onCmd | with_reducible apply memOk_slotStep
    | (extract_lets +descend +onlyGivenNames x; clear_value x) | split

theorem memOk_execParcelArrival {id : Nat} {s : State} (h0 : MemOk s) :
    OutMemOk (execParcelArrival id s) := by
  unfold execParcelArrival
  repeat' first
    | with_reducible assumption | with_reducible apply outMemOk_event | with_reducible apply memOk_kick
    | with_reducible apply memOk_arrivePost | (extract_lets +descend +onlyGivenNames x; clear_value x) | split

theorem memOk_onNet {s : State} {id : Nat} {f : NetParcel → NetParcel} (h0 : MemOk s) :
    MemOk (State.onNet s id f) := by
  unfold State.onNet
  repeat' first | with_reducible assumption

theorem memOk_execPacketArrival {id : Nat} {packet : Nat} {data : List Byte} {s : State} (h0 : MemOk s) :
    OutMemOk (execPacketArrival id packet data s) := by
  unfold execPacketArrival
  repeat' first
    | with_reducible assumption | with_reducible apply outMemOk_event | with_reducible apply memOk_onCmd
    | with_reducible apply memOk_kick | with_reducible apply memOk_onNet
    | (extract_lets +descend +onlyGivenNames x; refine memOk_cut (P := ∀ s, MemOk s → MemOk (x s)) ?_ ?_
       (on_goal 1 => (dsimp only [x]; clear x))
       (on_goal 2 => (intro hA; clear_value x)))
    | (extract_lets +descend +onlyGivenNames x; clear_value x) | split | with_reducible apply hA | intro _

theorem memOk_execSelectiveAcknowledgement {id : Nat} {packet : Nat} {s : State} (h0 : MemOk s) :
    OutMemOk (execSelectiveAcknowledgement id packet s) := by
  unfold execSelectiveAcknowledgement
  repeat' first | with_reducible assumption | with_reducible apply outMemOk_event | with_reducible apply memOk_onNet

theorem memOk_execPacketRetransmit {id : Nat} {packet : Nat} {s : State} (h0 : MemOk s) :
    OutMemOk (execPacketRetransmit id packet s) := by
  unfold execPacketRetransmit
  repeat' first | with_reducible assumption | with_reducible apply outMemOk_event | with_reducible apply memOk_onNet

theorem memOk_execNetworkTmoExpiry {id : Nat} {s : State} (h0 : MemOk s) :
    OutMemOk (execNetworkTmoExpiry id s) := by
  unfold execNetworkTmoExpiry
  repeat' first
    | with_reducible assumption | with_reducible apply outMemOk_event | with_reducible apply memOk_kick
    | with_reducible apply memOk_failPost | (extract_lets +descend +onlyGivenNames x; clear_value x) | split

theorem memOk_execEthernetPortFailure {port : Fin 4} {s : State} (h0 : MemOk s) :
    OutMemOk (execEthernetPortFailure port s) := by
  unfold execEthernetPortFailure
  repeat' first | with_reducible assumption | with_reducible apply outMemOk_event

theorem memOk_startPost {s : State} {c : Cmd} {w : Word} (h0 : MemOk s) :
    MemOk (State.startPost s c w) := by
  unfold State.startPost
  repeat' first
    | with_reducible assumption | with_reducible apply memOk_onCmd
    | (extract_lets +descend +onlyGivenNames x; refine memOk_cut (P := MemOk x) ?_ ?_
       (on_goal 1 => (dsimp only [x]; clear x))
       (on_goal 2 => (intro hx; clear_value x)))
    | (extract_lets +descend +onlyGivenNames x; clear_value x) | split

/-! ## Jobs -/

theorem memOk_execJpost {u : Bool} {a b : Opnd} {e : EngCtl} {s : State} (h0 : MemOk s) :
    OutMemOk (execJpost u a b e s) := by
  unfold execJpost
  repeat' first | with_reducible assumption | with_reducible apply memOk_execLanes | with_reducible apply memOk_engBody

theorem memOk_enterCard {s : State} {c : Cmd} {target : Word} (h0 : MemOk s) :
    MemOk (State.enterCard s c target) := by
  unfold State.enterCard
  repeat' first
    | with_reducible assumption | with_reducible apply memOk_onCore | with_reducible apply memOk_onDie
    | with_reducible apply memOk_writeGlobal | with_reducible apply memOk_stopCmd
    | with_reducible apply memOk_finishCmd | (with_reducible refine memOk_ofPair (by assumption) ?_)
    | (extract_lets +descend +onlyGivenNames x; clear_value x) | split | intro _

theorem memOk_blockWord {s : State} {die : Fin 8} {asid : BitVec 16} {va : Addr} (h0 : MemOk s) :
    MemOk (State.blockWord s die asid va).1 := by
  unfold State.blockWord
  repeat' first
    | with_reducible assumption | with_reducible apply memOk_readAs
    | (with_reducible refine memOk_ofPair (by assumption) ?_) | split

theorem memOk_cardCheck {s : State} {die : Fin 8} {asid : BitVec 16} {priv : Bool} {src : CardSrc} {v : BitVec 512} (h0 : MemOk s) :
    MemOk (State.cardCheck s die asid priv src v).1 := by
  unfold State.cardCheck
  repeat' first
    | with_reducible assumption | with_reducible apply memOk_blockWord
    | (with_reducible refine memOk_ofPair (by assumption) ?_) | split

theorem memOk_shrinkL1 {s : State} {c : CoreId} (h0 : MemOk s) :
    MemOk (State.shrinkL1 s c) := by
  unfold State.shrinkL1
  repeat' first
    | with_reducible assumption | with_reducible apply memOk_evict
    | with_reducible refine memOk_foldl (fun _ _ _ => ?_) ?_ | split

theorem memOk_lowerL1 {s : State} {c : CoreId} {bytes : Nat} (h0 : MemOk s) :
    MemOk (State.lowerL1 s c bytes) := by
  unfold State.lowerL1
  repeat' first | with_reducible assumption | with_reducible apply memOk_onCore | with_reducible apply memOk_shrinkL1 | intro _

theorem memOk_raiseL1 {s : State} {c : CoreId} (h0 : MemOk s) :
    MemOk (State.raiseL1 s c) := by
  unfold State.raiseL1
  repeat' first | with_reducible assumption | with_reducible apply memOk_onCore | intro _

theorem memOk_marksFor {s : State} {id : TeamId} {new : List Damage} (h0 : MemOk s) :
    MemOk (State.marksFor s id new) := by
  unfold State.marksFor
  repeat' first | with_reducible assumption

theorem memOk_placeTeam {s : State} {g : Grid} {cl idx n cpos : Nat} {c : CoreId} (h0 : MemOk s) :
    MemOk (s.placeTeam g cl idx n cpos c) := by
  unfold State.placeTeam
  dsimp only
  split
  · refine memOk_foldl (fun _ _ h => memOk_enrol h) ?_
    exact memCanon_addTeam rfl (memOk_foldl (fun _ _ h => memOk_zeroGranule h) h0)
  · exact h0

theorem memOk_placeCluster {s : State} {g : Grid} {o : Nat × Nat} (h0 : MemOk s) :
    MemOk (State.placeCluster s g o) := by
  unfold State.placeCluster
  repeat' first
    | with_reducible assumption | with_reducible apply memOk_onGrid | with_reducible apply memOk_bump
    | with_reducible apply memOk_placeTeam | with_reducible refine memOk_foldl (fun _ _ _ => ?_) ?_

theorem memOk_readyL1 {s : State} {cores : List CoreId} {bytes : Nat} (h0 : MemOk s) :
    MemOk (State.readyL1 s cores bytes).1 := by
  unfold State.readyL1
  repeat' first
    | with_reducible assumption | with_reducible apply memOk_lowerL1
    | with_reducible refine memOk_foldl (fun _ _ _ => ?_) ?_

theorem memOk_execClusterPlacement {die : Fin 8} {s : State} (h0 : MemOk s) :
    OutMemOk (execClusterPlacement die s) := by
  unfold execClusterPlacement
  repeat' first
    | with_reducible assumption | with_reducible apply outMemOk_event | with_reducible apply memOk_kick
    | with_reducible apply memOk_placeCluster | with_reducible apply memOk_readyL1
    | (with_reducible refine memOk_ofPair (by assumption) ?_) | split

theorem memOk_dieReport {s : State} {die : Fin 8} {index : BitVec 64} {cause : BitVec 8} {data : Word} (h0 : MemOk s) :
    MemOk (State.dieReport s die index cause data) := by
  unfold State.dieReport
  repeat' first | with_reducible assumption | with_reducible apply memOk_onDie

theorem memOk_completeGrid {s : State} {g : Grid} {status : BitVec 2} (h0 : MemOk s) :
    MemOk (State.completeGrid s g status) := by
  unfold State.completeGrid
  repeat' first
    | with_reducible assumption | with_reducible apply memOk_onDie | with_reducible apply memOk_onGrid
    | with_reducible apply memOk_creditAt
    | (extract_lets +descend +onlyGivenNames x; refine memOk_cut (P := MemOk x) ?_ ?_
       (on_goal 1 => (dsimp only [x]; clear x))
       (on_goal 2 => (intro hx; clear_value x)))
    | split

theorem memOk_gridOver {s : State} {g : Grid} {c : Credit} {lost : Option (BitVec 8)} (h0 : MemOk s) :
    MemOk (State.gridOver s g c lost) := by
  unfold State.gridOver
  repeat' first
    | with_reducible assumption | with_reducible apply memOk_dieReport
    | (extract_lets +descend +onlyGivenNames x; refine memOk_cut (P := MemOk x) ?_ ?_
       (on_goal 1 => (dsimp only [x]; clear x))
       (on_goal 2 => (intro hx; clear_value x)))
    | split

theorem memOk_gridCredit {s : State} {g : Grid} {c : Credit} (h0 : MemOk s) :
    MemOk (State.gridCredit s g c) := by
  unfold State.gridCredit
  repeat' first
    | with_reducible assumption | with_reducible apply memOk_readGlobal | with_reducible apply memOk_writeGlobal
    | with_reducible apply memOk_gridOver | (with_reducible refine memOk_ofPair (by assumption) ?_)
    | (extract_lets +descend +onlyGivenNames x; clear_value x) | split | (unfold MemOk; dsimp only)

theorem memOk_execSlateCredit {id : Nat} {s : State} (h0 : MemOk s) :
    OutMemOk (execSlateCredit id s) := by
  unfold execSlateCredit
  repeat' first
    | with_reducible assumption | with_reducible apply outMemOk_event | with_reducible apply memOk_kick
    | with_reducible apply memOk_creditNow | with_reducible apply memOk_gridCredit
    | (extract_lets +descend +onlyGivenNames x; refine memOk_cut (P := MemOk x) ?_ ?_
       (on_goal 1 => (dsimp only [x]; clear x))
       (on_goal 2 => (intro hx; clear_value x)))
    | split

theorem memOk_queueFault {s : State} {die : Fin 8} {q : Nat} {work : QueueWork} {num : Nat} {cause : BitVec 8} (h0 : MemOk s) :
    MemOk (State.queueFault s die q work num cause) := by
  unfold State.queueFault
  repeat' first | with_reducible assumption | with_reducible apply memOk_onDie | with_reducible apply memOk_dieReport

theorem memOk_writeRecord {s : State} {die : Fin 8} {q : Nat} (h0 : MemOk s) :
    MemOk (State.writeRecord s die q) := by
  unfold State.writeRecord
  repeat' first
    | with_reducible assumption | with_reducible apply memOk_onDie | with_reducible apply memOk_writeGlobal
    | with_reducible apply memOk_queueFault | (with_reducible refine memOk_ofPair (by assumption) ?_)
    | (extract_lets +descend +onlyGivenNames x; clear_value x) | split

theorem memOk_execQueueCompletionRecord {die : Fin 8} {q : Fin 64} {s : State} (h0 : MemOk s) :
    OutMemOk (execQueueCompletionRecord die q s) := by
  unfold execQueueCompletionRecord
  repeat' first
    | with_reducible assumption | with_reducible apply outMemOk_event | with_reducible apply memOk_kick
    | with_reducible apply memOk_writeRecord | (extract_lets +descend +onlyGivenNames x; clear_value x) | split

theorem memOk_readCard {s : State} {die : Fin 8} {q n : Nat} (h0 : MemOk s) :
    MemOk (State.readCard s die q n).1 := by
  unfold State.readCard
  repeat' first
    | with_reducible assumption | with_reducible apply memOk_readGlobal
    | (with_reducible refine memOk_ofPair (by assumption) ?_) | (extract_lets +descend +onlyGivenNames x; clear_value x)
    | split

theorem memOk_waitOk {s : State} {die : Fin 8} {asid : BitVec 16} {v : BitVec 512} (h0 : MemOk s) :
    MemOk (State.waitOk s die asid v).1 := by
  unfold State.waitOk
  repeat' first
    | with_reducible assumption | with_reducible apply memOk_readGlobal
    | (with_reducible refine memOk_ofPair (by assumption) ?_) | (extract_lets +descend +onlyGivenNames x; clear_value x)
    | split

theorem memOk_queueRead {s : State} {die : Fin 8} {q : Nat} {work : QueueWork} {num : Nat} {k : BitVec 8} (h0 : MemOk s) :
    MemOk (State.queueRead s die q work num k) := by
  unfold State.queueRead
  repeat' first | with_reducible assumption | with_reducible apply memOk_queueFault | split

theorem memOk_nextCard {s : State} {die : Fin 8} {q : Fin 64} (h0 : MemOk s) :
    MemOk (State.nextCard s die q).1 := by
  unfold State.nextCard
  repeat' first
    | with_reducible assumption | with_reducible apply memOk_cardCheck | with_reducible apply memOk_readCard
    | with_reducible apply memOk_waitOk | with_reducible apply memOk_queueRead
    | (with_reducible refine memOk_ofPair (by assumption) ?_) | (extract_lets +descend +onlyGivenNames x; clear_value x)
    | split

theorem memOk_nextCards {s : State} {die : Fin 8} (h0 : MemOk s) :
    MemOk (State.nextCards s die).1 := by
  unfold State.nextCards
  repeat' first
    | with_reducible assumption | with_reducible apply memOk_nextCard
    | with_reducible refine memOk_foldlPair (fun _ _ _ => ?_) ?_ | (with_reducible refine memOk_ofPair (by assumption) ?_)
    | split

theorem memOk_takeCard {s : State} {die : Fin 8} {c : NextCard} (h0 : MemOk s) :
    MemOk (State.takeCard s die c) := by
  unfold State.takeCard
  repeat' first
    | with_reducible assumption | with_reducible apply memOk_onDie | with_reducible apply memOk_bump
    | (extract_lets +descend +onlyGivenNames x; refine memOk_cut (P := MemOk x) ?_ ?_
       (on_goal 1 => (dsimp only [x]; clear x))
       (on_goal 2 => (intro hx; clear_value x)))
    | (extract_lets +descend +onlyGivenNames x; clear_value x) | split

theorem memOk_stopClusters {s : State} {ids : List Nat} (h0 : MemOk s) :
    MemOk (State.stopClusters s ids) := by
  unfold State.stopClusters
  repeat' first | with_reducible assumption

theorem memOk_preemptFor {s : State} {die : Fin 8} {cs : List NextCard} (h0 : MemOk s) :
    MemOk (State.preemptFor s die cs) := by
  unfold State.preemptFor
  repeat' first | with_reducible assumption | with_reducible apply memOk_stopClusters | split

theorem memOk_execCardTake {die : Fin 8} {s : State} (h0 : MemOk s) :
    OutMemOk (execCardTake die s) := by
  unfold execCardTake
  repeat' first
    | with_reducible assumption | with_reducible apply outMemOk_event | with_reducible apply memOk_nextCards
    | with_reducible apply memOk_takeCard | with_reducible apply memOk_preemptFor | with_reducible apply memOk_settleReads
    | (with_reducible refine memOk_ofPair (by assumption) ?_)
    | (extract_lets +descend +onlyGivenNames x; refine memOk_cut (P := MemOk x) ?_ ?_
       (on_goal 1 => (dsimp only [x]; clear x))
       (on_goal 2 => (intro hx; clear_value x)))
    | split

theorem memOk_popCard {s : State} {core : CoreId} (h0 : MemOk s) :
    MemOk (State.popCard s core) := by
  unfold State.popCard
  repeat' first | with_reducible assumption | with_reducible apply memOk_onCore | intro _

theorem memOk_refuseCard {s : State} {core : CoreId} {q : Fin 64} {asid : BitVec 16} {v : BitVec 512} {num : Nat} (h0 : MemOk s) :
    MemOk (State.refuseCard s core q asid v num) := by
  unfold State.refuseCard
  repeat' first
    | with_reducible assumption | with_reducible apply memOk_onDie | with_reducible apply memOk_bump
    | with_reducible apply memOk_creditAt | with_reducible apply memOk_popCard
    | (extract_lets +descend +onlyGivenNames x; refine memOk_cut (P := MemOk x) ?_ ?_
       (on_goal 1 => (dsimp only [x]; clear x))
       (on_goal 2 => (intro hx; clear_value x)))
    | (extract_lets +descend +onlyGivenNames x; clear_value x) | split

theorem memOk_execLocalCardTake {core : CoreId} {s : State} (h0 : MemOk s) :
    OutMemOk (execLocalCardTake core s) := by
  unfold execLocalCardTake
  repeat' first
    | with_reducible assumption | with_reducible apply outMemOk_event | with_reducible apply memOk_bump
    | with_reducible apply memOk_cardCheck | with_reducible apply memOk_waitOk | with_reducible apply memOk_popCard
    | with_reducible apply memOk_refuseCard | with_reducible apply memOk_settleReads | (with_reducible refine memOk_ofPair (by assumption) ?_)
    | (extract_lets +descend +onlyGivenNames x; refine memOk_cut (P := MemOk x) ?_ ?_
       (on_goal 1 => (dsimp only [x]; clear x))
       (on_goal 2 => (intro hx; clear_value x)))
    | (extract_lets +descend +onlyGivenNames x; clear_value x) | split

theorem memOk_execQueueConfiguration {die : Fin 8} {q : Fin 64} {cfg : QueueConfig} {s : State} (h0 : MemOk s) :
    OutMemOk (execQueueConfiguration die q cfg s) := by
  unfold execQueueConfiguration
  repeat' first
    | with_reducible assumption | with_reducible apply outMemOk_event | with_reducible apply memOk_onDie
    | (extract_lets +descend +onlyGivenNames x; refine memOk_cut (P := MemOk x) ?_ ?_
       (on_goal 1 => (dsimp only [x]; clear x))
       (on_goal 2 => (intro hx; clear_value x)))
    | (extract_lets +descend +onlyGivenNames x; clear_value x) | split

theorem memOk_retryQueue {s : State} {die : Fin 8} {q : Fin 64} {w : QueueWork} (h0 : MemOk s) :
    MemOk (State.retryQueue s die q w) := by
  unfold State.retryQueue
  repeat' first
    | with_reducible assumption | with_reducible apply memOk_writeRecord | with_reducible apply memOk_nextCard | split

theorem memOk_execQueueDoorbell {die : Fin 8} {q : Fin 64} {tail : Nat} {s : State} (h0 : MemOk s) :
    OutMemOk (execQueueDoorbell die q tail s) := by
  unfold execQueueDoorbell
  repeat' first
    | with_reducible assumption | with_reducible apply outMemOk_event | with_reducible apply memOk_onDie
    | with_reducible apply memOk_kick | with_reducible apply memOk_retryQueue
    | (extract_lets +descend +onlyGivenNames x; refine memOk_cut (P := MemOk x) ?_ ?_
       (on_goal 1 => (dsimp only [x]; clear x))
       (on_goal 2 => (intro hx; clear_value x)))
    | (extract_lets +descend +onlyGivenNames x; clear_value x) | split

theorem memOk_execQueuePreemption {die : Fin 8} {q : Fin 64} {s : State} (h0 : MemOk s) :
    OutMemOk (execQueuePreemption die q s) := by
  unfold execQueuePreemption
  repeat' first | with_reducible assumption | with_reducible apply outMemOk_event | with_reducible apply memOk_stopClusters

theorem memOk_removeTeams {s : State} {k : Nat} (h0 : MemOk s) :
    MemOk (State.removeTeams s k) := by
  unfold State.removeTeams
  repeat' first
    | with_reducible assumption | (extract_lets +descend +onlyGivenNames x; clear_value x)
    | with_reducible apply memCanon_filterTeams

theorem memOk_dropUnplaceable {s : State} {gid : Nat} (h0 : MemOk s) :
    MemOk (State.dropUnplaceable s gid) := by
  unfold State.dropUnplaceable
  repeat' first
    | with_reducible assumption | with_reducible apply memOk_onDie | with_reducible apply memOk_completeGrid
    | (extract_lets +descend +onlyGivenNames x; refine memOk_cut (P := MemOk x) ?_ ?_
       (on_goal 1 => (dsimp only [x]; clear x))
       (on_goal 2 => (intro hx; clear_value x)))
    | split

theorem memOk_countRetired {s : State} {gid n : Nat} (h0 : MemOk s) :
    MemOk (State.countRetired s gid n) := by
  unfold State.countRetired
  repeat' first
    | with_reducible assumption | with_reducible apply memOk_onGrid | with_reducible apply memOk_completeGrid
    | with_reducible apply memOk_dropUnplaceable
    | (extract_lets +descend +onlyGivenNames x; refine memOk_cut (P := MemOk x) ?_ ?_
       (on_goal 1 => (dsimp only [x]; clear x))
       (on_goal 2 => (intro hx; clear_value x)))
    | split

theorem memOk_execClusterRetire {cluster : Nat} {s : State} (h0 : MemOk s) :
    OutMemOk (execClusterRetire cluster s) := by
  unfold execClusterRetire
  repeat' first
    | with_reducible assumption | with_reducible apply outMemOk_event | with_reducible apply memOk_raiseL1
    | with_reducible apply memOk_removeTeams | with_reducible apply memOk_countRetired
    | with_reducible refine memOk_foldl (fun _ _ _ => ?_) ?_
    | (extract_lets +descend +onlyGivenNames x; refine memOk_cut (P := MemOk x) ?_ ?_
       (on_goal 1 => (dsimp only [x]; clear x))
       (on_goal 2 => (intro hx; clear_value x)))
    | (extract_lets +descend +onlyGivenNames x; clear_value x) | split

theorem memOk_endHold {s : State} {p : Pipe} {tm : Team} {h : Hold} (h0 : MemOk s) :
    MemOk (State.endHold s p tm h) := by
  unfold State.endHold
  repeat' first
    | with_reducible assumption | with_reducible apply memOk_dropCmd | with_reducible apply memOk_parcelEffect | split

theorem memOk_endTeam {s : State} {t : TeamId} (h0 : MemOk s) : MemOk (s.endTeam t) := by
  have key : ∀ x, MemOk x → MemOk (x.onTeam t Team.endGuards) := fun _ h => memOk_onTeam (fun _ hx => hx) h
  unfold State.endTeam
  cases s.team t with
  | none =>
    have h := key s h0
    exact ⟨h.1, h.2.1, h.2.2.1, h.2.2.2.1, h.2.2.2.2⟩
  | some tm =>
    have h := key _ (memOk_foldl (xs := s.pipes.filter fun p => p.team = t)
      (f := fun (s : State) (p : Pipe) => p.hold.foldl (fun s h => s.endHold p tm h) s)
      (fun _ _ h => memOk_foldl (fun _ _ h => memOk_endHold h) h) h0)
    exact ⟨h.1, h.2.1, h.2.2.1, h.2.2.2.1, h.2.2.2.2⟩

theorem memOk_execEndGrid {grid : Nat} {s : State} (h0 : MemOk s) : OutMemOk (execEndGrid grid s) := by
  unfold execEndGrid
  split
  · exact outMemOk_event h0
  · split
    · exact outMemOk_event h0
    · refine outMemOk_event (memOk_kick (memOk_countRetired ?_))
      obtain ⟨h1, h2, h3, h4, h5⟩ := memOk_foldl (s := s) (f := fun s t => s.endTeam t)
        (xs := (s.teams.filter fun t => ((s.clusters.filter fun c => c.grid = grid).map fun c => c.id).contains t.cluster).map fun t => t.id)
        (fun _ _ h => memOk_endTeam h) h0
      refine ⟨h1, h2, h3, h4, fun x hx y hy => ?_⟩
      rcases List.mem_append.mp hx with hx | hx
      · exact h5 x (List.mem_filter.mp hx).1 y hy
      · obtain ⟨x', hx', rfl⟩ := List.mem_map.mp hx
        obtain ⟨y', hy', rfl⟩ := List.mem_map.mp hy
        have hx' : x' ∈ (List.partition (fun x => s.contextBusy x) (s.contexts.filter fun x => x.cluster.grid = grid)).1 := hx'
        rw [List.partition_eq_filter_filter] at hx'
        exact h0.2.2.2.2 x' (List.mem_filter.mp (List.mem_filter.mp hx').1).1 y' hy'

/-! ## Contexts -/

theorem memOk_saveLine {s : State} {die : Fin 8} {asid : BitVec 16} {va : Addr} (h0 : MemOk s) :
    MemOk (State.saveLine s die asid va).1 := by
  unfold State.saveLine
  repeat' first
    | with_reducible assumption | with_reducible apply memOk_translateAll
    | (with_reducible refine memOk_ofPair (by assumption) ?_) | split

theorem memOk_saveLines {die : Fin 8} {q : QueueConfig} {n : Nat} : ∀ {s : State} {k : Nat}, MemOk s →
    MemOk (s.saveLines die q k n).1 := by
  induction n with
  | zero => intro s k h0; exact h0
  | succ n ih =>
    intro s k h0
    simp only [State.saveLines]
    exact ih (memOk_saveLine h0)

theorem memOk_writeSaveArea {s : State} {c : Cluster} (h0 : MemOk s) :
    MemOk (State.writeSaveArea s c).1 := by
  unfold State.writeSaveArea
  repeat' first
    | with_reducible assumption | with_reducible apply memOk_onDie | with_reducible apply memOk_endAsk
    | with_reducible apply memOk_scrambleLine | with_reducible apply memOk_saveLines
    | with_reducible refine memOk_foldl (fun _ _ _ => ?_) ?_ | (with_reducible refine memOk_ofPair (by assumption) ?_)
    | (extract_lets +descend +onlyGivenNames x; refine memOk_cut (P := MemOk x) ?_ ?_
       (on_goal 1 => (dsimp only [x]; clear x))
       (on_goal 2 => (intro hx; clear_value x)))
    | (extract_lets +descend +onlyGivenNames x; clear_value x) | split

theorem memOk_execContextSave {cluster : Nat} {s : State} (h0 : MemOk s) : OutMemOk (execContextSave cluster s) := by
  unfold execContextSave
  split
  · exact outMemOk_event h0
  · split
    · exact outMemOk_event h0
    · split
      rename_i s' ready h
      have h1 : MemOk s' := memOk_ofPair h (memOk_writeSaveArea h0)
      split
      · exact outMemOk_event (memOk_kick h1)
      · refine outMemOk_event (memOk_onDie ?_)
        refine memCanon_addContext (fun t ht => ?_) (memOk_removeTeams h1)
        exact h1.2.2.1 t (List.mem_filter.mp ht).1

theorem memOk_restoreTeam {s : State} {x : Context} {t : Team} {c : CoreId} (ht : t.spad.wf = true) (h0 : MemOk s) :
    MemOk (s.restoreTeam x t c) := by
  unfold State.restoreTeam
  dsimp only
  split
  · refine memOk_onCore (fun k hk => ?_) (memCanon_addTeam ht (memOk_foldl (fun _ _ h => memOk_zeroGranule h) h0))
    refine wf_foldlMem (fun m y hm => ?_) hk
    split
    · split
      · exact Memory.wf_set hm _ _
      · exact hm
    · exact hm
  · exact h0

theorem memOk_restoreEnrolment {s : State} {x : Context} {m : List (TeamId × TeamId)} {u : Thread} (h0 : MemOk s) :
    MemOk (State.restoreEnrolment s x m u) := by
  unfold State.restoreEnrolment
  repeat' first
    | with_reducible assumption | with_reducible apply memOk_onCore
    | (extract_lets +descend +onlyGivenNames x; clear_value x) | split | intro _

theorem memOk_restoreContext {s : State} {x : Context} {o : Nat × Nat} (hx : ∀ t ∈ x.teams, t.spad.wf = true) (h0 : MemOk s) :
    MemOk (s.restoreContext x o) := by
  unfold State.restoreContext
  dsimp only
  refine memOk_foldl (fun s i h => ?_) (memOk_foldl (fun _ _ h => memOk_creditNow h) ?_)
  · repeat' split
    all_goals first | exact memOk_tryWait h | exact h
  · show MemOk _
    refine memOk_foldl (fun _ _ h => memOk_restoreEnrolment h) (memOk_onDie ?_)
    exact memOk_foldlMem (fun s t ht h => memOk_restoreTeam (hx t ht) h) (memCanon_filterContexts h0)

theorem memOk_execContextResume {cluster : Nat} {s : State} (h0 : MemOk s) : OutMemOk (execContextResume cluster s) := by
  unfold execContextResume
  split
  · exact outMemOk_event h0
  · rename_i x hx
    split
    · split
      · rename_i h
        exact outMemOk_event (memOk_restoreContext (h0.2.2.2.2 x (List.mem_of_find?_eq_some hx)) (memOk_ofPair h (memOk_readyL1 h0)))
      · rename_i h
        exact outMemOk_event (memOk_kick (memOk_ofPair h (memOk_readyL1 h0)))
    · exact outMemOk_event h0

/-! ## Start -/

theorem memOk_startCmd {s : State} {c : Cmd} (h0 : MemOk s) :
    MemOk (State.startCmd s c) := by
  unfold State.startCmd
  repeat' first
    | with_reducible assumption | with_reducible apply memOk_onCmd | with_reducible apply memOk_startCopy
    | with_reducible apply memOk_dropCmd | with_reducible apply memOk_startPost | split

theorem memOk_discardHead {s : State} {c : Cmd} (h0 : MemOk s) :
    MemOk (State.discardHead s c) := by
  unfold State.discardHead
  repeat' first
    | with_reducible assumption | with_reducible apply memOk_discardCmd | with_reducible apply memOk_discardPost
    | split

theorem memOk_stepHead {s : State} {c : Cmd} (h0 : MemOk s) :
    MemOk (State.stepHead s c) := by
  unfold State.stepHead
  repeat' first
    | with_reducible assumption | with_reducible apply memOk_startCmd | with_reducible apply memOk_discardHead | split

theorem memOk_stepMatrix {s : State} {core : CoreId} (h0 : MemOk s) :
    MemOk (State.stepMatrix s core) := by
  unfold State.stepMatrix
  repeat' first
    | with_reducible assumption | with_reducible apply memOk_discardMatrix | with_reducible apply memOk_startMatrix
    | split

theorem memOk_execCommandStart {core : CoreId} {s : State} (h0 : MemOk s) :
    OutMemOk (execCommandStart core s) := by
  unfold execCommandStart
  repeat' first
    | with_reducible assumption | with_reducible apply outMemOk_event | with_reducible apply memOk_kick
    | with_reducible apply memOk_stepHead | with_reducible apply memOk_stepMatrix | split

theorem memOk_execEngineSourceRead {id : Nat} {s : State} (h0 : MemOk s) :
    OutMemOk (execEngineSourceRead id s) := by
  unfold execEngineSourceRead
  repeat' first
    | with_reducible assumption | with_reducible apply outMemOk_event | with_reducible apply memOk_kick
    | with_reducible apply memOk_sourceStep | with_reducible apply memOk_copyRead
    | with_reducible apply memOk_postRead | split

theorem memOk_drainStep {s : State} {c : Cmd} (h0 : MemOk s) :
    MemOk (State.drainStep s c) := by
  unfold State.drainStep
  repeat' first
    | with_reducible assumption | with_reducible apply memOk_copyStep | with_reducible apply memOk_madeProgress
    | (extract_lets +descend +onlyGivenNames x; refine memOk_cut (P := MemOk x) ?_ ?_
       (on_goal 1 => (dsimp only [x]; clear x))
       (on_goal 2 => (intro hx; clear_value x)))
    | split

theorem memOk_execEngineUnitWrite {id : Nat} {data : List Byte} {s : State} (h0 : MemOk s) :
    OutMemOk (execEngineUnitWrite id data s) := by
  unfold execEngineUnitWrite
  repeat' first
    | with_reducible assumption | with_reducible apply outMemOk_event | with_reducible apply memOk_kick
    | with_reducible apply memOk_copyStep | with_reducible apply memOk_postWrite
    | with_reducible apply memOk_incomingWrite | with_reducible apply memOk_enterCard
    | with_reducible apply memOk_drainStep | split

/-! ## Selector -/

theorem memOk_refillWord {s : State} {th : Thread} (h0 : MemOk s) :
    MemOk (State.refillWord s th).1 := by
  unfold State.refillWord
  repeat' first
    | with_reducible assumption | with_reducible apply memOk_fetchWord
    | (with_reducible refine memOk_ofPair (by assumption) ?_) | split

theorem memOk_refill {s : State} {th : Thread} (h0 : MemOk s) :
    MemOk (State.refill s th) := by
  unfold State.refill
  repeat' first
    | with_reducible assumption | with_reducible apply memOk_spillEntry | with_reducible apply memOk_allocEntry
    | with_reducible apply memOk_refillWord | (with_reducible refine memOk_ofPair (by assumption) ?_)
    | (extract_lets +descend +onlyGivenNames x; clear_value x) | split

theorem memOk_startClause {s : State} {tm : Team} {block : Addr} {w : Nat} (h0 : MemOk s) :
    MemOk (State.startClause s tm block w).1 := by
  unfold State.startClause
  repeat' first
    | with_reducible assumption | with_reducible apply memOk_headerOf
    | (with_reducible refine memOk_ofPair (by assumption) ?_) | split

theorem memOk_faultAll {s : State} {p : Pipe} {f : Flt} (h0 : MemOk s) :
    MemOk (State.faultAll s p f) := by
  unfold State.faultAll
  repeat' first | with_reducible assumption | with_reducible apply memOk_faultLanes

theorem memOk_firstFaults {s : State} {p : Pipe} {at' : Nat} {mrst : Bool} {freed : List (Nat × Addr)} (h0 : MemOk s) :
    MemOk (State.firstFaults s p at' mrst freed) := by
  unfold State.firstFaults
  repeat' first
    | with_reducible assumption | with_reducible apply memOk_faultLane | with_reducible apply memOk_faultLanes
    | with_reducible refine memOk_foldl (fun _ _ _ => ?_) ?_
    | (extract_lets +descend +onlyGivenNames x; refine memOk_cut (P := MemOk x) ?_ ?_
       (on_goal 1 => (dsimp only [x]; clear x))
       (on_goal 2 => (intro hx; clear_value x)))
    | (extract_lets +descend +onlyGivenNames x; clear_value x) | split

theorem memOk_dispatchWord {s : State} {tm : Team} {c : Cand} {point : Option Nat} (h0 : MemOk s) :
    MemOk (State.dispatchWord s tm c point).1 := by
  unfold State.dispatchWord
  repeat' first
    | with_reducible assumption | with_reducible apply memOk_fetchWord | with_reducible apply memOk_startClause
    | (with_reducible refine memOk_ofPair (by assumption) ?_) | split

theorem memOk_takeGroup {s : State} {c : Cand} {ts : List Thread} (h0 : MemOk s) :
    MemOk (State.takeGroup s c ts) := by
  unfold State.takeGroup
  repeat' first
    | with_reducible assumption | with_reducible apply memOk_onThread | with_reducible apply memOk_onTeam
    | with_reducible apply memOk_onCore | with_reducible apply memOk_bump | with_reducible apply memOk_leaveSheet
    | with_reducible refine memOk_foldl (fun _ _ _ => ?_) ?_ | intro _

theorem memOk_dispatch {s : State} {pid : PipeId} {c : Cand} {guard : Bool} (h0 : MemOk s) :
    MemOk (State.dispatch s pid c guard) := by
  unfold State.dispatch
  repeat' first
    | with_reducible assumption | with_reducible apply memOk_bump | with_reducible apply memOk_faultAll
    | with_reducible apply memOk_firstFaults | with_reducible apply memOk_dispatchWord
    | with_reducible apply memOk_takeGroup | (with_reducible refine memOk_ofPair (by assumption) ?_)
    | (extract_lets +descend +onlyGivenNames x; refine memOk_cut (P := MemOk x) ?_ ?_
       (on_goal 1 => (dsimp only [x]; clear x))
       (on_goal 2 => (intro hx; clear_value x)))
    | (extract_lets +descend +onlyGivenNames x; clear_value x) | split

theorem memOk_execSelectorDispatch {core : CoreId} {s : State} (h0 : MemOk s) :
    OutMemOk (execSelectorDispatch core s) := by
  unfold execSelectorDispatch
  repeat' first
    | with_reducible assumption | with_reducible apply outMemOk_event | with_reducible apply memOk_refill
    | with_reducible apply memOk_dispatch | (extract_lets +descend +onlyGivenNames x; clear_value x) | split

theorem memOk_holdEffect {s : State} {p : Pipe} {h : Hold} (h0 : MemOk s) :
    MemOk (State.holdEffect s p h) := by
  unfold State.holdEffect
  repeat' first
    | with_reducible assumption | with_reducible apply memOk_tileLoaded | with_reducible apply memOk_parcelEffect
    | split

theorem memOk_holdRetry {s : State} {p : Pipe} {h : Hold} (h0 : MemOk s) :
    MemOk (State.holdRetry s p h) := by
  unfold State.holdRetry
  repeat' first | with_reducible assumption | with_reducible apply memOk_discard | split

theorem memOk_tryHolds {s : State} {p : Pipe} (h0 : MemOk s) :
    MemOk (State.tryHolds s p) := by
  unfold State.tryHolds
  repeat' first
    | with_reducible assumption | with_reducible apply memOk_onPipe | with_reducible apply memOk_settle
    | with_reducible apply memOk_holdEffect | with_reducible apply memOk_holdRetry
    | with_reducible refine memOk_foldl (fun _ _ _ => ?_) ?_ | with_reducible refine memOk_foldlPair (fun _ _ _ => ?_) ?_
    | (with_reducible refine memOk_ofPair (by assumption) ?_)
    | (extract_lets +descend +onlyGivenNames x; refine memOk_cut (P := MemOk x) ?_ ?_
       (on_goal 1 => (dsimp only [x]; clear x))
       (on_goal 2 => (intro hx; clear_value x)))
    | split

theorem memOk_faultHeader {s : State} {p : Pipe} {cause : BitVec 8} {addr : Addr} {extra : Word} (h0 : MemOk s) :
    MemOk (State.faultHeader s p cause addr extra) := by
  unfold State.faultHeader
  repeat' first | with_reducible assumption | with_reducible apply memOk_faultAll

theorem memOk_leaveDeferred {s : State} {p : Pipe} (h0 : MemOk s) :
    MemOk (State.leaveDeferred s p) := by
  unfold State.leaveDeferred
  repeat' first | with_reducible assumption | with_reducible apply memOk_leaveTo

theorem memOk_nextClause {s : State} {p : Pipe} {tm : Team} (h0 : MemOk s) :
    MemOk (State.nextClause s p tm) := by
  unfold State.nextClause
  repeat' first
    | with_reducible assumption | with_reducible apply memOk_onPipe | with_reducible apply memOk_wordAt
    | with_reducible apply memOk_faultHeader | (with_reducible refine memOk_ofPair (by assumption) ?_)
    | (extract_lets +descend +onlyGivenNames x; refine memOk_cut (P := MemOk x) ?_ ?_
       (on_goal 1 => (dsimp only [x]; clear x))
       (on_goal 2 => (intro hx; clear_value x)))
    | (extract_lets +descend +onlyGivenNames x; clear_value x) | split

theorem memOk_execClauseIssue {pipe : PipeId} {s : State} (h0 : MemOk s) :
    OutMemOk (execClauseIssue pipe s) := by
  unfold execClauseIssue
  repeat' first
    | with_reducible assumption | with_reducible apply outMemOk_event | with_reducible apply memOk_kick
    | with_reducible apply memOk_tryHolds | with_reducible apply memOk_leaveDeferred
    | with_reducible apply memOk_nextClause
    | (extract_lets +descend +onlyGivenNames x; refine memOk_cut (P := MemOk x) ?_ ?_
       (on_goal 1 => (dsimp only [x]; clear x))
       (on_goal 2 => (intro hx; clear_value x)))
    | split

theorem memOk_endCycle {s : State} {core : CoreId} (h0 : MemOk s) : MemOk (s.endCycle core) := by
  unfold State.endCycle
  exact memCanon_mapTeams (fun t => by split <;> rfl) h0

theorem memOk_execCoreCycle {core : CoreId} {s : State} (h0 : MemOk s) : OutMemOk (execCoreCycle core s) := by
  unfold execCoreCycle
  exact outMemOk_event (memOk_endCycle (memOk_enrolAll (memOk_onCore (fun _ hx => hx) h0)))

/-! ## Function -/

theorem memOk_execExportEntryWrite {die : Fin 8} {idx : Fin 1024} {bits : BitVec 128} {gen : Option (BitVec 16)} {s : State} (h0 : MemOk s) :
    OutMemOk (execExportEntryWrite die idx bits gen s) := by
  unfold execExportEntryWrite
  repeat' first | with_reducible assumption | with_reducible apply outMemOk_event | with_reducible apply memOk_onDie

theorem memOk_execImportEntryWrite {die : Fin 8} {idx : Fin 256} {bits : BitVec 64} {s : State} (h0 : MemOk s) :
    OutMemOk (execImportEntryWrite die idx bits s) := by
  unfold execImportEntryWrite
  repeat' first | with_reducible assumption | with_reducible apply outMemOk_event | with_reducible apply memOk_onDie

theorem memOk_giveUpImport {s : State} {x : CacheLine} (h0 : MemOk s) :
    MemOk (State.giveUpImport s x) := by
  unfold State.giveUpImport
  repeat' first
    | with_reducible assumption | with_reducible apply memOk_want | with_reducible apply memOk_evict
    | with_reducible apply memOk_cmntData | split

theorem memOk_execRevocationComplete {die : Fin 8} {idx : Fin 1024} {s : State} (h0 : MemOk s) :
    OutMemOk (execRevocationComplete die idx s) := by
  unfold execRevocationComplete
  repeat' first
    | with_reducible assumption | with_reducible apply outMemOk_event | with_reducible apply memOk_onDie
    | with_reducible apply memOk_kick | with_reducible apply memOk_giveUpImport
    | with_reducible refine memOk_foldl (fun _ _ _ => ?_) ?_
    | (extract_lets +descend +onlyGivenNames x; refine memOk_cut (P := MemOk x) ?_ ?_
       (on_goal 1 => (dsimp only [x]; clear x))
       (on_goal 2 => (intro hx; clear_value x)))
    | (extract_lets +descend +onlyGivenNames x; clear_value x) | split

theorem memOk_execPresentMaskWrite {mask : BitVec 256} {s : State} (h0 : MemOk s) :
    OutMemOk (execPresentMaskWrite mask s) := by
  unfold execPresentMaskWrite
  repeat' first | with_reducible assumption | with_reducible apply outMemOk_event

theorem memOk_execPartitionMaskWrite {tenant : Nat} {mask : BitVec 256} {s : State} (h0 : MemOk s) :
    OutMemOk (execPartitionMaskWrite tenant mask s) := by
  unfold execPartitionMaskWrite
  repeat' first | with_reducible assumption | with_reducible apply outMemOk_event

theorem memOk_execDiePresentMapWrite {acc bits : BitVec 8} {s : State} (h0 : MemOk s) :
    OutMemOk (execDiePresentMapWrite acc bits s) := by
  unfold execDiePresentMapWrite
  repeat' first
    | with_reducible assumption | with_reducible apply outMemOk_event
    | (extract_lets +descend +onlyGivenNames x; clear_value x) | split

theorem memOk_execVirtualDieMapWrite {v : Fin 8} {p : Option (Fin 8)} {s : State} (h0 : MemOk s) :
    OutMemOk (execVirtualDieMapWrite v p s) := by
  unfold execVirtualDieMapWrite
  repeat' first
    | with_reducible assumption | with_reducible apply outMemOk_event | with_reducible apply memOk_onDie
    | (extract_lets +descend +onlyGivenNames x; refine memOk_cut (P := MemOk x) ?_ ?_
       (on_goal 1 => (dsimp only [x]; clear x))
       (on_goal 2 => (intro hx; clear_value x)))
    | (extract_lets +descend +onlyGivenNames x; clear_value x) | split | with_reducible apply memCanon_filterCores

theorem memOk_execRootWrite {die : Fin 8} {host : Bool} {asid : BitVec 16} {root : Option (BitVec 64)} {s : State} (h0 : MemOk s) :
    OutMemOk (execRootWrite die host asid root s) := by
  unfold execRootWrite
  repeat' first | with_reducible assumption | with_reducible apply outMemOk_event | with_reducible apply memOk_onDie

theorem memOk_execShootdown {die : Fin 8} {asid : BitVec 16} {base : Addr} {len : Nat} {s : State} (h0 : MemOk s) :
    OutMemOk (execShootdown die asid base len s) := by
  unfold execShootdown
  repeat' first
    | with_reducible assumption | with_reducible apply outMemOk_event | with_reducible apply memOk_onDie
    | with_reducible apply memOk_bump

theorem memOk_execShootdownCompletion {die : Fin 8} {id : Nat} {s : State} (h0 : MemOk s) :
    OutMemOk (execShootdownCompletion die id s) := by
  unfold execShootdownCompletion
  repeat' first | with_reducible assumption | with_reducible apply outMemOk_event | with_reducible apply memOk_onDie | split

theorem memOk_execCompletionDoorbell {die : Fin 8} {seq : BitVec 64} {refused : Bool} {s : State} (h0 : MemOk s) :
    OutMemOk (execCompletionDoorbell die seq refused s) := by
  unfold execCompletionDoorbell
  repeat' first
    | with_reducible assumption | with_reducible apply outMemOk_event | with_reducible apply memOk_onDie
    | with_reducible apply memOk_creditAt
    | (extract_lets +descend +onlyGivenNames x; refine memOk_cut (P := MemOk x) ?_ ?_
       (on_goal 1 => (dsimp only [x]; clear x))
       (on_goal 2 => (intro hx; clear_value x)))
    | split

theorem memOk_execPoolConfiguration {die : Fin 8} {cfg : PoolConfig} {s : State} (h0 : MemOk s) :
    OutMemOk (execPoolConfiguration die cfg s) := by
  unfold execPoolConfiguration
  repeat' first
    | with_reducible assumption | with_reducible apply outMemOk_event | with_reducible apply memOk_onDie
    | with_reducible apply memOk_tryWait | with_reducible refine memOk_foldl (fun _ _ _ => ?_) ?_
    | (extract_lets +descend +onlyGivenNames x; refine memOk_cut (P := MemOk x) ?_ ?_
       (on_goal 1 => (dsimp only [x]; clear x))
       (on_goal 2 => (intro hx; clear_value x)))
    | split

theorem memOk_acted {s : State} {th : ThreadId} (h0 : MemOk s) :
    MemOk (State.acted s th) := by
  unfold State.acted
  repeat' first | with_reducible assumption | with_reducible apply memOk_onDie

theorem memOk_actLater {s : State} {th : ThreadId} {skip : Bool} (h0 : MemOk s) :
    MemOk (State.actLater s th skip) := by
  unfold State.actLater
  repeat' first | with_reducible assumption | with_reducible apply memOk_onDie | with_reducible apply memOk_acted | split

theorem memOk_reply {s : State} {die : Fin 8} {r : DebugReply} (h0 : MemOk s) :
    MemOk (State.reply s die r) := by
  unfold State.reply
  repeat' first | with_reducible assumption | with_reducible apply memOk_onDie

theorem memOk_execMark {th : ThreadId} {s : State} (h0 : MemOk s) :
    OutMemOk (execMark th s) := by
  unfold execMark
  repeat' first
    | with_reducible assumption | with_reducible apply outMemOk_event | with_reducible apply memOk_onThread
    | with_reducible apply memOk_reply | split

theorem memOk_execUnmark {th : ThreadId} {s : State} (h0 : MemOk s) :
    OutMemOk (execUnmark th s) := by
  unfold execUnmark
  repeat' first
    | with_reducible assumption | with_reducible apply outMemOk_event | with_reducible apply memOk_onThread
    | with_reducible apply memOk_reply | split

theorem memOk_debugResume {s : State} {th : Thread} {skip : Bool} (h0 : MemOk s) :
    MemOk (State.debugResume s th skip) := by
  unfold State.debugResume
  repeat' first
    | with_reducible assumption | with_reducible apply memOk_onThread | with_reducible apply memOk_onTeam
    | with_reducible apply memOk_enrol | with_reducible apply memOk_resumePoint | with_reducible apply memOk_acted
    | with_reducible apply memOk_actLater | with_reducible apply memOk_reply
    | (with_reducible refine memOk_ofPair (by assumption) ?_) | (extract_lets +descend +onlyGivenNames x; clear_value x)
    | split | with_reducible apply wf_freeEntry | intro _

theorem memOk_execContinueThread {th : ThreadId} {s : State} (h0 : MemOk s) :
    OutMemOk (execContinueThread th s) := by
  unfold execContinueThread
  repeat' first
    | with_reducible assumption | with_reducible apply outMemOk_event | with_reducible apply memOk_acted
    | with_reducible apply memOk_reply | with_reducible apply memOk_debugResume | split

theorem memOk_execSkipThread {th : ThreadId} {s : State} (h0 : MemOk s) :
    OutMemOk (execSkipThread th s) := by
  unfold execSkipThread
  repeat' first
    | with_reducible assumption | with_reducible apply outMemOk_event | with_reducible apply memOk_acted
    | with_reducible apply memOk_reply | with_reducible apply memOk_debugResume | split

theorem memOk_execKillThread {th : ThreadId} {s : State} (h0 : MemOk s) :
    OutMemOk (execKillThread th s) := by
  unfold execKillThread
  repeat' first
    | with_reducible assumption | with_reducible apply outMemOk_event | with_reducible apply memOk_onThread
    | with_reducible apply memOk_onTeam | with_reducible apply memOk_exitThread | with_reducible apply memOk_acted
    | with_reducible apply memOk_reply
    | (extract_lets +descend +onlyGivenNames x; refine memOk_cut (P := MemOk x) ?_ ?_
       (on_goal 1 => (dsimp only [x]; clear x))
       (on_goal 2 => (intro hx; clear_value x)))
    | split | with_reducible apply wf_freeOwn | intro _

theorem memOk_execRegisterWrite {fn : Fin 9} {off : BitVec 32} {val : Word} {s : State} (h0 : MemOk s) :
    OutMemOk (execRegisterWrite fn off val s) := by
  unfold execRegisterWrite
  dsimp only
  split
  · exact outMemOk_event h0
  · split
    · exact outMemOk_event h0
    · split
      · split
        · exact outMemOk_event (memOk_onDie h0)
        · exact outMemOk_event h0
      · exact outMemOk_event h0

theorem memOk_execFaultReportRingSpace {die : Fin 8} {count : Nat} {s : State} (h0 : MemOk s) :
    OutMemOk (execFaultReportRingSpace die count s) := by
  unfold execFaultReportRingSpace
  repeat' first | with_reducible assumption | with_reducible apply outMemOk_event | with_reducible apply memOk_onDie

/-! ## Firmware -/

theorem memOk_planRails {s : State} {plan : List RailPlan} (h0 : MemOk s) :
    MemOk (State.planRails s plan) := by
  unfold State.planRails
  repeat' first | with_reducible assumption

theorem memOk_booted {s : State} {r : BootResult} (h0 : MemOk s) : MemOk (s.booted r) := by
  unfold State.booted
  refine memOk_updateHealth (memOk_planRails ?_)
  exact ⟨h0.1, h0.2.1, fun _ h => absurd h (by simp [State.reset]), fun _ h => absurd h (by simp [State.reset]),
    fun _ h => absurd h (by simp [State.reset])⟩

theorem memOk_execColdBoot {r : BootResult} {s : State} (h0 : MemOk s) :
    OutMemOk (execColdBoot r s) := by
  unfold execColdBoot
  repeat' first | with_reducible assumption | with_reducible apply outMemOk_event | with_reducible apply memOk_booted

theorem memOk_execSpdmGetCertificate {s : State} (h0 : MemOk s) :
    OutMemOk (execSpdmGetCertificate s) := by
  unfold execSpdmGetCertificate
  repeat' first | with_reducible assumption | with_reducible apply outMemOk_event

theorem memOk_execSpdmGetMeasurements {s : State} (h0 : MemOk s) :
    OutMemOk (execSpdmGetMeasurements s) := by
  unfold execSpdmGetMeasurements
  repeat' first | with_reducible assumption | with_reducible apply outMemOk_event

theorem memOk_execSpdmSignedReport {nonce : BitVec 256} {s : State} (h0 : MemOk s) :
    OutMemOk (execSpdmSignedReport nonce s) := by
  unfold execSpdmSignedReport
  repeat' first | with_reducible assumption | with_reducible apply outMemOk_event

theorem memOk_execPowerLimitStep {die : Fin 8} {raise : Bool} {s : State} (h0 : MemOk s) :
    OutMemOk (execPowerLimitStep die raise s) := by
  unfold execPowerLimitStep
  repeat' first | with_reducible assumption | with_reducible apply outMemOk_event

theorem memOk_execMarginReplan {margin : BitVec 4} {r : Replan} {s : State} (h0 : MemOk s) :
    OutMemOk (execMarginReplan margin r s) := by
  unfold execMarginReplan
  repeat' first
    | with_reducible assumption | with_reducible apply outMemOk_event | with_reducible apply memOk_updateHealth
    | with_reducible apply memOk_dropUnplaceable | with_reducible apply memOk_planRails
    | with_reducible refine memOk_foldl (fun _ _ _ => ?_) ?_

/-! ## Fetch -/

theorem memOk_blockWordAt {s : State} {p : Pipe} {tm : Team} {w : Nat} (h0 : MemOk s) :
    MemOk (State.blockWordAt s p tm w).1 := by
  unfold State.blockWordAt
  repeat' first
    | with_reducible assumption | with_reducible apply memOk_wordAt
    | (with_reducible refine memOk_ofPair (by assumption) ?_) | split

theorem memOk_restWords {s : State} {p : Pipe} {tm : Team} {n : Nat} (h0 : MemOk s) :
    MemOk (State.restWords s p tm n).1 := by
  unfold State.restWords
  repeat' first
    | with_reducible assumption | with_reducible apply memOk_blockWordAt
    | (with_reducible refine memOk_ofPair (by assumption) ?_) | split

theorem memOk_decodeAt {s : State} {p : Pipe} {tm : Team} (h0 : MemOk s) :
    MemOk (State.decodeAt s p tm).1 := by
  unfold State.decodeAt
  repeat' first
    | with_reducible assumption | with_reducible apply memOk_blockWordAt | with_reducible apply memOk_restWords
    | (with_reducible refine memOk_ofPair (by assumption) ?_) | (extract_lets +descend +onlyGivenNames x; clear_value x)
    | split

theorem memOk_fetchInstr {s : State} {p : Pipe} {tm : Team} (h0 : MemOk s) :
    MemOk (State.fetchInstr s p tm).1 := by
  unfold State.fetchInstr
  repeat' first | with_reducible assumption | with_reducible apply memOk_decodeAt | split

theorem memOk_fetchFault {s : State} {p : Pipe} {f : FetchStop} (h0 : MemOk s) :
    MemOk (State.fetchFault s p f) := by
  unfold State.fetchFault
  repeat' first | with_reducible assumption | with_reducible apply memOk_faultLanes

theorem memOk_place {s : State} {ws : List Word} {cls : Option (BitVec 3)} (h0 : MemOk s) : MemOk (s.place ws cls) := by
  unfold State.place
  refine memOk_onDie (memCanon_putTeam rfl (memCanon_filterTeams ?_))
  exact ⟨Memory.wf_setN (Memory.wf_setN (Memory.wf_setN h0.1 _ _) _ _) _ _, h0.2⟩

end Sys2Proof.Machine
end

