-- ==== Sys2Proof/Laws/PerInstr.lean ====
section
/-!
SUPPORT. Per instruction: decoding undoes encoding, with every operand at every value its field admits (05_encoding R72 to R95). An
event has no words, so the form that the statement asks for rules it out.
-/
namespace Sys2Proof.Laws.RoundTrip

/-- Decoding the bytes of a well-formed instruction's words gives the instruction back, and the bytes after it. -/
def Statement (i : Instr) : Prop :=
  i.formOk = true → ∀ rest, decodeBytes ((encode i).flatMap bytesOfWord ++ rest) = .ok (i, rest)

theorem wordOfBytes_bytesOfWord (w : Word) (rest : List Byte) : wordOfBytes (bytesOfWord w ++ rest) = w := by
  apply BitVec.eq_of_getLsbD_eq
  intro i hi
  simp only [wordOfBytes, bytesOfWord, List.cons_append, List.getD_cons_succ, List.getD_cons_zero]
  repeat rw [BitVec.getLsbD_append]
  simp only [BitVec.getLsbD_extractLsb']
  by_cases h1 : i < 8
  · simp [h1]
  by_cases h2 : i - 8 < 8
  · simp [h1, h2, show 8 + (i - 8) = i by omega]
  by_cases h3 : i - 8 - 8 < 8
  · simp [h1, h2, h3, show 16 + (i - 8 - 8) = i by omega]
  · simp [h1, h2, h3, show i - 8 - 8 - 8 < 8 by omega, show 24 + (i - 8 - 8 - 8) = i by omega]

theorem of_one {i : Instr} {w : Word} (he : encode i = [w]) (hd : i.formOk = true → ∀ v x, decode w v x = .ok i) :
    Statement i := by
  intro hf rest
  simp only [he, List.flatMap_cons, List.flatMap_nil, List.append_nil]
  simp only [decodeBytes, wordOfBytes_bytesOfWord, hd hf, Instr.words, he]
  rfl

theorem of_two {i : Instr} {w v : Word} (he : encode i = [w, v]) (hd : i.formOk = true → ∀ x, decode w v x = .ok i) :
    Statement i := by
  intro hf rest
  have h : (encode i).flatMap bytesOfWord ++ rest = bytesOfWord w ++ (bytesOfWord v ++ rest) := by simp [he]
  have h4 : (bytesOfWord w ++ (bytesOfWord v ++ rest)).drop 4 = bytesOfWord v ++ rest := rfl
  rw [h]
  simp only [decodeBytes, h4, wordOfBytes_bytesOfWord, hd hf, Instr.words, he]
  rfl

theorem of_three {i : Instr} {w v x : Word} (he : encode i = [w, v, x]) (hd : i.formOk = true → decode w v x = .ok i) :
    Statement i := by
  intro hf rest
  have h : (encode i).flatMap bytesOfWord ++ rest = bytesOfWord w ++ (bytesOfWord v ++ (bytesOfWord x ++ rest)) := by simp [he]
  have h4 : (bytesOfWord w ++ (bytesOfWord v ++ (bytesOfWord x ++ rest))).drop 4 = bytesOfWord v ++ (bytesOfWord x ++ rest) := rfl
  have h8 : (bytesOfWord w ++ (bytesOfWord v ++ (bytesOfWord x ++ rest))).drop 8 = bytesOfWord x ++ rest := rfl
  rw [h]
  simp only [decodeBytes, h4, h8, wordOfBytes_bytesOfWord, hd hf, Instr.words, he]
  rfl

theorem of_event {i : Instr} (h : i.formOk = false) : Statement i := fun h' => absurd (h.symm.trans h') (by decide)

theorem exportEntryWrite x0 x1 x2 x3 : Statement (.exportEntryWrite x0 x1 x2 x3) := of_event rfl

theorem revocationComplete x0 x1 : Statement (.revocationComplete x0 x1) := of_event rfl

theorem importEntryWrite x0 x1 x2 : Statement (.importEntryWrite x0 x1 x2) := of_event rfl

theorem presentMaskWrite x0 : Statement (.presentMaskWrite x0) := of_event rfl

theorem partitionMaskWrite x0 x1 : Statement (.partitionMaskWrite x0 x1) := of_event rfl

theorem diePresentMapWrite x0 x1 : Statement (.diePresentMapWrite x0 x1) := of_event rfl

theorem virtualDieMapWrite x0 x1 : Statement (.virtualDieMapWrite x0 x1) := of_event rfl

theorem rootWrite x0 x1 x2 x3 : Statement (.rootWrite x0 x1 x2 x3) := of_event rfl

theorem shootdown x0 x1 x2 x3 : Statement (.shootdown x0 x1 x2 x3) := of_event rfl

theorem shootdownCompletion x0 x1 : Statement (.shootdownCompletion x0 x1) := of_event rfl

theorem completionDoorbell x0 x1 x2 : Statement (.completionDoorbell x0 x1 x2) := of_event rfl

theorem poolConfiguration x0 x1 : Statement (.poolConfiguration x0 x1) := of_event rfl

theorem queueConfiguration x0 x1 x2 : Statement (.queueConfiguration x0 x1 x2) := of_event rfl

theorem queueDoorbell x0 x1 x2 : Statement (.queueDoorbell x0 x1 x2) := of_event rfl

theorem queuePreemption x0 x1 : Statement (.queuePreemption x0 x1) := of_event rfl

theorem endGrid x0 : Statement (.endGrid x0) := of_event rfl

theorem mark x0 : Statement (.mark x0) := of_event rfl

theorem unmark x0 : Statement (.unmark x0) := of_event rfl

theorem continueThread x0 : Statement (.continueThread x0) := of_event rfl

theorem skipThread x0 : Statement (.skipThread x0) := of_event rfl

theorem killThread x0 : Statement (.killThread x0) := of_event rfl

theorem portReset x0 : Statement (.portReset x0) := of_event rfl

theorem registerWrite x0 x1 x2 : Statement (.registerWrite x0 x1 x2) := of_event rfl

theorem spdmGetCertificate : Statement .spdmGetCertificate := of_event rfl

theorem spdmGetMeasurements : Statement .spdmGetMeasurements := of_event rfl

theorem spdmSignedReport x0 : Statement (.spdmSignedReport x0) := of_event rfl

theorem selectorDispatch x0 : Statement (.selectorDispatch x0) := of_event rfl

theorem clauseIssue x0 : Statement (.clauseIssue x0) := of_event rfl

theorem loadReturn x0 x1 : Statement (.loadReturn x0 x1) := of_event rfl

theorem drainComplete x0 : Statement (.drainComplete x0) := of_event rfl

theorem faultRecord x0 : Statement (.faultRecord x0) := of_event rfl

theorem barrierArrival x0 : Statement (.barrierArrival x0) := of_event rfl

theorem slateCredit x0 : Statement (.slateCredit x0) := of_event rfl

theorem commandEnter x0 : Statement (.commandEnter x0) := of_event rfl

theorem commandStart x0 : Statement (.commandStart x0) := of_event rfl

theorem engineSourceRead x0 : Statement (.engineSourceRead x0) := of_event rfl

theorem engineUnitWrite x0 x1 : Statement (.engineUnitWrite x0 x1) := of_event rfl

theorem engineCompletionRecord x0 : Statement (.engineCompletionRecord x0) := of_event rfl

theorem mfeedLineEnter x0 : Statement (.mfeedLineEnter x0) := of_event rfl

theorem mloopStep x0 : Statement (.mloopStep x0) := of_event rfl

theorem afreeEffect x0 : Statement (.afreeEffect x0) := of_event rfl

theorem orelEffect x0 : Statement (.orelEffect x0) := of_event rfl

theorem matrixWatchdogExpiry x0 : Statement (.matrixWatchdogExpiry x0) := of_event rfl

theorem catchableRead x0 : Statement (.catchableRead x0) := of_event rfl

theorem steeredRead x0 : Statement (.steeredRead x0) := of_event rfl

theorem directRead x0 : Statement (.directRead x0) := of_event rfl

theorem readReply x0 : Statement (.readReply x0) := of_event rfl

theorem ownershipRequest x0 : Statement (.ownershipRequest x0) := of_event rfl

theorem cut x0 : Statement (.cut x0) := of_event rfl

theorem cutAcknowledgement x0 : Statement (.cutAcknowledgement x0) := of_event rfl

theorem grant x0 : Statement (.grant x0) := of_event rfl

theorem holderEviction x0 x1 : Statement (.holderEviction x0 x1) := of_event rfl

theorem writebackAcknowledgement x0 : Statement (.writebackAcknowledgement x0) := of_event rfl

theorem prune x0 : Statement (.prune x0) := of_event rfl

theorem backoffResend x0 : Statement (.backoffResend x0) := of_event rfl

theorem ownershipDelayExpiry x0 : Statement (.ownershipDelayExpiry x0) := of_event rfl

theorem bounceEntryClear x0 x1 x2 : Statement (.bounceEntryClear x0 x1 x2) := of_event rfl

theorem farAtomic x0 : Statement (.farAtomic x0) := of_event rfl

theorem folioRequest x0 : Statement (.folioRequest x0) := of_event rfl

theorem folioGrant x0 : Statement (.folioGrant x0) := of_event rfl

theorem folioCut x0 x1 : Statement (.folioCut x0 x1) := of_event rfl

theorem folioLineAck x0 : Statement (.folioLineAck x0) := of_event rfl

theorem snpInv x0 : Statement (.snpInv x0) := of_event rfl

theorem snpData x0 : Statement (.snpData x0) := of_event rfl

theorem snpCur x0 : Statement (.snpCur x0) := of_event rfl

theorem inboundWrite x0 x1 x2 x3 : Statement (.inboundWrite x0 x1 x2 x3) := of_event rfl

theorem peerWindowRequest x0 : Statement (.peerWindowRequest x0) := of_event rfl

theorem peerWindowResponse x0 x1 : Statement (.peerWindowResponse x0 x1) := of_event rfl

theorem stfDataAcknowledgement x0 : Statement (.stfDataAcknowledgement x0) := of_event rfl

theorem flagIncrement x0 : Statement (.flagIncrement x0) := of_event rfl

theorem poolResponse x0 : Statement (.poolResponse x0) := of_event rfl

theorem laneFailure x0 : Statement (.laneFailure x0) := of_event rfl

theorem retrainStepComplete x0 : Statement (.retrainStepComplete x0) := of_event rfl

theorem poolRequestTimeout x0 : Statement (.poolRequestTimeout x0) := of_event rfl

theorem packetRetransmit x0 x1 : Statement (.packetRetransmit x0 x1) := of_event rfl

theorem networkTmoExpiry x0 : Statement (.networkTmoExpiry x0) := of_event rfl

theorem packetArrival x0 x1 x2 : Statement (.packetArrival x0 x1 x2) := of_event rfl

theorem parcelClaim x0 x1 x2 : Statement (.parcelClaim x0 x1 x2) := of_event rfl

theorem parcelArrival x0 : Statement (.parcelArrival x0) := of_event rfl

theorem cardTake x0 : Statement (.cardTake x0) := of_event rfl

theorem localCardTake x0 : Statement (.localCardTake x0) := of_event rfl

theorem clusterPlacement x0 : Statement (.clusterPlacement x0) := of_event rfl

theorem clusterRetire x0 : Statement (.clusterRetire x0) := of_event rfl

theorem queueCompletionRecord x0 x1 : Statement (.queueCompletionRecord x0 x1) := of_event rfl

theorem contextSave x0 : Statement (.contextSave x0) := of_event rfl

theorem contextResume x0 : Statement (.contextResume x0) := of_event rfl

theorem coldBoot x0 : Statement (.coldBoot x0) := of_event rfl

theorem powerLimitStep x0 x1 : Statement (.powerLimitStep x0 x1) := of_event rfl

theorem marginReplan x0 x1 : Statement (.marginReplan x0 x1) := of_event rfl

theorem aalloc d c : Statement (.aalloc d c) :=
  of_one rfl fun hf _ _ => decode_ok (by simp) (by simp [opcodeKnown])
    ((decodeFields_96 (by simp)).trans (by simp [fU, fD, fA, fImm9, keepIf, opndAt])) hf

theorem afree g n : Statement (.afree g n) :=
  of_one rfl fun hf _ _ => decode_ok (by simp) (by simp [opcodeKnown])
    ((decodeFields_97 (by simp)).trans (by simp [fU, fA, fImm9, keepIf, opndAt])) hf

theorem and u d a b w : Statement (.and u d a b w) :=
  of_one rfl fun hf _ _ => decode_ok (by simp) (by simp [opcodeKnown])
    ((decodeFields_09 (by simp)).trans (by simp [decW, fU, fD, fA, fB, fM, opndAt])) hf

theorem atom u d base b cnt op mc : Statement (.atom u d base b cnt op mc) :=
  of_two rfl fun hf _ => decode_ok (by simp) (by simp [opcodeKnown])
    ((decodeFields_54 (by simp)).trans (by simp [fU, fD, fA, fB, fM, opndAt])) hf

theorem atomn u b base op mc : Statement (.atomn u b base op mc) :=
  of_two rfl fun hf _ => decode_ok (by simp) (by simp [opcodeKnown])
    ((decodeFields_55 (by simp)).trans (by simp [fU, fD, fA, fImm9, keepIf, opndAt])) hf

theorem bfi u d a b ctl w : Statement (.bfi u d a b ctl w) :=
  of_two rfl fun hf _ => decode_ok (by simp) (by simp [opcodeKnown])
    ((decodeFields_11 (by simp)).trans (by cases w <;> simp [fU, fD, fA, fB, fM, fC, keepIf, opndAt])) hf

theorem bfx u d a ctl ty : Statement (.bfx u d a ctl ty) :=
  of_two rfl fun hf _ => decode_ok (by simp) (by simp [opcodeKnown])
    ((decodeFields_10 (by simp)).trans (by simp [fU, fD, fA, fB, fM, keepIf, opndAt])) hf

theorem bkpt imm : Statement (.bkpt imm) :=
  of_one rfl fun hf _ _ => decode_ok (by simp) (by simp [opcodeKnown])
    ((decodeFields_79 (by simp)).trans (by simp [keepIf])) hf

theorem bra u off : Statement (.bra u off) :=
  of_one rfl fun hf _ _ => decode_ok (by simp) (by simp [opcodeKnown])
    ((decodeFields_70 (by simp)).trans (by simp [decB, fU, keepIf])) hf

theorem brc u p sn off : Statement (.brc u p sn off) :=
  of_one rfl fun hf _ _ => decode_ok (by simp) (by simp [opcodeKnown])
    ((decodeFields_71 (by simp)).trans (by simp [fU])) hf

theorem brev u d a w : Statement (.brev u d a w) :=
  of_one rfl fun hf _ _ => decode_ok (by simp) (by simp [opcodeKnown])
    ((decodeFields_14 (by simp)).trans (by simp [decW1, fU, fD, fA, fM, keepIf, opndAt])) hf

theorem brx u a : Statement (.brx u a) :=
  of_one rfl fun hf _ _ => decode_ok (by simp) (by simp [opcodeKnown])
    ((decodeFields_72 (by simp)).trans (by simp [decSA, fU, fA, fImm9, keepIf, opndAt])) hf

theorem call u off : Statement (.call u off) :=
  of_one rfl fun hf _ _ => decode_ok (by simp) (by simp [opcodeKnown])
    ((decodeFields_73 (by simp)).trans (by simp [decB, fU, keepIf])) hf

theorem callx u a : Statement (.callx u a) :=
  of_one rfl fun hf _ _ => decode_ok (by simp) (by simp [opcodeKnown])
    ((decodeFields_74 (by simp)).trans (by simp [decSA, fU, fA, fImm9, keepIf, opndAt])) hf

theorem cas u d base b cnt mc : Statement (.cas u d base b cnt mc) :=
  of_two rfl fun hf _ => decode_ok (by simp) (by simp [opcodeKnown])
    ((decodeFields_56 (by simp)).trans (by simp [fU, fD, fA, fB, fM, keepIf, opndAt])) hf

theorem cbar u : Statement (.cbar u) :=
  of_one rfl fun hf _ _ => decode_ok (by simp) (by simp [opcodeKnown])
    ((decodeFields_65 (by simp)).trans (by simp [decU, fU, keepIf])) hf

theorem clz u d a w : Statement (.clz u d a w) :=
  of_one rfl fun hf _ _ => decode_ok (by simp) (by simp [opcodeKnown])
    ((decodeFields_13 (by simp)).trans (by simp [decW1, fU, fD, fA, fM, keepIf, opndAt])) hf

theorem cmnt u base op reach sp off : Statement (.cmnt u base op reach sp off) :=
  of_two rfl fun hf _ => decode_ok (by simp) (by simp [opcodeKnown])
    ((decodeFields_59 (by simp)).trans (by simp [fU, fA, fImm9, keepIf, opndAt])) hf

theorem cpy u d a b e : Statement (.cpy u d a b e) :=
  of_two rfl fun hf _ => decode_ok (by simp) (by simp [opcodeKnown])
    ((decodeFields_80 (by simp)).trans (by simp [fU, fD, fA, fB, fM, keepIf, opndAt])) hf

theorem cpym u d a b e : Statement (.cpym u d a b e) :=
  of_two rfl fun hf _ => decode_ok (by simp) (by simp [opcodeKnown])
    ((decodeFields_81 (by simp)).trans (by simp [fU, fD, fA, fB, fM, keepIf, opndAt])) hf

theorem cpyt u d a b st e : Statement (.cpyt u d a b st e) :=
  of_two rfl fun hf _ => decode_ok (by simp) (by simp [opcodeKnown])
    ((decodeFields_82 (by simp)).trans (by simp [fU, fD, fA, fB, fM, keepIf, opndAt])) hf

theorem cred u d a b ty e : Statement (.cred u d a b ty e) :=
  of_two rfl fun hf _ => decode_ok (by simp) (by simp [opcodeKnown])
    ((decodeFields_83 (by simp)).trans (by simp [fU, fD, fA, fB, fM, keepIf, opndAt])) hf

theorem cvt u d a df sf rnd sat : Statement (.cvt u d a df sf rnd sat) :=
  of_two rfl fun hf _ => decode_ok (by simp) (by simp [opcodeKnown])
    ((decodeFields_40 (by simp)).trans (by simp [fU, fD, fA, fImm9, keepIf, opndAt])) hf

theorem dadd u d a b rnd : Statement (.dadd u d a b rnd) :=
  of_one rfl fun hf _ _ => decode_ok (by simp) (by simp [opcodeKnown])
    ((decodeFields_30 (by simp)).trans (by simp [decRnd, fU, fD, fA, fB, fM, opndAt])) hf

theorem dcmp u cond p a b : Statement (.dcmp u cond p a b) :=
  of_one rfl fun hf _ _ => decode_ok (by simp) (by simp [opcodeKnown])
    ((decodeFields_36 (by simp)).trans (by simp [decCmp, fU, fA, fB, fM, keepIf, opndAt, cmpD])) hf

theorem ddiv u d a b rnd : Statement (.ddiv u d a b rnd) :=
  of_one rfl fun hf _ _ => decode_ok (by simp) (by simp [opcodeKnown])
    ((decodeFields_37 (by simp)).trans (by simp [decRnd, fU, fD, fA, fB, fM, opndAt])) hf

theorem dfma u d a b c rnd : Statement (.dfma u d a b c rnd) :=
  of_two rfl fun hf _ => decode_ok (by simp) (by simp [opcodeKnown])
    ((decodeFields_33 (by simp)).trans (by simp [decFma, fU, fD, fA, fB, fM, fC, keepIf, opndAt])) hf

theorem dmax u d a b : Statement (.dmax u d a b) :=
  of_one rfl fun hf _ _ => decode_ok (by simp) (by simp [opcodeKnown])
    ((decodeFields_35 (by simp)).trans (by simp [decA, fU, fD, fA, fB, fM, keepIf, opndAt])) hf

theorem dmin u d a b : Statement (.dmin u d a b) :=
  of_one rfl fun hf _ _ => decode_ok (by simp) (by simp [opcodeKnown])
    ((decodeFields_34 (by simp)).trans (by simp [decA, fU, fD, fA, fB, fM, keepIf, opndAt])) hf

theorem dmul u d a b rnd : Statement (.dmul u d a b rnd) :=
  of_one rfl fun hf _ _ => decode_ok (by simp) (by simp [opcodeKnown])
    ((decodeFields_32 (by simp)).trans (by simp [decRnd, fU, fD, fA, fB, fM, opndAt])) hf

theorem dqnt u d q s z df rnd sat q4 : Statement (.dqnt u d q s z df rnd sat q4) :=
  of_two rfl fun hf _ => decode_ok (by simp) (by simp [opcodeKnown])
    ((decodeFields_42 (by simp)).trans (by cases q4 <;> simp [fU, fD, fA, fB, fM, fC, keepIf, opndAt, decQ4])) hf

theorem drcp u d a : Statement (.drcp u d a) :=
  of_one rfl fun hf _ _ => decode_ok (by simp) (by simp [opcodeKnown])
    ((decodeFields_39 (by simp)).trans (by simp [decA1, fU, fD, fA, fImm9, keepIf, opndAt])) hf

theorem dsqrt u d a rnd : Statement (.dsqrt u d a rnd) :=
  of_one rfl fun hf _ _ => decode_ok (by simp) (by simp [opcodeKnown])
    ((decodeFields_38 (by simp)).trans (by simp [decA1Rnd, fU, fD, fA, fM, keepIf, opndAt])) hf

theorem dsub u d a b rnd : Statement (.dsub u d a b rnd) :=
  of_one rfl fun hf _ _ => decode_ok (by simp) (by simp [opcodeKnown])
    ((decodeFields_31 (by simp)).trans (by simp [decRnd, fU, fD, fA, fB, fM, opndAt])) hf

theorem exit u : Statement (.exit u) :=
  of_one rfl fun hf _ _ => decode_ok (by simp) (by simp [opcodeKnown])
    ((decodeFields_76 (by simp)).trans (by simp [decU, fU, keepIf])) hf

theorem fadd u d a b rnd : Statement (.fadd u d a b rnd) :=
  of_one rfl fun hf _ _ => decode_ok (by simp) (by simp [opcodeKnown])
    ((decodeFields_20 (by simp)).trans (by simp [decRnd, fU, fD, fA, fB, fM, opndAt])) hf

theorem fcls u d a w : Statement (.fcls u d a w) :=
  of_one rfl fun hf _ _ => decode_ok (by simp) (by simp [opcodeKnown])
    ((decodeFields_2F (by simp)).trans (by simp [decW1, fU, fD, fA, fM, keepIf, opndAt])) hf

theorem fcmp u cond p a b : Statement (.fcmp u cond p a b) :=
  of_one rfl fun hf _ _ => decode_ok (by simp) (by simp [opcodeKnown])
    ((decodeFields_26 (by simp)).trans (by simp [decCmp, fU, fA, fB, fM, keepIf, opndAt, cmpD])) hf

theorem fcos u d a : Statement (.fcos u d a) :=
  of_one rfl fun hf _ _ => decode_ok (by simp) (by simp [opcodeKnown])
    ((decodeFields_2E (by simp)).trans (by simp [decA1, fU, fD, fA, fImm9, keepIf, opndAt])) hf

theorem fdiv u d a b rnd : Statement (.fdiv u d a b rnd) :=
  of_one rfl fun hf _ _ => decode_ok (by simp) (by simp [opcodeKnown])
    ((decodeFields_2A (by simp)).trans (by simp [decRnd, fU, fD, fA, fB, fM, opndAt])) hf

theorem fence u scope kind : Statement (.fence u scope kind) :=
  of_one rfl fun hf _ _ => decode_ok (by simp) (by simp [opcodeKnown])
    ((decodeFields_57 (by simp)).trans (by simp [fU, fM, keepIf])) hf

theorem fex2 u d a : Statement (.fex2 u d a) :=
  of_one rfl fun hf _ _ => decode_ok (by simp) (by simp [opcodeKnown])
    ((decodeFields_2B (by simp)).trans (by simp [decA1, fU, fD, fA, fImm9, keepIf, opndAt])) hf

theorem ffma u d a b c rnd : Statement (.ffma u d a b c rnd) :=
  of_two rfl fun hf _ => decode_ok (by simp) (by simp [opcodeKnown])
    ((decodeFields_23 (by simp)).trans (by simp [decFma, fU, fD, fA, fB, fM, fC, keepIf, opndAt])) hf

theorem flg2 u d a : Statement (.flg2 u d a) :=
  of_one rfl fun hf _ _ => decode_ok (by simp) (by simp [opcodeKnown])
    ((decodeFields_2C (by simp)).trans (by simp [decA1, fU, fD, fA, fImm9, keepIf, opndAt])) hf

theorem fmax u d a b : Statement (.fmax u d a b) :=
  of_one rfl fun hf _ _ => decode_ok (by simp) (by simp [opcodeKnown])
    ((decodeFields_25 (by simp)).trans (by simp [decA, fU, fD, fA, fB, fM, keepIf, opndAt])) hf

theorem fmin u d a b : Statement (.fmin u d a b) :=
  of_one rfl fun hf _ _ => decode_ok (by simp) (by simp [opcodeKnown])
    ((decodeFields_24 (by simp)).trans (by simp [decA, fU, fD, fA, fB, fM, keepIf, opndAt])) hf

theorem fmul u d a b rnd : Statement (.fmul u d a b rnd) :=
  of_one rfl fun hf _ _ => decode_ok (by simp) (by simp [opcodeKnown])
    ((decodeFields_22 (by simp)).trans (by simp [decRnd, fU, fD, fA, fB, fM, opndAt])) hf

theorem frcp u d a : Statement (.frcp u d a) :=
  of_one rfl fun hf _ _ => decode_ok (by simp) (by simp [opcodeKnown])
    ((decodeFields_27 (by simp)).trans (by simp [decA1, fU, fD, fA, fImm9, keepIf, opndAt])) hf

theorem frsq u d a : Statement (.frsq u d a) :=
  of_one rfl fun hf _ _ => decode_ok (by simp) (by simp [opcodeKnown])
    ((decodeFields_28 (by simp)).trans (by simp [decA1, fU, fD, fA, fImm9, keepIf, opndAt])) hf

theorem fsin u d a : Statement (.fsin u d a) :=
  of_one rfl fun hf _ _ => decode_ok (by simp) (by simp [opcodeKnown])
    ((decodeFields_2D (by simp)).trans (by simp [decA1, fU, fD, fA, fImm9, keepIf, opndAt])) hf

theorem fsqrt u d a rnd : Statement (.fsqrt u d a rnd) :=
  of_one rfl fun hf _ _ => decode_ok (by simp) (by simp [opcodeKnown])
    ((decodeFields_29 (by simp)).trans (by simp [decA1Rnd, fU, fD, fA, fM, keepIf, opndAt])) hf

theorem fsub u d a b rnd : Statement (.fsub u d a b rnd) :=
  of_one rfl fun hf _ _ => decode_ok (by simp) (by simp [opcodeKnown])
    ((decodeFields_21 (by simp)).trans (by simp [decRnd, fU, fD, fA, fB, fM, opndAt])) hf

theorem garm u slot : Statement (.garm u slot) :=
  of_one rfl fun hf _ _ => decode_ok (by simp) (by simp [opcodeKnown])
    ((decodeFields_66 (by simp)).trans (by simp [fU, keepIf])) hf

theorem gets u d n : Statement (.gets u d n) :=
  of_one rfl fun hf _ _ => decode_ok (by simp) (by simp [opcodeKnown])
    ((decodeFields_C0 (by simp)).trans (by simp [fU, fD, fImm9, keepIf, opndAt])) hf

theorem gred d a op ty rnd sat : Statement (.gred d a op ty rnd sat) :=
  of_two rfl fun hf _ => decode_ok (by simp) (by simp [opcodeKnown])
    ((decodeFields_4A (by simp)).trans (by simp [fU, fD, fA, fImm9, keepIf, opndAt])) hf

theorem gscan d a op ty rnd sat ex : Statement (.gscan d a op ty rnd sat ex) :=
  of_two rfl fun hf _ => decode_ok (by simp) (by simp [opcodeKnown])
    ((decodeFields_4B (by simp)).trans (by simp [fU, fD, fA, fImm9, keepIf, opndAt])) hf

theorem gset u a slot : Statement (.gset u a slot) :=
  of_one rfl fun hf _ _ => decode_ok (by simp) (by simp [opcodeKnown])
    ((decodeFields_67 (by simp)).trans (by simp [fU, fA, keepIf, opndAt])) hf

theorem hadd2 u d a b bf rnd : Statement (.hadd2 u d a b bf rnd) :=
  of_two rfl fun hf _ => decode_ok (by simp) (by simp [opcodeKnown])
    ((decodeFields_3C (by simp)).trans (by cases bf <;> simp [decH2, fU, fD, fA, fB, fM, keepIf, opndAt, decBf])) hf

theorem hfma2 u d a b c bf rnd : Statement (.hfma2 u d a b c bf rnd) :=
  of_two rfl fun hf _ => decode_ok (by simp) (by simp [opcodeKnown])
    ((decodeFields_3E (by simp)).trans (by cases bf <;> simp [fU, fD, fA, fB, fM, fC, keepIf, opndAt, decBf])) hf

theorem hmul2 u d a b bf rnd : Statement (.hmul2 u d a b bf rnd) :=
  of_two rfl fun hf _ => decode_ok (by simp) (by simp [opcodeKnown])
    ((decodeFields_3D (by simp)).trans (by cases bf <;> simp [decH2, fU, fD, fA, fB, fM, keepIf, opndAt, decBf])) hf

theorem iabs u d a w : Statement (.iabs u d a w) :=
  of_one rfl fun hf _ _ => decode_ok (by simp) (by simp [opcodeKnown])
    ((decodeFields_08 (by simp)).trans (by simp [decW1, fU, fD, fA, fM, keepIf, opndAt])) hf

theorem iadd u d a b w : Statement (.iadd u d a b w) :=
  of_one rfl fun hf _ _ => decode_ok (by simp) (by simp [opcodeKnown])
    ((decodeFields_01 (by simp)).trans (by simp [decW, fU, fD, fA, fB, fM, opndAt])) hf

theorem iaddi u d a imm : Statement (.iaddi u d a imm) :=
  of_one rfl fun hf _ _ => decode_ok (by simp) (by simp [opcodeKnown])
    ((decodeFields_03 (by simp)).trans (by simp [fU, fD, fA, fImm9, opndAt])) hf

theorem icmp u cond p a b w : Statement (.icmp u cond p a b w) :=
  of_one rfl fun hf _ _ => decode_ok (by simp) (by simp [opcodeKnown])
    ((decodeFields_15 (by simp)).trans (by simp [fU, fA, fB, fM, opndAt, cmpD])) hf

theorem idiv u d a b ty : Statement (.idiv u d a b ty) :=
  of_one rfl fun hf _ _ => decode_ok (by simp) (by simp [opcodeKnown])
    ((decodeFields_1A (by simp)).trans (by simp [decTy, fU, fD, fA, fB, fM, opndAt])) hf

theorem imad u d a b c ty sat : Statement (.imad u d a b c ty sat) :=
  of_two rfl fun hf _ => decode_ok (by simp) (by simp [opcodeKnown])
    ((decodeFields_05 (by simp)).trans (by simp [fU, fD, fA, fB, fM, fC, keepIf, opndAt])) hf

theorem imax u d a b ty : Statement (.imax u d a b ty) :=
  of_one rfl fun hf _ _ => decode_ok (by simp) (by simp [opcodeKnown])
    ((decodeFields_07 (by simp)).trans (by simp [decTy, fU, fD, fA, fB, fM, opndAt])) hf

theorem imin u d a b ty : Statement (.imin u d a b ty) :=
  of_one rfl fun hf _ _ => decode_ok (by simp) (by simp [opcodeKnown])
    ((decodeFields_06 (by simp)).trans (by simp [decTy, fU, fD, fA, fB, fM, opndAt])) hf

theorem imul u d a b f : Statement (.imul u d a b f) :=
  of_one rfl fun hf _ _ => decode_ok (by simp) (by simp [opcodeKnown])
    ((decodeFields_04 (by simp)).trans (by simp [fU, fD, fA, fB, fM, opndAt])) hf

theorem irem u d a b ty : Statement (.irem u d a b ty) :=
  of_one rfl fun hf _ _ => decode_ok (by simp) (by simp [opcodeKnown])
    ((decodeFields_1B (by simp)).trans (by simp [decTy, fU, fD, fA, fB, fM, opndAt])) hf

theorem isub u d a b w : Statement (.isub u d a b w) :=
  of_one rfl fun hf _ _ => decode_ok (by simp) (by simp [opcodeKnown])
    ((decodeFields_02 (by simp)).trans (by simp [decW, fU, fD, fA, fB, fM, opndAt])) hf

theorem jpost u a b e : Statement (.jpost u a b e) :=
  of_two rfl fun hf _ => decode_ok (by simp) (by simp [opcodeKnown])
    ((decodeFields_B0 (by simp)).trans (by simp [fU, fA, fB, fM, keepIf, opndAt])) hf

theorem ld u d base cnt mc : Statement (.ld u d base cnt mc) :=
  of_two rfl fun hf _ => decode_ok (by simp) (by simp [opcodeKnown])
    ((decodeFields_50 (by simp)).trans (by simp [fU, fD, fA, fM, keepIf, opndAt])) hf

theorem ldnr u d base p cnt mc : Statement (.ldnr u d base p cnt mc) :=
  of_two rfl fun hf _ => decode_ok (by simp) (by simp [opcodeKnown])
    ((decodeFields_51 (by simp)).trans (by simp [fU, fD, fA, fM, keepIf, opndAt])) hf

theorem mdrain d a b z e : Statement (.mdrain d a b z e) :=
  of_two rfl fun hf _ => decode_ok (by simp) (by simp [opcodeKnown])
    ((decodeFields_94 (by simp)).trans (by simp [fU, fD, fA, fB, fM, keepIf, opndAt])) hf

theorem mfeed a b rid e : Statement (.mfeed a b rid e) :=
  of_two rfl fun hf _ => decode_ok (by simp) (by simp [opcodeKnown])
    ((decodeFields_92 (by simp)).trans (by simp [fU, fA, fB, fM, keepIf, opndAt])) hf

theorem mloop a b c lc : Statement (.mloop a b c lc) :=
  of_two rfl fun hf _ => decode_ok (by simp) (by simp [opcodeKnown])
    ((decodeFields_93 (by simp)).trans (by simp [fU, fA, fB, fM, fC, keepIf, opndAt])) hf

theorem mov u d a w : Statement (.mov u d a w) :=
  of_one rfl fun hf _ _ => decode_ok (by simp) (by simp [opcodeKnown])
    ((decodeFields_17 (by simp)).trans (by simp [fU, fD, fA, fM, keepIf, opndAt])) hf

theorem movh u d imm : Statement (.movh u d imm) :=
  of_one rfl fun hf _ _ => decode_ok (by simp) (by simp [opcodeKnown])
    ((decodeFields_19 (by simp)).trans (by simp [fU, fD, opndAt])) hf

theorem movi u d imm : Statement (.movi u d imm) :=
  of_one rfl fun hf _ _ => decode_ok (by simp) (by simp [opcodeKnown])
    ((decodeFields_18 (by simp)).trans (by simp [fU, fD, opndAt])) hf

theorem mrst u : Statement (.mrst u) :=
  of_one rfl fun hf _ _ => decode_ok (by simp) (by simp [opcodeKnown])
    ((decodeFields_C2 (by simp)).trans (by simp [decU, fU, keepIf])) hf

theorem mzero g n : Statement (.mzero g n) :=
  of_one rfl fun hf _ _ => decode_ok (by simp) (by simp [opcodeKnown])
    ((decodeFields_95 (by simp)).trans (by simp [fU, fA, fImm9, keepIf, opndAt])) hf

theorem nop : Statement .nop := of_one rfl fun _ _ _ => rfl

theorem or u d a b w : Statement (.or u d a b w) :=
  of_one rfl fun hf _ _ => decode_ok (by simp) (by simp [opcodeKnown])
    ((decodeFields_0A (by simp)).trans (by simp [decW, fU, fD, fA, fB, fM, opndAt])) hf

theorem orel rid : Statement (.orel rid) :=
  of_one rfl fun hf _ _ => decode_ok (by simp) (by simp [opcodeKnown])
    ((decodeFields_91 (by simp)).trans (by simp [fU, keepIf])) hf

theorem ores a b c fmt gl rid rw : Statement (.ores a b c fmt gl rid rw) :=
  of_two rfl fun hf _ => decode_ok (by simp) (by simp [opcodeKnown])
    ((decodeFields_90 (by simp)).trans (by simp [fU, fA, fB, fM, fC, keepIf, opndAt])) hf

theorem padd u d a b : Statement (.padd u d a b) :=
  of_one rfl fun hf _ _ => decode_ok (by simp) (by simp [opcodeKnown])
    ((decodeFields_AA (by simp)).trans (by simp [decA, fU, fD, fA, fB, fM, keepIf, opndAt])) hf

theorem pfree u a : Statement (.pfree u a) :=
  of_one rfl fun hf _ _ => decode_ok (by simp) (by simp [opcodeKnown])
    ((decodeFields_A5 (by simp)).trans (by simp [decSA, fU, fA, fImm9, keepIf, opndAt])) hf

theorem pld u d base cnt mc : Statement (.pld u d base cnt mc) :=
  of_two rfl fun hf _ => decode_ok (by simp) (by simp [opcodeKnown])
    ((decodeFields_A6 (by simp)).trans (by simp [fU, fD, fA, fM, keepIf, opndAt])) hf

theorem pldr u d base cnt mc : Statement (.pldr u d base cnt mc) :=
  of_two rfl fun hf _ => decode_ok (by simp) (by simp [opcodeKnown])
    ((decodeFields_A8 (by simp)).trans (by simp [fU, fD, fA, fM, keepIf, opndAt])) hf

theorem plop u pd pa pb lut : Statement (.plop u pd pa pb lut) :=
  of_one rfl fun hf _ _ => decode_ok (by simp) (by simp [opcodeKnown])
    ((decodeFields_1C (by simp)).trans (by simp [fU, keepIf])) hf

theorem pmovPack u d : Statement (.pmovPack u d) :=
  of_one rfl fun hf _ _ => decode_ok (by simp) (by simp [opcodeKnown])
    ((decodeFields_1D (by simp)).trans (by simp [fU, fD, fA, keepIf, opndAt])) hf

theorem pmovUnpack u a mask : Statement (.pmovUnpack u a mask) :=
  of_one rfl fun hf _ _ => decode_ok (by simp) (by simp [opcodeKnown])
    ((decodeFields_1D (by simp)).trans (by simp [fU, fD, fA, keepIf, opndAt])) hf

theorem pnew u d a : Statement (.pnew u d a) :=
  of_one rfl fun hf _ _ => decode_ok (by simp) (by simp [opcodeKnown])
    ((decodeFields_A0 (by simp)).trans (by simp [fU, fD, fA, fImm9, keepIf, opndAt])) hf

theorem popc u d a w : Statement (.popc u d a w) :=
  of_one rfl fun hf _ _ => decode_ok (by simp) (by simp [opcodeKnown])
    ((decodeFields_12 (by simp)).trans (by simp [decW1, fU, fD, fA, fM, keepIf, opndAt])) hf

theorem post u d a b e : Statement (.post u d a b e) :=
  of_two rfl fun hf _ => decode_ok (by simp) (by simp [opcodeKnown])
    ((decodeFields_A2 (by simp)).trans (by simp [fU, fD, fA, fB, fM, keepIf, opndAt])) hf

theorem pqry u d a fn : Statement (.pqry u d a fn) :=
  of_one rfl fun hf _ _ => decode_ok (by simp) (by simp [opcodeKnown])
    ((decodeFields_AB (by simp)).trans (by simp [fU, fD, fA, fM, keepIf, opndAt])) hf

theorem precv u a l dsp ssp : Statement (.precv u a l dsp ssp) :=
  of_two rfl fun hf _ => decode_ok (by simp) (by simp [opcodeKnown])
    ((decodeFields_A3 (by simp)).trans (by simp [fU, fA, fImm9, opndAt, keepIf])) hf

theorem pref u base kind sp off : Statement (.pref u base kind sp off) :=
  of_two rfl fun hf _ => decode_ok (by simp) (by simp [opcodeKnown])
    ((decodeFields_58 (by simp)).trans (by simp [fU, fA, fImm9, keepIf, opndAt])) hf

theorem pseal u a : Statement (.pseal u a) :=
  of_one rfl fun hf _ _ => decode_ok (by simp) (by simp [opcodeKnown])
    ((decodeFields_A1 (by simp)).trans (by simp [decSA, fU, fA, fImm9, keepIf, opndAt])) hf

theorem pst u d base mc : Statement (.pst u d base mc) :=
  of_two rfl fun hf _ => decode_ok (by simp) (by simp [opcodeKnown])
    ((decodeFields_A7 (by simp)).trans (by simp [fU, fD, fA, fImm9, keepIf, opndAt])) hf

theorem pstr u d base mc : Statement (.pstr u d base mc) :=
  of_two rfl fun hf _ => decode_ok (by simp) (by simp [opcodeKnown])
    ((decodeFields_A9 (by simp)).trans (by simp [fU, fD, fA, fImm9, keepIf, opndAt])) hf

theorem pwait u a : Statement (.pwait u a) :=
  of_one rfl fun hf _ _ => decode_ok (by simp) (by simp [opcodeKnown])
    ((decodeFields_A4 (by simp)).trans (by simp [decSA, fU, fA, fImm9, keepIf, opndAt])) hf

theorem qnt u d x s z sf rnd q4 : Statement (.qnt u d x s z sf rnd q4) :=
  of_two rfl fun hf _ => decode_ok (by simp) (by simp [opcodeKnown])
    ((decodeFields_41 (by simp)).trans (by cases q4 <;> simp [fU, fD, fA, fB, fM, fC, keepIf, opndAt, decQ4])) hf

theorem resq u base b wr sp off : Statement (.resq u base b wr sp off) :=
  of_two rfl fun hf _ => decode_ok (by simp) (by simp [opcodeKnown])
    ((decodeFields_5C (by simp)).trans (by cases wr <;> simp [fU, fA, fB, fM, keepIf, opndAt])) hf

theorem resume : Statement .resume := of_one rfl fun _ _ _ => rfl

theorem resumeSkip : Statement .resumeSkip := of_one rfl fun _ _ _ => rfl

theorem ret u : Statement (.ret u) :=
  of_one rfl fun hf _ _ => decode_ok (by simp) (by simp [opcodeKnown])
    ((decodeFields_75 (by simp)).trans (by simp [decU, fU, keepIf])) hf

theorem rol u d a n w : Statement (.rol u d a n w) :=
  of_one rfl fun hf _ _ => decode_ok (by simp) (by simp [opcodeKnown])
    ((decodeFields_0F (by simp)).trans (by simp [decW, fU, fD, fA, fB, fM, opndAt])) hf

theorem sar u d a n w : Statement (.sar u d a n w) :=
  of_one rfl fun hf _ _ => decode_ok (by simp) (by simp [opcodeKnown])
    ((decodeFields_0E (by simp)).trans (by simp [decW, fU, fD, fA, fB, fM, opndAt])) hf

theorem sarv u a ps : Statement (.sarv u a ps) :=
  of_one rfl fun hf _ _ => decode_ok (by simp) (by simp [opcodeKnown])
    ((decodeFields_61 (by simp)).trans (by simp [fU, fA, keepIf, opndAt])) hf

theorem sel u d a b p neg w : Statement (.sel u d a b p neg w) :=
  of_two rfl fun hf _ => decode_ok (by simp) (by simp [opcodeKnown])
    ((decodeFields_16 (by simp)).trans (by simp [fU, fD, fA, fB, fM, keepIf, opndAt])) hf

theorem sets u a n : Statement (.sets u a n) :=
  of_one rfl fun hf _ _ => decode_ok (by simp) (by simp [opcodeKnown])
    ((decodeFields_C1 (by simp)).trans (by simp [fU, fA, fImm9, keepIf, opndAt])) hf

theorem sexp u bytes slate : Statement (.sexp u bytes slate) :=
  of_one rfl fun hf _ _ => decode_ok (by simp) (by simp [opcodeKnown])
    ((decodeFields_62 (by simp)).trans (by simp [fU, fD, fA, fImm9, keepIf, opndAt])) hf

theorem shfl d a b mode w : Statement (.shfl d a b mode w) :=
  of_two rfl fun hf _ => decode_ok (by simp) (by simp [opcodeKnown])
    ((decodeFields_48 (by simp)).trans (by simp [fU, fD, fA, fB, fM, keepIf, opndAt])) hf

theorem shl u d a n w : Statement (.shl u d a n w) :=
  of_one rfl fun hf _ _ => decode_ok (by simp) (by simp [opcodeKnown])
    ((decodeFields_0C (by simp)).trans (by simp [decW, fU, fD, fA, fB, fM, opndAt])) hf

theorem shr u d a n w : Statement (.shr u d a n w) :=
  of_one rfl fun hf _ _ => decode_ok (by simp) (by simp [opcodeKnown])
    ((decodeFields_0D (by simp)).trans (by simp [decW, fU, fD, fA, fB, fM, opndAt])) hf

theorem sinit u a b c : Statement (.sinit u a b c) :=
  of_two rfl fun hf _ => decode_ok (by simp) (by simp [opcodeKnown])
    ((decodeFields_60 (by simp)).trans (by simp [fU, fA, fB, fM, fC, keepIf, opndAt])) hf

theorem st u d base mc : Statement (.st u d base mc) :=
  of_two rfl fun hf _ => decode_ok (by simp) (by simp [opcodeKnown])
    ((decodeFields_52 (by simp)).trans (by simp [fU, fD, fA, fImm9, keepIf, opndAt])) hf

theorem stf u d base mc fb fo : Statement (.stf u d base mc fb fo) :=
  of_three rfl fun hf => decode_ok (by simp) (by simp [opcodeKnown])
    ((decodeFields_53 (by simp)).trans (by simp [fU, fD, fA, fC, fImm9, keepIf, opndAt])) hf

theorem swait u a v : Statement (.swait u a v) :=
  of_one rfl fun hf _ _ => decode_ok (by simp) (by simp [opcodeKnown])
    ((decodeFields_63 (by simp)).trans (by simp [fU, fA, keepIf, opndAt])) hf

theorem tbar u : Statement (.tbar u) :=
  of_one rfl fun hf _ _ => decode_ok (by simp) (by simp [opcodeKnown])
    ((decodeFields_64 (by simp)).trans (by simp [decU, fU, keepIf])) hf

theorem tdld u a b dsp ssp : Statement (.tdld u a b dsp ssp) :=
  of_two rfl fun hf _ => decode_ok (by simp) (by simp [opcodeKnown])
    ((decodeFields_84 (by simp)).trans (by simp [fU, fA, fB, fM, keepIf, opndAt])) hf

theorem tdrop u a pkg : Statement (.tdrop u a pkg) :=
  of_one rfl fun hf _ _ => decode_ok (by simp) (by simp [opcodeKnown])
    ((decodeFields_5B (by simp)).trans (by cases pkg <;> simp [fU, fA, fImm9, keepIf, opndAt])) hf

theorem trap imm : Statement (.trap imm) :=
  of_one rfl fun hf _ _ => decode_ok (by simp) (by simp [opcodeKnown])
    ((decodeFields_77 (by simp)).trans (by simp [keepIf])) hf

theorem ttagImmediate u id : Statement (.ttagImmediate u id) :=
  of_one rfl fun hf _ _ => decode_ok (by simp) (by simp [opcodeKnown])
    ((decodeFields_5A (by simp)).trans (by simp [fU, fA, keepIf, opndAt])) hf

theorem ttagRegister u a : Statement (.ttagRegister u a) :=
  of_one rfl fun hf _ _ => decode_ok (by simp) (by simp [opcodeKnown])
    ((decodeFields_5A (by simp)).trans (by simp [fU, fA, keepIf, opndAt])) hf

theorem vote d mode neg p : Statement (.vote d mode neg p) :=
  of_one rfl fun hf _ _ => decode_ok (by simp) (by simp [opcodeKnown])
    ((decodeFields_49 (by simp)).trans (by simp [fU, fD, keepIf, opndAt])) hf

theorem xor u d a b w : Statement (.xor u d a b w) :=
  of_one rfl fun hf _ _ => decode_ok (by simp) (by simp [opcodeKnown])
    ((decodeFields_0B (by simp)).trans (by simp [decW, fU, fD, fA, fB, fM, opndAt])) hf

theorem coreCycle x0 : Statement (.coreCycle x0) := of_event rfl

theorem mzeroEffect x0 : Statement (.mzeroEffect x0) := of_event rfl

theorem cxlCacheResponse x0 : Statement (.cxlCacheResponse x0) := of_event rfl

theorem selectiveAcknowledgement x0 x1 : Statement (.selectiveAcknowledgement x0 x1) := of_event rfl

theorem inboundRead x0 x1 x2 : Statement (.inboundRead x0 x1 x2) := of_event rfl

theorem faultReportRingSpace x0 x1 : Statement (.faultReportRingSpace x0 x1) := of_event rfl

theorem ethernetPortFailure x0 : Statement (.ethernetPortFailure x0) := of_event rfl

end Sys2Proof.Laws.RoundTrip
end

