-- ==== Sys2Proof/Laws/Write.lean ====
section
/-!
SUPPORT. Register writes of an issue group: every target of every execution is changed once, from operands as they stood before the
word, and the flags of all executions are added to the team's.
-/
namespace Sys2Proof.Machine

/-- Threads changed one after another by the same update that keeps identities. -/
theorem thread_foldl_onThread (team : TeamId) (f : Thread → Thread) (hf : ∀ t, (f t).id = t.id) (tids : List Nat) (hn : tids.Nodup)
    (s : State) (j : ThreadId) :
    (tids.foldl (fun s tid => s.onThread { team := team, tid := tid } f) s).thread j =
      if j.team = team ∧ j.tid ∈ tids then (s.thread j).map f else s.thread j := by
  induction tids generalizing s with
  | nil => simp
  | cons l ls ih =>
      rw [List.foldl_cons, ih (List.nodup_cons.mp hn).2]
      have hl : l ∉ ls := (List.nodup_cons.mp hn).1
      by_cases hj : j = { team := team, tid := l }
      · subst hj
        rw [s.thread_onThread_same _ f fun t ht => (hf t).trans ht]
        simp [hl]
      · rw [s.thread_onThread_other _ j f hj fun t ht => (hf t).trans ht]
        by_cases hm : j.team = team ∧ j.tid ∈ ls
        · simp [hm]
        · rw [if_neg hm, if_neg]
          rintro ⟨h1, h2⟩
          rcases List.mem_cons.mp h2 with h3 | h3
          · exact hj (by cases j; simp_all)
          · exact hm ⟨h1, h3⟩

theorem foldl_onThread_beside (team : TeamId) (f : Thread → Thread) (tids : List Nat) (s : State) :
    (tids.foldl (fun s tid => s.onThread { team := team, tid := tid } f) s).besideIssue = s.besideIssue ∧
      (tids.foldl (fun s tid => s.onThread { team := team, tid := tid } f) s).pipes = s.pipes ∧
      (tids.foldl (fun s tid => s.onThread { team := team, tid := tid } f) s).focus = s.focus := by
  induction tids generalizing s with
  | nil => exact ⟨rfl, rfl, rfl⟩
  | cons l ls ih => rw [List.foldl_cons]; exact ih _

/-- `State.writeRegs` on the threads: each of `tids` is changed. -/
theorem State.thread_writeRegs (s : State) (team : TeamId) (tids : List Nat) (os : List Opnd) (f : Thread → Thread)
    (hf : ∀ t, (f t).id = t.id) (hn : tids.Nodup) (j : ThreadId) :
    (s.writeRegs team tids os f).thread j = if j.team = team ∧ j.tid ∈ tids then (s.thread j).map f else s.thread j := by
  rw [← thread_foldl_onThread team f hf tids hn s j]
  unfold State.writeRegs
  simp only
  split <;> rfl

theorem State.writeRegs_beside (s : State) (team : TeamId) (tids : List Nat) (os : List Opnd) (f : Thread → Thread) :
    (s.writeRegs team tids os f).besideTeams = s.besideTeams ∧ (s.writeRegs team tids os f).teams = s.teams ∧
      (s.writeRegs team tids os f).pipes = s.pipes ∧ (s.writeRegs team tids os f).focus = s.focus := by
  obtain ⟨h1, h2, h3⟩ := foldl_onThread_beside team f tids s
  have hb : (tids.foldl (fun s tid => s.onThread { team := team, tid := tid } f) s).besideTeams = s.besideTeams := by
    show (State.besideIssue _).besideTeams = s.besideIssue.besideTeams
    rw [h1]
  have ht := State.teams_of_besideIssue h1
  unfold State.writeRegs
  simp only
  split
  · exact ⟨hb, ht, h2, h3⟩
  · exact ⟨hb, ht, h2, h3⟩

theorem State.setFlags_beside (s : State) (team : TeamId) (fl : Word) :
    (s.setFlags team fl).besideTeams = s.besideTeams ∧ (s.setFlags team fl).threads = s.threads ∧
      (s.setFlags team fl).pipes = s.pipes ∧ (s.setFlags team fl).focus = s.focus := ⟨rfl, rfl, rfl, rfl⟩

theorem State.team_setFlags_same (s : State) (k : TeamId) (fl : Word) :
    (s.setFlags k fl).team k = (s.team k).map fun t => { t with tstat := t.tstat ||| fl } :=
  s.team_onTeam_same k (fun t => { t with tstat := t.tstat ||| fl }) fun _ h => h

theorem State.team_setFlags_other (s : State) (k j : TeamId) (fl : Word) (h : j ≠ k) : (s.setFlags k fl).team j = s.team j :=
  s.team_onTeam_other k j (fun t => { t with tstat := t.tstat ||| fl }) h fun _ h => h

/-- A repair of predicates changes marks of damage alone. -/
theorem State.repairPreds_beside (s : State) (team : TeamId) (tids : List Nat) (ps : List (BitVec 3)) :
    (s.repairPreds team tids ps).besideTeams = s.besideTeams ∧ (s.repairPreds team tids ps).threads = s.threads ∧
      (s.repairPreds team tids ps).teams = s.teams ∧ (s.repairPreds team tids ps).pipes = s.pipes ∧
      (s.repairPreds team tids ps).focus = s.focus := by
  unfold State.repairPreds
  split <;> exact ⟨rfl, rfl, rfl, rfl, rfl⟩

/-- A write of no predicate repairs none. -/
theorem State.repairPreds_nil (s : State) (team : TeamId) (tids : List Nat) : s.repairPreds team tids [] = s := by
  unfold State.repairPreds
  split
  · rfl
  · rw [filter_true_of]
    intro d _
    cases d <;> simp

/-- A body that changes its targets by `g` of its reader, repairs the predicates `ps` and adds flags. -/
def writeBody (os : List Opnd) (ps : List (BitVec 3)) (g : Thread → Thread → Thread) (fl : Thread → Word) : Body := fun s r tids =>
  (((s.writeRegs r.id.team tids os (g r)).repairPreds r.id.team tids ps).setFlags r.id.team (fl r), none)

/-- What the executions of a word that writes registers do: nothing to other threads; each target changed by its reader; the
flags; and nothing beside. -/
theorem runBody_write {i : Instr} {p : Pipe} {os : List Opnd} {ps : List (BitVec 3)} {g : Thread → Thread → Thread} {fl : Thread → Word}
    (hg : ∀ r t, (g r t).id = t.id) (rs : List Run) (hn : (rs.flatMap fun r => r.targets).Nodup)
    (hr : ∀ r ∈ rs, r.reader ∈ r.targets) (s : State) :
    (∀ j, (j.team ≠ p.team ∨ j.tid ∉ rs.flatMap fun r => r.targets) →
      (s.runBody i p (writeBody os ps g fl) rs).thread j = s.thread j) ∧
    (∀ r ∈ rs, ∀ rd, s.thread (tidOf p r.reader) = some rd → ∀ l ∈ r.targets,
      (s.runBody i p (writeBody os ps g fl) rs).thread (tidOf p l) = (s.thread (tidOf p l)).map (g rd)) ∧
    (s.runBody i p (writeBody os ps g fl) rs).team p.team = (s.team p.team).map (fun tm =>
      { tm with tstat := rs.foldl (fun w r =>
          match s.thread (tidOf p r.reader) with
          | some th => w ||| fl th
          | none => w) tm.tstat }) ∧
    (∀ k, k ≠ p.team → (s.runBody i p (writeBody os ps g fl) rs).team k = s.team k) ∧
    (s.runBody i p (writeBody os ps g fl) rs).besideTeams = s.besideTeams := by
  induction rs generalizing s with
  | nil =>
      refine ⟨fun _ _ => rfl, by simp, ?_, fun _ _ => rfl, rfl⟩
      simp [State.runBody]
  | cons r rs ih =>
      rw [List.flatMap_cons, List.nodup_append] at hn
      obtain ⟨hn1, hn2, hn3⟩ := hn
      have hr' : ∀ r' ∈ rs, r'.reader ∈ r'.targets := fun r' h' => hr r' (List.mem_cons_of_mem _ h')
      cases hth : s.thread (tidOf p r.reader) with
      | none =>
          obtain ⟨h1, h2, h3, h4, h5⟩ := ih hn2 hr' s
          have hrun : s.runBody i p (writeBody os ps g fl) (r :: rs) = s.runBody i p (writeBody os ps g fl) rs := by
            simp only [State.runBody, hth]
          rw [hrun]
          refine ⟨?_, ?_, ?_, h4, h5⟩
          · intro j hj
            refine h1 j (hj.imp_right fun h hm => h ?_)
            rw [List.flatMap_cons]; exact List.mem_append_right _ hm
          · intro r' hr'' rd hrd
            rcases List.mem_cons.mp hr'' with rfl | h'
            · rw [hth] at hrd; exact absurd hrd (by simp)
            · exact h2 r' h' rd hrd
          · rw [h3]; simp [hth]
      | some rd =>
          have hteam : rd.id.team = p.team := by rw [s.thread_id hth]; rfl
          obtain ⟨s', hs'⟩ : ∃ s', s' = ((s.writeRegs rd.id.team r.targets os (g rd)).repairPreds
              rd.id.team r.targets ps).setFlags rd.id.team (fl rd) := ⟨_, rfl⟩
          have hrun : s.runBody i p (writeBody os ps g fl) (r :: rs) = s'.runBody i p (writeBody os ps g fl) rs := by
            simp only [State.runBody, hth, writeBody, ← hs']
          have hthr : ∀ j, s'.thread j = if j.team = p.team ∧ j.tid ∈ r.targets then (s.thread j).map (g rd) else s.thread j := by
            intro j
            rw [← hteam, ← s.thread_writeRegs rd.id.team r.targets os (g rd) (hg rd) hn1 j, hs']
            simp only [State.thread, (State.setFlags_beside ..).2.1, (State.repairPreds_beside ..).2.1]
          have hteams : s'.teams = (s.onTeam rd.id.team fun t => { t with tstat := t.tstat ||| fl rd }).teams := by
            rw [hs']
            simp only [State.setFlags, State.onTeam, (State.repairPreds_beside ..).2.2.1,
              (s.writeRegs_beside rd.id.team r.targets os (g rd)).2.1]
          have hother : ∀ r' ∈ rs, s'.thread (tidOf p r'.reader) = s.thread (tidOf p r'.reader) := by
            intro r' h'
            rw [hthr, if_neg]
            rintro ⟨-, hm⟩
            exact hn3 _ hm _ (List.mem_flatMap.mpr ⟨r', h', hr' r' h'⟩) rfl
          obtain ⟨h1, h2, h3, h4, h5⟩ := ih hn2 hr' s'
          rw [hrun]
          refine ⟨?_, ?_, ?_, ?_, ?_⟩
          · intro j hj
            rw [List.flatMap_cons] at hj
            rw [h1 j (hj.imp_right fun h hm => h (List.mem_append_right _ hm)), hthr, if_neg]
            rintro ⟨ha, hb⟩
            rcases hj with hj | hj
            · exact hj ha
            · exact hj (List.mem_append_left _ hb)
          · intro r' hr'' rd' hrd l hl
            rcases List.mem_cons.mp hr'' with rfl | h'
            · rw [hth] at hrd
              obtain rfl : rd = rd' := by simpa using hrd
              rw [h1 (tidOf p l) (Or.inr fun hm => hn3 l hl l hm rfl), hthr, if_pos ⟨rfl, hl⟩]
            · rw [h2 r' h' rd' (by rw [hother r' h']; exact hrd) l hl, hthr, if_neg]
              rintro ⟨-, hm⟩
              exact hn3 l hm l (List.mem_flatMap.mpr ⟨r', h', hl⟩) rfl
          · rw [h3]
            have : s'.team p.team = (s.team p.team).map fun t => { t with tstat := t.tstat ||| fl rd } := by
              rw [← hteam]
              simp only [State.team, hteams]
              exact s.team_onTeam_same rd.id.team _ fun t ht => ht
            rw [this, Option.map_map]
            congr 1
            funext tm
            simp only [Function.comp, List.foldl_cons, hth]
            congr 1
            exact List.foldl_ext _ _ _ fun w r' h' => by rw [hother r' h']
          · intro k hk
            rw [h4 k hk]
            simp only [State.team, hteams]
            exact s.team_onTeam_other rd.id.team k _ (by rw [hteam]; exact hk) fun t ht => ht
          · rw [h5, hs']
            exact ((State.repairPreds_beside ..).1).trans (s.writeRegs_beside rd.id.team r.targets os (g rd)).1

/-! ## Words that write registers -/

theorem runsOf_nodup {i : Instr} {p : Pipe} (h : p.lanes.Nodup) : ((runsOf i p).flatMap fun r => r.targets).Nodup := by
  unfold runsOf
  split
  · split
    · simp
    · rename_i hp; rw [hp] at h; simpa using h
  · simpa [List.flatMap_map] using h

theorem runsOf_reader {i : Instr} {p : Pipe} : ∀ r ∈ runsOf i p, r.reader ∈ r.targets := by
  intro r hr
  unfold runsOf at hr
  split at hr
  · split at hr
    · simp at hr
    · simp only [List.mem_singleton] at hr; subst hr; exact List.mem_cons_self
  · obtain ⟨l, -, rfl⟩ := List.mem_map.mp hr
    exact List.mem_cons_self

/-- The execution that a lane takes part in, and its reader. -/
theorem runsOf_lane {i : Instr} {s : State} {p : Pipe} {l : Nat} {th : Thread} (hl : l ∈ p.lanes)
    (hth : s.thread (tidOf p l) = some th) (hall : ∀ l ∈ p.lanes, (s.thread (tidOf p l)).isSome = true) :
    ∃ r ∈ runsOf i p, l ∈ r.targets ∧ s.thread (tidOf p r.reader) = some (readerOf i s p th) := by
  unfold runsOf readerOf
  split
  · cases hp : p.lanes with
    | nil => rw [hp] at hl; simp at hl
    | cons r rest =>
        obtain ⟨rd, hrd⟩ := Option.isSome_iff_exists.mp (hall r (by rw [hp]; exact List.mem_cons_self))
        refine ⟨{ reader := r, targets := r :: rest }, by simp, by rw [hp] at hl; exact hl, ?_⟩
        simp [hrd]
  · exact ⟨{ reader := l, targets := [l] }, List.mem_map.mpr ⟨l, hl, rfl⟩, List.mem_cons_self, hth⟩

/-- WHAT A WORD THAT WRITES REGISTERS DOES, in a state in which it is ready. -/
theorem exec_write {i : Instr} {s : State} {p : Pipe} {tm : Team} {os : List Opnd} {ps : List (BitVec 3)} {g : Thread → Thread → Thread}
    {fl : Thread → Word} (he : exec i s = execLanes i none (writeBody os ps g fl) s) (hg : ∀ r t, (g r t).id = t.id)
    (h : Ready i s p tm) :
    ∃ t, exec i s = .next t ∧
      (∀ l ∈ p.lanes, ∀ th, s.thread (tidOf p l) = some th → ∃ th', t.thread (tidOf p l) = some th' ∧
        th'.t = (g (readerOf i s p th) th).t ∧ th'.k = (g (readerOf i s p th) th).k ∧ th'.p = (g (readerOf i s p th) th).p) ∧
      t.team p.team = some { tm with tstat := stickyAfter i s p fl tm.tstat } := by
  refine ⟨_, he.trans (execLanes_ready _ h), ?_, ?_⟩
  · intro l hl th hth
    obtain ⟨r, hr, hlr, hrd⟩ := runsOf_lane (i := i) hl hth fun l hl => (h.2.2.2.2.1 l hl).2
    have hw := (runBody_write (i := i) (p := p) (os := os) (ps := ps) (fl := fl) hg (runsOf i p) (runsOf_nodup h.2.2.2.1) runsOf_reader s).2.1
      r hr _ hrd l hlr
    rw [hth, Option.map_some] at hw
    obtain ⟨th', ht', h1, h2, h3, -⟩ := (past_spec (s.runBody i p (writeBody os ps g fl) (runsOf i p)) p i).1 _ _ hw
    exact ⟨th', ht', h1, h2, h3⟩
  · rw [past_team, (runBody_write hg (runsOf i p) (runsOf_nodup h.2.2.2.1) runsOf_reader s).2.2.1, (State.site_eq h.1).2.2.1]
    rfl

theorem Thread.regN_congr {t t' : Thread} (h1 : t.t = t'.t) (h2 : t.k = t'.k) (o : Opnd) (n : Nat) : t.regN o n = t'.regN o n := by
  have hr : ∀ o, t.reg o = t'.reg o := fun o => by cases o <;> simp [Thread.reg, h1, h2]
  have h64 : ∀ o, t.reg64 o = t'.reg64 o := fun o => by cases o <;> simp [Thread.reg64, hr]
  unfold Thread.regN
  split <;> simp [hr, h64]

/-- Every ALU instruction: the lanes hold its value, the team its flags. -/
theorem laneResult_of {i : Instr} {d : Opnd} {n : Nat} {f : Thread → Nat × Word}
    (he : ∀ s, exec i s = execAlu i d n f s) (hu : dstU n d ∈ i.uses ∨ both n d ∈ i.uses)
    (hn : n = 1 ∨ n = 2 ∨ n = 4) :
    LaneResult i d n (fun t => (f t).1) (fun t => (f t).2) := by
  intro s p tm h
  have he' : exec i s = execLanes i none (writeBody (d.regList n) [] (fun r t => t.setRegN d n (f r).1) fun r => (f r).2) s := by
    have : writeBody (d.regList n) [] (fun r t => t.setRegN d n (f r).1) (fun r => (f r).2) = fun s r tids =>
        ((s.writeRegs r.id.team tids (d.regList n) fun t => t.setRegN d n (f r).1).setFlags r.id.team (f r).2, none) := by
      funext s r tids; simp only [writeBody, State.repairPreds_nil]
    rw [he, this]; rfl
  obtain ⟨t, h1, h2, h3⟩ := exec_write he'
    (fun r t => by obtain ⟨a, b, e⟩ := t.setRegN_frame d n (f r).1; rw [e]) h
  refine ⟨t, h1, ?_, h3⟩
  intro l hl th hth
  obtain ⟨th', ht', e1, e2, -⟩ := h2 l hl th hth
  refine ⟨th', ht', ?_⟩
  rw [Thread.regN_congr e1 e2]
  have hok : ∀ u ∈ i.uses, u.ok tm.kcount = true := by
    have := h.2.2.1
    simp only [Instr.operandsOk, Bool.and_eq_true, List.all_eq_true] at this
    exact this.1
  rcases hu with hu | hu
  · exact Thread.regN_setRegN_same th (dstU n d) _ (hok _ hu) rfl hn
  · exact Thread.regN_setRegN_same th (both n d) _ (hok _ hu) rfl hn

/-- Values that agree modulo the registers' width, and flags that agree, state the same result. -/
theorem LaneResult.congr {i : Instr} {d : Opnd} {n : Nat} {val val' : Thread → Nat} {fl fl' : Thread → Word}
    (h : LaneResult i d n val fl) (hv : ∀ t, val t % 2 ^ (32 * n) = val' t % 2 ^ (32 * n)) (hf : ∀ t, fl t = fl' t) :
    LaneResult i d n val' fl' := by
  obtain rfl : fl = fl' := funext hf
  intro s p tm hr
  obtain ⟨t, h1, h2, h3⟩ := h s p tm hr
  refine ⟨t, h1, fun l hl th hth => ?_, h3⟩
  obtain ⟨th', ht', e⟩ := h2 l hl th hth
  exact ⟨th', ht', by rw [e, hv]⟩

/-- Every instruction that writes predicates. -/
theorem lanePredicates_of {i : Instr} {f : Thread → (Thread → Thread) × Word} {val : Thread → BitVec 8 → BitVec 8}
    {fl : Thread → Word} (he : ∀ s, exec i s = execPred i f s) (hid : ∀ r t, ((f r).1 t).id = t.id)
    (hv : ∀ r t, ((f r).1 t).p = val r t.p) (hf : ∀ r, (f r).2 = fl r) : LanePredicates i val fl := by
  obtain rfl : (fun r => (f r).2) = fl := funext hf
  intro s p tm h
  obtain ⟨t, h1, h2, h3⟩ := exec_write (g := fun r => (f r).1) (fl := fun r => (f r).2) (os := []) (ps := i.predDefs) (he s) hid h
  refine ⟨t, h1, fun l hl th hth => ?_, h3⟩
  obtain ⟨th', ht', -, -, e⟩ := h2 l hl th hth
  exact ⟨th', ht', by rw [e, hv]⟩

theorem Thread.reg_lt (t : Thread) (o : Opnd) : (t.reg o).toNat < 2 ^ 32 := (t.reg o).isLt

/-- The value of `n` registers fits them. -/
theorem Thread.regN_lt (t : Thread) (o : Opnd) (n : Nat) (hn : n = 1 ∨ n = 2 ∨ n = 4) : t.regN o n < 2 ^ (32 * n) := by
  rcases hn with rfl | rfl | rfl
  · exact (t.reg o).isLt
  · exact (t.reg64 o).isLt
  · have h1 := (t.reg64 o).isLt
    have h2 := (t.reg64 (o.plus 2)).isLt
    simp only [Thread.regN]
    have : (2 : Nat) ^ (32 * 4) = 2 ^ 64 * 2 ^ 64 := by norm_num
    rw [this]
    calc _ < 2 ^ 64 + 2 ^ 64 * (t.reg64 (o.plus 2)).toNat := by omega
      _ = 2 ^ 64 * ((t.reg64 (o.plus 2)).toNat + 1) := by ring
      _ ≤ 2 ^ 64 * 2 ^ 64 := Nat.mul_le_mul_left _ h2

/-! ## Frames -/

/-- What a register instruction keeps. -/
def RegisterFrame (ds : List Opnd) (mask : BitVec 8) (none' : Bool) (s t : State) : Prop :=
  KeepsThreads ds mask s t ∧ KeepsTeams none' s t ∧ t.besideTeams = s.besideTeams

theorem RegisterFrame.of_issue {ds : List Opnd} {mask : BitVec 8} {n : Bool} (a b : State) (h : SameRegisters a b)
    (hb : b.besideIssue = a.besideIssue) : RegisterFrame ds mask n a b := by
  refine ⟨?_, ?_, ?_⟩
  · intro j th hj
    obtain ⟨th', h1, h2, h3, h4, h5, h6, h7⟩ := h j th hj
    refine ⟨th', h1, fun o _ => ?_, by rw [h4], h5, h6, h7⟩
    cases o <;> simp [Thread.reg, h2, h3]
  · intro k tm hk
    refine ⟨0, ?_, fun _ => rfl⟩
    have : b.team k = a.team k := by simp only [State.team, State.teams_of_besideIssue hb]
    rw [this, hk]; simp
  · show b.besideIssue.besideTeams = a.besideIssue.besideTeams
    rw [hb]

theorem RegisterFrame.trans {ds : List Opnd} {mask : BitVec 8} {n : Bool} (a b c : State) (h : RegisterFrame ds mask n a b)
    (h' : RegisterFrame ds mask n b c) : RegisterFrame ds mask n a c := by
  refine ⟨?_, ?_, h'.2.2.trans h.2.2⟩
  · intro j th hj
    obtain ⟨x, h1, h2, h3, h4, h5, h6⟩ := h.1 j th hj
    obtain ⟨y, k1, k2, k3, k4, k5, k6⟩ := h'.1 j x h1
    exact ⟨y, k1, fun o ho => (k2 o ho).trans (h2 o ho), k3.trans h3, k4.trans h4, k5.trans h5, k6.trans h6⟩
  · intro k tm hk
    obtain ⟨f, h1, h2⟩ := h.2.1 k tm hk
    obtain ⟨g, k1, k2⟩ := h'.2.1 k _ h1
    refine ⟨f ||| g, by rw [k1]; simp only [BitVec.or_assoc], fun hn => by rw [h2 hn, k2 hn]; rfl⟩

/-- One write of registers, of any threads, and flags. -/
theorem RegisterFrame.write {ds : List Opnd} {mask : BitVec 8} {n : Bool} (a : State) (team team' : TeamId) (tids : List Nat) (os : List Opnd)
    (g : Thread → Thread) (fl : Word)
    (hg : ∀ t, (g t).id = t.id ∧ (∀ o, o ∉ ds → (g t).reg o = t.reg o) ∧ ((g t).p &&& ~~~ mask) = (t.p &&& ~~~ mask) ∧
      (g t).ctr = t.ctr ∧ (g t).hm = t.hm ∧ (g t).tag = t.tag) (hf : n = true → fl = 0) :
    RegisterFrame ds mask n a ((a.writeRegs team tids os g).setFlags team' fl) := by
  refine ⟨?_, ?_, ?_⟩
  · have hone : ∀ (i : ThreadId) (b : State), KeepsThreads ds mask b (b.onThread i g) := by
      intro i b j th hj
      by_cases hji : j = i
      · subst hji
        refine ⟨g th, ?_, (hg th).2⟩
        rw [b.thread_onThread_same j g fun t ht => (hg t).1.trans ht, hj]; rfl
      · refine ⟨th, ?_, fun _ _ => rfl, rfl, rfl, rfl, rfl⟩
        rw [b.thread_onThread_other i j g hji fun t ht => (hg t).1.trans ht, hj]
    have hall : ∀ (ls : List Nat) (b : State),
        KeepsThreads ds mask b (ls.foldl (fun s tid => s.onThread { team := team, tid := tid } g) b) := by
      intro ls
      induction ls with
      | nil => exact fun b j th hj => ⟨th, hj, fun _ _ => rfl, rfl, rfl, rfl, rfl⟩
      | cons l ls ih =>
          intro b j th hj
          obtain ⟨x, h1, h2, h3, h4, h5, h6⟩ := hone { team := team, tid := l } b j th hj
          obtain ⟨y, k1, k2, k3, k4, k5, k6⟩ := ih _ j x h1
          exact ⟨y, k1, fun o ho => (k2 o ho).trans (h2 o ho), k3.trans h3, k4.trans h4, k5.trans h5, k6.trans h6⟩
    intro j th hj
    obtain ⟨y, h1, h2⟩ := hall tids a j th hj
    refine ⟨y, ?_, h2⟩
    rw [← h1]
    simp only [State.setFlags, State.writeRegs]
    split <;> rfl
  · intro k tm hk
    have ht : (a.writeRegs team tids os g).team k = some tm := by
      simp only [State.team, (a.writeRegs_beside team tids os g).2.1]; exact hk
    by_cases hkt : k = team'
    · subst hkt
      refine ⟨fl, ?_, hf⟩
      rw [State.team_setFlags_same, ht]; rfl
    · refine ⟨0, ?_, fun _ => rfl⟩
      rw [State.team_setFlags_other _ _ _ _ hkt, ht]; simp
  · exact (a.writeRegs_beside team tids os g).1

/-- A repair of predicates before the flags. -/
theorem RegisterFrame.repair {ds : List Opnd} {mask : BitVec 8} {n : Bool} (a : State) (team k : TeamId) (tids : List Nat)
    (ps : List (BitVec 3)) (fl : Word) :
    RegisterFrame ds mask n (a.setFlags k fl) ((a.repairPreds team tids ps).setFlags k fl) := by
  have ht : ((a.repairPreds team tids ps).setFlags k fl).threads = (a.setFlags k fl).threads := (State.repairPreds_beside ..).2.1
  have hm : ((a.repairPreds team tids ps).setFlags k fl).teams = (a.setFlags k fl).teams := by
    simp only [State.setFlags, State.onTeam, (State.repairPreds_beside ..).2.2.1]
  refine ⟨fun j th hj => ⟨th, ?_, fun _ _ => rfl, rfl, rfl, rfl, rfl⟩, fun j tm hj => ⟨0, ?_, fun _ => rfl⟩,
    (State.repairPreds_beside ..).1⟩
  · rw [← hj]; simp only [State.thread, ht]
  · simp only [State.team, hm]
    exact hj.trans (by simp)

theorem mem_destRegs {i : Instr} {u : Use} (h : u ∈ i.uses) (hw : u.writes = true) {o : Opnd} (ho : o ∈ u.o.regList u.n) :
    o ∈ destRegs i :=
  List.mem_flatMap.mpr ⟨u, List.mem_filter.mpr ⟨h, hw⟩, ho⟩

/-- The frame of a write of `n` registers of one thread. -/
theorem setRegN_keeps {i : Instr} {d : Opnd} {n : Nat} {mask : BitVec 8} (hu : dstU n d ∈ i.uses ∨ both n d ∈ i.uses)
    (hn : n = 1 ∨ n = 2 ∨ n = 4) (v : Nat) (t : Thread) :
    (t.setRegN d n v).id = t.id ∧ (∀ o, o ∉ destRegs i → (t.setRegN d n v).reg o = t.reg o) ∧
      ((t.setRegN d n v).p &&& ~~~ mask) = (t.p &&& ~~~ mask) ∧ (t.setRegN d n v).ctr = t.ctr ∧
      (t.setRegN d n v).hm = t.hm ∧ (t.setRegN d n v).tag = t.tag := by
  obtain ⟨x, y, e⟩ := t.setRegN_frame d n v
  refine ⟨by rw [e], fun o ho => ?_, by rw [e], by rw [e], by rw [e], by rw [e]⟩
  refine t.reg_setRegN_other d o n v hn fun hm => ho ?_
  rcases hu with hu | hu
  · exact mem_destRegs hu rfl hm
  · exact mem_destRegs hu rfl hm

/-- The frame of an ALU instruction. -/
theorem alu_frame {i : Instr} {d : Opnd} {n : Nat} {f : Thread → Nat × Word} {nf : Bool} {s t : State}
    (he : ∀ s, exec i s = execAlu i d n f s) (hu : dstU n d ∈ i.uses ∨ both n d ∈ i.uses) (hn : n = 1 ∨ n = 2 ∨ n = 4)
    (hf : nf = true → ∀ r, (f r).2 = 0) (h : exec i s = .next t) : RegisterFrame (destRegs i) (destPreds i) nf s t := by
  rw [he] at h
  refine execLanes_keeps .of_issue .trans (fun a th tids => ?_) (fun a th tids f h => absurd h (by simp)) h
  exact .write a _ _ _ _ _ _ (fun t => setRegN_keeps hu hn _ t) fun h => hf h th

/-- The frame of an instruction that writes predicates. -/
theorem pred_frame {i : Instr} {f : Thread → (Thread → Thread) × Word} {nf : Bool} {s t : State}
    (he : ∀ s, exec i s = execPred i f s)
    (hg : ∀ r x, ∃ q, (f r).1 x = { x with p := q } ∧ (q &&& ~~~ destPreds i) = (x.p &&& ~~~ destPreds i))
    (hf : nf = true → ∀ r, (f r).2 = 0) (h : exec i s = .next t) : RegisterFrame (destRegs i) (destPreds i) nf s t := by
  rw [he] at h
  refine execLanes_keeps .of_issue .trans (fun a th tids => ?_) (fun a th tids f h => absurd h (by simp)) h
  refine .trans _ _ _ (.write a _ _ _ _ _ _ (fun t => ?_) fun h => hf h th) (.repair ..)
  obtain ⟨q, e, hq⟩ := hg th t
  rw [e]
  refine ⟨rfl, fun o _ => ?_, hq, rfl, rfl, rfl⟩
  cases o <;> rfl

/-- The frame of a group instruction. -/
theorem group_frame {i : Instr} {d : Opnd} {n : Nat} {f : List Thread → Thread → Nat × Word} {nf : Bool} {s t : State}
    (he : ∀ s, exec i s = execGroupAlu i d n f s) (hu : dstU n d ∈ i.uses ∨ both n d ∈ i.uses) (hn : n = 1 ∨ n = 2 ∨ n = 4)
    (hf : nf = true → ∀ ls r, (f ls r).2 = 0) (h : exec i s = .next t) :
    RegisterFrame (destRegs i) (destPreds i) nf s t := by
  rw [he] at h
  refine execGroup_keeps .of_issue .trans (fun a ls => ?_) h
  have : ∀ (xs : List Thread) (b : State), RegisterFrame (destRegs i) (destPreds i) nf b (xs.foldl (fun s th =>
      (s.writeRegs th.id.team [th.id.tid] (d.regList n) fun t => t.setRegN d n (f ls th).1).setFlags th.id.team (f ls th).2) b) := by
    intro xs
    induction xs with
    | nil => exact fun b => .of_issue b b (.refl b) rfl
    | cons x xs ih =>
        intro b
        exact .trans _ _ _ (.write b _ _ _ _ _ _ (fun t => setRegN_keeps hu hn _ t) fun h => hf h ls x) (ih _)
  exact this ls a

/-! ## Group instructions -/

/-- WHAT A GROUP INSTRUCTION DOES, in a state in which it is ready: it executes for each lane, so its U bit is 0. -/
theorem groupResult_of {i : Instr} {d : Opnd} {n : Nat} {f : List Thread → Thread → Nat × Word} (hU : i.uni = false)
    (he : ∀ s, exec i s = execGroupAlu i d n f s) (hu : dstU n d ∈ i.uses ∨ both n d ∈ i.uses) (hn : n = 1 ∨ n = 2 ∨ n = 4) :
    GroupResult i d n f := by
  intro s p tm h
  have hs := h.1
  have hruns : (runsOf i p).map (fun r => r.reader) = p.lanes := by simp [runsOf, hU, Function.comp_def]
  obtain ⟨ls, hls⟩ : ∃ ls, ls = s.activeLanes p p.lanes := ⟨_, rfl⟩
  let w (b : State) (th : Thread) : State :=
    (b.writeRegs th.id.team [th.id.tid] (d.regList n) fun t => t.setRegN d n (f ls th).1).setFlags th.id.team (f ls th).2
  have hid : ∀ v t, (Thread.setRegN t d n v).id = t.id := fun v t => by obtain ⟨a, b, e⟩ := t.setRegN_frame d n v; rw [e]
  have hkey : ∀ (lanes : List Nat), lanes.Nodup → ∀ b : State, (∀ l ∈ lanes, b.thread (tidOf p l) = s.thread (tidOf p l)) →
      (∀ l, l ∉ lanes → ((s.activeLanes p lanes).foldl w b).thread (tidOf p l) = b.thread (tidOf p l)) ∧
      (∀ l ∈ lanes, ∀ th, s.thread (tidOf p l) = some th →
        ((s.activeLanes p lanes).foldl w b).thread (tidOf p l) = some (th.setRegN d n (f ls th).1)) ∧
      (∀ x, b.team p.team = some x → ((s.activeLanes p lanes).foldl w b).team p.team =
        some { x with tstat := (s.activeLanes p lanes).foldl (fun v th => v ||| (f ls th).2) x.tstat }) := by
    intro lanes
    induction lanes with
    | nil =>
        refine fun _ b _ => ⟨fun _ _ => rfl, by simp, fun x hx => ?_⟩
        simp [State.activeLanes, hx]
    | cons l lanes ih =>
        intro hnd b hb
        have hnl := (List.nodup_cons.mp hnd).1
        cases hth : s.thread (tidOf p l) with
        | none =>
            have : s.activeLanes p (l :: lanes) = s.activeLanes p lanes := by simp [State.activeLanes, hth]
            rw [this]
            obtain ⟨h1, h2, h3⟩ := ih (List.nodup_cons.mp hnd).2 b fun m hm => hb m (List.mem_cons_of_mem _ hm)
            refine ⟨fun m hm => h1 m fun hm' => hm (List.mem_cons_of_mem _ hm'), ?_, h3⟩
            intro m hm th' hth'
            rcases List.mem_cons.mp hm with rfl | hm
            · rw [hth] at hth'; exact absurd hth' (by simp)
            · exact h2 m hm th' hth'
        | some th =>
            have hcons : s.activeLanes p (l :: lanes) = th :: s.activeLanes p lanes := by simp [State.activeLanes, hth]
            rw [hcons, List.foldl_cons]
            have hidth : th.id = tidOf p l := s.thread_id hth
            have hthr : ∀ m, (w b th).thread (tidOf p m) =
                if m = l then (b.thread (tidOf p m)).map (fun t => t.setRegN d n (f ls th).1) else b.thread (tidOf p m) := by
              intro m
              have := b.thread_writeRegs th.id.team [th.id.tid] (d.regList n) (fun t => t.setRegN d n (f ls th).1) (hid _) (by simp)
                (tidOf p m)
              rw [hidth] at this
              have e : (w b th).thread (tidOf p m) =
                (b.writeRegs (tidOf p l).team [(tidOf p l).tid] (d.regList n) fun t => t.setRegN d n (f ls th).1).thread (tidOf p m) := by
                show ((b.writeRegs th.id.team [th.id.tid] (d.regList n) fun t => t.setRegN d n (f ls th).1).setFlags _ _).thread _ = _
                rw [hidth]; rfl
              rw [e, this]
              by_cases hm : m = l <;> simp [tidOf, hm]
            have hb' : ∀ m ∈ lanes, (w b th).thread (tidOf p m) = s.thread (tidOf p m) := by
              intro m hm
              rw [hthr, if_neg (fun e : m = l => hnl (e ▸ hm))]
              exact hb m (List.mem_cons_of_mem _ hm)
            obtain ⟨h1, h2, h3⟩ := ih (List.nodup_cons.mp hnd).2 (w b th) hb'
            refine ⟨?_, ?_, ?_⟩
            · intro m hm
              rw [h1 m fun hm' => hm (List.mem_cons_of_mem _ hm'), hthr, if_neg (fun e : m = l => hm (e ▸ List.mem_cons_self))]
            · intro m hm th' hth'
              rcases List.mem_cons.mp hm with rfl | hm
              · rw [h1 m hnl, hthr, if_pos rfl, hb m List.mem_cons_self, hth']
                rw [hth] at hth'
                obtain rfl : th = th' := by simpa using hth'
                rfl
              · exact h2 m hm th' hth'
            · intro x hx
              have : (w b th).team p.team = some { x with tstat := x.tstat ||| (f ls th).2 } := by
                show (State.setFlags _ th.id.team _).team p.team = _
                have e : th.id.team = p.team := by rw [hidth]; rfl
                rw [e, State.team_setFlags_same]
                simp only [State.team, (b.writeRegs_beside p.team [th.id.tid] (d.regList n) _).2.1]
                have hx' : b.teams.find? (fun t => decide (t.id = p.team)) = some x := hx
                rw [hx']; rfl
              rw [h3 _ this]; rfl
  obtain ⟨-, h2, h3⟩ := hkey p.lanes h.2.2.2.1 s fun _ _ => rfl
  have hexec : exec i s = .next (((s.activeLanes p p.lanes).foldl w s).advance p.id i.words) := by
    rw [he]
    simp only [execGroupAlu, execGroup, hs, precheck_ready h, hruns]
    rw [← hls]
  refine ⟨_, hexec, ?_, ?_⟩
  · intro l hl th hth
    obtain ⟨th', ht', e1, e2, -⟩ := (advance_spec ((s.activeLanes p p.lanes).foldl w s) p.id i.words).1 _ _ (h2 l hl th hth)
    refine ⟨th', ht', ?_⟩
    rw [Thread.regN_congr e1 e2]
    have hok : ∀ u ∈ i.uses, u.ok tm.kcount = true := by
      have := h.2.2.1
      simp only [Instr.operandsOk, Bool.and_eq_true, List.all_eq_true] at this
      exact this.1
    rw [← hls]
    rcases hu with hu | hu
    · exact Thread.regN_setRegN_same th (dstU n d) _ (hok _ hu) rfl hn
    · exact Thread.regN_setRegN_same th (both n d) _ (hok _ hu) rfl hn
  · rw [advance_team, h3 tm (State.site_eq hs).2.2.1, ← hls]

end Sys2Proof.Machine
end

