-- ==== Sys2Proof/Machine/Debug.lean ====
section
/-!
DEFINITION. What the debug port reads (capability 0x0005): thread slots (20_program_divergent R282), call-sheet entries (03_selector
R41), reservations (14_matrix R220) and handles (16_parcels R239). Tree-cache entries stand in Routes.lean (08_coherence R154).
-/
namespace Sys2Proof.Machine

/-- The STATE codes of Table 20.1. -/
def TState.code : TState → Nat
  | .enrolled => 0
  | .issuing => 1
  | .draining => 2
  | .waiting => 3
  | .faultPending => 4
  | .parked => 5
  | .exited => 6

/-- BLOCK of Table 20.1: where the thread enrols next, the block being run, or the block of its fault. -/
def Thread.slotBlock (t : Thread) : Addr :=
  match t.st with
  | .enrolled | .issuing | .draining => t.block
  | .waiting => match t.after with
      | .wait _ next _ => next
      | .none | .enrol _ _ | .exit | .resume _ _ | .step _ _ => t.block
  | .faultPending | .parked => match t.parkInfo with
      | some f => f.block
      | none => t.block
  | .exited => 0

/-- WIDX of Table 20.1. -/
def Thread.slotWidx (t : Thread) : Nat :=
  match t.st with
  | .faultPending | .parked => match t.parkInfo with
      | some f => f.widx
      | none => 0
  | .enrolled | .issuing | .draining | .waiting | .exited => 0

/-- ENTRY of Table 20.1. -/
def Thread.slotEntry (t : Thread) : Nat :=
  match t.st with
  | .faultPending => 0xFF
  | .parked => t.parkEntry.getD 0xFF
  | .enrolled | .issuing | .draining | .waiting | .exited => if t.hm then t.handEntry.getD 0xFF else 0xFF

/-- A thread-slot record (Table 20.1). -/
def slotRecord (block : Addr) (entry widx tid team : Nat) (mark hm : Bool) (st : Nat) : BitVec 128 :=
  block ++ (0 : BitVec 16) ++ BitVec.ofNat 8 entry ++ BitVec.ofNat 10 widx ++ BitVec.ofNat 11 tid ++ BitVec.ofNat 6 team ++
    (0 : BitVec 7) ++ BitVec.ofBool mark ++ (0 : BitVec 1) ++ BitVec.ofBool hm ++ BitVec.ofNat 3 st

/-- The record of a resident thread. -/
def Thread.record (t : Thread) : BitVec 128 :=
  slotRecord t.slotBlock t.slotEntry t.slotWidx t.id.tid t.id.team.slot.val t.mark t.hm t.st.code

/-- The team that holds a thread slot: its static groups take it in (03_selector R40). -/
def State.slotTeam (s : State) (c : CoreId) (n : Nat) : Option Team :=
  s.teams.find? fun t => decide (t.id.core = c ∧ 32 * t.g0 ≤ n ∧ n < 32 * (t.g0 + (t.nthr + 31) / 32))

/-- The debug-port read of thread slot `n` of a core (R282): the missing members of a last group read EXITED (02_execution R17), and a
slot that no team holds reads STATE 7. -/
def State.readSlot (s : State) (c : CoreId) (n : Nat) : BitVec 128 :=
  match s.slotTeam c n with
  | none => slotRecord 0 0xFF 0 0 0 false false 7
  | some t =>
      match s.thread { team := t.id, tid := n - 32 * t.g0 } with
      | some th => th.record
      | none => slotRecord 0 0xFF 0 (n - 32 * t.g0) t.id.slot.val false false 6

/-- The threads whose bits an entry holds. -/
def State.waitersOf (s : State) (e : Sheet) : List Thread :=
  (s.threadsOf { core := e.core, slot := e.team }).filter fun u => e.waiters.getLsbD (s.slot u.id)

/-- GATH of an entry (03_selector R49). -/
def State.gathOf (s : State) (e : Sheet) : Nat :=
  if e.coll then ((List.range 64).filter fun g => s.gathered e g).length else 0

/-- A call-sheet entry as the debug port reads it (R41, Table 3.1): the header in its first 16 bytes, then the vector. AGE is that
of R42 and R48. -/
def State.sheetRecord (s : State) (e : Sheet) : BitVec 2176 :=
  e.waiters ++ (BitVec.ofNat 12 (s.waitersOf e).length ++ BitVec.ofNat 6 e.team.val ++ BitVec.ofBool e.coll ++ e.prio ++
    BitVec.ofNat 7 (s.gathOf e) ++ (0 : BitVec 4) ++ BitVec.ofNat 32 (s.entryAge e) ++
    (0 : BitVec 9) ++ e.block.extractLsb' 2 53 ++ (1 : BitVec 2))

/-- The debug-port read of an entry of a core; an entry that is not valid reads zeros. Which number an entry has is not given
(log 91). -/
def State.readSheet (s : State) (c : CoreId) (n : Nat) : BitVec 2176 :=
  match (s.sheet.filter fun e => decide (e.core = c))[n]? with
  | some e => s.sheetRecord e
  | none => 0

/-- A reservation record (14_matrix Table 14.4). -/
def Resv.record (r : Resv) : BitVec 128 :=
  r.zoff ++ r.soff ++ BitVec.ofNat 9 r.rcur ++ BitVec.ofNat 10 r.fill ++ r.gcnt ++ r.rw.code ++ r.gl.code ++ r.fmt.code ++
    BitVec.ofNat 10 r.len ++ BitVec.ofNat 9 r.start ++ (1 : BitVec 2)

/-- The debug-port read of a reservation of a team (R220). -/
def Team.readResv (t : Team) (rid : BitVec 3) : BitVec 128 :=
  match t.resv[rid.toFin] with
  | some r => r.record
  | none => 0

/-- The read of a handle entry by the die's function or the debug port (16_parcels R239). -/
def State.readHandle (s : State) (die : Fin 8) (h : Nat) : BitVec 256 := ((s.die die).handle h).record

end Sys2Proof.Machine
end

