-- ==== Sys2Proof/Tests/Slice0.lean ====
section
/-!
SUPPORT. The model's own tests: ill-formed terms that the checks refuse, words of the specification that decode to what it says they
are, single steps whose results the specification's tables and worked examples give, and for every obligation with hypotheses a state
and operands that meet them.
-/
namespace Sys2Proof.Tests

open Sys2Proof Sys2Proof.Machine

set_option Elab.async false

/-! ## Debug-port reads -/

/-- 20_program_divergent Table 20.8: slot 17, PARKED with entry 1 at word 8, and slot 1, EXITED. -/
theorem test_slotRecord_parked :
    slotRecord 0x000000200000006C 1 8 17 0 false false 5 = 0x000000200000006C0000010200880005 ∧
    slotRecord 0 0xFF 0 1 0 false false 6 = 0x00000000000000000000FF0000080006 := by decide +kernel

/-! ## Ill-formed instructions -/

/-- A word 1 of an access, plain. -/
def mem (sp : Space) (size : MemSize) (off : BitVec 14) : MemCtl :=
  { space := sp, size := size, ord := .plain, scope := .thread, cp := 0, off := off }
/-- A word 1 of an access with an order and a scope. -/
def memOrd (ord : Order) (scope : Scope) : MemCtl := { mem .global .b32 0 with ord := ord, scope := scope }
/-- A word 1 of an atomic. -/
def atm (ty : AtomType) (ord : Order) (scope : Scope) : AtomCtl :=
  { space := .global, ty := ty, ord := ord, scope := scope, cp := 0, off := 0 }
/-- A word 1 of a command without status. -/
def eng (d s : Space) : EngCtl := { c := .t 0, l := .k 8, dsp := d, ssp := s, guard := 0, st := false, scope := .thread }

/-- Table 5.6a: what each access may order, and PLDR and PSTR of 32 bits only. -/
theorem test_illFormed_orders :
    (Instr.ld false (.k 8) (.k 2) 0 (memOrd .acqrel .die)).wellFormed = false ∧
    (Instr.ld false (.k 8) (.k 2) 0 (memOrd .plain .die)).wellFormed = false ∧
    (Instr.ldnr false (.k 8) (.k 2) 0 0 (memOrd .acqrel .die)).wellFormed = false ∧
    (Instr.st false (.k 8) (.k 2) (memOrd .acqrel .die)).wellFormed = false ∧
    (Instr.stf false (.k 8) (.k 2) (memOrd .rlx .die) (.k 4) 0).wellFormed = false ∧
    (Instr.pld false (.k 8) (.k 2) 0 (memOrd .rlx .die)).wellFormed = false ∧
    (Instr.pst false (.k 8) (.k 2) (memOrd .rlx .die)).wellFormed = false ∧
    (Instr.pldr false (.k 8) (.k 2) 0 (mem .global .b64 0)).wellFormed = false ∧
    (Instr.pstr false (.k 8) (.k 2) (mem .global .b64 0)).wellFormed = false ∧
    (Instr.atom false (.k 8) (.k 2) (.k 4) 0 .add (atm .n32 .acqRel1 .die)).wellFormed = false ∧
    (Instr.atomn false (.k 8) (.k 2) .add (atm .n32 .plain .die)).wellFormed = false ∧
    (Instr.cas false (.k 8) (.k 2) (.k 4) 0 (atm .b32 .acqRel1 .die)).wellFormed = false := by decide

/-- Table 22.6: operations and types of ATOM and ATOMN. -/
theorem test_illFormed_atomicTypes :
    (Instr.atom false (.k 8) (.k 2) (.k 4) 0 .add (atm .b32 .plain .thread)).wellFormed = false ∧
    (Instr.atom false (.k 8) (.k 2) (.k 4) 0 .and (atm .n32 .plain .thread)).wellFormed = false ∧
    (Instr.atomn false (.k 8) (.k 2) .inc (atm .i32 .plain .thread)).wellFormed = false := by decide

/-- Formats that CVT, QNT and DQNT do not take, conditions that ICMP does not take, forms of GRED and GSCAN, unused fields of ORES. -/
theorem test_illFormed_formats :
    (Instr.cvt false (.k 8) (.k 2) .q8 .f32 .rn false).wellFormed = false ∧
    (Instr.cvt false (.k 8) (.k 2) .f32 .q4 .rn false).wellFormed = false ∧
    (Instr.qnt false (.k 8) (.k 2) (.k 3) (.k 4) .i32 .rn false).wellFormed = false ∧
    (Instr.dqnt false (.k 8) (.k 2) (.k 3) (.k 4) .q8 .rn false false).wellFormed = false ∧
    (Instr.icmp false .num 0 (.k 2) (.k 3) .w32).wellFormed = false ∧
    (Instr.gred (.k 8) (.k 2) .add .i32 .rz false).wellFormed = false ∧
    (Instr.gred (.k 8) (.k 2) .add .f32 .rn true).wellFormed = false ∧
    (Instr.gscan (.k 8) (.k 2) .xor .f32 .rn false false).wellFormed = false ∧
    (Instr.ores (.k 2) (.k 3) (.t 0) .f32 .g32 0 .r16).wellFormed = false := by decide

/-- A status operand without ST, and a POST with a scope. -/
theorem test_illFormed_commands :
    (Instr.cpy false (.k 2) (.k 4) (.k 6) { eng .own .global with c := .k 7 }).wellFormed = false ∧
    (Instr.cpym false (.k 2) (.k 4) (.k 6) { eng .own .global with c := .k 7 }).wellFormed = false ∧
    (Instr.cpyt false (.k 2) (.k 4) (.k 6) false { eng .own .global with c := .k 7 }).wellFormed = false ∧
    (Instr.cred false (.k 2) (.k 4) (.k 6) .f32 { eng .own .own with c := .k 7 }).wellFormed = false ∧
    (Instr.jpost false (.k 4) (.k 6) { eng .own .global with c := .k 7 }).wellFormed = false ∧
    (Instr.mdrain (.k 2) (.k 4) (.k 6) false { eng .own .own with c := .k 7 }).wellFormed = false ∧
    (Instr.mfeed (.k 4) (.k 6) 0 { eng .own .own with c := .k 7 }).wellFormed = false ∧
    (Instr.post false (.k 2) (.k 4) (.k 6) { eng .own .global with scope := .die }).wellFormed = false := by decide

/-- Operand fields (R76, R27): a reserved code, a constant as a destination, an odd pair, a register past the k count, a call without k62:k63. -/
theorem test_illFormed_operands :
    (Instr.iadd false (.k 6) (.k 6) (.r 0) .w32).wellFormed = false ∧ (Instr.iadd false (.c 0) (.k 6) (.k 6) .w32).wellFormed = false ∧
    (Instr.iadd false (.k 7) (.k 6) (.k 6) .w64).wellFormed = false ∧
    (Instr.iadd false (.k 20) (.k 6) (.k 6) .w32).operandsOk 16 = false ∧ (Instr.call false 1).operandsOk 56 = false := by decide

/-! ## Words of the specification -/

/-- 05_encoding Table 5.11 and the kernel add2 of 4.6. -/
theorem test_decode_worked :
    decode 0x50014000 0x10000004 0 = .ok (.ld false (.t 1) (.k 0) 0 (mem .global .b32 4)) ∧
    decode 0x50004801 0x10000000 0 = .ok (.ld false (.t 0) (.k 4) 1 (mem .global .b32 0)) ∧
    decode 0x76000000 0 0 = .ok (.exit false) ∧ decode 0x7007FFFF 0 0 = .ok (.bra false 0x7FFFF) := by decide

/-- 22_ref Table 22.10. -/
theorem test_decode_bitFields :
    decode 0x10224690 0x00E00000 0 = .ok (.bfx false (.k 2) (.k 3) (.k 4) .n32) ∧
    decode 0x10224690 0x00C00000 0 = .ok (.bfx false (.k 2) (.k 3) (.k 4) .i32) ∧
    decode 0x11224694 0x48E00000 0 = .ok (.bfi false (.k 2) (.k 3) (.k 5) (.k 4) .w32) := by decide

/-- Format A and X: op, U, D, A, B, M; C, EXT, RND, S, PER. ICMP.lt p1, t0, t1; DADD t4, t0, t2; FFMA t3, t0, t1, t2; HADD2 t2, t0, t1;
CVT.i32.f32.rz t1, t0. -/
theorem test_decode_registerFamilies :
    decode 0x15110004 0 0 = .ok (.icmp false .lt 1 (.t 0) (.t 1) .w32) ∧
    decode 0x30040008 0 0 = .ok (.dadd false (.t 4) (.t 0) (.t 2) .rn) ∧
    decode 0x23030004 0x04000000 0 = .ok (.ffma false (.t 3) (.t 0) (.t 1) (.t 2) .rn) ∧
    decode 0x3C020004 0x00600000 0 = .ok (.hadd2 false (.t 2) (.t 0) (.t 1) false .rn) ∧
    decode 0x40010000 0x00C84000 0 = .ok (.cvt false (.t 1) (.t 0) .i32 .f32 .rz false) ∧
    decode 0x18011234 0 0 = .ok (.movi false (.t 1) 0x1234) ∧ decode 0x49000000 0 0 = .ok (.vote (.t 0) .any false 0) := by decide

/-- Formats M, M3, S and J of the memory family: ATOM.add.n32.c1 t0, g:[k4:k5], t1; STF with its flag at k6:k7 + 8; FENCE.acqrel.die;
SARV; GETS 0x008; TRAP 5. -/
theorem test_decode_memoryFamilies :
    decode 0x54004805 0x04000000 0 = .ok (.atom false (.t 0) (.k 4) (.t 1) 1 .add (atm .n32 .plain .thread)) ∧
    decode 0x53004800 0x10000000 0x4C000008 = .ok (.stf false (.t 0) (.k 4) (mem .global .b32 0) (.k 6) 8) ∧
    decode 0x57000042 0 0 = .ok (.fence false .die .acqrel) ∧ decode 0x61000000 0 0 = .ok (.sarv false (.t 0) false) ∧
    decode 0xC0000008 0 0 = .ok (.gets false (.t 0) 8) ∧ decode 0x77000005 0 0 = .ok (.trap 5) := by decide

/-- Format E: C, L, DSP, SSP, GUARD, FLAGS. CPY s:[k0], g:[k2:k3], k4 with its slate at k5; JPOST k2:k3, k4 with its slate at k5. -/
theorem test_decode_commandFamilies :
    decode 0x80204490 0x00948000 0 = .ok (.cpy false (.k 0) (.k 2) (.k 4) { eng .own .global with l := .k 5 }) ∧
    decode 0xB0004490 0x00940000 0 = .ok (.jpost false (.k 2) (.k 4) { eng .global .global with l := .k 5 }) ∧
    decode 0x91800003 0 0 = .ok (.orel 3) ∧ decode 0xA5004400 0 0 = .ok (.pfree false (.k 2)) := by decide

/-! ## Single steps -/

/-- The solo team of `State.place` at an instruction, its thread's registers set by `f`. -/
def at' (i : Instr) (f : Thread → Thread) : State := (State.reset.place (encode i) i.cls).onThread soloThread.id f
/-- Its pipe. -/
def pipe (i : Instr) : Pipe := soloPipe i.words i.cls
/-- A k register set. -/
def k (n : BitVec 6) (v : Word) (t : Thread) : Thread := t.setReg (.k n) v
/-- One step, then a look at the thread and at the team. -/
def after (i : Instr) (f : Thread → Thread) (look : Thread → Team → Bool) : Bool :=
  match step (at' i f) with
  | .next t =>
      match t.thread soloThread.id, t.team soloTeam.id with
      | some th, some tm => look th tm
      | _, _ => false
  | .fault _ | .refused _ => false
/-- The cause that a step leaves to be recorded. -/
def causes (i : Instr) (f : Thread → Thread) (c : BitVec 8) : Bool :=
  after i f fun t _ => ((t.fault.map fun x => x.cause) == some c) || t.deferred.any fun x => x.2.cause == c

/-- 22_ref Table 22.10. -/
theorem test_step_bitFields :
    after (.bfx false (.k 2) (.k 3) (.k 4) .n32) (fun t => k 4 0xC08 (k 3 0xABCD1234 t)) (fun t _ => t.reg (.k 2) == 0xD12) = true ∧
    after (.bfx false (.k 2) (.k 3) (.k 4) .i32) (fun t => k 4 0xC08 (k 3 0xABCD1234 t)) (fun t _ => t.reg (.k 2) == 0xFFFFFD12) = true ∧
    after (.bfi false (.k 2) (.k 3) (.k 5) (.k 4) .w32) (fun t => k 5 0xFFF (k 4 0x804 (k 3 0xABCD1234 t)))
      (fun t _ => t.reg (.k 2) == 0xABCD1FF4) = true := by decide +kernel

/-- 06_arithmetic Table 6.7: a negative dividend by zero, and the overflowing quotient. -/
theorem test_step_division :
    after (.idiv false (.k 2) (.k 3) (.k 4) .i32) (fun t => k 3 0xFFFFFFF0 t)
      (fun t m => t.reg (.k 2) == 0x80000000 && m.tstat == flDZ) = true ∧
    after (.irem false (.k 2) (.k 3) (.k 4) .i32) (fun t => k 4 0xFFFFFFFF (k 3 0x80000000 t))
      (fun t m => t.reg (.k 2) == 0 && m.tstat == 0) = true := by decide +kernel

/-- R111: the least value stays under IABS; a saturating IMAD clamps and sets SAT; a source that is the destination too. -/
theorem test_step_integers :
    after (.iabs false (.k 2) (.k 2) .w32) (k 2 0x80000000) (fun t m => t.reg (.k 2) == 0x80000000 && m.tstat == 0) = true ∧
    after (.imad false (.k 2) (.k 2) (.k 3) (.k 4) .i32 true) (fun t => k 3 2 (k 2 0x7FFFFFFF t))
      (fun t m => t.reg (.k 2) == 0x7FFFFFFF && m.tstat == flSAT) = true ∧
    after (.iadd false (.k 2) (.k 2) (.k 2) .w64) (fun t => k 3 0x80000000 (k 2 0x80000000 t))
      (fun t _ => t.reg (.k 2) == 0 && t.reg (.k 3) == 1) = true := by decide +kernel

/-- 23_ref Table 23.7's note: 16,777,217 ties and rounds to even. -/
theorem test_step_roundsToEven :
    after (.fadd false (.k 2) (.k 3) (.k 4) .rn) (fun t => k 4 0x3F800000 (k 3 0x4B800000 t))
      (fun t m => t.reg (.k 2) == 0x4B800000 && m.tstat == flNX) = true := by decide +kernel

/-- Table 5.12's rows that execute as a fault: reserved operand code, a constant as destination, a reserved space. -/
theorem test_step_faults :
    causes (.iadd false (.k 6) (.k 6) (.r 0) .w32) id 0x11 = true ∧ causes (.iadd false (.c 0) (.k 6) (.t 0) .w32) id 0x11 = true ∧
    causes (.ld false (.t 0) (.k 4) 0 (mem .res6 .b32 0)) id 0x08 = true ∧ causes .resume id 0x10 = true ∧
    causes (.st false (.k 2) (.k 4) (mem .own .b32 2)) id 0x01 = true := by decide +kernel

/-- A store to the scratchpad is little-endian, and lands in the scratchpad of its team. -/
theorem test_step_store :
    after (.st false (.k 2) (.k 4) (mem .own .b32 4)) (fun t => k 4 8 (k 2 0x11223344 t))
      (fun _ m => m.spad.getN 11 6 == [0, 0x44, 0x33, 0x22, 0x11, 0]) = true := by decide +kernel

/-! ## States that meet the hypotheses: words -/

/-- The word at an instruction is ready: no check of R35 before the instruction's own faults a lane. -/
abbrev Meets (i : Instr) (f : Thread → Thread) : Prop := Ready i (at' i f) (pipe i) soloTeam
/-- The thread of the solo team after `f`. -/
def me (f : Thread → Thread) : Thread := f soloThread
/-- A result that is no fault. -/
def isOk {ε α : Type} : Except ε α → Bool
  | .ok _ => true
  | .error _ => false
/-- The cause of a fault. -/
def faultOf {α : Type} : Except Flt α → Option (BitVec 8)
  | .ok _ => none
  | .error f => some f.cause

theorem test_meets_IntegerArithmeticWrapsOrSaturates :
    Meets (.iadd false (.k 6) (.k 6) (.t 0) .w32) id ∧ Meets (.imad true (.k 6) (.k 8) (.t 0) (.c 3) .n64 true) id ∧
    Meets (.rol false (.k 6) (.k 8) (.t 0) .w64) id ∧ Meets (.gred (.k 6) (.k 8) .add .i32 .rn true) id := by decide +kernel

theorem test_meets_DivisionTruncatesAndZeroDividesSetDz :
    Meets (.idiv false (.k 6) (.k 6) (.t 0) .i32) id ∧ Meets (.irem false (.k 6) (.k 8) (.t 0) .n64) id := by decide +kernel

theorem test_meets_ExtremesLogicAndBitFields :
    Meets (.imin false (.k 6) (.k 6) (.t 0) .i32) id ∧ Meets (.xor false (.k 6) (.k 8) (.t 0) .w64) id ∧
    Meets (.bfi false (.k 2) (.k 3) (.k 5) (.k 4) .w32) id ∧ ((1 : Nat) < 2 ^ 1 ∧ (1 : Nat) ≠ 0) := by decide +kernel

theorem test_meets_MovesComparesAndPredicates :
    (Meets (.mov false (.k 4) (.k 8) .b128) id ∧ Meets (.sel false (.k 4) (.k 8) (.c 1) 7 true .b32) id) ∧
    (Meets (.icmp false .geu 7 (.k 4) (.c 15) .w64) id ∧ Meets (.dcmp false .nan 0 (.k 4) (.k 6)) id) ∧
    Meets (.plop false 1 2 3 8) id := ⟨by decide +kernel, by decide +kernel, by decide +kernel⟩

theorem test_meets_FloatingPointArithmetic :
    Meets (.fadd false (.k 6) (.k 6) (.t 0) .ru) id ∧ Meets (.dfma false (.k 6) (.k 8) (.t 0) (.c 1) .rn) id ∧
    Meets (.fsin false (.k 6) (.c 13)) id := by decide +kernel

theorem test_meets_PackedHalvesAndConversions :
    Meets (.hfma2 false (.k 6) (.k 6) (.t 0) (.t 1) true .rz) id ∧ Meets (.cvt false (.k 6) (.k 8) .f64 .e4m3 .rn true) id ∧
    Meets (.qnt false (.k 6) (.k 8) (.t 0) (.t 1) .f64 .rn true) id ∧ fmtLayout .f64 = some fp64 ∧
    Meets (.dqnt false (.k 6) (.k 8) (.t 0) (.t 1) .bf16 .rn true false) id := by decide +kernel

/-- An exact value between two integers, and one that is an integer; a result in range and one beyond it, in FP16. -/
theorem test_meets_FloatingPointRounding_formats :
    (((3 : Nat) : Rat) ≤ 7 / 2 ∧ (7 / 2 : Rat) < (3 : Nat) + 1 ∧ (7 / 2 : Rat) ≠ (3 : Nat)) ∧ ((3 : Nat) : Rat) ≤ 3 ∧
    fp16 ∈ [fp64, fp32, bf16, fp16, e4m3, e5m2] ∧ (fp16.read fp16.maxBits = .fin false 2047 5 ∧
      (roundAt .rn false 1 0 false (-10)).1 = 1024 ∧ (roundAt .rn false 1 17 false 7).1 = 1024) ∧
    exactSum [(false, 1, 0), (true, 1, 1)] = (-1, 0) ∧ fmtLayout .h16 = some fp16 ∧ fmtLayout .i32 = none ∧
    fp32.read 0x40200000 = .fin false 0xA00000 (-22) ∧ (roundAt .rn false 0xA00000 (-22) false 0).1 = 2 ∧
    (intBounds (fmtInt .i32).1 (fmtInt .i32).2).1 ≤ (2 : Int) ∧ (2 : Int) ≤ (intBounds (fmtInt .i32).1 (fmtInt .i32).2).2 := by
  refine ⟨⟨by norm_num, by norm_num, by norm_num⟩, by norm_num, by simp, by decide, by decide, by decide, by decide, by decide, by decide,
    by decide, by decide⟩

/-- Both ends of each rounding: up, down, toward zero, a tie. -/
theorem test_meets_FloatingPointRounding :
    roundAt .rn false 3 0 false 1 = (2, true) ∧ roundAt .rn false 1 0 false 1 = (0, true) ∧ roundAt .rz true 3 0 false 1 = (1, true) ∧
    roundAt .ru false 1 0 false 1 = (1, true) ∧ roundAt .rd false 1 0 false 1 = (0, true) ∧
    (FVal.fin false 1 0).isNan = false := by decide

theorem test_meets_GroupInstructions :
    Meets (.gscan (.k 6) (.k 8) .max .f64 .rn false true) id ∧ Meets (.shfl (.k 4) (.k 8) (.t 0) .down .w64) id ∧
    Meets (.vote (.k 4) .ballot true 7) id := by decide +kernel

/-- The word completes; a thread beside its issue group. -/
theorem test_meets_RegisterInstructionsKeepEverythingElse :
    registerOnly (.iadd false (.k 6) (.k 6) (.t 0) .w32) = true ∧
    (let s := at' (.iadd false (.k 6) (.k 6) (.t 0) .w32) id
     let u : Thread := { soloThread with id := { team := soloTeam.id, tid := 1 }, st := .enrolled }
     let s : State := { s with threads := s.threads ++ [u] }
     (∃ t, exec (.iadd false (.k 6) (.k 6) (.t 0) .w32) s = .next t) ∧
       s.site = some (pipe (.iadd false (.k 6) (.k 6) (.t 0) .w32), soloTeam) ∧ s.thread u.id = some u ∧ u.id.tid ∉ [0]) :=
  ⟨rfl, ⟨_, rfl⟩, by decide +kernel⟩

/-- At the last word of its clause, and before it. -/
theorem test_meets_NopMovesTheGroupOneWordOn :
    Meets .nop id ∧ (pipe .nop).single = false ∧ (pipe .nop).hold = [] ∧
    (pipe .nop).clause = some { cls := 0, fin := 3, uchk := false, tctl := 0 } ∧ 3 ≤ (pipe .nop).widx + 1 ∧
    (let q : Pipe := { pipe .nop with clause := some { cls := 0, fin := 4, uchk := false, tctl := 0 } }
     Ready .nop ((at' .nop id).onPipe q.id fun _ => q) q soloTeam ∧ q.widx + 1 < 4) := by decide +kernel

/-- No flag under way; one target; POL 0b11; a reserved bit of %tstat. -/
theorem test_meets_SpecialRegisters_values :
    (at' (.gets false (.k 2) 0x11) id).beforeFlags (pipe (.gets false (.k 2) 0x11)) 0x11 = none ∧
    (at' (.gets false (.k 2) 0x11) id).flagsNow = [] ∧
    runsOf (.sets false (.k 2) 0x10) (pipe (.sets false (.k 2) 0x10)) = [{ reader := 0, targets := [0] }] ∧
    ((me (k 2 6)).reg (.k 2)).extractLsb' 1 2 = 3 ∧ ((me (k 2 0x40)).reg (.k 2)).extractLsb' 6 26 ≠ 0 := by decide +kernel

theorem test_meets_SpecialRegisters :
    (Meets (.gets false (.k 2) 0x11) id ∧ Meets (.gets false (.k 2) 0x12) id) ∧ Meets (.sets false (.k 2) 0x10) (k 2 4) ∧
    (((me (k 2 4)).reg (.k 2)).extractLsb' 3 29 = 0 ∧ ((me (k 2 4)).reg (.k 2)).extractLsb' 1 2 ≠ 3) ∧
    (Meets (.sets false (.k 2) 0x11) (k 2 0x3F) ∧ ((me (k 2 0x3F)).reg (.k 2)).extractLsb' 6 26 = 0) ∧
    Meets (.sets false (.k 2) 0) id := ⟨by decide +kernel, by decide +kernel, by decide +kernel, by decide +kernel, by decide +kernel⟩

/-- A block branches to itself; a register target 2 bytes into it. -/
theorem test_meets_BranchesLeaveForTheirTargets :
    Meets (.call false (0 - 2)) id ∧
    isOk ((at' (.call false (0 - 2)) id).checkTarget soloTeam
      ((pipe (.call false (0 - 2))).block + BitVec.ofNat 64 (4 * 2) + 4 * ((0 - 2 : BitVec 19)).signExtend 64)).2 = true ∧
    Meets (.brx false (.k 2)) (k 2 0x30002) ∧ ((me (k 2 0x30002)).reg64 (.k 2)).toNat % 4 ≠ 0 := by decide +kernel

/-- The slate at offset 16 has MAGIC; offset 8 is no multiple of 16, the last offset of the scratchpad lies outside the program area, and
offset 32 has no MAGIC. -/
theorem test_meets_ExitAndWaitsEndTheBlock :
    Meets (.exit false) id ∧
    (let i : Instr := .swait false (.k 2) true
     let s := (at' i (k 2 16)).putSlate soloTeam.id 16 (slateOf 0 false false 0 1 0 0)
     (s.team soloTeam.id).any (fun tm => decide (Ready i s (pipe i) tm) && tm.progOk 16 16 &&
       slateMagic (s.slateVal tm.id 16)) = true) ∧
    (8 : Nat) % 16 ≠ 0 ∧ soloTeam.progOk 0xFFFF0 16 = false ∧
    ({ at' (.swait false (.k 2) true) id with damage := [.spad soloTeam.id 1] } : State).spadDamaged soloTeam.id 16 16 = true ∧
    slateMagic ((at' (.swait false (.k 2) true) id).slateVal soloTeam.id 32) = false ∧
    Meets (.swait false (.k 2) true) id ∧ runsOf (.swait false (.k 2) true) (pipe (.swait false (.k 2) true)) = [{ reader := 0, targets := [0] }] := by
  decide +kernel

theorem test_meets_TrapAndBreakpointFaultEveryLane : Meets (.trap 0xFFFF) id ∧ Meets (.bkpt 0) id := by decide +kernel

theorem test_meets_ResumeNeedsHandlerMode :
    Meets .resume (fun t => { t with hm := true }) ∧ Meets .resumeSkip id ∧ (me id).hm = false := by decide +kernel

theorem test_meets_ThreadsThatEndTheirBlockDrain :
    [0].Nodup ∧ ((at' (.exit false) id).thread soloThread.id).isSome = true := by decide +kernel

/-- Die 0's own reads of these pool lines, their data there. -/
def hwRead (ns : List Nat) (s : State) : State := { s with reads := ns.map fun n =>
  { id := 900 + n, die := 0, cache := s.l2Of 0 { mem := .pool, num := n }, line := { mem := .pool, num := n }, tag := 0,
    res := .got (s.pool.getLine n) } }
/-- A page that is not resident at 0x2000_0000, its tables' lines read. -/
def pageAway (s : State) : State :=
  hwRead [placeRoot / 128, placeTable / 128] { s with pool := s.pool.set (placeTable + 15) 0x80 }
/-- A pool on die 0 and its handle 1. -/
def parcelled (st : HState) (s : State) : State := s.onDie 0 fun d =>
  { d with pool := some { asid := 0, arena := 0x40000, extents := 16, handles := 4 },
           handles := [{ idx := 1, size := 64, route := 0, dref := 0, asid := 0, gen := 7, slate := 16, efirst := 0, ecount := 1,
                         team := 0, core := 0, clm := false, st := st }] }
/-- The reference of that parcel at an offset, in k2:k3. -/
def ref (off : Word) (t : Thread) : Thread := t.setReg64 (.k 2) (refOf 1 7 off)
/-- A slate with MAGIC at offset 16. -/
def slated (s : State) : State := s.putSlate soloTeam.id 16 (slateOf 0 false false 0 1 0 0)

/-- Global, own and host loads, a page away, a parcel. -/
theorem test_meets_LoadsAndStoresIssueAccesses :
    Meets (.ld false (.k 8) (.k 2) 3 (mem .global .b128 0)) (k 2 0x30000) ∧
    CounterFree (at' (.ld false (.k 8) (.k 2) 3 (mem .global .b128 0)) id) (pipe (.ld false (.k 8) (.k 2) 3 (mem .global .b128 0))) 3 ∧
    isOk ((at' (.ld false (.k 8) (.k 2) 3 (mem .global .b128 0)) id).resolve soloTeam (me (k 2 0x30000)) .global true (.k 2) 0 16 .rd
      .plain .thread none).2 = true ∧
    faultOf ((pageAway (at' (.ldnr false (.k 8) (.k 2) 0 0 (mem .global .b32 0)) id)).resolve soloTeam (me (k 2 0x20000000)) .global true
      (.k 2) 0 4 .rd .plain .thread none).2 = some 0x04 ∧
    isOk ((parcelled .open' (at' (.pld false (.k 8) (.k 2) 0 (mem .parcel .b32 4)) id)).resolveParcel soloTeam (me (ref 0)) .parcel (.k 2) 4
      4 .rd .plain .thread fun _ _ => false).2 = true := by decide +kernel

theorem test_meets_AtomicsIssueAccesses :
    Meets (.cas false (.k 8) (.k 2) (.k 4) 0 (atm .b64 .plain .thread)) (k 2 0x30000) ∧
    isOk ((at' (.cas false (.k 8) (.k 2) (.k 4) 0 (atm .b64 .plain .thread)) id).resolve soloTeam (me (k 2 0x30000)) .global true
      (.k 2) 0 8 .rw .plain .thread (some (none, .b64))).2 = true ∧
    atomNew .inc .n32 5 5 = (0, 0) ∧ (0xFFFFFFFF < 2 ^ (32 * AtomType.n32.regs) ∧
      atomNew .max .n32 0xFFFFFFFF 1 = (0xFFFFFFFF, 0) ∧ atomNew .max .i32 0xFFFFFFFF 1 = (1, 0)) ∧ atomNew .dec .n32 0 5 = (5, 0) ∧ atomNew .dec .n32 6 5 = (5, 0) := by decide +kernel

/-- A reserved space; addresses 1 and 4 with a size of 4. -/
theorem test_meets_AccessesCheckSpaceAndAlignmentFirst :
    Meets (.ld false (.k 8) (.k 2) 0 (mem .res7 .b32 0)) id ∧ Meets (.st false (.k 8) (.k 2) (mem .own .b32 1)) id ∧
    (effAddr (me id) .own (.k 2) 1).toNat % 4 ≠ 0 ∧ (effAddr (me id) .own (.k 2) 4).toNat % 4 = 0 ∧
    runsOf (.st false (.k 8) (.k 2) (mem .own .b32 1)) (pipe (.st false (.k 8) (.k 2) (mem .own .b32 1))) =
      [{ reader := 0, targets := [0] }] := by decide +kernel

/-- The last aligned place of the program area. -/
theorem test_meets_StoreChangesOnlyItsBytesOfTheScratchpad :
    Meets (.st false (.k 8) (.k 2) (mem .own .b128 0)) id ∧ (at' (.st false (.k 8) (.k 2) (mem .own .b128 0)) id).accs = [] ∧
    (at' (.st false (.k 8) (.k 2) (mem .own .b128 0)) id).damage = [] ∧ soloTeam.spad.wf = true ∧
    ((me id).reg (.k 2) + (0 : BitVec 14).signExtend 32).toNat % 16 = 0 ∧
    soloTeam.ownOk ((me id).reg (.k 2) + (0 : BitVec 14).signExtend 32).toNat 16 = true := by decide +kernel

theorem test_meets_LoadReadsItsBytesOfTheScratchpad :
    Meets (.ld false (.k 8) (.k 2) 0 (mem .own .i8 1)) id ∧
    CounterFree (at' (.ld false (.k 8) (.k 2) 0 (mem .own .i8 1)) id) (pipe (.ld false (.k 8) (.k 2) 0 (mem .own .i8 1))) 0 ∧
    soloTeam.ownOk ((me id).reg (.k 2) + (1 : BitVec 14).signExtend 32).toNat 1 = true := by decide +kernel

/-- A load of the solo thread. -/
def load0 : Acc :=
  { id := 5, th := soloThread.id, lanes := [0], block := 0, widx := 2, u := false, cache := .l1 0 0, place := .spad soloTeam.id 0,
    op := .load .b64, ea := 0, size := 8, tag := 0, ctr := some 1, dst := Opnd.regList (.k 8) 2, pred := none, ord := .plain,
    scope := .thread, phase := .done, got := [1, 2, 3, 4, 5, 6, 7, 8], nonres := false, written := 0, parcel := none, cp := 0, run := 0,
    ref := false, fpar := none, fea := none }

theorem test_meets_LoadReturnWritesTheDestination :
    ({ State.reset with accs := [load0] } : State).acc 5 = some load0 ∧ load0.lanes.Nodup ∧
    ({ o := .k 8, n := 2, reads := false, writes := true, constOk := false } : Use).ok 64 = true ∧
    isOk load0.value = true := by decide +kernel

/-- Own and global; a page away; a page resident. -/
theorem test_meets_PrefetchMaintenanceAndResidency :
    Meets (.pref false (.k 2) .l2 .own 0) id ∧ Meets (.cmnt false (.k 2) .wb .pkg .global 0) id ∧
    Meets (.resq false (.k 2) (.k 4) false .global 0) (fun t => k 4 16 (k 2 0x20000000 t)) ∧
    soloTeam.slateCheck 16 16 = none ∧
    ((pageAway (at' (.resq false (.k 2) (.k 4) false .global 0) id)).translate 0 (.core 0) 0 false .leaf 0x20000000).2 = .error (0x04, 0) ∧
    isOk ((at' (.resq false (.k 2) (.k 4) false .global 0) id).translate 0 (.core 0) 0 false .leaf 0x30000).2 = true := by
  decide +kernel

/-- 255 and 256; 0 and 1. -/
theorem test_meets_IdentifiersAndFences :
    Meets (.ttagImmediate false 255) id ∧ Meets (.ttagRegister false (.k 2)) (k 2 256) ∧ ¬ ((me (k 2 256)).reg (.k 2)).toNat ≤ 255 ∧
    Meets (.tdrop false (.k 2) true) (k 2 255) ∧ ((me (k 2 255)).reg (.k 2)).toNat ≤ 255 ∧ (me id).reg (.k 2) = 0 ∧
    Meets (.fence false .sys .sc) id := by decide +kernel

/-- A slot that is armed and one that is not; both counts 0. -/
theorem test_meets_SlateAndGuardInstructions :
    Meets (.sinit false (.k 2) (.k 3) (.k 4)) (fun t => k 4 0xFFFF (k 2 16 t)) ∧ soloTeam.progOk 16 16 = true ∧
    (me id).reg (.k 3) = 0 ∧ Meets (.garm false 15) id ∧ Meets (.gset false (.k 2) 15) id ∧ soloTeam.guards[(15 : Fin 16)] = .idle ∧
    (((at' (.gset false (.k 2) 15) id).setGuard soloThread.id 15 .unresolved []).team soloTeam.id).any
      (fun t => t.guards[(15 : Fin 16)] != .idle) = true ∧
    (let s := (at' (.gset false (.k 2) 15) id).onTeam soloTeam.id fun t => { t with guardBy := t.guardBy.set 15 (some (5, { core := soloTeam.id.core, num := 1 })) }
     s.slot soloThread.id < 5 ∧ s.focus ≠ some { core := soloTeam.id.core, num := 1 }) ∧
    Meets (.sarv false (.k 2) false) (k 2 16) ∧
    isOk ((slated (at' (.sarv false (.k 2) false) id)).slateOwner soloTeam false 16) = true := by decide +kernel

/-- SARV to a peer that is absent; SEXP of a slate that is damaged, has no MAGIC, or overflows; a slot of the guard that a higher thread slot
has come to in this cycle, and one that nobody has. -/
theorem test_meets_SlateAndGuardInstructions_faults :
    (at' .nop id).teamAt 0 7 = none ∧ Meets (.sarv false (.k 2) true) (k 2 0x70000010) ∧ Meets (.sexp false (.k 2) (.k 3)) (k 3 16) ∧
    ({ at' .nop id with damage := [.spad soloTeam.id 1] } : State).spadDamaged soloTeam.id 16 16 = true ∧
    slateMagic ((at' .nop id).slateVal soloTeam.id 16) = false ∧
    (let s := (at' .nop id).putSlate soloTeam.id 16 (slateOf 0 false false 0 1 0 0xFFFFFFFF)
     slateMagic (s.slateVal soloTeam.id 16) = true ∧ 0xFFFFFFFF < bitsOf (s.slateVal soloTeam.id 16) 0 32 + 1) ∧
    (at' (.garm false 15) id).guardLate (pipe (.garm false 15)) soloTeam 15 = false ∧
    (let tm := { soloTeam with guardBy := soloTeam.guardBy.set 15 (some (5, { core := soloTeam.id.core, num := 1 })) }
     let s := (at' (.garm false 15) id).onTeam soloTeam.id fun _ => tm
     s.site = some (pipe (.garm false 15), tm) ∧ s.guardLate (pipe (.garm false 15)) tm 15 = true) := by decide +kernel

/-- The credit that completes a phase, one short of it, and one beyond. -/
theorem test_meets_CreditsFlipThePhaseWhenBothCountsAreReached :
    creditSlate (slateOf 0 false false 1 2 0 8).toNat 8 1 false 0 = (slateOf 0 false true 0 2 0 8, true) ∧
    creditSlate (slateOf 0 false false 1 2 0 8).toNat 7 1 false 0 = (slateOf 0 false false 2 2 7 8, false) ∧
    creditSlate (slateOf 0 false true 1 2 0 8).toNat 9 2 true 0 = (slateOf 0 true false 1 2 1 8, true) ∧
    (2 ^ 32 ≤ 2 ^ 32 - 1 + 9 ∧ creditSlate (slateOf 0 false false 0 1 (2 ^ 32 - 1) 8).toNat 1 1 false 0 =
      (slateOf 0 false true 0 1 (2 ^ 32 - 8) 8, true)) := by decide +kernel

theorem test_meets_CopyEngineCommandsIssue :
    (let i : Instr := .cpy false (.k 4) (.k 2) (.k 6) (eng .own .global)
     let f := fun t => k 4 64 (k 2 0x30000 (k 6 32 (k 8 16 t)))
     Meets i f ∧ firstFlt (copyChecks i true (.k 4) (.k 2) (.k 6) (eng .own .global) (slated (at' i f)) soloTeam (me f)) = none) ∧
    (let i : Instr := .tdld false (.k 2) (.k 4) .global .global
     Meets i (k 2 0x30000) ∧
     isOk ((at' i (k 2 0x30000)).resolveVa soloTeam (me (k 2 0x30000)) false true 0x30000 .rd .plain .thread none).2 = true) ∧
    tileOk (BitVec.ofNat 512 (natOfBytes (bytesOfNat 64 (2 ^ 192 + 2 ^ 208)))) = true := by decide +kernel

/-- A size of 2^30 and one above it; a parcel open. -/
theorem test_meets_ParcelInstructions :
    Meets (.pnew true (.k 4) (.k 2)) (k 2 0x40000000) ∧ ((me (k 2 0x40000000)).reg (.k 2)).toNat ≤ 2 ^ 30 ∧
    Meets (.pnew false (.k 4) (.k 2)) (k 2 0x40000001) ∧ 2 ^ 30 < ((me (k 2 0x40000001)).reg (.k 2)).toNat ∧
    (let i : Instr := .pseal false (.k 2)
     let s := parcelled .open' (at' i (ref 0))
     Ready i s (pipe i) soloTeam ∧ isOk (s.parcelRef soloTeam ((me (ref 0)).reg64 (.k 2))) = true ∧
     s.parcelBusy 0 1 = false ∧ s.mayFree 0 1 = true) ∧
    faultOf ((parcelled .transit State.reset).parcelRef soloTeam (refOf 1 7 0)) = none ∧
    (let i : Instr := .padd false (.k 4) (.k 2) (.k 6)
     Ready i (parcelled .open' (at' i (fun t => k 6 32 (ref 32 t)))) (pipe i) soloTeam ∧ (32 : Int) + 32 ≤ 64) := by decide +kernel

/-- A reference that is not current; one past the end and one before the beginning; a parcel in transit, free, sealed. -/
theorem test_meets_StaleReferencesFault :
    Meets (.padd false (.k 4) (.k 2) (.k 6)) id ∧ ((at' (.pseal false (.k 2)) id).die 0).current 0 0 = none ∧
    ((parcelled .open' State.reset).die 0).current 0 (refOf 1 7 64) ≠ none ∧ ((64 : Int) < 64 + 1 ∧ (0 : Int) + -1 < 0) ∧
    (((parcelled .transit State.reset).die 0).current 0 (refOf 1 7 0)).map (fun h => h.st) = some .transit ∧
    (((parcelled .sealed State.reset).die 0).current 0 (refOf 1 7 0)).map (fun h => h.st) = some .sealed := by decide +kernel

/-- 256 granules, 257, and granules held. -/
theorem test_meets_MatrixInstructions :
    Meets (.aalloc (.k 4) (.k 2)) (k 2 256) ∧ ((at' (.aalloc (.k 4) (.k 2)) id).freeGranules soloTeam.id.core).length ≥ 256 ∧
    Meets (.mzero (.k 2) 4) id ∧
    (let tm := { soloTeam with gran := [(0, 9), (1, 8), (2, 7), (3, 6)] }
     granFault (.mzero (.k 2) 4) tm 0 4 = none ∧ tm.holds 0 4 = true) ∧
    Meets (.ores (.k 2) (.t 0) (.t 0) .f32 .g32 7 .r64) (k 2 0x00080000) ∧ soloTeam.resv[(7 : Fin 8)] = none ∧
    ((fld (0x00080000 : Word) 16 10).toNat = 8 ∧ (fld (0x00080000 : Word) 0 9).toNat + 8 ≤ 512) := by decide +kernel

/-- With PRIV and without. -/
theorem test_meets_MatrixResetNeedsPriv :
    Meets (.mrst true) id ∧
    (let s := (at' (.mrst false) id).onTeam soloTeam.id fun t => { t with priv := false }
     s.site = some (pipe (.mrst false), { soloTeam with priv := false }) ∧ (pipe (.mrst false)).ran = []) := by decide +kernel

/-! ## States that meet the hypotheses: events -/

/-- A pool line, a cache, a copy of the line there. -/
def line0 : LineId := { mem := .pool, num := 5 }
/-- The L1 of core 0. -/
def l1a : CacheId := .l1 0 0
/-- The L1 of core 1. -/
def l1b : CacheId := .l1 0 1
/-- A copy of a line in a state. -/
def copyOf (c : CacheId) (l : LineId) (st : LineState) (busy : Option Nat) : CacheLine :=
  { cache := c, line := l, fetch := false, st := st, data := 0, dirty := 0, tag := 0, busy := busy, next := false }
/-- A message of that line from core 0's cache, at a router. -/
def msgAt (kind : MsgKind) (r : RouterId) (port : Port) : Msg :=
  { id := 3, kind := kind, line := line0, req := l1a, at' := r, port := port, path := [], caught := none, returned := 0,
    held := false, once := false, way := false }
/-- An entry of that line at a router. -/
def entryAt (r : RouterId) (links : BitVec 8) (root : Port) (st : Bool) : TreeEntry :=
  { router := r, line := line0, hint := 0, root := root, pend := 1, st := st, links := links, data := none, trim := false,
    discard := false, used := 0 }
/-- The router of core 0. -/
def r0 : RouterId := routerOf l1a
/-- A state with one message and entries. -/
def fabric (m : Msg) (es : List TreeEntry) : State := { State.reset with msgs := [m], tree := es }
/-- A command of the solo team. -/
def cmd0 (op : CmdOp) (ph : CmdPhase) : Cmd := newCmd State.reset soloTeam soloThread [0] op 0 .thread (.team soloTeam.id 16) 16 none ph
/-- The solo team with one command. -/
def running (op : CmdOp) (ph : CmdPhase) : State := { at' .nop id with cmds := [cmd0 op ph] }
/-- A queue configuration. -/
def queueCfg : QueueConfig :=
  { en := true, asid := 0, base := 0, size := 16, cring := 0, ceil := 0, priv := false, preempt := false, ctx := 0 }
/-- A fault of the solo thread. -/
def fault0 : FaultInfo := { cause := 0x50, block := 0x30000, widx := 2, addr := 0, extra := 5, u := false }
/-- The solo thread as `f` leaves it, alone in its team. -/
def thread0 (f : Thread → Thread) : State := { at' .nop f with pipes := [], focus := none }

/-- A team with a granule; an MLOOP, an MFEED and an MDRAIN that run, with a slate; one with a status offset. -/
theorem test_meets_MatrixResetNeedsPriv_commands :
    (at' (.mrst true) id).cmds = [] ∧ ((at' (.mrst true) id).team soloTeam.id).isSome = true ∧
    (let c := cmd0 (.mloop 1 0 0 1 .r16 .r16 0 0) .running
     let s := (running c.op .running).putSlate soloTeam.id 16 (slateOf 0 false false 0 1 0 0)
     s.cmds = [c] ∧ s.credits = [] ∧ c.phase ≠ .finished ∧ c.slate = .team soloTeam.id 16 ∧
       (s.team soloTeam.id).any (fun tm => tm.spad.wf) = true ∧ slateMagic (s.slateVal soloTeam.id 16) = true ∧ c.status = none) ∧
    (let c := cmd0 (.mfeed 0 .own 0 0 128) .running
     let s := (running c.op .running).putSlate soloTeam.id 16 (slateOf 0 false false 0 1 0 0)
     s.cmds = [c] ∧ c.slate = .team soloTeam.id 16 ∧ slateMagic (s.slateVal soloTeam.id 16) = true ∧ c.status = none) ∧
    (let d : Drain := { rs := none, cs := none, bias := none, hi := 0, lo := 0, dstride := 0, ofmt := .f32, rnd := .rn, clamp := false,
                        sat := false, zero := false, m := .r16, n := .r16, f64 := false }
     let c := { cmd0 (.mdrain .own 0 0 d) .running with status := some 64 }
     let s := (running c.op .running).putSlate soloTeam.id 16 (slateOf 0 false false 0 1 0 0)
     let s : State := { s with cmds := [c] }
     s.cmds = [c] ∧ c.slate = .team soloTeam.id 16 ∧ slateMagic (s.slateVal soloTeam.id 16) = true ∧ c.status = some 64 ∧
       (s.team c.team).any (fun tm => tm.spad.wf) = true) := by decide +kernel

/-- Another die's number; an accelerator other than the own; a map that stays one to one. -/
theorem test_meets_TablesMasksAndMapsReadAsWritten :
    (1 : BitVec 8) ≠ State.reset.pkg.accNum ∧ State.reset.clusters = [] ∧
    (∀ w : Fin 8, w ≠ 7 → State.reset.pkg.vmap[w] ≠ some 7) := by decide

/-- The least window and one below it; 0; a queue enabled, and one with a doorbell. -/
theorem test_meets_ConfigurationRegistersAndQueues :
    (0 : Fin 9) ≠ 8 ∧ (BitVec.ofNat 32 Config.watchdogReg).toNat = Config.watchdogReg ∧ (0 : BitVec 32).toNat ≠ Config.watchdogReg ∧
    65536 ≤ (65536 : Word).toNat ∧ (65535 : Word).toNat < 65536 ∧ (65535 : Word) ≠ 0 ∧ queueCfg.en = true ∧
    ((State.reset.die 0).queue 0).cfg.en = false ∧
    (((State.reset.onDie 0 fun d => { d with queues := [(0, { queueReset with cfg := queueCfg })] }).die 0).queue 0).cfg.en = true ∧
    queueReset.stopped = none := by decide

/-- A shootdown that waits for nothing, a revocation, a residency request, a legal pool, a ring that was full. -/
theorem test_meets_TranslationAndPools :
    (let x : Shoot := { id := 9, asid := 0, base := 0, len := 1, accs := [], cmds := [] }
     ((State.reset.onDie 0 fun d => { d with shoots := [x] }).die 0).shoots.find? (fun y => y.id = x.id) = some x) ∧
    ((State.reset.onDie 0 fun d => { d with revoking := [(1023, 0)] }).die 0).revoking.find? (fun x => x.1 = 1023) = some (1023, 0) ∧
    State.reset.lines = [] ∧
    ((State.reset.onDie 0 fun d => { d with residency := [{ seq := 1, rec' := 0, at' := .grid 0 }] }).die 0).residency.find?
      (fun x => x.seq = 1) = some { seq := 1, rec' := 0, at' := .grid 0 } ∧
    Sys2Proof.Machine.PoolConfig.ok { asid := 0, arena := 0x10000, extents := 2097152, handles := 4096 } = true ∧
    Sys2Proof.Machine.PoolConfig.ok { asid := 0, arena := 0x10000, extents := 0, handles := 1 } = false ∧
    ((State.reset.onDie 0 fun d => { d with reportsHeld := [7] }).die 0).reportsHeld = 7 :: [] ∧
    ((State.reset.die 0).reports.drop 1).length + 1 ≤ Config.reportRing := by decide +kernel

/-- A parked thread, a thread whose fault is pending, and a running one. -/
theorem test_meets_DebugActions :
    ((thread0 fun t => { t with st := .parked, parkEntry := some 0, parkInfo := some fault0 }).thread soloThread.id).any
      (fun t => t.st == .parked && t.parkEntry == some 0 && t.parkInfo == some fault0) = true ∧
    ((thread0 fun t => { t with st := .faultPending }).thread soloThread.id).any (fun t => t.st == .faultPending && t.parkEntry == none) = true ∧
    ((thread0 id).thread soloThread.id).any (fun t => t.st != .parked) = true ∧
    (let f : FaultInfo := { fault0 with block := 0x30040 }
     let th (t : Thread) : Thread := { t with st := .parked, parkEntry := some 0, parkInfo := some f }
     let s := (thread0 th).spadWrite soloTeam.id (soloTeam.entryAt 0) (faultEntry 0 (me th) f)
     let s : State := { s with lines := s.lines.map fun x =>
       { x with data := lineSetN x.data 64 (([0xF0000003, 0x10000000, 0] : List Word).flatMap bytesOfWord) } }
     (s.team soloTeam.id).any (fun tm => isOk (s.resumePoint tm 0 0 false 0).2 && isOk (s.resumePoint tm 0 0 true 0).2) = true) ∧
    soloTeam.entryV 0 = false ∧ (((thread0 id).spadWrite soloTeam.id (soloTeam.entryAt 0) (faultEntry 0 (me id) fault0)).team
      soloTeam.id).any (fun tm => tm.entryV 0 && tm.entryField 0 178 11 == 0) = true := by decide +kernel

/-- No grid, a die that is there and a plan for it, a boot without images. -/
theorem test_meets_FirmwareEvents :
    State.reset.grids = [] ∧ State.reset.virt 7 = some 7 ∧ Config.minVolt ≤ Config.maxVolt ∧ Config.minClock ≤ Config.maxClock ∧
    (∀ m ∈ ([] : List Image), m.die = 4 → False) ∧
    ({ failed := [], plan := [{ rail := .core 7, volt := 600, clock := 3000 }] } : Replan).plan =
      [{ rail := .core 7, volt := 600, clock := 3000 }] := by decide

/-- A thread that may move on; one with a load outstanding; the last to arrive, and one that has not. -/
theorem test_meets_DrainsAndBarriers :
    (let s := thread0 fun t => { t with st := .draining, after := .exit }
     (s.thread soloThread.id).any (fun t => s.mayMove t) = true) ∧
    load0 ∈ ({ thread0 id with accs := [load0] } : State).accs ∧ load0.th.team = soloThread.id.team ∧ 0 ∈ load0.lanes ∧ load0.ctr ≠ none ∧
    (let s := thread0 fun t => { t with st := .waiting, after := .wait .team 0x30000 0 }
     (s.thread soloThread.id).any (fun t => s.mayArrive t && t.waitsFor .team && !t.arrived) = true) ∧
    (let s := thread0 fun t => { t with st := .waiting, after := .wait .cluster 0x30000 0 }
     (s.thread soloThread.id).any (fun t => s.mayArrive t && !t.waitsFor .team) = true) := by decide +kernel

/-- The one thread of a team, and of a cluster, that has not exited has arrived. -/
theorem test_meets_DrainsAndBarriers_releases :
    (let s := thread0 fun t => { t with st := .waiting, after := .wait .team 0x30000 0, arrived := true }
     (s.threads.all fun u => u.waitsFor .team && u.arrived && !u.mark) = true ∧ (s.thread soloThread.id).isSome = true ∧ s.threads ≠ []) ∧
    (let s := thread0 fun t => { t with st := .waiting, after := .wait .cluster 0x30000 0, arrived := true }
     (s.threads.all fun u => u.waitsFor .cluster && u.arrived && !u.mark) = true ∧ (s.thread soloThread.id).isSome = true ∧
       ∃ t ∈ s.teams, t.cluster = 0 ∧ t.id = soloThread.id.team) := by decide +kernel

/-- In handler mode, with BKPT's cause; every entry in use; a handler whose word is not there yet. -/
theorem test_meets_FaultsEnterTheHandlerOrPark_parks :
    (let s := thread0 fun t => { t with st := .draining, fault := some { fault0 with cause := 0x51 }, hm := true }
     (s.thread soloThread.id).any (fun t => s.mayRecord t && t.hm && (t.faultNow.map fun f => f.cause == 0x51) == some true) = true ∧
       (s.handlerWord soloTeam.id).2 = some 0 ∧ s.team soloTeam.id = some soloTeam ∧ soloTeam.handler = none) ∧
    (let s := (thread0 fun t => { t with st := .draining, fault := some fault0 }).spadWrite soloTeam.id (soloTeam.entryAt 0)
       (faultEntry 0 (me id) fault0)
     (s.thread soloThread.id).any (fun t => s.mayRecord t && t.st != .faultPending) = true ∧
       (s.team soloTeam.id).any (fun tm => tm.freeSlot == none) = true) ∧
    (let s := (thread0 fun t => { t with st := .draining, fault := some fault0 }).onTeam soloTeam.id fun t =>
       { t with handler := some 0x20000000 }
     (s.handlerWord soloTeam.id).2 = none ∧ (s.fetchWord soloTeam.id.core 0 0x20000000).2 = .error (notYet, 0)) ∧
    (let s := (thread0 id).onTeam soloTeam.id fun t => { t with handler := some 0x30000 }
     (s.handlerWord soloTeam.id).2 ≠ none) := by decide +kernel

/-- With a handler and without. -/
theorem test_meets_FaultsEnterTheHandlerOrPark :
    (let s := thread0 fun t => { t with st := .draining, fault := some fault0 }
     (s.thread soloThread.id).any (fun t => s.mayRecord t && t.faultNow == some fault0 && !t.hm) = true ∧
     soloTeam.freeSlot = some 0 ∧ soloTeam.handler = none) ∧
    (let s := (thread0 fun t => { t with st := .draining, fault := some fault0 }).onTeam soloTeam.id fun t =>
      { t with handler := some 0x30000 }
     (s.thread soloThread.id).any (fun t => s.mayRecord t) = true ∧ isOk (s.fetchWord soloTeam.id.core 0 0x30000).2 = true) ∧
    fault0.cause ≠ 0x51 ∧ fault0.cause ≠ 0x52 := by decide +kernel

/-- A group before a clause header; a selector with nothing to do, with a spill, and with a group. -/
theorem test_meets_CyclesClausesAndDispatch :
    (let i : Instr := .nop
     let p : Pipe := { pipe i with widx := 1, clause := none }
     let s := (at' i id).onPipe p.id fun _ => p
     s.pipe p.id = some p ∧ (s.wordAt soloTeam p.block 1).2 = .ok 0x10000000 ∧ headerCause p 0x10000000 = none ∧
       s.clauseReady p 0x10000000 = true) ∧
    0 < ((State.reset.onCore { die := 0, num := 0 } fun c => { c with busy := 1 }).core { die := 0, num := 0 }).busy ∧
    (State.reset.core { die := 0, num := 0 }).busy = 0 ∧ State.reset.oldestSpilled { die := 0, num := 0 } = none ∧
    (State.reset.freePipe { die := 0, num := 0 }).isSome = true := by decide +kernel

/-- A candidate of a team slot whose oldest waiter has waited `n` cycles. -/
def cand (team : Fin 64) (n : Nat) : Cand :=
  { e := { core := { die := 0, num := 0 }, team := team, block := 0, coll := false, prio := 0, waiters := 1, used := 0 },
    threads := [], key := (n, 0) }

/-- The guard age, one below it, and no candidate. -/
theorem test_meets_TheSelectorServesTheOldestThenRotates :
    Config.guardAge ≤ (cand 0 Config.guardAge).key.1 ∧ (cand 0 (Config.guardAge - 1)).key.1 < Config.guardAge ∧ [cand 63 0] ≠ [] := by
  decide

theorem test_meets_EngineEvents :
    (let c : Credit := { id := 4, at' := .team soloTeam.id 16, bytes := 1, arrivals := 1, err := false, cmd := none, dest := 0, after := [] }
     ({ State.reset with credits := [c] } : State).credits.find? (fun x => x.id = 4) = some c ∧
       ({ State.reset with credits := [c] } : State).creditReady c = true) ∧
    (running (.cpy .own .own 0 64 32) .finished).cmd 0 = some (cmd0 (.cpy .own .own 0 64 32) .finished) ∧
    (running (.cpy .own .own 0 64 32) .finished).slateSaved (.team soloTeam.id 16) = false ∧
    (running (.cpy .own .own 0 64 32) .queued).queueHead soloTeam.id.core = some (cmd0 (.cpy .own .own 0 64 32) .queued) ∧
    (running (.cpy .own .own 0 64 32) .entering).cmds.find? (fun c => decide (c.core = soloTeam.id.core ∧ c.phase = .entering)) =
      some (cmd0 (.cpy .own .own 0 64 32) .entering) ∧ 0 < Config.engineQueue := by decide +kernel

/-- A feed into a reservation with room; commands that nothing earlier keeps; a watchdog window just over and not yet. -/
theorem test_meets_MatrixEvents :
    (let r : Resv := { start := 0, len := 8, fmt := .f32, gl := .g32, rw := .r16, gcnt := 0, fill := 7, rcur := 0, soff := 0, zoff := 0 }
     r.fill < r.len ∧ (cmd0 (.mfeed 0 .own 0 0 128) .running).rd = (cmd0 (.mfeed 0 .own 0 0 128) .running).pos) ∧
    (running (.mfeed 0 .own 0 0 128) .running).feedWaits (cmd0 (.mfeed 0 .own 0 0 128) .running) 0 = false ∧
    (running (.mzero 0 1) .queued).granWaits (cmd0 (.mzero 0 1) .queued) soloTeam = false ∧
    (running (.afree 0 1) .queued).copyInRange (cmd0 (.afree 0 1) .queued) 0 1 = false ∧
    (running (.orel 0) .queued).earlier (cmd0 (.orel 0) .queued) = [] ∧
    (running (.orel 0) .queued).cmdTeam (cmd0 (.orel 0) .queued) = some soloTeam ∧
    (State.reset.core { die := 0, num := 0 }).progress < (State.reset.die 0).watchdog ∧
    (State.reset.die 0).watchdog ≤ ((State.reset.onCore { die := 0, num := 0 } fun c =>
      { c with progress := Config.watchdog }).core { die := 0, num := 0 }).progress := by decide +kernel

/-- At core 0's router: no entry, a stable one, a cut-pending one, a holder beside it, a link; and at the home. -/
theorem test_meets_TreeReads :
    (fabric (msgAt .catchable r0 .self) []).firstOn (msgAt .catchable r0 .self) = true ∧
    (fabric (msgAt .catchable r0 .self) []).treeAt r0 line0 = none ∧ (nextPort (homeOf line0) r0).isSome = true ∧
    nextPort (homeOf line0) (homeOf line0) = none ∧
    (fabric (msgAt .catchable r0 .self) [entryAt r0 1 .e false]).treeAt r0 line0 = some (entryAt r0 1 .e false) ∧
    (fabric (msgAt .catchable r0 .self) [entryAt r0 1 .e true]).treeAt r0 line0 = some (entryAt r0 1 .e true) ∧
    (entryAt r0 0xFF .e false).steerPort .n ≠ none ∧
    (let s : State := { fabric (msgAt .steered r0 .self) [entryAt r0 0xFF .e false] with lines := [copyOf l1a line0 .s none] }
     (s.localHolder r0 (entryAt r0 0xFF .e false) line0 l1b).map (fun x => x.busy) = some none) ∧
    (fabric (msgAt .steered r0 .self) [entryAt r0 1 .e true]).treeAt r0 line0 = some (entryAt r0 1 .e true) := by decide +kernel

/-- A direct read at a router whose entry is cut-pending, and at one that has none. -/
theorem test_meets_TreeReads_direct :
    (fabric (msgAt .direct r0 .self) [entryAt r0 1 .e true]).cutPending r0 line0 = true ∧
    (fabric (msgAt .direct r0 .self) []).cutPending r0 line0 = false ∧ (fabric (msgAt .direct r0 .self) []).msg 3 = some (msgAt .direct r0 .self) := by
  decide +kernel

/-- What an allocation comes to: done, waiting, no way. -/
def filled : Fill Unit → Nat
  | .got _ _ => 0
  | .wait _ => 1
  | .dead => 2

/-- A free way, a set full of trims, a cut-pending entry. -/
theorem test_meets_TreeRepliesGrantsAndPrunes :
    (fabric (msgAt (.grant 0) r0 .e) []).msg 3 = some (msgAt (.grant 0) r0 .e) ∧
    filled ((fabric (msgAt (.grant 0) r0 .e) []).splice (msgAt (.grant 0) r0 .e) .e 7 (msgAt (.grant 0) r0 .e).onward false) = 0 ∧
    filled ((fabric (msgAt (.grant 0) r0 .e) ((List.range 16).map fun i => { entryAt r0 0xFF .e true with
      line := { mem := .pool, num := 5 + (i + 1) * Config.treeSets false }, trim := true })).splice
      { msgAt (.grant 0) r0 .e with way := true } .e 7 (msgAt (.grant 0) r0 .e).onward false) = 1 ∧
    filled ((fabric (msgAt (.grant 0) r0 .e) [entryAt r0 0 .e true]).splice (msgAt (.grant 0) r0 .e) .e 7
      (msgAt (.grant 0) r0 .e).onward false) = 2 ∧
    (((fabric (msgAt .prune r0 .n) [entryAt r0 0xFF .e true]).dropMsg 3).treeAt r0 line0).map (fun e => (e.st, e.root)) =
      some (true, .e) ∧
    (fabric (msgAt .prune r0 .e) [entryAt r0 0xFF .n true]).branchLives r0 line0 .e = false ∧
    ((fabric (msgAt .prune r0 .e) [entryAt r0 0x40 .e false]).dropMsg 3).branchLives r0 line0 .e = false ∧
    (let q := (neighbour r0 .e).getD r0
     let s : State := { State.reset with msgs := [msgAt .prune r0 .e, { msgAt (.reply 0 true false 1 false) q .w with id := 4 }] }
     (s.dropMsg 3).branchLives r0 line0 .e = true) := by decide +kernel

theorem test_meets_TreeOwnershipAndCuts :
    (nextPort (homeOf line0) r0).isSome = true ∧
    (fabric (msgAt .own (homeOf line0) .n) []).homeBusy line0 = false ∧
    ({ fabric (msgAt .own (homeOf line0) .n) [] with jobs := [{ id := 7, line := line0, op := .snoop, data := none, started := true, cut := false }] } : State).homeBusy
      line0 = true ∧
    copyOf l1a line0 .m (some 1) ∈ ({ fabric (msgAt (.cut false false) r0 .e) [entryAt r0 1 .e false] with
      lines := [copyOf l1a line0 .m (some 1)] } : State).localsAt r0 line0 ∧
    (msgAt (.cut false false) r0 .e).port = (entryAt r0 1 .e false).root ∧ (msgAt (.cut false false) r0 .e).port ≠ (entryAt r0 1 .n false).root ∧
    (fabric (msgAt (.cut false false) r0 .e) []).treeAt r0 line0 = none := by decide +kernel

/-- A request where an entry is cut-pending; at the home with the folio in E and in I, without an entry and with a stable one. -/
theorem test_meets_TreeOwnershipAndCuts_home :
    (fabric (msgAt .own r0 .self) [entryAt r0 1 .e true]).cutPending r0 line0 = true ∧
    (let m := msgAt .own (homeOf line0) .n
     let f (st : FolioState) : Folio := { num := folioOf line0, st := st, want := .i, asked := .i, cut := none }
     let s (st : FolioState) : State := { fabric m [] with folios := [f st] }
     (s .e).firstOn m = true ∧ (s .e).treeAt m.at' line0 = none ∧ ((s .e).want line0 .e).folioOpenE line0 = true ∧
       ((s .i).want line0 .e).folioOpenE line0 = false ∧ nextPort (homeOf line0) m.at' = none) ∧
    (fabric (msgAt .own (homeOf line0) .n) [entryAt (homeOf line0) 1 .self false]).treeAt (homeOf line0) line0 =
      some (entryAt (homeOf line0) 1 .self false) := by decide +kernel

theorem test_meets_TreeEvictionsAndDelays :
    ({ State.reset with lines := [copyOf l1a line0 .s none] } : State).copy l1a line0 = some (copyOf l1a line0 .s none) ∧
    ({ State.reset with lines := [copyOf l1a line0 .o none] } : State).copy l1a line0 = some (copyOf l1a line0 .o none) ∧
    ({ State.reset with lines := [copyOf l1a line0 .o none] } : State).damagedDirty (copyOf l1a line0 .o none) = false ∧
    (({ fabric (msgAt (.writeback { data := 0, tag := 0 }) r0 .self) [] with lines := [copyOf l1a line0 .m none] } : State).dropMsg 3).copy l1a line0 =
      some (copyOf l1a line0 .m none) ∧
    ({ State.reset with returned := [msgAt .own r0 .self] } : State).returned.find? (fun m => m.id = 3) = some (msgAt .own r0 .self) ∧
    (let m : Miss := { cache := l1a, line := line0, own := true, acc := 2, delayed := true }
     ({ State.reset with misses := [m] } : State).misses.find? (fun m => m.acc = 2 && m.delayed) = some m) ∧
    (let b : Bounce := { die := 0, core := 0, line := line0, times := [0], since := some 0, delay := 0, owed := false, used := 0 }
     ({ State.reset with bounces := [b] } : State).bounce (.l1 0 0) line0 = some b ∧
       ((({ State.reset with lines := [copyOf l1a line0 .m none] } : State).copy (.l1 0 0) line0).map fun x => x.st == .m) = some true ∧ State.reset.virt 0 = some 0 ∧
       1024 ≤ ((State.reset.onCore { die := 0, num := 0 } fun c => { c with lcyc := 1024 }).core { die := 0, num := 0 }).lcyc.toNat) ∧
    (let a : Acc := { load0 with op := .atom .add .n32 1 true, place := .line line0 0 0, phase := .missing }
     let s : State := { State.reset with accs := [a], folios := [{ num := folioOf line0, st := .e, want := .i, asked := .i, cut := none }] }
     s.acc 5 = some a ∧ s.blocked a = false ∧ a.op.isAtomic = true ∧ s.folioOpenE line0 = true) := by decide +kernel

/-- A folio that wants, one that is granted, one being cut; a host line free, busy, held dirty; both ends of a line. -/
theorem test_meets_FolioAndHostEvents :
    (let f : Folio := { num := 0, st := .i, want := .e, asked := .i, cut := none }
     ({ State.reset with folios := [f] } : State).folio 0 = f ∧ f.want ≠ .i ∧ f.want ≠ f.st ∧
       (State.reset.gateHolds (State.reset.gateOf 0)).length < Config.gateEntries) ∧
    (let r : PoolReq := { id := 1, die := 0, port := 0, what := .folio 0, sent := true, resent := false, answered := false }
     ({ State.reset with poolReqs := [r] } : State).openRequest (.folio 0) = some r) ∧
    (let f : Folio := { num := 0, st := .e, want := .i, asked := .i, cut := some (true, 2) }
     (({ State.reset with folios := [f] } : State).folio (folioOf { mem := .pool, num := 5 })).cut = some (true, 2)) ∧
    State.reset.homeBusy { mem := .host, num := 9 } = false ∧
    (let s : State := { State.reset with lines := [copyOf l1a { mem := .host, num := 9 } .m none] }
     s.dirtyHolder { mem := .host, num := 9 } = some (copyOf l1a { mem := .host, num := 9 } .m none) ∧
       State.reset.dirtyHolder { mem := .host, num := 9 } = none) ∧
    (127 + [0x55#8].length ≤ 128 ∧ 0 + (List.replicate 128 0x55#8).length ≤ 128) := by decide +kernel

/-- A read of a host line that waits at its home, with the link of I/O die 0 and without. -/
theorem test_meets_FolioAndHostEvents_read :
    (let l : LineId := { mem := .host, num := 9 }
     let m : Msg := { msgAt .catchable (homeOf l) .self with line := l }
     let s : State := { State.reset with holdq := [m] }
     s.holdq.find? (fun m => decide (m.id = 3 ∧ m.line.mem = .host ∧ m.at' = homeOf m.line)) = some m ∧ s.homeBusy l = false ∧
       s.treeAt m.at' l = none ∧ s.hostUp 0 = true ∧ ({ s with pkg := { s.pkg with hosts := 2 } } : State).hostUp 0 = false) := by decide +kernel

/-- Width 2; an answer with nothing to bring, a line that is written, a read of a line that no earlier write holds up. -/
theorem test_meets_PoolPortEvents_responses :
    (State.reset.onPort 0 fun p => { p with width := 2 }).ports[(0 : Fin 48)].width = 2 ∧
    (let r : PoolReq := { id := 1, die := 0, port := 0, what := .stf 5, sent := true, resent := false, answered := true }
     let s : State := { State.reset with poolReqs := [r] }
     s.poolReqs.find? (fun r => decide (r.id = 1) && r.sent && !s.ports[r.port].retrain) = some r ∧ r.answered = true) ∧
    (let r : PoolReq := { id := 1, die := 0, port := 0, what := .write 5 7 1, sent := true, resent := false, answered := false }
     let s : State := { State.reset with poolReqs := [r] }
     s.poolReqs.find? (fun r => decide (r.id = 1) && r.sent && !s.ports[r.port].retrain) = some r ∧ s.poolWriting 5 1 = false ∧
       s.poolWriting 5 2 = true) := by decide +kernel

theorem test_meets_PoolPortEvents :
    State.reset.ports[(0 : Fin 48)].width = 4 ∧
    ((State.reset.onPort 0 fun p => { p with width := 1, retrain := true }).ports[(0 : Fin 48)].width = 1 ∧
     (State.reset.onPort 0 fun p => { p with width := 1, retrain := true }).ports[(0 : Fin 48)].retrain = true) ∧
    (let r : PoolReq := { id := 1, die := 0, port := 0, what := .line 5, sent := true, resent := false, answered := false }
     let s : State := { State.reset with poolReqs := [r], folios := [{ num := folioOf line0, st := .s, want := .i, asked := .i, cut := none }] }
     s.poolReqs.find? (fun r => decide (r.id = 1) && r.sent && !s.ports[r.port].retrain) = some r ∧ s.folioOpenS line0 = true ∧
       s.l3Line 5 = none ∧ s.damaged (.pool 5) = false) ∧
    (let r : PoolReq := { id := 1, die := 0, port := 0, what := .flag 5, sent := true, resent := true, answered := false }
     let a : Acc := { load0 with op := .stf [1] line0 8, place := .line { mem := .host, num := 9 } 0 0, phase := .gated }
     let s : State := { State.reset with poolReqs := [r], accs := [a] }
     s.openRequest (.flag 5) = some r ∧ s.acc 5 = some a ∧ a.pending = true ∧ s.blocked a = false ∧
       (s.folio (folioOf line0)).st = .i ∧ (s.folio (folioOf line0)).cut = none) := by decide +kernel

/-- An export that accepts and one that is not valid; an owner that is absent. -/
theorem test_meets_PeerWindowEvents :
    (let a : Acc := { load0 with place := .peer 0 0, phase := .asked }
     let s : State := { at' .nop id with accs := [a] }
     let s' := s.onDie 0 fun d => { d with exports := [(0, 3 * 2 ^ 16 + 2 ^ 65 + 2 ^ 66 + 2 ^ 68)] }
     s.acc 5 = some a ∧ (0 : BitVec 64).extractLsb' 8 8 = s.pkg.accNum ∧ (s.phys (importVdie 0)).isSome = true ∧ s.firstAsked a = true ∧
       a.pred = none ∧ isOk (s.ownerCheck 0 0 0 0 .rd .plain .thread false none).2 = false ∧
       isOk (s'.ownerCheck 0 0 0 0 (s'.accNeeds a) .plain .thread false none).2 = true ∧
       ({ s with pkg := { s.pkg with vmap := Vector.replicate 8 none } } : State).phys (importVdie 0) = none) ∧
    (let a : Acc := { load0 with place := .peer 0 0, phase := .answered (.accepted 0x80 1) }
     ({ State.reset with accs := [a] } : State).firstAsked a = true) := by decide +kernel

/-- A slot that fits and one that does not; packets placed and not. -/
theorem test_meets_ParcelEvents :
    ((parcelled .receiving State.reset).die 0).claimable (refOf 1 7 0) 64 = some 1 ∧
    ((parcelled .receiving State.reset).die 0).claimable (refOf 1 7 0) 65 = none ∧
    (cmd0 (.post (refOf 1 7 0) (refOf 1 7 0) 0) .running).op.posted = some (1, refOf 1 7 0, 0) ∧ State.reset.way 0 0 = .same ∧
    (State.reset.phys 1).isSome = true ∧
    (let n : NetParcel := { cmd := 0, packets := 2, via := [(1, 3)], placed := [0], acked := [], again := [] }
     ({ State.reset with nets := [n] } : State).nets.find? (fun n => n.cmd = 0) = some n ∧ 1 < n.packets ∧ 0 ∈ n.placed ∧ 0 ∉ n.acked ∧
       State.reset.portOpen n 1 true = true) ∧
    (let s : State := { State.reset with pkg := { State.reset.pkg with endpoints := [(0, 0xA#256 <<< 84)] } }
     s.permitted 0 = [1, 3] ∧ sprayPort (s.permitted 0) 1 1 = some 1) := by decide +kernel

/-- The card of one team of one thread at the solo team's block, in the local task queue of core 1. -/
def card1 : BitVec 512 := 0x30000 + 2 ^ 256 + 2 ^ 352 + 2 ^ 364 + 2 ^ 368
/-- Core 1. -/
def core1 : CoreId := { die := 0, num := 1 }
/-- A state with that card, the line of its block read. -/
def carded (v : BitVec 512) : State := hwRead [placeCode / 128] ((at' .nop id).onCore core1 fun c => { c with cards := [(0, 0, v)] })
/-- Whether the first local card of core 1 is valid; none where it cannot be checked yet. -/
def checked (v : BitVec 512) : Option Bool :=
  match (carded v).cardCheck 0 0 false (.localQ 1 0) v with
  | (_, .ok w) => some w.isSome
  | (_, .error _) => none

/-- A local card that is taken, one of two cores that is refused, one whose slate is read as not satisfied. -/
theorem test_meets_JobEvents_local :
    ((carded card1).core core1).cards = [(0, 0, card1)] ∧ (((carded card1).die 0).queue 0).cfg.priv = false ∧ checked card1 = some true ∧
    cardCw card1 = 1 ∧ cardCh card1 = 1 ∧ ((carded card1).rectFor 0 (.localQ 1 0) card1 fun _ => false).isSome = true ∧
    checked (card1 + 2 ^ 364) = some true ∧ cardCw (card1 + 2 ^ 364) ≠ 1 ∧ cardSslate (card1 + 2 ^ 364) = 0 ∧
    (match (carded card1).waitOk 0 0 card1 with | (_, .ok w) => w | _ => false) = true ∧
    (match (carded (card1 + 0x30000#512 <<< 128)).waitOk 0 0 (card1 + 0x30000#512 <<< 128) with | (_, .ok w) => w | _ => true) = false ∧
    (match exec (.localCardTake core1) (carded card1) with | .next t => t.grids.length | _ => 0) = 2 := by decide +kernel

/-- A card waits nowhere; a cluster may retire; a grid that is stuck and one that is not; a rectangle for a cluster to place, and for a
saved one. -/
theorem test_meets_JobEvents :
    (∀ n, State.reset.localWaits { die := 0, num := n } = false) ∧
    ((thread0 fun t => { t with st := .exited }).mayRetire 0 = true) ∧
    ((thread0 fun t => { t with st := .parked }).gridStuck 0 = true) ∧ (thread0 id).gridStuck 0 = false ∧
    ((thread0 id).grid 0).any (fun g => !g.ended && !g.complete) = true ∧ (thread0 id).gridEnded 0 = false ∧
    (let s : State := { State.reset with grids := [{ soloGrid with card := card1, placed := 0 }] }
     s.nextPlace 0 = some ({ soloGrid with card := card1, placed := 0 }, 0, 0) ∧
       (s.readyL1 (rectCores 0 (0, 0) (cardCw card1) (cardCh card1)) (cardAlloc card1)).2 = true) ∧
    (let s := thread0 fun t => { t with st := .parked }
     s.atRest 0 = true ∧ (s.clusters.any fun c =>
       let x := s.contextOf c
       let t : State := { s.removeTeams 0 with contexts := [x] }
       (t.contexts.find? (fun x => x.cluster.id = 0)).isSome && (findRect 0 1 1 fun p c => t.teamFits x p c) == some (0, 0) &&
         (t.readyL1 (rectCores 0 (0, 0) 1 1) ((x.teams.map fun t => t.size).foldl max 0)).2) = true) := by decide +kernel

/-- A save area whose first page's tables are not there yet. -/
def saving : State := { thread0 (fun t => { t with st := .parked }) with
  dies := (thread0 id).dies.set 0 { (thread0 id).die 0 with queues := [(0, { queueReset with cfg := { queueCfg with ctx := 0x20000000 } })] } }
/-- Its cluster. -/
def saved : Cluster :=
  { id := 0, grid := 0, die := 0, index := 0, x0 := 0, y0 := 0, w := 1, h := 1, prio := 0, stopping := true }
/-- Where the function reports a line of the area there, the save waits; with no such line it is done. -/
theorem test_meets_JobEvents_save :
    (Config.saveBytes 0 = 1 → Config.saveLine 0 0 = 0 → (saving.writeSaveArea saved).2 = false) ∧
    (Config.saveBytes 0 = 0 → (saving.writeSaveArea saved).2 = true) ∧
    saved.stopping = true ∧ saving.gridEnded saved.grid = false ∧ saving.atRest 0 = true := by
  have g : saving.grid saved.grid = some soloGrid := by decide +kernel
  have h : (saving.saveLines saved.die ((saving.die saved.die).queue soloGrid.queue.val).cfg 0 1).2.any (fun x => x.wait) = true := by
    decide +kernel
  refine ⟨fun a b => ?_, fun a => ?_, rfl, by decide +kernel, by decide +kernel⟩
  · simp only [State.writeSaveArea, g, show soloGrid.card = 0 from rfl, show saved.index = 0 from rfl, a, b, h, if_true]
  · simp only [State.writeSaveArea, g, show soloGrid.card = 0 from rfl, a]
    simp [State.saveLines]

/-! ## States that meet the hypotheses: encoding, the step, reset -/

theorem test_meets_ReservedEncodingsAreRefused :
    opcodeKnown (fld 0x1E000000 24 8) = false ∧ fld 0xF0000008 28 4 = 0xF ∧ (fld 0x00800000 24 8 = 0 ∧ (0x00800000 : Word) ≠ 0) ∧
    (fld 0x78800000 24 8 = 0x78 ∧ flag 0x78800000 23 = true) := by decide

theorem test_meets_EncodedInstructionsDecodeBack :
    (Instr.stf true (.k 8) (.k 2) { mem .own .b64 0 with ord := .acqRel1, scope := .sys } (.k 4) 0xFFFF).formOk = true := by decide

/-- One, two and three words. -/
theorem test_meets_AStepRunsTheDecodedInstruction :
    (let i : Instr := .iadd false (.k 6) (.k 6) (.t 0) .w32
     (at' i id).agenda = [] ∧ (at' i id).site = some (pipe i, soloTeam) ∧ ((at' i id).wordAt soloTeam (pipe i).block 2).2 = .ok 0x01264C00) ∧
    (let i : Instr := .stf false (.k 8) (.k 2) (mem .own .b32 0) (.k 4) 8
     ((at' i id).wordAt soloTeam (pipe i).block 3).2 = .ok 0x30000000 ∧ ((at' i id).wordAt soloTeam (pipe i).block 4).2 = .ok 0x48000008 ∧
       opcodeWords (fld 0x53284400 24 8) = 3 ∧ (pipe i).widx + 3 ≤ 5) := by decide +kernel

theorem test_meets_AStepTakesAnEventElsewhere :
    ({ State.reset with agenda := [.snpCur 0] } : State).agenda = .snpCur 0 :: [] ∧ State.reset.agenda = [] ∧ State.reset.site = none ∧
    State.reset.candidates = [] := by decide +kernel

/-- A reserved opcode, an instruction past its clause, a reserved form, a block that is not mapped. -/
theorem test_meets_WordsThatCannotExecuteFault :
    ((State.reset.place [0x1E000000] none).wordAt soloTeam 0x30000 2).2 = .ok 0x1E000000 ∧
    ((State.reset.place [0x50000000] none).wordAt soloTeam 0x30000 2).2 = .ok 0x50000000 ∧
    (3 : Nat) < 2 + opcodeWords (fld 0x50000000 24 8) ∧ decode 0x00800000 0 0 = .error .reservedForm ∧
    isOk ((State.reset.place [0] none).wordAt soloTeam 0x20000000 0).2 = false := by decide +kernel

theorem exists_next {o : Host.Outcome State Fault Refusal} (h : (match o with | .next _ => true | _ => false) = true) : ∃ t, o = .next t := by
  cases o with
  | next t => exact ⟨t, rfl⟩
  | fault => cases h
  | refused => cases h

/-- A state that is not reset, with bytes listed. -/
theorem test_meets_StepKeepsMemoriesCanonical :
    (let s := (at' .nop id).spadWrite soloTeam.id 16 [1, 0, 2]
     s.pool.wf = true ∧ (s.teams.all fun t => t.spad.wf && !t.spad.isEmpty) = true ∧ ∃ t, step s = .next t) := by
  exact ⟨by decide +kernel, by decide +kernel, exists_next (by decide +kernel)⟩

end Sys2Proof.Tests
end

section
/-!
SUPPORT. The reset of a core's matrix unit (14_matrix R232, 24_ref R403): what each of its steps changes, the commands that it
discards and what becomes of their slates and records, and the obligation about MRST.
-/
namespace Sys2Proof.Machine

/-! ## Releases, scratchpad writes and slates -/

/-- A value that has been written at an address is read there, byte for byte. -/
theorem Memory.getN_setN_bytesOfNat {m : Memory} (h : m.wf = true) (a n x : Nat) :
    (m.setN a (bytesOfNat n x)).getN a n = bytesOfNat n x := by
  simpa only [bytesOfNat_length] using Memory.getN_setN_same h a (bytesOfNat n x)

namespace State

variable (s : State)

@[simp] theorem enrolNext_teams (i : ThreadId) (b : Addr) (w : Word) (r : Option Resume) : (s.enrolNext i b w r).teams = s.teams := by
  unfold enrolNext
  split
  · split <;> rfl
  · rfl

@[simp] theorem enrolNext_cmds (i : ThreadId) (b : Addr) (w : Word) (r : Option Resume) : (s.enrolNext i b w r).cmds = s.cmds := by
  unfold enrolNext
  split
  · split <;> rfl
  · rfl

@[simp] theorem release_teams (i : ThreadId) : (s.release i).teams = s.teams := by
  unfold release
  split
  · split <;> simp
  · rfl

@[simp] theorem release_cmds (i : ThreadId) : (s.release i).cmds = s.cmds := by
  unfold release
  split
  · split <;> simp
  · rfl

/-- The release of a slate's waiters moves threads alone. -/
theorem releaseSlate_keeps (t : TeamId) (off : Nat) :
    (s.releaseSlate t off).teams = s.teams ∧ (s.releaseSlate t off).cmds = s.cmds := by
  unfold releaseSlate
  generalize s.threadsOf t = us
  induction us generalizing s with
  | nil => exact ⟨rfl, rfl⟩
  | cons u us ih =>
      rw [List.foldl_cons]
      refine ⟨(ih _).1.trans ?_, (ih _).2.trans ?_⟩ <;>
      · split
        · split <;> simp
        all_goals rfl

@[simp] theorem releaseSlate_teams (t : TeamId) (off : Nat) : (s.releaseSlate t off).teams = s.teams := (s.releaseSlate_keeps t off).1

@[simp] theorem releaseSlate_cmds (t : TeamId) (off : Nat) : (s.releaseSlate t off).cmds = s.cmds := (s.releaseSlate_keeps t off).2

@[simp] theorem spadWrite_cmds (t : TeamId) (off : Nat) (bs : List Byte) : (s.spadWrite t off bs).cmds = s.cmds := rfl

@[simp] theorem putSlate_cmds (t : TeamId) (off : Nat) (v : BitVec 128) : (s.putSlate t off v).cmds = s.cmds := rfl

@[simp] theorem teamReport_cmds (t : TeamId) (cause : BitVec 8) (tid : Nat) (kind : Bool) (data : Word) :
    (s.teamReport t cause tid kind data).cmds = s.cmds := by
  unfold teamReport
  split <;> rfl

theorem team_spadWrite_same (t : TeamId) (off : Nat) (bs : List Byte) :
    (s.spadWrite t off bs).team t = (s.team t).map fun u => { u with spad := u.spad.setN off bs } :=
  s.team_onTeam_same t (fun u => { u with spad := u.spad.setN off bs }) fun _ h => h

theorem team_spadWrite_other (t k : TeamId) (off : Nat) (bs : List Byte) (h : k ≠ t) : (s.spadWrite t off bs).team k = s.team k :=
  s.team_onTeam_other t k (fun u => { u with spad := u.spad.setN off bs }) h fun _ h => h

variable {s}

theorem team_congr {t : State} (h : t.teams = s.teams) (k : TeamId) : t.team k = s.team k := by
  simp only [team, h]

theorem slateVal_congr {t : State} {k : TeamId} (h : t.team k = s.team k) (off : Nat) : t.slateVal k off = s.slateVal k off := by
  simp only [slateVal, h]

theorem putSlate_teams_congr {t : State} (h : t.teams = s.teams) (k : TeamId) (off : Nat) (v : BitVec 128) :
    (t.putSlate k off v).teams = (s.putSlate k off v).teams := by
  simp only [putSlate, spadWrite, onTeam, h]

/-- A team that stays resident through a scratchpad write, with its scratchpad in canonical form. -/
theorem team_spadWrite_wf {k : TeamId} {tm : Team} (h : s.team k = some tm) (hw : tm.spad.wf = true) (t : TeamId) (off : Nat)
    (bs : List Byte) : ∃ tm', (s.spadWrite t off bs).team k = some tm' ∧ tm'.spad.wf = true := by
  by_cases hk : k = t
  · subst hk
    exact ⟨_, by rw [team_spadWrite_same, h]; rfl, Memory.wf_setN hw off bs⟩
  · exact ⟨tm, by rw [team_spadWrite_other _ _ _ _ _ hk, h], hw⟩

/-- A slate that has been written reads as written. -/
theorem slateVal_putSlate {k : TeamId} {tm : Team} (h : s.team k = some tm) (hw : tm.spad.wf = true) (off : Nat) (v : BitVec 128) :
    (s.putSlate k off v).slateVal k off = v.toNat := by
  have hlt : v.toNat < 256 ^ 16 := v.isLt
  simp only [slateVal, putSlate, team_spadWrite_same, h, Option.map_some, Memory.getNat, Memory.getN_setN_bytesOfNat hw,
    natOfBytes_bytesOfNat, Nat.mod_eq_of_lt hlt]

/-- Only a resident team's slate has MAGIC. -/
theorem exists_team_of_slateMagic {k : TeamId} {off : Nat} (h : slateMagic (s.slateVal k off) = true) : ∃ tm, s.team k = some tm := by
  unfold slateVal at h
  split at h
  · exact ⟨_, ‹_›⟩
  · exact absurd h (by decide)

end State

/-! ## The identity and work of the commands in flight -/

/-- What identifies a command and its work: no credit changes it. -/
def Cmd.work (c : Cmd) : Nat × CoreId × CmdPhase × CmdOp := (c.id, c.core, c.phase, c.op)

theorem State.map_work_onCmd {s : State} {id : Nat} {f : Cmd → Cmd} (hf : ∀ c, (f c).work = c.work) :
    (s.onCmd id f).cmds.map Cmd.work = s.cmds.map Cmd.work := by
  simp only [State.onCmd, List.map_map]
  refine List.map_congr_left fun c _ => ?_
  simp only [Function.comp_apply]
  split
  · exact hf c
  · rfl

theorem State.map_work_dropCmd (s : State) (id : Nat) :
    (s.dropCmd id).cmds.map Cmd.work = (s.cmds.map Cmd.work).filter fun w => !decide (w.1 = id) := by
  rw [List.filter_map]
  rfl

theorem State.cmdCredit_cmds (s : State) (c : Cmd) (q b n : Nat) (err : Bool) : (s.cmdCredit c q b n err).cmds = s.cmds := by
  unfold State.cmdCredit
  split
  · rfl
  · split <;> rfl

/-- A credit to a slate with MAGIC writes the slate; of the other teams and the commands nothing changes. -/
theorem State.applyCredit_magic {s : State} {k : TeamId} {off : Nat} (hm : slateMagic (s.slateVal k off) = true) (x : Credit) :
    (s.applyCredit k off x).teams =
        (s.putSlate k off (creditSlate (s.slateVal k off) x.bytes x.arrivals x.err s.freed).1).teams ∧
      (s.applyCredit k off x).cmds = s.cmds := by
  simp only [State.applyCredit, hm, Bool.not_true, Bool.false_eq_true, if_false]
  split
  · exact ⟨State.releaseSlate_teams .., State.releaseSlate_cmds ..⟩
  · exact ⟨rfl, rfl⟩

theorem State.map_work_applyCredit (s : State) (k : TeamId) (off : Nat) (c : Credit) :
    (s.applyCredit k off c).cmds.map Cmd.work = s.cmds.map Cmd.work := by
  by_cases hm : slateMagic (s.slateVal k off) = true
  · rw [(State.applyCredit_magic hm c).2]
  · simp only [State.applyCredit, hm, Bool.not_false, if_true]
    split
    · rw [State.map_work_onCmd, State.teamReport_cmds]
      exact fun _ => rfl
    · exact congrArg _ (State.teamReport_cmds ..)

theorem State.map_work_creditNow (s : State) (c : Credit) : (s.creditNow c).cmds.map Cmd.work = s.cmds.map Cmd.work := by
  unfold State.creditNow
  split
  · split
    · exact s.map_work_applyCredit _ _ c
    · rfl
  all_goals rfl

theorem State.map_work_flushCredits (s : State) (id : Nat) : (s.flushCredits id).cmds.map Cmd.work = s.cmds.map Cmd.work := by
  have hfold : ∀ (cs : List Credit) (a : State),
      (cs.foldl (fun s c => s.creditNow c) a).cmds.map Cmd.work = a.cmds.map Cmd.work := by
    intro cs
    induction cs with
    | nil => exact fun _ => rfl
    | cons c cs ih => exact fun a => (ih _).trans (a.map_work_creditNow c)
  exact hfold _ _

/-! ## The discard of one command -/

/-- What the reset credits a discarded command's slate with, bytes and arrivals (R232). -/
def Cmd.resetCredit (c : Cmd) : Nat × Nat :=
  match c.op with
  | .mloop _ _ _ _ _ _ _ _ => (0, 1)
  | _ => (c.op.bytes - c.credited, 0)

/-- A discarded command as its record says it: not by its guard, with CAUSE 0x40 and FAIL bit 0 (R232). -/
def Cmd.aborted (c : Cmd) : Cmd := { c with disc := false, cause := 0x40, fail := 1 }

/-- A discarded command leaves: its record is written where it has a status offset, and its lines are given up. -/
def State.retire (s : State) (c : Cmd) : State :=
  match s.cmd c.id with
  | some x =>
      ((match c.status with
        | some off => s.spadWrite c.team off (bytesOfNat 8 x.aborted.record.toNat)
        | none => s).releaseLines c.id).dropCmd c.id
  | none => s

/-- A discard credits the command's slate with ERR at once, and then retires the command. -/
theorem State.resetCmd_eq (s : State) (c : Cmd) : s.resetCmd c =
    ((s.cmdCredit c 0 c.resetCredit.1 c.resetCredit.2 true).flushCredits c.id).retire c := by
  unfold State.resetCmd Cmd.resetCredit
  cases c.op <;> rfl

theorem State.map_work_retire (s : State) (c : Cmd) :
    (s.retire c).cmds.map Cmd.work = (s.cmds.map Cmd.work).filter fun w => !decide (w.1 = c.id) := by
  unfold State.retire
  split
  · rw [State.map_work_dropCmd]
    split <;> rfl
  · rename_i hnone
    rw [List.filter_eq_self.mpr]
    intro w hw
    obtain ⟨x, hx, rfl⟩ := List.mem_map.mp hw
    have hne : x.id ≠ c.id := by simpa using List.find?_eq_none.mp hnone x hx
    simp [Cmd.work, hne]

/-- A discard removes the command, and no other. -/
theorem State.map_work_resetCmd (s : State) (c : Cmd) :
    (s.resetCmd c).cmds.map Cmd.work = (s.cmds.map Cmd.work).filter fun w => !decide (w.1 = c.id) := by
  rw [State.resetCmd_eq, State.map_work_retire, State.map_work_flushCredits, State.cmdCredit_cmds]

theorem State.map_work_resetCmds (s : State) (gone : List Cmd) :
    (gone.foldl (fun s c => s.resetCmd c) s).cmds.map Cmd.work =
      (s.cmds.map Cmd.work).filter fun w => !decide (w.1 ∈ gone.map Cmd.id) := by
  induction gone generalizing s with
  | nil => simp
  | cons c gone ih =>
      rw [List.foldl_cons, ih, State.map_work_resetCmd, List.filter_filter]
      refine List.filter_congr fun w _ => ?_
      by_cases hw : w.1 = c.id <;> simp [hw]

/-! ## The steps of a reset -/

/-- The work that a reset discards with a credit and a record; an OREL goes without. -/
def CmdOp.resetDiscards : CmdOp → Bool
  | .mfeed _ _ _ _ _ | .mloop _ _ _ _ _ _ _ _ | .mdrain _ _ _ _ => true
  | _ => false

/-- OREL. -/
def CmdOp.isOrel : CmdOp → Bool
  | .orel _ => true
  | _ => false

/-- The commands that a reset of the core discards. -/
def State.unitCmds (s : State) (core : CoreId) : List Cmd :=
  s.cmds.filter fun c => decide (c.core = core ∧ c.phase ≠ .finished) && c.op.resetDiscards

/-- A team after a reset of the core: without reservations, and with 0x40 to raise if it holds a granule. -/
def Team.unitReset (core : CoreId) (t : Team) : Team :=
  if t.id.core = core then { t with resv := Vector.replicate 8 none, mrst := t.mrst || !t.gran.isEmpty } else t

@[simp] theorem Team.unitReset_id (core : CoreId) (t : Team) : (t.unitReset core).id = t.id := by
  unfold Team.unitReset
  split <;> rfl

@[simp] theorem Team.unitReset_spad (core : CoreId) (t : Team) : (t.unitReset core).spad = t.spad := by
  unfold Team.unitReset
  split <;> rfl

/-- What a reset does beside its discards: the unit and the core's reservations are empty. -/
def State.clearUnit (s : State) (core : CoreId) : State :=
  ({ s with
    cmds := s.cmds.filter fun c => !(decide (c.core = core) && c.op.isOrel),
    teams := s.teams.map (Team.unitReset core),
    damage := s.damage.filter fun d => match d with
      | .acc c _ => !decide (c = core)
      | _ => true } : State).onCore core fun c => { c with opbuf := [], acc := [], progress := 0 }

/-- A reset discards the unit's commands, one after another, and then empties the unit. -/
theorem State.matrixReset_eq (s : State) (core : CoreId) :
    s.matrixReset core = ((s.unitCmds core).foldl (fun s c => s.resetCmd c) s).clearUnit core := rfl

theorem State.team_clearUnit (s : State) (core : CoreId) (k : TeamId) :
    (s.clearUnit core).team k = (s.team k).map (Team.unitReset core) := by
  simp [State.team, State.clearUnit, List.find?_map]

theorem State.slateVal_clearUnit (s : State) (core : CoreId) (k : TeamId) (off : Nat) :
    (s.clearUnit core).slateVal k off = s.slateVal k off := by
  simp only [State.slateVal, State.team_clearUnit]
  cases s.team k <;> simp

/-! ## What a reset leaves -/

theorem State.matrixReset_resv (s : State) (core : CoreId) :
    ∀ t ∈ (s.matrixReset core).teams, t.id.core = core → t.resv = Vector.replicate 8 none := by
  rw [State.matrixReset_eq]
  intro t ht hcore
  obtain ⟨u, -, rfl⟩ := List.mem_map.mp (show t ∈ List.map (Team.unitReset core) _ from ht)
  rw [Team.unitReset_id] at hcore
  rw [Team.unitReset, if_pos hcore]

theorem State.matrixReset_unit_empty (s : State) (core : CoreId) :
    ((s.matrixReset core).core core).opbuf = [] ∧ ((s.matrixReset core).core core).acc = [] := by
  rw [State.matrixReset_eq, State.clearUnit, State.core_onCore_same]
  exact ⟨rfl, rfl⟩

/-- Without a command in flight a team changes in its reservations and the mark of the reset alone. -/
theorem State.matrixReset_team_idle {s : State} {core : CoreId} {k : TeamId} {tm : Team} (hc : s.cmds = []) (ht : s.team k = some tm)
    (hk : k.core = core) : (s.matrixReset core).team k =
      some { tm with resv := Vector.replicate 8 none, mrst := tm.mrst || !tm.gran.isEmpty } := by
  have hid : tm.id.core = core := by rw [s.team_id ht, hk]
  have hnone : s.unitCmds core = [] := by rw [State.unitCmds, hc]; rfl
  rw [State.matrixReset_eq, hnone, List.foldl_nil, State.team_clearUnit, ht, Option.map_some, Team.unitReset, if_pos hid]

/-- No unfinished command of the unit is left, and no OREL. -/
theorem State.matrixReset_cmds {s : State} {core : CoreId} {c : Cmd} (h : c ∈ (s.matrixReset core).cmds) (hcore : c.core = core)
    (hph : c.phase ≠ .finished) : c.op.resetDiscards = false ∧ c.op.isOrel = false := by
  rw [State.matrixReset_eq] at h
  obtain ⟨hleft, hkept⟩ := List.mem_filter.mp h
  refine ⟨?_, by simpa [hcore] using hkept⟩
  have hw := List.mem_map_of_mem (f := Cmd.work) hleft
  rw [State.map_work_resetCmds] at hw
  obtain ⟨hbefore, hstays⟩ := List.mem_filter.mp hw
  obtain ⟨b, hb, hbw⟩ := List.mem_map.mp hbefore
  simp only [Cmd.work, Prod.mk.injEq] at hbw
  obtain ⟨hbid, hbcore, hbph, hbop⟩ := hbw
  by_contra hdisc
  have hgone : b ∈ s.unitCmds core :=
    List.mem_filter.mpr ⟨hb, by simpa [hbcore, hbph, hbop, hcore, hph] using hdisc⟩
  have hid : c.id ∈ (s.unitCmds core).map Cmd.id := hbid ▸ List.mem_map_of_mem hgone
  simp [Cmd.work, hid] at hstays

/-! ## The slate and the record of a lone command -/

section Lone

variable {s : State} {c : Cmd} {k : TeamId} {off : Nat}

theorem State.slateAt_of_resetDiscards (h : c.op.resetDiscards = true) (s : State) : s.slateAt c 0 = some c.slate := by
  unfold State.slateAt
  split
  · rename_i hop
    simp [hop, CmdOp.resetDiscards] at h
  all_goals rfl

/-- The credit with ERR that a discard sends. -/
def State.errCredit (s : State) (c : Cmd) (bytes arrivals : Nat) : Credit :=
  { id := s.fresh, at' := c.slate, bytes := bytes, arrivals := arrivals, err := true, cmd := some c.id, dest := 0, after := [] }

theorem State.flushCredits_sent (hcr : s.credits = []) (hop : c.op.resetDiscards = true) (b n : Nat) : ∃ a : State,
    (s.cmdCredit c 0 b n true).flushCredits c.id = a.creditNow (s.errCredit c b n) ∧ a.teams = s.teams ∧ a.cmds = s.cmds ∧
      a.freed = s.freed := by
  refine ⟨{ s.bump with credits := [] }, ?_, rfl, rfl, rfl⟩
  simp [State.cmdCredit, State.slateAt_of_resetDiscards hop, hcr, State.errCredit, State.flushCredits]

theorem State.creditNow_team {x : Credit} {tm : Team} (hat : x.at' = .team k off) (ht : s.team k = some tm) :
    s.creditNow x = s.applyCredit k off x := by
  simp [State.creditNow, hat, ht]

/-- With no other credit on its way, the credit of a discard reaches the slate at once (log 54). -/
theorem State.discard_credits_now (hcr : s.credits = []) (hop : c.op.resetDiscards = true) (hsl : c.slate = .team k off)
    (hm : slateMagic (s.slateVal k off) = true) (b n : Nat) :
    ((s.cmdCredit c 0 b n true).flushCredits c.id).teams =
        (s.putSlate k off (creditSlate (s.slateVal k off) b n true s.freed).1).teams ∧
      ((s.cmdCredit c 0 b n true).flushCredits c.id).cmds = s.cmds := by
  obtain ⟨tm, ht⟩ := State.exists_team_of_slateMagic hm
  obtain ⟨a, hsent, hteams, hcmds, hfreed⟩ := State.flushCredits_sent hcr hop b n
  have hval : a.slateVal k off = s.slateVal k off := State.slateVal_congr (State.team_congr hteams k) off
  obtain ⟨h1, h2⟩ := State.applyCredit_magic (s := a) (hval ▸ hm) (s.errCredit c b n)
  rw [hsent, State.creditNow_team (k := k) (off := off) hsl ((State.team_congr hteams k).trans ht)]
  refine ⟨h1.trans ?_, h2.trans hcmds⟩
  rw [hval, hfreed]
  exact State.putSlate_teams_congr hteams k off _

/-- A reset discards the only command in flight, and then empties the unit. -/
theorem State.matrixReset_lone (hc : s.cmds = [c]) (hph : c.phase ≠ .finished) (hop : c.op.resetDiscards = true) :
    s.matrixReset c.core = (s.resetCmd c).clearUnit c.core := by
  have hunit : s.unitCmds c.core = [c] := by simp [State.unitCmds, hc, hph, hop]
  rw [State.matrixReset_eq, hunit, List.foldl_cons, List.foldl_nil]

theorem State.cmd_lone (hc : s.cmds = [c]) : s.cmd c.id = some c := by
  simp [State.cmd, hc]

/-- A command that is still there as it was, without a status offset, leaves the teams as they are. -/
theorem State.retire_teams (hc : s.cmds = [c]) (hst : c.status = none) : (s.retire c).teams = s.teams := by
  simp only [State.retire, State.cmd_lone hc, hst]
  rfl

/-- With one its record is written. -/
theorem State.retire_teams_status {so : Nat} (hc : s.cmds = [c]) (hst : c.status = some so) : (s.retire c).teams =
    (s.spadWrite c.team so (bytesOfNat 8 c.aborted.record.toNat)).teams := by
  simp only [State.retire, State.cmd_lone hc, hst]
  rfl

/-- The slate of a discarded command has the credit with ERR. -/
theorem State.matrixReset_slateVal {tm : Team} (hc : s.cmds = [c]) (hcr : s.credits = []) (hph : c.phase ≠ .finished)
    (hop : c.op.resetDiscards = true) (hsl : c.slate = .team k off) (ht : s.team k = some tm) (hw : tm.spad.wf = true)
    (hm : slateMagic (s.slateVal k off) = true) (hst : c.status = none) : (s.matrixReset c.core).slateVal k off =
      (creditSlate (s.slateVal k off) c.resetCredit.1 c.resetCredit.2 true s.freed).1.toNat := by
  obtain ⟨hteams, hcmds⟩ := State.discard_credits_now hcr hop hsl hm c.resetCredit.1 c.resetCredit.2
  rw [State.matrixReset_lone hc hph hop, State.slateVal_clearUnit, State.resetCmd_eq,
    State.slateVal_congr (State.team_congr ((State.retire_teams (hcmds.trans hc) hst).trans hteams) k),
    State.slateVal_putSlate ht hw]

/-- The record of a discarded command: DONE, CAUSE 0x40 and FAIL bit 0. -/
theorem State.matrixReset_record {tm : Team} {so : Nat} (hc : s.cmds = [c]) (hcr : s.credits = []) (hph : c.phase ≠ .finished)
    (hop : c.op.resetDiscards = true) (hsl : c.slate = .team k off) (hm : slateMagic (s.slateVal k off) = true)
    (hst : c.status = some so) (ht : s.team c.team = some tm) (hw : tm.spad.wf = true) :
    ∃ t, (s.matrixReset c.core).team c.team = some t ∧
      t.spad.getN so 8 = bytesOfNat 8 c.aborted.record.toNat := by
  obtain ⟨hteams, hcmds⟩ := State.discard_credits_now hcr hop hsl hm c.resetCredit.1 c.resetCredit.2
  obtain ⟨tm', ht', hw'⟩ := State.team_spadWrite_wf ht hw k off
    (bytesOfNat 16 (creditSlate (s.slateVal k off) c.resetCredit.1 c.resetCredit.2 true s.freed).1.toNat)
  have hcredited := (State.team_congr hteams c.team).trans ht'
  rw [State.matrixReset_lone hc hph hop, State.team_clearUnit, State.resetCmd_eq,
    State.team_congr (State.retire_teams_status (hcmds.trans hc) hst), State.team_spadWrite_same, hcredited]
  refine ⟨_, rfl, ?_⟩
  rw [Team.unitReset_spad]
  exact Memory.getN_setN_bytesOfNat hw' so 8 _

end Lone

/-! ## The fields of a completion record -/

/-- Table 13.6: DONE, DISC, CAUSE, NOSL and FAIL stand at their places. -/
theorem Cmd.record_fields (c : Cmd) : c.record.getLsbD 63 = true ∧ c.record.getLsbD 62 = c.disc ∧
    c.record.extractLsb' 32 8 = c.cause ∧ c.record.extractLsb' 16 12 = c.nosl ∧ c.record.extractLsb' 0 12 = c.fail := by
  refine ⟨?_, ?_, ?_, ?_, ?_⟩
  case refine_1 | refine_2 =>
    simp only [Cmd.record]
    repeat rw [BitVec.getLsbD_append]
    simp
  all_goals
    ext i hi
    simp only [Cmd.record, BitVec.getElem_extractLsb']
    repeat rw [BitVec.getLsbD_append]
    simp (disch := omega) only [if_neg, if_pos]
    rw [← BitVec.getLsbD_eq_getElem]
    congr 1
    omega

/-! ## MRST -/

theorem exec_mrst (u : Bool) (s : State) :
    exec (.mrst u) s = execLanes (.mrst u) none (fun s th _ => (s.matrixReset th.id.team.core, none)) s := rfl

/-- A word that fails for the whole group, with one cause in every lane, does not execute. -/
theorem execLanes_wordCause {i : Instr} {s : State} {p : Pipe} {tm : Team} {c : BitVec 8} (body : Body) (hs : s.site = some (p, tm))
    (hr : p.ran = []) (hw : wordCause i p tm = some c) (hl : ∀ (a : State) l, a.laneCause i p c l = c) :
    execLanes i none body s = .next ((s.faultLanes p i.uni (fltWord c i) p.lanes).past p i) := by
  simp only [execLanes, hs, left_ready hr, State.precheck, hw, hl, State.runBody, State.past, State.faultLanes]

/-- Without PRIV, MRST is refused as a reserved opcode is (R96). -/
theorem wordCause_mrst {u : Bool} {p : Pipe} {tm : Team} (h : tm.priv = false) : wordCause (.mrst u) p tm = some 0x10 := by
  simp [wordCause, h]

/-- Settles O31: it holds. A reset is its discards, one after another, and then the emptying of the unit (`State.matrixReset_eq`); each
clause says what one of these leaves. -/
theorem matrixResetNeedsPriv : Obligations.MatrixResetNeedsPriv := by
  refine ⟨fun u => ?_, fun s core => ?_, fun s core k tm => ?_, fun s core c hc hcore hph => ?_, ?_, ?_, ?_, Cmd.record_fields, ?_⟩
  · exact completes_of (exec_mrst u) fun s th _ s' h => by rw [h]
  · exact ⟨s.matrixReset_resv core, s.matrixReset_unit_empty core⟩
  · exact State.matrixReset_team_idle
  · obtain ⟨hunit, horel⟩ := State.matrixReset_cmds hc hcore hph
    exact ⟨fun _ _ _ _ _ hop => by simp [hop, CmdOp.resetDiscards] at hunit,
      fun _ _ _ _ _ _ _ _ hop => by simp [hop, CmdOp.resetDiscards] at hunit,
      fun _ _ _ _ hop => by simp [hop, CmdOp.resetDiscards] at hunit, fun _ hop => by simp [hop, CmdOp.isOrel] at horel⟩
  · intro s c st g a b m n x y k off tm hc hcr hph hop hsl ht hw hm hst
    rw [State.matrixReset_slateVal hc hcr hph (by rw [hop]; rfl) hsl ht hw hm hst, Cmd.resetCredit, hop]
  · intro s c r sp a d n k off tm hc hcr hph hop hsl ht hw hm hst
    rw [State.matrixReset_slateVal hc hcr hph (by rw [hop]; rfl) hsl ht hw hm hst, Cmd.resetCredit, hop]
  · intro s c sp d g r k off so tm hc hcr hph hop hsl hm hst ht hw
    exact State.matrixReset_record hc hcr hph (by rw [hop]; rfl) hsl hm hst ht hw
  · intro u s p tm hs hr hp
    rw [exec_mrst, execLanes_wordCause _ hs hr (wordCause_mrst hp) fun _ _ => rfl]

end Sys2Proof.Machine
end

section
/-!
SUPPORT. Integer arithmetic (06_arithmetic R111, R112): two's complement patterns of exact integers, the value that each instruction
of moulds IA and SH writes, and the obligations about them.
-/
namespace Sys2Proof.Machine

/-! ## Patterns -/

/-- A pattern of `w` bits is its own remainder. -/
@[simp] theorem wrapInt_mod (w : Nat) (x : Int) : wrapInt w x % 2 ^ w = wrapInt w x := by
  refine Nat.mod_eq_of_lt ?_
  have h := Int.emod_lt_of_pos x (show (0 : Int) < (2 ^ w : Nat) by positivity)
  rw [wrapInt]
  omega

/-- The remainder of a natural number is the pattern of every integer that it is congruent to. -/
theorem mod_eq_wrapInt {w n : Nat} {x : Int} (h : (n : Int) ≡ x [ZMOD (2 ^ w : Nat)]) : n % 2 ^ w = wrapInt w x := by
  rw [wrapInt, ← h, ← Int.natCast_mod, Int.toNat_natCast]

theorem wrapInt_natCast (w n : Nat) : wrapInt w n = n % 2 ^ w := (mod_eq_wrapInt rfl).symm

/-- The bounds of a value that is sign-extended from `w` bits. -/
theorem signedOf_bounds {w : Nat} (hw : 0 < w) (x : Nat) :
    -((2 ^ (w - 1) : Nat) : Int) ≤ signedOf w x ∧ signedOf w x < (2 ^ (w - 1) : Nat) := by
  have hx := Nat.mod_lt x (Nat.two_pow_pos w)
  have h2 := Nat.two_pow_pred_mul_two hw
  unfold signedOf
  split <;> omega

/-- A pattern whose sign bit is 0 is its own value. -/
theorem signedOf_of_nonneg {w x : Nat} (hx : x < 2 ^ w) (h : 0 ≤ signedOf w x) : signedOf w x = x := by
  unfold signedOf at h ⊢
  rw [Nat.mod_eq_of_lt hx] at h ⊢
  split at h
  · rw [if_pos (by assumption)]
  · omega

theorem signedOf_toNat (x : Word) : signedOf 32 x.toNat = x.toInt := by
  have hx := x.isLt
  unfold signedOf
  rw [BitVec.toInt_eq_toNat_cond]
  split <;> split <;> omega

/-! ## Registers and their bits -/

theorem widthRegs_cases (w : Width) : w.regs = 1 ∨ w.regs = 2 ∨ w.regs = 4 := by cases w <;> simp [Width.regs]

theorem intTypeRegs_cases (ty : IntType) : ty.regs = 1 ∨ ty.regs = 2 ∨ ty.regs = 4 := by cases ty <;> simp [IntType.regs]

theorem Thread.regN_width_lt (t : Thread) (o : Opnd) (w : Width) : t.regN o w.regs < 2 ^ (32 * w.regs) :=
  t.regN_lt o w.regs (widthRegs_cases w)

theorem widthBits_pos (w : Width) : 0 < 32 * w.regs := by cases w <;> decide

/-! ## Clamping -/

/-- Between bounds in order a clamp is the nearer bound, or the value itself. -/
theorem clampInt_eq_max_min {lo hi : Int} (h : lo ≤ hi) (x : Int) : clampInt lo hi x = max lo (min hi x) := by
  unfold clampInt
  split
  · omega
  · split <;> omega

theorem intBounds_le {w : Nat} (sg : Bool) : (intBounds w sg).1 ≤ (intBounds w sg).2 := by
  have h1 := Nat.two_pow_pos (w - 1)
  have h2 := Nat.two_pow_pos w
  cases sg <;> simp only [intBounds, if_true, Bool.false_eq_true, if_false] <;> omega

/-- Without the S bit an exact result is wrapped, and no flag is set (R111). -/
theorem narrow_wraps (w : Nat) (sg : Bool) (x : Int) : narrow w sg false x = (wrapInt w x, 0) := rfl

/-- With it the result is clamped, and SAT is set for a value outside the bounds (R111). -/
theorem narrow_clamps (w : Nat) (sg : Bool) (x : Int) : narrow w sg true x =
    (wrapInt w (max (intBounds w sg).1 (min (intBounds w sg).2 x)),
      if (intBounds w sg).1 ≤ x ∧ x ≤ (intBounds w sg).2 then 0 else flSAT) := by
  have hle := intBounds_le (w := w) sg
  simp only [narrow, if_true, clampInt_eq_max_min hle]
  congr 2
  rw [eq_iff_iff]
  omega

/-! ## Sums, products and absolute values -/

theorem sub_pattern_mod {w b : Nat} (a : Nat) (hb : b < 2 ^ w) : (a + (2 ^ w - b)) % 2 ^ w = wrapInt w ((a : Int) - b) := by
  refine mod_eq_wrapInt ?_
  rw [Nat.cast_add, Nat.cast_sub hb.le, ← add_sub_assoc, add_sub_right_comm]
  exact Int.add_modEq_right

theorem addImm_mod (a : Word) (imm : BitVec 9) : (a + imm.signExtend 32).toNat % 2 ^ 32 = wrapInt 32 (a.toInt + imm.toInt) := by
  rw [Nat.mod_eq_of_lt (BitVec.isLt _), wrapInt, ← BitVec.toNat_ofInt, BitVec.ofInt_add, BitVec.ofInt_toInt, BitVec.signExtend]

/-- IABS: the absolute value wraps, so that the least value is its own result (R111). -/
theorem natAbs_signedOf_mod {w a : Nat} (ha : a < 2 ^ w) : (signedOf w a).natAbs % 2 ^ w =
    (if signedOf w a < 0 then wrapInt w (-signedOf w a) else a) % 2 ^ w := by
  split
  · next hneg => rw [wrapInt_mod, ← Int.ofNat_natAbs_of_nonpos hneg.le, wrapInt_natCast]
  · next hpos => rw [signedOf_of_nonneg ha (not_lt.mp hpos), Int.natAbs_natCast]

/-- The high half of a 64-bit pattern is the pattern of the quotient. -/
theorem wrapInt_high_half (x : Int) : wrapInt 64 x / 2 ^ 32 = wrapInt 32 (x / (2 ^ 32 : Nat)) := by
  unfold wrapInt
  omega

/-- IMUL.hi with signed operands. -/
theorem mulValue_hiI32_mod (x y : Word) :
    mulValue .hiI32 x.toNat y.toNat % 2 ^ 32 = wrapInt 32 (x.toInt * y.toInt / (2 ^ 32 : Nat)) % 2 ^ 32 := by
  rw [mulValue, wrapInt_high_half, signedOf_toNat, signedOf_toNat]

/-! ## Shifts -/

theorem shlValue_mod (w a n : Nat) : shlValue w a n % 2 ^ w = a * 2 ^ n % 2 ^ w := by
  unfold shlValue
  split
  · next h => rw [Nat.zero_mod, Nat.mod_eq_zero_of_dvd (Dvd.dvd.mul_left (pow_dvd_pow 2 h) a)]
  · exact Nat.mod_mod _ _

theorem shrValue_eq {w a : Nat} (n : Nat) (ha : a < 2 ^ w) : shrValue w a n = a / 2 ^ n := by
  unfold shrValue
  split
  · next h => rw [Nat.div_eq_of_lt (ha.trans_le (Nat.pow_le_pow_right two_pos h))]
  · rfl

/-- From `w` places on, an arithmetic shift fills the register with the sign. -/
theorem signedOf_shift_past {w n : Nat} (hw : 0 < w) (a : Nat) (h : w ≤ n) :
    signedOf w a / (2 ^ n : Nat) = if signedOf w a < 0 then -1 else 0 := by
  obtain ⟨hlo, hhi⟩ := signedOf_bounds hw a
  have hpow : 2 ^ w ≤ 2 ^ n := Nat.pow_le_pow_right two_pos h
  have h2 := Nat.two_pow_pred_mul_two hw
  split
  · exact Int.ediv_eq_neg_one_of_neg_of_le (by assumption) (by omega)
  · exact Int.ediv_eq_zero_of_lt (by omega) (by omega)

theorem sarValue_eq {w : Nat} (hw : 0 < w) (a n : Nat) : sarValue w a n = wrapInt w (signedOf w a / (2 ^ n : Nat)) := by
  unfold sarValue
  rcases le_total w n with h | h
  · rw [min_eq_right h, signedOf_shift_past hw a le_rfl, signedOf_shift_past hw a h]
  · rw [min_eq_left h]

/-- The two parts of a rotation share no bit: their union is their sum. -/
theorem rolValue_mod {w a : Nat} (n : Nat) (hw : 0 < w) (ha : a < 2 ^ w) :
    rolValue w a n % 2 ^ w = (a * 2 ^ (n % w) + a / 2 ^ (w - n % w)) % 2 ^ w := by
  obtain ⟨k, hk⟩ : ∃ k, k = n % w := ⟨_, rfl⟩
  have hkw : k < w := hk ▸ Nat.mod_lt n hw
  have hpow : 2 ^ w = 2 ^ (w - k) * 2 ^ k := by rw [← pow_add, Nat.sub_add_cancel hkw.le]
  have hlow : a / 2 ^ (w - k) < 2 ^ k := Nat.div_lt_of_lt_mul (hpow ▸ ha)
  have hhigh : a * 2 ^ k % 2 ^ w = (a % 2 ^ (w - k)) <<< k := by
    rw [Nat.shiftLeft_eq, hpow, Nat.mul_mod_mul_right]
  rw [rolValue, ← hk, hhigh, ← Nat.shiftLeft_add_eq_or_of_lt hlow, ← hhigh, Nat.mod_add_mod]

/-! ## Group sums -/

/-- The integer sum of a group is exact, and is narrowed once (23_ref R337). -/
theorem reduce_add_int {ty : GrType} (h : ty ∈ [.i32, .n32, .i64, .n64]) (r : Rnd) (sat : Bool) (xs : List Nat) :
    reduce .add ty r sat xs = narrow (32 * ty.regs) (ty == .i32 || ty == .i64) sat
      ((xs.map fun x => intOf (32 * ty.regs) (ty == .i32 || ty == .i64) x).sum) := by
  rw [List.sum_eq_foldl]
  cases ty with
  | f64 | f32 => simp at h
  | i32 | n32 | i64 | n64 => rfl

/-! ## Division -/

/-- IDIV, value and flag. -/
theorem intDiv_eq (w : Nat) (sg : Bool) (a b : Nat) : intDiv w sg a b =
    (wrapInt w (if intOf w sg b = 0 then (if intOf w sg a < 0 then (intBounds w sg).1 else (intBounds w sg).2)
      else Int.tdiv (intOf w sg a) (intOf w sg b)), if intOf w sg b = 0 then flDZ else 0) := by
  simp only [intDiv]
  split <;> rfl

/-- IREM, value and flag: dividend − quotient × divisor is the remainder with the dividend's sign (R112). -/
theorem intRem_eq (w : Nat) (sg : Bool) (a b : Nat) : intRem w sg a b =
    (wrapInt w (if intOf w sg b = 0 then intOf w sg a else Int.tmod (intOf w sg a) (intOf w sg b)),
      if intOf w sg b = 0 then flDZ else 0) := by
  simp only [intRem, Int.tmod_def, mul_comm]
  split <;> rfl

/-! ## The obligations -/

/-- An ALU instruction whose value agrees, within the width of its destination, with `val`. -/
theorem laneResult_of_value {i : Instr} {d : Opnd} {n : Nat} {f : Thread → Nat × Word} {val : Thread → Nat} {fl : Thread → Word}
    (he : ∀ s, exec i s = execAlu i d n f s) (hu : dstU n d ∈ i.uses) (hn : n = 1 ∨ n = 2 ∨ n = 4)
    (hv : ∀ t, (f t).1 % 2 ^ (32 * n) = val t % 2 ^ (32 * n)) (hf : ∀ t, (f t).2 = fl t) : LaneResult i d n val fl :=
  (laneResult_of he (.inl hu) hn).congr hv hf

theorem imad_result (u : Bool) (d a b c : Opnd) (ty : IntType) (sat : Bool) : LaneResult (.imad u d a b c ty sat) d ty.regs
    (fun t => (narrow (typeBits ty) (signedType ty) sat (t.int ty a * t.int ty b + t.int ty c)).1)
    fun t => (narrow (typeBits ty) (signedType ty) sat (t.int ty a * t.int ty b + t.int ty c)).2 :=
  laneResult_of_value (exec_imad u d a b c ty sat) (.head _) (intTypeRegs_cases ty) (fun _ => rfl) fun _ => rfl

/-- Settles O1: it holds. Each instruction's value is congruent to the exact integer modulo the width of its destination. -/
theorem integerArithmeticWrapsOrSaturates : Obligations.IntegerArithmeticWrapsOrSaturates := by
  refine ⟨?iadd, ?isub, ?iaddi, ?iabs, ?imulLow32, ?imulLow64, ?imulHighSigned, ?imulHighUnsigned, ?imad, ?imadSat, ?sum, ?sumSat,
    ?shl, ?shr, ?sar, ?rol⟩
  case iadd =>
    intro u d a b w
    exact laneResult_of_value (exec_iadd u d a b w) (.head _) (widthRegs_cases w) (fun _ => rfl) fun _ => rfl
  case isub =>
    intro u d a b w
    exact laneResult_of_value (exec_isub u d a b w) (.head _) (widthRegs_cases w)
      (fun t => (sub_pattern_mod _ (t.regN_width_lt b w)).trans (wrapInt_mod _ _).symm) fun _ => rfl
  case iaddi =>
    intro u d a imm
    exact laneResult_of_value (exec_iaddi u d a imm) (.head _) (.inl rfl)
      (fun t => (addImm_mod (t.reg a) imm).trans (wrapInt_mod _ _).symm) fun _ => rfl
  case iabs =>
    intro u d a w
    exact laneResult_of_value (exec_iabs u d a w) (.head _) (widthRegs_cases w)
      (fun t => natAbs_signedOf_mod (t.regN_width_lt a w)) fun _ => rfl
  case imulLow32 =>
    intro u d a b
    exact laneResult_of_value (exec_imul u d a b .b32) (.head _) (.inl rfl) (fun _ => Nat.mod_mod _ _) fun _ => rfl
  case imulLow64 =>
    intro u d a b
    exact laneResult_of_value (exec_imul u d a b .b64) (.head _) (.inr (.inl rfl)) (fun _ => Nat.mod_mod _ _) fun _ => rfl
  case imulHighSigned =>
    intro u d a b
    exact laneResult_of_value (exec_imul u d a b .hiI32) (.head _) (.inl rfl)
      (fun t => mulValue_hiI32_mod (t.reg a) (t.reg b)) fun _ => rfl
  case imulHighUnsigned =>
    intro u d a b
    exact laneResult_of_value (exec_imul u d a b .hiN32) (.head _) (.inl rfl) (fun _ => rfl) fun _ => rfl
  case imad =>
    intro u d a b c ty
    simpa only [narrow_wraps] using imad_result u d a b c ty false
  case imadSat =>
    intro u d a b c ty
    simpa only [narrow_clamps] using imad_result u d a b c ty true
  case sum =>
    intro ty r xs h
    rw [reduce_add_int h, narrow_wraps]
  case sumSat =>
    rintro ty r xs _ h rfl
    rw [reduce_add_int h, narrow_clamps]
  case shl =>
    intro u d a n w
    exact laneResult_of_value (exec_shl u d a n w) (.head _) (widthRegs_cases w) (fun _ => shlValue_mod _ _ _) fun _ => rfl
  case shr =>
    intro u d a n w
    exact laneResult_of_value (exec_shr u d a n w) (.head _) (widthRegs_cases w)
      (fun t => congrArg (· % _) (shrValue_eq _ (t.regN_width_lt a w))) fun _ => rfl
  case sar =>
    intro u d a n w
    exact laneResult_of_value (exec_sar u d a n w) (.head _) (widthRegs_cases w)
      (fun _ => congrArg (· % _) (sarValue_eq (widthBits_pos w) _ _)) fun _ => rfl
  case rol =>
    intro u d a n w
    exact laneResult_of_value (exec_rol u d a n w) (.head _) (widthRegs_cases w)
      (fun t => rolValue_mod _ (widthBits_pos w) (t.regN_width_lt a w)) fun _ => rfl

/-- Settles O2: it holds. Both instructions select the value of Table 6.7 and the flag by the divisor alone. -/
theorem divisionTruncatesAndZeroDividesSetDz : Obligations.DivisionTruncatesAndZeroDividesSetDz := by
  refine ⟨?idiv, ?irem⟩
  case idiv =>
    intro u d a b ty
    exact laneResult_of_value (exec_idiv u d a b ty) (.head _) (intTypeRegs_cases ty)
      (fun t => congrArg (·.1 % _) (intDiv_eq _ _ _ _)) fun t => congrArg Prod.snd (intDiv_eq _ _ _ _)
  case irem =>
    intro u d a b ty
    exact laneResult_of_value (exec_irem u d a b ty) (.head _) (intTypeRegs_cases ty)
      (fun t => congrArg (·.1 % _) (intRem_eq _ _ _ _)) fun t => congrArg Prod.snd (intRem_eq _ _ _ _)

end Sys2Proof.Machine
end

section
/-!
SUPPORT. The two headline obligations: decoding undoes encoding (05_encoding), assembled from the laws of the single instructions, and
every step keeps every memory in canonical form (07_memory 7.1, 7.2), assembled from the laws of the single operations.
-/
namespace Sys2Proof.Laws

/-- Every encoded instruction's law; an event has no words, and its fields agree with no form. -/
theorem decode_encode (i : Instr) : RoundTrip.Statement i := by
  cases i with
  | aalloc => apply RoundTrip.aalloc
  | afree => apply RoundTrip.afree
  | and => apply RoundTrip.and
  | atom => apply RoundTrip.atom
  | atomn => apply RoundTrip.atomn
  | bfi => apply RoundTrip.bfi
  | bfx => apply RoundTrip.bfx
  | bkpt => apply RoundTrip.bkpt
  | bra => apply RoundTrip.bra
  | brc => apply RoundTrip.brc
  | brev => apply RoundTrip.brev
  | brx => apply RoundTrip.brx
  | call => apply RoundTrip.call
  | callx => apply RoundTrip.callx
  | cas => apply RoundTrip.cas
  | cbar => apply RoundTrip.cbar
  | clz => apply RoundTrip.clz
  | cmnt => apply RoundTrip.cmnt
  | cpy => apply RoundTrip.cpy
  | cpym => apply RoundTrip.cpym
  | cpyt => apply RoundTrip.cpyt
  | cred => apply RoundTrip.cred
  | cvt => apply RoundTrip.cvt
  | dadd => apply RoundTrip.dadd
  | dcmp => apply RoundTrip.dcmp
  | ddiv => apply RoundTrip.ddiv
  | dfma => apply RoundTrip.dfma
  | dmax => apply RoundTrip.dmax
  | dmin => apply RoundTrip.dmin
  | dmul => apply RoundTrip.dmul
  | dqnt => apply RoundTrip.dqnt
  | drcp => apply RoundTrip.drcp
  | dsqrt => apply RoundTrip.dsqrt
  | dsub => apply RoundTrip.dsub
  | exit => apply RoundTrip.exit
  | fadd => apply RoundTrip.fadd
  | fcls => apply RoundTrip.fcls
  | fcmp => apply RoundTrip.fcmp
  | fcos => apply RoundTrip.fcos
  | fdiv => apply RoundTrip.fdiv
  | fence => apply RoundTrip.fence
  | fex2 => apply RoundTrip.fex2
  | ffma => apply RoundTrip.ffma
  | flg2 => apply RoundTrip.flg2
  | fmax => apply RoundTrip.fmax
  | fmin => apply RoundTrip.fmin
  | fmul => apply RoundTrip.fmul
  | frcp => apply RoundTrip.frcp
  | frsq => apply RoundTrip.frsq
  | fsin => apply RoundTrip.fsin
  | fsqrt => apply RoundTrip.fsqrt
  | fsub => apply RoundTrip.fsub
  | garm => apply RoundTrip.garm
  | gets => apply RoundTrip.gets
  | gred => apply RoundTrip.gred
  | gscan => apply RoundTrip.gscan
  | gset => apply RoundTrip.gset
  | hadd2 => apply RoundTrip.hadd2
  | hfma2 => apply RoundTrip.hfma2
  | hmul2 => apply RoundTrip.hmul2
  | iabs => apply RoundTrip.iabs
  | iadd => apply RoundTrip.iadd
  | iaddi => apply RoundTrip.iaddi
  | icmp => apply RoundTrip.icmp
  | idiv => apply RoundTrip.idiv
  | imad => apply RoundTrip.imad
  | imax => apply RoundTrip.imax
  | imin => apply RoundTrip.imin
  | imul => apply RoundTrip.imul
  | irem => apply RoundTrip.irem
  | isub => apply RoundTrip.isub
  | jpost => apply RoundTrip.jpost
  | ld => apply RoundTrip.ld
  | ldnr => apply RoundTrip.ldnr
  | mdrain => apply RoundTrip.mdrain
  | mfeed => apply RoundTrip.mfeed
  | mloop => apply RoundTrip.mloop
  | mov => apply RoundTrip.mov
  | movh => apply RoundTrip.movh
  | movi => apply RoundTrip.movi
  | mrst => apply RoundTrip.mrst
  | mzero => apply RoundTrip.mzero
  | nop => exact RoundTrip.nop
  | or => apply RoundTrip.or
  | orel => apply RoundTrip.orel
  | ores => apply RoundTrip.ores
  | padd => apply RoundTrip.padd
  | pfree => apply RoundTrip.pfree
  | pld => apply RoundTrip.pld
  | pldr => apply RoundTrip.pldr
  | plop => apply RoundTrip.plop
  | pmovPack => apply RoundTrip.pmovPack
  | pmovUnpack => apply RoundTrip.pmovUnpack
  | pnew => apply RoundTrip.pnew
  | popc => apply RoundTrip.popc
  | post => apply RoundTrip.post
  | pqry => apply RoundTrip.pqry
  | precv => apply RoundTrip.precv
  | pref => apply RoundTrip.pref
  | pseal => apply RoundTrip.pseal
  | pst => apply RoundTrip.pst
  | pstr => apply RoundTrip.pstr
  | pwait => apply RoundTrip.pwait
  | qnt => apply RoundTrip.qnt
  | resq => apply RoundTrip.resq
  | resume => apply RoundTrip.resume
  | resumeSkip => apply RoundTrip.resumeSkip
  | ret => apply RoundTrip.ret
  | rol => apply RoundTrip.rol
  | sar => apply RoundTrip.sar
  | sarv => apply RoundTrip.sarv
  | sel => apply RoundTrip.sel
  | sets => apply RoundTrip.sets
  | sexp => apply RoundTrip.sexp
  | shfl => apply RoundTrip.shfl
  | shl => apply RoundTrip.shl
  | shr => apply RoundTrip.shr
  | sinit => apply RoundTrip.sinit
  | st => apply RoundTrip.st
  | stf => apply RoundTrip.stf
  | swait => apply RoundTrip.swait
  | tbar => apply RoundTrip.tbar
  | tdld => apply RoundTrip.tdld
  | tdrop => apply RoundTrip.tdrop
  | trap => apply RoundTrip.trap
  | ttagImmediate => apply RoundTrip.ttagImmediate
  | ttagRegister => apply RoundTrip.ttagRegister
  | vote => apply RoundTrip.vote
  | xor => apply RoundTrip.xor
  | _ => exact RoundTrip.of_event rfl

/-- Settles O54: it holds, instruction by instruction. -/
theorem encodedInstructionsDecodeBack : Obligations.EncodedInstructionsDecodeBack := decode_encode

end Sys2Proof.Laws

namespace Sys2Proof.Machine

/-! ## Every step keeps the memories canonical -/

/-- One arm of `exec` after another keeps every memory in canonical form. -/
theorem memOk_exec {s : State} (i : Instr) (h : MemOk s) : OutMemOk (exec i s) := by
  cases i with
  | exportEntryWrite => exact memOk_execExportEntryWrite h
  | revocationComplete => exact memOk_execRevocationComplete h
  | importEntryWrite => exact memOk_execImportEntryWrite h
  | presentMaskWrite => exact memOk_execPresentMaskWrite h
  | partitionMaskWrite => exact memOk_execPartitionMaskWrite h
  | diePresentMapWrite => exact memOk_execDiePresentMapWrite h
  | virtualDieMapWrite => exact memOk_execVirtualDieMapWrite h
  | rootWrite => exact memOk_execRootWrite h
  | shootdown => exact memOk_execShootdown h
  | shootdownCompletion => exact memOk_execShootdownCompletion h
  | completionDoorbell => exact memOk_execCompletionDoorbell h
  | poolConfiguration => exact memOk_execPoolConfiguration h
  | queueConfiguration => exact memOk_execQueueConfiguration h
  | queueDoorbell => exact memOk_execQueueDoorbell h
  | queuePreemption => exact memOk_execQueuePreemption h
  | endGrid => exact memOk_execEndGrid h
  | mark => exact memOk_execMark h
  | unmark => exact memOk_execUnmark h
  | continueThread => exact memOk_execContinueThread h
  | skipThread => exact memOk_execSkipThread h
  | killThread => exact memOk_execKillThread h
  | portReset => exact memOk_execPortReset h
  | registerWrite => exact memOk_execRegisterWrite h
  | spdmGetCertificate => exact memOk_execSpdmGetCertificate h
  | spdmGetMeasurements => exact memOk_execSpdmGetMeasurements h
  | spdmSignedReport => exact memOk_execSpdmSignedReport h
  | selectorDispatch => exact memOk_execSelectorDispatch h
  | clauseIssue => exact memOk_execClauseIssue h
  | loadReturn => exact memOk_execLoadReturn h
  | drainComplete => exact memOk_execDrainComplete h
  | faultRecord => exact memOk_execFaultRecord h
  | barrierArrival => exact memOk_execBarrierArrival h
  | slateCredit => exact memOk_execSlateCredit h
  | commandEnter => exact memOk_execCommandEnter h
  | commandStart => exact memOk_execCommandStart h
  | engineSourceRead => exact memOk_execEngineSourceRead h
  | engineUnitWrite => exact memOk_execEngineUnitWrite h
  | engineCompletionRecord => exact memOk_execEngineCompletionRecord h
  | mfeedLineEnter => exact memOk_execMfeedLineEnter h
  | mloopStep => exact memOk_execMloopStep h
  | afreeEffect => exact memOk_execAfreeEffect h
  | orelEffect => exact memOk_execOrelEffect h
  | matrixWatchdogExpiry => exact memOk_execMatrixWatchdogExpiry h
  | catchableRead => exact memOk_execCatchableRead h
  | steeredRead => exact memOk_execSteeredRead h
  | directRead => exact memOk_execDirectRead h
  | readReply => exact memOk_execReadReply h
  | ownershipRequest => exact memOk_execOwnershipRequest h
  | cut => exact memOk_execCut h
  | cutAcknowledgement => exact memOk_execCutAcknowledgement h
  | grant => exact memOk_execGrant h
  | holderEviction => exact memOk_execHolderEviction h
  | writebackAcknowledgement => exact memOk_execWritebackAcknowledgement h
  | prune => exact memOk_execPrune h
  | backoffResend => exact memOk_execBackoffResend h
  | ownershipDelayExpiry => exact memOk_execOwnershipDelayExpiry h
  | bounceEntryClear => exact memOk_execBounceEntryClear h
  | farAtomic => exact memOk_execFarAtomic h
  | folioRequest => exact memOk_execFolioRequest h
  | folioGrant => exact memOk_execFolioGrant h
  | folioCut => exact memOk_execFolioCut h
  | folioLineAck => exact memOk_execFolioLineAck h
  | snpInv => exact memOk_execSnpInv h
  | snpData => exact memOk_execSnpData h
  | snpCur line => exact memOk_execSnpCur (_line := line) h
  | inboundWrite => exact memOk_execInboundWrite h
  | peerWindowRequest => exact memOk_execPeerWindowRequest h
  | peerWindowResponse => exact memOk_execPeerWindowResponse h
  | stfDataAcknowledgement => exact memOk_execStfDataAcknowledgement h
  | flagIncrement => exact memOk_execFlagIncrement h
  | poolResponse => exact memOk_execPoolResponse h
  | laneFailure => exact memOk_execLaneFailure h
  | retrainStepComplete => exact memOk_execRetrainStepComplete h
  | poolRequestTimeout => exact memOk_execPoolRequestTimeout h
  | packetRetransmit => exact memOk_execPacketRetransmit h
  | networkTmoExpiry => exact memOk_execNetworkTmoExpiry h
  | packetArrival => exact memOk_execPacketArrival h
  | parcelClaim => exact memOk_execParcelClaim h
  | parcelArrival => exact memOk_execParcelArrival h
  | cardTake die => exact (memOk_execCardTake h : OutMemOk (execCardTake die s))
  | localCardTake => exact memOk_execLocalCardTake h
  | clusterPlacement => exact memOk_execClusterPlacement h
  | clusterRetire => exact memOk_execClusterRetire h
  | queueCompletionRecord => exact memOk_execQueueCompletionRecord h
  | contextSave => exact memOk_execContextSave h
  | contextResume => exact memOk_execContextResume h
  | coldBoot => exact memOk_execColdBoot h
  | powerLimitStep => exact memOk_execPowerLimitStep h
  | marginReplan => exact memOk_execMarginReplan h
  | aalloc => exact memOk_execAalloc h
  | afree => exact memOk_execAfree h
  | and => exact memOk_execAnd h
  | atom => exact memOk_execAtom h
  | atomn => exact memOk_execAtomn h
  | bfi => exact memOk_execBfi h
  | bfx => exact memOk_execBfx h
  | bkpt => exact memOk_execBkpt h
  | bra => exact memOk_execBra h
  | brc => exact memOk_execBrc h
  | brev => exact memOk_execBrev h
  | brx => exact memOk_execBrx h
  | call => exact memOk_execCall h
  | callx => exact memOk_execCallx h
  | cas => exact memOk_execCas h
  | cbar => exact memOk_execCbar h
  | clz => exact memOk_execClz h
  | cmnt => exact memOk_execCmnt h
  | cpy => exact memOk_execCpy h
  | cpym => exact memOk_execCpym h
  | cpyt => exact memOk_execCpyt h
  | cred => exact memOk_execCred h
  | cvt => exact memOk_execCvt h
  | dadd => exact memOk_execDadd h
  | dcmp => exact memOk_execDcmp h
  | ddiv => exact memOk_execDdiv h
  | dfma => exact memOk_execDfma h
  | dmax => exact memOk_execDmax h
  | dmin => exact memOk_execDmin h
  | dmul => exact memOk_execDmul h
  | dqnt => exact memOk_execDqnt h
  | drcp => exact memOk_execDrcp h
  | dsqrt => exact memOk_execDsqrt h
  | dsub => exact memOk_execDsub h
  | exit => exact memOk_execExit h
  | fadd => exact memOk_execFadd h
  | fcls => exact memOk_execFcls h
  | fcmp => exact memOk_execFcmp h
  | fcos => exact memOk_execFcos h
  | fdiv => exact memOk_execFdiv h
  | fence => exact memOk_execFence h
  | fex2 => exact memOk_execFex2 h
  | ffma => exact memOk_execFfma h
  | flg2 => exact memOk_execFlg2 h
  | fmax => exact memOk_execFmax h
  | fmin => exact memOk_execFmin h
  | fmul => exact memOk_execFmul h
  | frcp => exact memOk_execFrcp h
  | frsq => exact memOk_execFrsq h
  | fsin => exact memOk_execFsin h
  | fsqrt => exact memOk_execFsqrt h
  | fsub => exact memOk_execFsub h
  | garm => exact memOk_execGarm h
  | gets => exact memOk_execGets h
  | gred => exact memOk_execGred h
  | gscan => exact memOk_execGscan h
  | gset => exact memOk_execGset h
  | hadd2 => exact memOk_execHadd2 h
  | hfma2 => exact memOk_execHfma2 h
  | hmul2 => exact memOk_execHmul2 h
  | iabs => exact memOk_execIabs h
  | iadd => exact memOk_execIadd h
  | iaddi => exact memOk_execIaddi h
  | icmp => exact memOk_execIcmp h
  | idiv => exact memOk_execIdiv h
  | imad => exact memOk_execImad h
  | imax => exact memOk_execImax h
  | imin => exact memOk_execImin h
  | imul => exact memOk_execImul h
  | irem => exact memOk_execIrem h
  | isub => exact memOk_execIsub h
  | jpost => exact memOk_execJpost h
  | ld => exact memOk_execLd h
  | ldnr => exact memOk_execLdnr h
  | mdrain => exact memOk_execMdrain h
  | mfeed => exact memOk_execMfeed h
  | mloop => exact memOk_execMloop h
  | mov => exact memOk_execMov h
  | movh => exact memOk_execMovh h
  | movi => exact memOk_execMovi h
  | mrst => exact memOk_execMrst h
  | mzero => exact memOk_execMzero h
  | nop => exact memOk_execNop h
  | or => exact memOk_execOr h
  | orel => exact memOk_execOrel h
  | ores => exact memOk_execOres h
  | padd => exact memOk_execPadd h
  | pfree => exact memOk_execPfree h
  | pld => exact memOk_execPld h
  | pldr => exact memOk_execPldr h
  | plop => exact memOk_execPlop h
  | pmovPack => exact memOk_execPmovPack h
  | pmovUnpack => exact memOk_execPmovUnpack h
  | pnew => exact memOk_execPnew h
  | popc => exact memOk_execPopc h
  | post => exact memOk_execPost h
  | pqry => exact memOk_execPqry h
  | precv => exact memOk_execPrecv h
  | pref => exact memOk_execPref h
  | pseal => exact memOk_execPseal h
  | pst => exact memOk_execPst h
  | pstr => exact memOk_execPstr h
  | pwait => exact memOk_execPwait h
  | qnt => exact memOk_execQnt h
  | resq => exact memOk_execResq h
  | resume => exact memOk_execResume h
  | resumeSkip => exact memOk_execResumeSkip h
  | ret => exact memOk_execRet h
  | rol => exact memOk_execRol h
  | sar => exact memOk_execSar h
  | sarv => exact memOk_execSarv h
  | sel => exact memOk_execSel h
  | sets => exact memOk_execSets h
  | sexp => exact memOk_execSexp h
  | shfl => exact memOk_execShfl h
  | shl => exact memOk_execShl h
  | shr => exact memOk_execShr h
  | sinit => exact memOk_execSinit h
  | st => exact memOk_execSt h
  | stf => exact memOk_execStf h
  | swait => exact memOk_execSwait h
  | tbar => exact memOk_execTbar h
  | tdld => exact memOk_execTdld h
  | tdrop => exact memOk_execTdrop h
  | trap => exact memOk_execTrap h
  | ttagImmediate => exact memOk_execTtagImmediate h
  | ttagRegister => exact memOk_execTtagRegister h
  | vote => exact memOk_execVote h
  | xor => exact memOk_execXor h
  | coreCycle => exact memOk_execCoreCycle h
  | mzeroEffect => exact memOk_execMzeroEffect h
  | cxlCacheResponse => exact memOk_execCxlCacheResponse h
  | selectiveAcknowledgement => exact memOk_execSelectiveAcknowledgement h
  | inboundRead line off len => exact memOk_execInboundRead (_line := line) (_off := off) (_len := len) h
  | faultReportRingSpace => exact memOk_execFaultReportRingSpace h
  | ethernetPortFailure => exact memOk_execEthernetPortFailure h

theorem memOk_executeWord {s : State} {p : Pipe} {tm : Team} (h : MemOk s) : OutMemOk (s.executeWord p tm) := by
  have hf : MemOk (s.fetchInstr p tm).1 := memOk_fetchInstr h
  unfold State.executeWord
  split
  · next u i e =>
    rw [e] at hf
    exact memOk_exec i hf
  · next u f e =>
    rw [e] at hf
    split
    · exact outMemOk_next (memOk_addHold hf)
    · exact outMemOk_next (memOk_fetchFault hf)

/-- The event that a search of the candidates finds is an execution of one of them that changes the state. -/
theorem State.firstChange_next {s t : State} {es : List Instr} {k n : Nat} (h : s.firstChange es k = some (n, .next t)) :
    ∃ e ∈ es, exec e s = .next t ∧ t ≠ s := by
  induction es generalizing k with
  | nil => simp [State.firstChange] at h
  | cons e es ih =>
    unfold State.firstChange at h
    split at h
    · next u he =>
      split at h
      · obtain ⟨e', hm, hrest⟩ := ih h
        exact ⟨e', List.mem_cons_of_mem _ hm, hrest⟩
      · next hne =>
        cases h
        exact ⟨e, List.mem_cons_self, he, hne⟩
    all_goals cases h

theorem memOk_ownEvent {s : State} (h : MemOk s) : OutMemOk s.ownEvent := by
  unfold State.ownEvent
  split
  · next n t e =>
    obtain ⟨i, -, he, -⟩ := State.firstChange_next e
    exact outMemOk_next (memOk_exec i h t he)
  · next n o hnot e =>
    rintro t rfl
    exact absurd rfl (hnot t)
  · exact outMemOk_next h

theorem memOk_step {s : State} (h : MemOk s) : OutMemOk (step s) := by
  unfold step
  split
  · exact memOk_exec _ h
  · split
    · exact memOk_executeWord h
    · exact memOk_ownEvent h

/-- Settles O60: it holds. Each of the three kinds of step keeps the memories canonical, because every instruction and event does. -/
theorem stepKeepsMemoriesCanonical : Obligations.StepKeepsMemoriesCanonical := fun _ t h e => memOk_step h t e

/-- Settles O59: it holds. At reset no team is resident, no context is saved and no memory lists a byte. -/
theorem memoriesAreCanonicalAtReset : Obligations.MemoriesAreCanonicalAtReset :=
  ⟨rfl, rfl, fun _ h => absurd h List.not_mem_nil, fun _ h => absurd h List.not_mem_nil, fun _ h => absurd h List.not_mem_nil⟩

end Sys2Proof.Machine
end

section
/-!
SUPPORT. Extremes, bitwise logic, bit counts, bit fields (22_ref, 23_ref, 25_ref) and moves, compares and predicates (24_ref): the bits of
each value, and the obligations about them.
-/
namespace Sys2Proof.Machine

/-! ## Extremes -/

theorem signedOf_emod (w x : Nat) : wrapInt w (signedOf w x) = x % 2 ^ w := by
  unfold signedOf
  split
  · rw [wrapInt_natCast, Nat.mod_mod]
  · refine (mod_eq_wrapInt ?_).symm
    exact (Int.modEq_iff_dvd.mpr ⟨-1, by push_cast; ring⟩).symm.trans (Int.mod_modEq _ _) |>.symm

/-- A pattern's integer has that pattern. -/
theorem wrapInt_intOf (w : Nat) (sg : Bool) (x : Nat) : wrapInt w (intOf w sg x) = x % 2 ^ w := by
  cases sg with
  | true => exact signedOf_emod w x
  | false => exact (wrapInt_natCast w _).trans (Nat.mod_mod _ _)

theorem Thread.wrapInt_int (t : Thread) (ty : IntType) (o : Opnd) :
    wrapInt (typeBits ty) (t.int ty o) = t.regN o ty.regs % 2 ^ (32 * ty.regs) := wrapInt_intOf _ _ _

/-- Choosing an operand by the order of the integers is the pattern of the lesser. -/
theorem Thread.imin_value (t : Thread) (ty : IntType) (a b : Opnd) :
    (if t.int ty a ≤ t.int ty b then t.regN a ty.regs else t.regN b ty.regs) % 2 ^ (32 * ty.regs) =
      wrapInt (typeBits ty) (min (t.int ty a) (t.int ty b)) % 2 ^ (32 * ty.regs) := by
  rw [show 32 * ty.regs = typeBits ty from rfl, wrapInt_mod]
  rcases le_total (t.int ty a) (t.int ty b) with h | h
  · rw [if_pos h, min_eq_left h, t.wrapInt_int]; rfl
  · rw [min_eq_right h, t.wrapInt_int]
    split
    · next h' => rw [← t.wrapInt_int ty b, ← le_antisymm h' h, t.wrapInt_int]; rfl
    · rfl

/-- The other operand is the pattern of the greater. -/
theorem Thread.imax_value (t : Thread) (ty : IntType) (a b : Opnd) :
    (if t.int ty a ≤ t.int ty b then t.regN b ty.regs else t.regN a ty.regs) % 2 ^ (32 * ty.regs) =
      wrapInt (typeBits ty) (max (t.int ty a) (t.int ty b)) % 2 ^ (32 * ty.regs) := by
  rw [show 32 * ty.regs = typeBits ty from rfl, wrapInt_mod]
  rcases le_total (t.int ty a) (t.int ty b) with h | h
  · rw [if_pos h, max_eq_right h, t.wrapInt_int]; rfl
  · rw [max_eq_left h, t.wrapInt_int]
    split
    · next h' => rw [← t.wrapInt_int ty a, le_antisymm h' h, t.wrapInt_int]; rfl
    · rfl

/-! ## Bit counts -/

/-- The ones among the low `w` bits are counted bit by bit. -/
theorem popcount_eq (w x : Nat) : popcount w x = ((List.range w).filter fun k => x.testBit k).length := by
  induction w generalizing x with
  | zero => rfl
  | succ w ih =>
    rw [popcount, ih, List.range_succ_eq_map, List.filter_cons, List.filter_map, Function.comp_def]
    simp only [Nat.testBit_zero, ← Nat.testBit_div_two]
    rcases Nat.mod_two_eq_zero_or_one x with h | h <;> simp [h, Nat.add_comm]

theorem leadingZeros_zero (k : Nat) : leadingZeros k 0 = k := rfl

/-- Below the counted zeros stands the highest one. -/
theorem leadingZeros_spec {x k : Nat} (hx : x < 2 ^ k) (h0 : x ≠ 0) :
    leadingZeros k x < k ∧ x.testBit (k - 1 - leadingZeros k x) = true ∧ ∀ m, k - 1 - leadingZeros k x < m → x.testBit m = false := by
  have hlog : Nat.log2 x < k := (Nat.log2_lt h0).mpr hx
  have htop : k - 1 - leadingZeros k x = Nat.log2 x := by
    rw [leadingZeros, if_neg h0]
    omega
  rw [htop]
  refine ⟨by rw [leadingZeros, if_neg h0]; omega, Nat.testBit_log2 h0, fun m hm => ?_⟩
  exact Nat.testBit_lt_two_pow ((Nat.log2_lt h0).mp hm)

theorem reverseBits_lt (k x : Nat) : reverseBits k x < 2 ^ k := by
  induction k generalizing x with
  | zero => simp [reverseBits]
  | succ k ih =>
    have h2 := Nat.mod_lt x two_pos
    have hk := ih (x / 2)
    rw [reverseBits, pow_succ]
    nlinarith

/-- Bit `j` of the reversal is the bit as far from the other end. -/
theorem testBit_reverseBits {k j : Nat} (x : Nat) (h : j < k) : (reverseBits k x).testBit j = x.testBit (k - 1 - j) := by
  induction k generalizing x with
  | zero => omega
  | succ k ih =>
    rw [reverseBits, mul_comm, Nat.testBit_two_pow_mul_add _ (reverseBits_lt k _)]
    split
    · next hj => rw [ih _ hj, Nat.testBit_div_two]; congr 1; omega
    · next hj =>
      obtain rfl : j = k := by omega
      simp [Nat.testBit_zero]

/-! ## Bit fields -/

/-- BFX of an unsigned value: the field's bits, and zeros above. -/
theorem testBit_bfxValue {w j : Nat} (a ctl : Nat) (h : j < w) : (bfxValue w false (a % 2 ^ w) ctl).testBit j =
    (decide (j < bitsOf ctl 8 8) && (a % 2 ^ w).testBit (j + bitsOf ctl 0 8)) := by
  have hx : (intOf w false (a % 2 ^ w) / (2 ^ bitsOf ctl 0 8 : Nat) : Int) = ((a % 2 ^ w / 2 ^ bitsOf ctl 0 8 : Nat) : Int) := by
    simp [intOf]
  have hbit (n : Nat) (hn : j < n) : (a % 2 ^ w / 2 ^ bitsOf ctl 0 8 % 2 ^ n).testBit j = (a % 2 ^ w).testBit (j + bitsOf ctl 0 8) := by
    simp [Nat.testBit_mod_two_pow, hn, Nat.testBit_div_two_pow]
  simp only [bfxValue, hx, wrapInt_natCast, Bool.false_eq_true, if_false]
  split
  · next h0 => simp [h0]
  · split
    · by_cases hj : j < bitsOf ctl 8 8
      · rw [hbit _ hj]; simp [hj]
      · simp [Nat.testBit_mod_two_pow, hj]
    · next hw => rw [hbit _ h]; simp [show j < bitsOf ctl 8 8 by omega]

/-- The bits of a mask of `n` ones from bit `pos`, cut to `w` bits. -/
theorem testBit_fieldMask (n pos w j : Nat) :
    ((2 ^ n - 1) * 2 ^ pos % 2 ^ w).testBit j = (decide (j < w) && (decide (pos ≤ j) && decide (j - pos < n))) := by
  rw [Nat.testBit_mod_two_pow, mul_comm, Nat.testBit_two_pow_mul, Nat.testBit_two_pow_sub_one]

/-- BFI: the field comes from `b`, every other bit from `a`. -/
theorem testBit_bfiValue {w j : Nat} (a b ctl : Nat) (h : j < w) : (bfiValue w a b ctl).testBit j =
    if bitsOf ctl 0 8 ≤ j ∧ j < bitsOf ctl 0 8 + bitsOf ctl 8 8 then b.testBit (j - bitsOf ctl 0 8) else a.testBit j := by
  have hmask : (2 ^ min (bitsOf ctl 8 8) w - 1) * 2 ^ bitsOf ctl 0 8 % 2 ^ w < 2 ^ w := Nat.mod_lt _ (Nat.two_pow_pos w)
  simp only [bfiValue, Nat.testBit_or, Nat.testBit_and]
  rw [show 2 ^ w - 1 - (2 ^ min (bitsOf ctl 8 8) w - 1) * 2 ^ bitsOf ctl 0 8 % 2 ^ w =
      2 ^ w - ((2 ^ min (bitsOf ctl 8 8) w - 1) * 2 ^ bitsOf ctl 0 8 % 2 ^ w + 1) by omega,
    Nat.testBit_two_pow_sub_succ hmask, testBit_fieldMask, mul_comm b, Nat.testBit_two_pow_mul]
  by_cases hlo : bitsOf ctl 0 8 ≤ j <;> by_cases hhi : j < bitsOf ctl 0 8 + bitsOf ctl 8 8
  · simp [h, hlo, hhi, show j - bitsOf ctl 0 8 < min (bitsOf ctl 8 8) w by omega]
  · simp [h, hlo, hhi, show ¬ j - bitsOf ctl 0 8 < min (bitsOf ctl 8 8) w by omega]
  · simp [hlo]; exact fun _ => h
  · simp [hlo]; exact fun _ => h

/-- Settles O3: it holds. -/
theorem extremesLogicAndBitFields : Obligations.ExtremesLogicAndBitFields := by
  refine ⟨?imin, ?imax, ?and, ?or, ?xor, ?popc, ?clz, leadingZeros_zero, fun x k => leadingZeros_spec, ?brev,
    fun k x j => testBit_reverseBits x, ?bfx, ?bfi, fun w a ctl j => testBit_bfxValue a ctl, fun w a b ctl j => testBit_bfiValue a b ctl⟩
  case imin =>
    intro u d a b ty
    exact laneResult_of_value (exec_imin u d a b ty) (.head _) (intTypeRegs_cases ty) (fun t => t.imin_value ty a b) fun _ => rfl
  case imax =>
    intro u d a b ty
    exact laneResult_of_value (exec_imax u d a b ty) (.head _) (intTypeRegs_cases ty) (fun t => t.imax_value ty a b) fun _ => rfl
  case and =>
    intro u d a b w
    exact laneResult_of_value (exec_and u d a b w) (.head _) (widthRegs_cases w) (fun _ => rfl) fun _ => rfl
  case or =>
    intro u d a b w
    exact laneResult_of_value (exec_or u d a b w) (.head _) (widthRegs_cases w) (fun _ => rfl) fun _ => rfl
  case xor =>
    intro u d a b w
    exact laneResult_of_value (exec_xor u d a b w) (.head _) (widthRegs_cases w) (fun _ => rfl) fun _ => rfl
  case popc =>
    intro u d a w
    exact laneResult_of_value (exec_popc u d a w) (.head _) (.inl rfl) (fun t => congrArg (· % _) (popcount_eq _ _)) fun _ => rfl
  case clz =>
    intro u d a w
    exact laneResult_of_value (exec_clz u d a w) (.head _) (.inl rfl) (fun _ => rfl) fun _ => rfl
  case brev =>
    intro u d a w
    exact laneResult_of_value (exec_brev u d a w) (.head _) (widthRegs_cases w) (fun _ => rfl) fun _ => rfl
  case bfx =>
    intro u d a ctl ty
    exact laneResult_of_value (exec_bfx u d a ctl ty) (.head _) (intTypeRegs_cases ty) (fun _ => rfl) fun _ => rfl
  case bfi =>
    intro u d a b ctl w
    exact laneResult_of_value (exec_bfi u d a b ctl w) (.head _) (widthRegs_cases w) (fun _ => rfl) fun _ => rfl

/-! ## Moves -/

theorem movWidthRegs_cases (w : MovWidth) : w.regs = 1 ∨ w.regs = 2 ∨ w.regs = 4 := by cases w <;> simp [MovWidth.regs]

/-- MOVH: the immediate above the low half of the old value. -/
theorem movh_value (imm : BitVec 16) (x : Word) :
    imm.toNat * 2 ^ 16 + x.toNat % 2 ^ 16 = (imm ++ x.extractLsb' 0 16).toNat := by
  rw [BitVec.toNat_append, ← Nat.shiftLeft_add_eq_or_of_lt (BitVec.isLt _), Nat.shiftLeft_eq, BitVec.extractLsb'_toNat,
    Nat.shiftRight_zero]

/-! ## Predicates -/

/-- Writing a predicate replaces its bit and keeps the others. -/
theorem Thread.setPred_p (t : Thread) (i : BitVec 3) (v : Bool) :
    (t.setPred i v).p = BitVec.ofFnLE fun j : Fin 8 => if j.val = i.toNat then v else t.p.getLsbD j := by
  refine BitVec.eq_of_getLsbD_eq fun j hj => ?_
  simp only [Thread.setPred, BitVec.getLsbD_or, BitVec.getLsbD_and, BitVec.getLsbD_not, BitVec.getLsbD_shiftLeft,
    BitVec.getLsbD_ofFnLE, hj, dite_true]
  by_cases he : j = i.toNat
  · cases v <;> simp [he, hj]
  · by_cases hlt : j < i.toNat
    · simp [he, hlt, hj]
    · have h0 : j - i.toNat ≠ 0 := by omega
      cases v <;> simp [he, hlt, hj, h0, BitVec.getLsbD_one]

/-- The table index of PLOP: its first predicate weighs two. -/
theorem plop_index (x y : Bool) : ((if x then 2 else 0) + if y then 1 else 0) = 2 * x.toNat + y.toNat := by
  cases x <;> cases y <;> rfl

/-- PMOV.unpack: the masked bits come from the register. -/
theorem unpack_p (p mask : BitVec 8) (x : Word) : (p &&& ~~~ mask) ||| (x.setWidth 8 &&& mask) =
    BitVec.ofFnLE fun j : Fin 8 => if mask.getLsbD j then x.getLsbD j else p.getLsbD j := by
  refine BitVec.eq_of_getLsbD_eq fun j hj => ?_
  simp only [BitVec.getLsbD_or, BitVec.getLsbD_and, BitVec.getLsbD_not, BitVec.getLsbD_setWidth, BitVec.getLsbD_ofFnLE, hj, dite_true]
  cases mask.getLsbD j <;> simp

/-- A compare or PLOP: one predicate is written. -/
theorem lanePredicates_setPred {i : Instr} {q : BitVec 3} {v : Thread → Bool} {fl : Thread → Word}
    (he : ∀ s, exec i s = execPred i (fun t => (fun x => x.setPred q (v t), fl t)) s) :
    LanePredicates i (fun t p => BitVec.ofFnLE fun j : Fin 8 => if j.val = q.toNat then v t else p.getLsbD j) fl :=
  lanePredicates_of he (fun _ _ => rfl) (fun _ t => t.setPred_p q _) fun _ => rfl

/-- Settles O4: it holds. -/
theorem movesComparesAndPredicates : Obligations.MovesComparesAndPredicates := by
  refine ⟨?mov, ?movi, ?movh, ?sel, ?pack, ?icmp, ?fcmp, ?dcmp, ?plop, ?unpack⟩
  case mov =>
    intro u d a w
    exact laneResult_of_value (exec_mov u d a w) (.head _) (movWidthRegs_cases w) (fun _ => rfl) fun _ => rfl
  case movi =>
    intro u d imm
    exact laneResult_of_value (exec_movi u d imm) (.head _) (.inl rfl) (fun _ => rfl) fun _ => rfl
  case movh =>
    intro u d imm
    exact (laneResult_of (exec_movh u d imm) (.inr (.head _)) (.inl rfl)).congr
      (fun t => congrArg (· % _) (movh_value imm (t.reg d))) fun _ => rfl
  case sel =>
    intro u d a b p neg w
    refine laneResult_of_value (exec_sel u d a b p neg w) (.head _) (movWidthRegs_cases w) (fun t => ?_) fun _ => rfl
    cases neg <;> cases h : t.p.getLsbD p.toNat <;> simp [Thread.pred, h]
  case pack =>
    intro u d
    exact laneResult_of_value (exec_pmovPack u d) (.head _) (.inl rfl) (fun _ => rfl) fun _ => rfl
  case icmp => exact fun u c p a b w => lanePredicates_setPred (exec_icmp u c p a b w)
  case fcmp => exact fun u c p a b => lanePredicates_setPred (exec_fcmp u c p a b)
  case dcmp => exact fun u c p a b => lanePredicates_setPred (exec_dcmp u c p a b)
  case plop =>
    intro u pd pa pb lut
    simp only [← plop_index]
    exact lanePredicates_setPred (exec_plop u pd pa pb lut)
  case unpack =>
    intro u a mask
    exact lanePredicates_of (exec_pmovUnpack u a mask) (fun _ _ => rfl) (fun r t => unpack_p t.p mask (r.reg a)) fun _ => rfl

end Sys2Proof.Machine
end

section
/-!
SUPPORT. Floating-point instructions, packed halves and conversions (06_arithmetic, 23_ref), group instructions (23_ref R337) and the frame
of the register instructions (02_execution 2.3): the obligations about them.
-/
namespace Sys2Proof.Machine

/-! ## Floating point -/

/-- Settles O5: it holds. Each instruction is its format's operation on the operands that it names. -/
theorem floatingPointArithmetic : Obligations.FloatingPointArithmetic := by
  have single : 1 = 1 ∨ 1 = 2 ∨ 1 = 4 := .inl rfl
  have double : 2 = 1 ∨ 2 = 2 ∨ 2 = 4 := .inr (.inl rfl)
  exact ⟨fun u d a b r => laneResult_of (exec_fadd u d a b r) (.inl (.head _)) single,
    fun u d a b r => laneResult_of (exec_fsub u d a b r) (.inl (.head _)) single,
    fun u d a b r => laneResult_of (exec_fmul u d a b r) (.inl (.head _)) single,
    fun u d a b r => laneResult_of (exec_fdiv u d a b r) (.inl (.head _)) single,
    fun u d a b => laneResult_of (exec_fmin u d a b) (.inl (.head _)) single,
    fun u d a b => laneResult_of (exec_fmax u d a b) (.inl (.head _)) single,
    fun u d a b c r => laneResult_of (exec_ffma u d a b c r) (.inl (.head _)) single,
    fun u d a r => laneResult_of (exec_fsqrt u d a r) (.inl (.head _)) single,
    fun u d a => laneResult_of (exec_frcp u d a) (.inl (.head _)) single,
    fun u d a => laneResult_of (exec_frsq u d a) (.inl (.head _)) single,
    fun u d a => laneResult_of (exec_fex2 u d a) (.inl (.head _)) single,
    fun u d a => laneResult_of (exec_flg2 u d a) (.inl (.head _)) single,
    fun u d a => laneResult_of (exec_fsin u d a) (.inl (.head _)) single,
    fun u d a => laneResult_of (exec_fcos u d a) (.inl (.head _)) single,
    fun u d a b r => laneResult_of (exec_dadd u d a b r) (.inl (.head _)) double,
    fun u d a b r => laneResult_of (exec_dsub u d a b r) (.inl (.head _)) double,
    fun u d a b r => laneResult_of (exec_dmul u d a b r) (.inl (.head _)) double,
    fun u d a b r => laneResult_of (exec_ddiv u d a b r) (.inl (.head _)) double,
    fun u d a b => laneResult_of (exec_dmin u d a b) (.inl (.head _)) double,
    fun u d a b => laneResult_of (exec_dmax u d a b) (.inl (.head _)) double,
    fun u d a b c r => laneResult_of (exec_dfma u d a b c r) (.inl (.head _)) double,
    fun u d a r => laneResult_of (exec_dsqrt u d a r) (.inl (.head _)) double,
    fun u d a => laneResult_of (exec_drcp u d a) (.inl (.head _)) double⟩

theorem fmtRegs_cases (f : Fmt) : f.regs = 1 ∨ f.regs = 2 ∨ f.regs = 4 := by cases f <;> simp [Fmt.regs]

theorem grTypeRegs_cases (ty : GrType) : ty.regs = 1 ∨ ty.regs = 2 ∨ ty.regs = 4 := by cases ty <;> simp [GrType.regs]

/-- Settles O6: it holds. A packed instruction packs the results of its two halves; a conversion writes what its format's function answers. -/
theorem packedHalvesAndConversions : Obligations.PackedHalvesAndConversions := by
  refine ⟨?hadd2, ?hmul2, ?hfma2, ?fcls32, ?fcls64, ?cvt, ?qnt, ?dqnt⟩
  case hadd2 => exact fun u d a b bf r => laneResult_of (exec_hadd2 u d a b bf r) (.inl (.head _)) (.inl rfl)
  case hmul2 => exact fun u d a b bf r => laneResult_of (exec_hmul2 u d a b bf r) (.inl (.head _)) (.inl rfl)
  case hfma2 => exact fun u d a b c bf r => laneResult_of (exec_hfma2 u d a b c bf r) (.inl (.head _)) (.inl rfl)
  case fcls32 => exact fun u d a => laneResult_of (exec_fcls u d a .w32) (.inl (.head _)) (.inl rfl)
  case fcls64 => exact fun u d a => laneResult_of (exec_fcls u d a .w64) (.inl (.head _)) (.inl rfl)
  case cvt => exact fun u d a df sf r sat => laneResult_of (exec_cvt u d a df sf r sat) (.inl (.head _)) (fmtRegs_cases df)
  case qnt =>
    intro u d x sc z sf r q4 l hl
    have he := exec_qnt u d x sc z sf r q4
    simp only [hl] at he
    exact laneResult_of he (.inl (.head _)) (.inl rfl)
  case dqnt =>
    intro u d q sc z df r sat q4 l hl
    have he := exec_dqnt u d q sc z df r sat q4
    simp only [hl] at he
    exact laneResult_of he (.inl (.head _)) (fmtRegs_cases df)

/-! ## Group instructions -/

/-- Group instructions execute for each lane: their U bit is 0 (02_execution R34). -/
@[simp] theorem uni_gred (d a : Opnd) (op : GrOp) (ty : GrType) (r : Rnd) (sat : Bool) : (Instr.gred d a op ty r sat).uni = false :=
  flag_packA_u

@[simp] theorem uni_gscan (d a : Opnd) (op : GrOp) (ty : GrType) (r : Rnd) (sat ex : Bool) :
    (Instr.gscan d a op ty r sat ex).uni = false :=
  flag_packA_u

@[simp] theorem uni_shfl (d a b : Opnd) (mode : ShflMode) (w : Width) : (Instr.shfl d a b mode w).uni = false :=
  flag_packA_u

@[simp] theorem uni_vote (d : Opnd) (mode : VoteMode) (neg : Bool) (p : BitVec 3) : (Instr.vote d mode neg p).uni = false :=
  flag_packS_u

theorem voteResult (d : Opnd) (mode : VoteMode) (neg : Bool) (p : BitVec 3) : GroupResult (.vote d mode neg p) d 1
    fun ls _ => (voteValue mode (ls.map fun t => (t.lane, t.pred p != neg)), 0) :=
  groupResult_of (uni_vote ..) (exec_vote d mode neg p) (.inl (.head _)) (.inl rfl)

theorem voteValue_any (ls : List Thread) (f : Thread → Nat × Bool) :
    voteValue .any (ls.map f) = if ls.any (fun t => (f t).2) then 1 else 0 := by
  simp [voteValue, Function.comp_def]

theorem voteValue_all (ls : List Thread) (f : Thread → Nat × Bool) :
    voteValue .all (ls.map f) = if ls.all (fun t => (f t).2) then 1 else 0 := by
  simp [voteValue, Function.comp_def]

/-- Equality of the lanes' predicates does not see whether they are negated. -/
theorem voteValue_eq (ls : List Thread) (neg : Bool) (p : BitVec 3) : voteValue .eq (ls.map fun t => (t.lane, t.pred p != neg)) =
    if (ls.all fun t => t.pred p) || ls.all fun t => !t.pred p then 1 else 0 := by
  cases neg with
  | false => simp [voteValue, Function.comp_def]
  | true => simp [voteValue, Function.comp_def, or_comm]

theorem voteValue_ballot (ls : List Thread) (f : Thread → Nat × Bool) :
    voteValue .ballot (ls.map f) = (ls.map fun t => if (f t).2 then 2 ^ (f t).1 else 0).sum := by
  rw [List.sum_eq_foldl, List.foldl_map]
  simp [voteValue, List.foldl_map]

/-- Settles O8: it holds. The value of a lane is a function of all active lanes as they stood before the word. -/
theorem groupInstructions : Obligations.GroupInstructions := by
  refine ⟨?gred, ?gscan, ?shfl, ?any, ?all, ?eq, ?ballot⟩
  case gred =>
    exact fun d a op ty r sat => groupResult_of (uni_gred ..) (exec_gred d a op ty r sat) (.inl (.head _)) (grTypeRegs_cases ty)
  case gscan =>
    exact fun d a op ty r sat ex => groupResult_of (uni_gscan ..) (exec_gscan d a op ty r sat ex) (.inl (.head _)) (grTypeRegs_cases ty)
  case shfl => exact fun d a b mode w => groupResult_of (uni_shfl ..) (exec_shfl d a b mode w) (.inl (.head _)) (widthRegs_cases w)
  case any => exact fun d neg p => by simpa only [voteValue_any] using voteResult d .any neg p
  case all => exact fun d neg p => by simpa only [voteValue_all] using voteResult d .all neg p
  case eq => exact fun d neg p => by simpa only [voteValue_eq] using voteResult d .eq neg p
  case ballot => exact fun d neg p => by simpa only [voteValue_ballot] using voteResult d .ballot neg p

/-! ## The shapes of the register instructions -/

/-- How a register instruction is executed: an ALU shape, a predicate shape, a group shape, or NOP. -/
inductive RegisterShape (i : Instr) : Prop where
  | alu (d : Opnd) (n : Nat) (f : Thread → Nat × Word) (he : ∀ s, exec i s = execAlu i d n f s)
      (hu : dstU n d ∈ i.uses ∨ both n d ∈ i.uses) (hn : n = 1 ∨ n = 2 ∨ n = 4) (hf : setsNoFlag i = true → ∀ r, (f r).2 = 0)
  | preds (f : Thread → (Thread → Thread) × Word) (he : ∀ s, exec i s = execPred i f s)
      (hg : ∀ r x, ∃ q, (f r).1 x = { x with p := q } ∧ (q &&& ~~~ destPreds i) = (x.p &&& ~~~ destPreds i))
      (hf : setsNoFlag i = true → ∀ r, (f r).2 = 0)
  | group (d : Opnd) (n : Nat) (f : List Thread → Thread → Nat × Word) (he : ∀ s, exec i s = execGroupAlu i d n f s)
      (hu : dstU n d ∈ i.uses ∨ both n d ∈ i.uses) (hn : n = 1 ∨ n = 2 ∨ n = 4) (hf : setsNoFlag i = true → ∀ ls r, (f ls r).2 = 0)
  | nop (he : ∀ s, exec i s = execLanes i none (fun s _ _ => (s, none)) s)

/-- An ALU instruction whose first field is its destination, and that sets no flag. -/
theorem RegisterShape.plain {i : Instr} {d : Opnd} {n : Nat} {f : Thread → Nat} (he : ∀ s, exec i s = execAlu i d n (fun t => (f t, 0)) s)
    (hu : dstU n d ∈ i.uses) (hn : n = 1 ∨ n = 2 ∨ n = 4) : RegisterShape i :=
  .alu d n _ he (.inl hu) hn fun _ _ => rfl

/-- One whose flags a team collects. -/
theorem RegisterShape.flagged {i : Instr} {d : Opnd} {n : Nat} {f : Thread → Nat × Word} (hs : setsNoFlag i = false)
    (he : ∀ s, exec i s = execAlu i d n f s) (hu : dstU n d ∈ i.uses) (hn : n = 1 ∨ n = 2 ∨ n = 4) : RegisterShape i :=
  .alu d n f he (.inl hu) hn fun h => absurd (hs.symm.trans h) Bool.false_ne_true

/-- Outside the mask of one predicate, writing it changes nothing. -/
theorem setPred_masked (t : Thread) (i : BitVec 3) (v : Bool) :
    ((t.setPred i v).p &&& ~~~ (1#8 <<< i.toNat)) = (t.p &&& ~~~ (1#8 <<< i.toNat)) := by
  refine BitVec.eq_of_getLsbD_eq fun j hj => ?_
  by_cases hlt : j < i.toNat
  · simp [Thread.setPred, hlt]
  · by_cases h0 : j - i.toNat = 0
    · simp [hlt, h0, hj]
    · cases v <;> simp [Thread.setPred, hlt, h0, hj, BitVec.getLsbD_one]

theorem RegisterShape.onePred {i : Instr} {q : BitVec 3} {v : Thread → Bool} {fl : Thread → Word} (hm : destPreds i = 1#8 <<< q.toNat)
    (he : ∀ s, exec i s = execPred i (fun t => (fun x => x.setPred q (v t), fl t)) s)
    (hf : setsNoFlag i = true → ∀ t, fl t = 0) : RegisterShape i :=
  .preds _ he (fun r x => ⟨(x.setPred q (v r)).p, rfl, by rw [hm]; exact setPred_masked x q _⟩) hf

theorem unpack_masked (p r mask : BitVec 8) : (((p &&& ~~~ mask) ||| (r &&& mask)) &&& ~~~ mask) = (p &&& ~~~ mask) := by
  refine BitVec.eq_of_getLsbD_eq fun j hj => ?_
  cases h : mask.getLsbD j <;> simp [h]

/-- Every register instruction has one of the shapes. -/
theorem registerShape {i : Instr} (h : registerOnly i = true) : RegisterShape i := by
  cases i with
  | iadd u d a b w => exact .plain (exec_iadd u d a b w) (.head _) (widthRegs_cases w)
  | isub u d a b w => exact .plain (exec_isub u d a b w) (.head _) (widthRegs_cases w)
  | iaddi u d a imm => exact .plain (exec_iaddi u d a imm) (.head _) (.inl rfl)
  | iabs u d a w => exact .plain (exec_iabs u d a w) (.head _) (widthRegs_cases w)
  | imin u d a b ty => exact .plain (exec_imin u d a b ty) (.head _) (intTypeRegs_cases ty)
  | imax u d a b ty => exact .plain (exec_imax u d a b ty) (.head _) (intTypeRegs_cases ty)
  | imul u d a b f => exact .plain (exec_imul u d a b f) (.head _) (by cases f <;> simp [MulForm.regs])
  | imad u d a b c ty sat =>
    refine .alu d _ _ (exec_imad u d a b c ty sat) (.inl (.head _)) (intTypeRegs_cases ty) fun hs r => ?_
    obtain rfl : sat = false := by simpa [setsNoFlag] using hs
    rfl
  | idiv u d a b ty => exact .flagged rfl (exec_idiv u d a b ty) (.head _) (intTypeRegs_cases ty)
  | irem u d a b ty => exact .flagged rfl (exec_irem u d a b ty) (.head _) (intTypeRegs_cases ty)
  | and u d a b w => exact .plain (exec_and u d a b w) (.head _) (widthRegs_cases w)
  | or u d a b w => exact .plain (exec_or u d a b w) (.head _) (widthRegs_cases w)
  | xor u d a b w => exact .plain (exec_xor u d a b w) (.head _) (widthRegs_cases w)
  | shl u d a n w => exact .plain (exec_shl u d a n w) (.head _) (widthRegs_cases w)
  | shr u d a n w => exact .plain (exec_shr u d a n w) (.head _) (widthRegs_cases w)
  | sar u d a n w => exact .plain (exec_sar u d a n w) (.head _) (widthRegs_cases w)
  | rol u d a n w => exact .plain (exec_rol u d a n w) (.head _) (widthRegs_cases w)
  | brev u d a w => exact .plain (exec_brev u d a w) (.head _) (widthRegs_cases w)
  | clz u d a w => exact .plain (exec_clz u d a w) (.head _) (.inl rfl)
  | popc u d a w => exact .plain (exec_popc u d a w) (.head _) (.inl rfl)
  | bfx u d a ctl ty => exact .plain (exec_bfx u d a ctl ty) (.head _) (intTypeRegs_cases ty)
  | bfi u d a b ctl w => exact .plain (exec_bfi u d a b ctl w) (.head _) (widthRegs_cases w)
  | mov u d a w => exact .plain (exec_mov u d a w) (.head _) (movWidthRegs_cases w)
  | movi u d imm => exact .plain (exec_movi u d imm) (.head _) (.inl rfl)
  | movh u d imm => exact .alu d 1 _ (exec_movh u d imm) (.inr (.head _)) (.inl rfl) fun _ _ => rfl
  | sel u d a b p neg w => exact .plain (exec_sel u d a b p neg w) (.head _) (movWidthRegs_cases w)
  | pmovPack u d => exact .plain (exec_pmovPack u d) (.head _) (.inl rfl)
  | icmp u c p a b w => exact .onePred rfl (exec_icmp u c p a b w) fun _ _ => rfl
  | fcmp u c p a b => exact .onePred rfl (exec_fcmp u c p a b) fun hs => absurd hs Bool.false_ne_true
  | dcmp u c p a b => exact .onePred rfl (exec_dcmp u c p a b) fun hs => absurd hs Bool.false_ne_true
  | plop u pd pa pb lut => exact .onePred rfl (exec_plop u pd pa pb lut) fun _ _ => rfl
  | pmovUnpack u a mask => exact .preds _ (exec_pmovUnpack u a mask) (fun _ x => ⟨_, rfl, unpack_masked x.p _ mask⟩) fun _ _ => rfl
  | fadd u d a b r => exact .flagged rfl (exec_fadd u d a b r) (.head _) (.inl rfl)
  | fsub u d a b r => exact .flagged rfl (exec_fsub u d a b r) (.head _) (.inl rfl)
  | fmul u d a b r => exact .flagged rfl (exec_fmul u d a b r) (.head _) (.inl rfl)
  | fdiv u d a b r => exact .flagged rfl (exec_fdiv u d a b r) (.head _) (.inl rfl)
  | fmin u d a b => exact .flagged rfl (exec_fmin u d a b) (.head _) (.inl rfl)
  | fmax u d a b => exact .flagged rfl (exec_fmax u d a b) (.head _) (.inl rfl)
  | ffma u d a b c r => exact .flagged rfl (exec_ffma u d a b c r) (.head _) (.inl rfl)
  | fsqrt u d a r => exact .flagged rfl (exec_fsqrt u d a r) (.head _) (.inl rfl)
  | frcp u d a => exact .flagged rfl (exec_frcp u d a) (.head _) (.inl rfl)
  | frsq u d a => exact .flagged rfl (exec_frsq u d a) (.head _) (.inl rfl)
  | fex2 u d a => exact .flagged rfl (exec_fex2 u d a) (.head _) (.inl rfl)
  | flg2 u d a => exact .flagged rfl (exec_flg2 u d a) (.head _) (.inl rfl)
  | fsin u d a => exact .flagged rfl (exec_fsin u d a) (.head _) (.inl rfl)
  | fcos u d a => exact .flagged rfl (exec_fcos u d a) (.head _) (.inl rfl)
  | fcls u d a w => exact .plain (exec_fcls u d a w) (.head _) (.inl rfl)
  | dadd u d a b r => exact .flagged rfl (exec_dadd u d a b r) (.head _) (.inr (.inl rfl))
  | dsub u d a b r => exact .flagged rfl (exec_dsub u d a b r) (.head _) (.inr (.inl rfl))
  | dmul u d a b r => exact .flagged rfl (exec_dmul u d a b r) (.head _) (.inr (.inl rfl))
  | ddiv u d a b r => exact .flagged rfl (exec_ddiv u d a b r) (.head _) (.inr (.inl rfl))
  | dmin u d a b => exact .flagged rfl (exec_dmin u d a b) (.head _) (.inr (.inl rfl))
  | dmax u d a b => exact .flagged rfl (exec_dmax u d a b) (.head _) (.inr (.inl rfl))
  | dfma u d a b c r => exact .flagged rfl (exec_dfma u d a b c r) (.head _) (.inr (.inl rfl))
  | dsqrt u d a r => exact .flagged rfl (exec_dsqrt u d a r) (.head _) (.inr (.inl rfl))
  | drcp u d a => exact .flagged rfl (exec_drcp u d a) (.head _) (.inr (.inl rfl))
  | hadd2 u d a b bf r => exact .flagged rfl (exec_hadd2 u d a b bf r) (.head _) (.inl rfl)
  | hmul2 u d a b bf r => exact .flagged rfl (exec_hmul2 u d a b bf r) (.head _) (.inl rfl)
  | hfma2 u d a b c bf r => exact .flagged rfl (exec_hfma2 u d a b c bf r) (.head _) (.inl rfl)
  | cvt u d a df sf r sat => exact .flagged rfl (exec_cvt u d a df sf r sat) (.head _) (fmtRegs_cases df)
  | qnt u d x sc z sf r q4 => exact .flagged rfl (exec_qnt u d x sc z sf r q4) (.head _) (.inl rfl)
  | dqnt u d q sc z df r sat q4 => exact .flagged rfl (exec_dqnt u d q sc z df r sat q4) (.head _) (fmtRegs_cases df)
  | gred d a op ty r sat =>
    exact .group d _ _ (exec_gred d a op ty r sat) (.inl (.head _)) (grTypeRegs_cases ty) fun hs => absurd hs Bool.false_ne_true
  | gscan d a op ty r sat ex =>
    exact .group d _ _ (exec_gscan d a op ty r sat ex) (.inl (.head _)) (grTypeRegs_cases ty) fun hs => absurd hs Bool.false_ne_true
  | shfl d a b mode w =>
    refine .group d _ _ (exec_shfl d a b mode w) (.inl (.head _)) (widthRegs_cases w) fun _ ls r => ?_
    split <;> rfl
  | vote d mode neg p => exact .group d _ _ (exec_vote d mode neg p) (.inl (.head _)) (.inl rfl) fun _ _ _ => rfl
  | nop => exact .nop fun _ => rfl
  | _ => exact absurd h Bool.false_ne_true

/-- What a register instruction keeps, by its shape. -/
theorem RegisterShape.frame {i : Instr} {s t : State} (hi : RegisterShape i) (h : exec i s = .next t) :
    RegisterFrame (destRegs i) (destPreds i) (setsNoFlag i) s t := by
  cases hi with
  | alu d n f he hu hn hf => exact alu_frame he hu hn hf h
  | preds f he hg hf => exact pred_frame he hg hf h
  | group d n f he hu hn hf => exact group_frame he hu hn hf h
  | nop he =>
    rw [he] at h
    exact execLanes_keeps .of_issue .trans (fun a _ _ => .of_issue a a (.refl a) rfl) (fun _ _ _ _ h => absurd h (by simp)) h

/-! ## Threads that are no lanes -/

/-- One state has the registers and predicates that another has of every thread that is no lane of the group. -/
def SameOutside (p : Pipe) (s t : State) : Prop :=
  ∀ j th, s.thread j = some th → (j.team ≠ p.team ∨ j.tid ∉ p.lanes) →
    ∃ th', t.thread j = some th' ∧ (∀ o, th'.reg o = th.reg o) ∧ th'.p = th.p

theorem SameOutside.trans {p : Pipe} {s t u : State} (h : SameOutside p s t) (h' : SameOutside p t u) : SameOutside p s u := by
  intro j th hj ho
  obtain ⟨x, hx, hreg, hpred⟩ := h j th hj ho
  obtain ⟨y, hy, hreg', hpred'⟩ := h' j x hx ho
  exact ⟨y, hy, fun o => (hreg' o).trans (hreg o), hpred'.trans hpred⟩

theorem SameRegisters.sameOutside {s t : State} (h : SameRegisters s t) (p : Pipe) : SameOutside p s t := by
  intro j th hj _
  obtain ⟨th', hth', ht, hk, hp, -⟩ := h j th hj
  exact ⟨th', hth', fun o => by cases o <;> simp [Thread.reg, ht, hk], hp⟩

theorem SameOutside.of_threads {p : Pipe} {s t : State} (h : t.threads = s.threads) : SameOutside p s t :=
  (SameRegisters.of_threads h).sameOutside p

theorem SameOutside.setFlags {p : Pipe} (s : State) (k : TeamId) (fl : Word) : SameOutside p s (s.setFlags k fl) := .of_threads rfl

/-- Updates of lanes of the group, one after another. -/
theorem SameOutside.foldl_onThread {p : Pipe} {team : TeamId} (ht : team = p.team) {tids : List Nat} (hl : ∀ l ∈ tids, l ∈ p.lanes)
    (f : Thread → Thread) (hf : ∀ t, (f t).id = t.id) (s : State) :
    SameOutside p s (tids.foldl (fun s tid => s.onThread { team := team, tid := tid } f) s) := by
  induction tids generalizing s with
  | nil => exact .of_threads rfl
  | cons l ls ih =>
    have hstep : SameOutside p s (s.onThread { team := team, tid := l } f) := by
      intro j th hj ho
      refine ⟨th, ?_, fun _ => rfl, rfl⟩
      rw [s.thread_onThread_other _ j f ?_ fun t e => (hf t).trans e, hj]
      rintro rfl
      exact ho.elim (fun h => h ht) fun h => h (hl l List.mem_cons_self)
    exact hstep.trans (ih (fun m hm => hl m (List.mem_cons_of_mem _ hm)) _)

theorem SameOutside.writeRegs {p : Pipe} {team : TeamId} (ht : team = p.team) {tids : List Nat} (hl : ∀ l ∈ tids, l ∈ p.lanes)
    (os : List Opnd) {f : Thread → Thread} (hf : ∀ t, (f t).id = t.id) (s : State) : SameOutside p s (s.writeRegs team tids os f) := by
  refine (SameOutside.foldl_onThread ht hl f hf s).trans ?_
  unfold State.writeRegs
  dsimp only
  split <;> exact .of_threads rfl

/-- The checks of R35 leave only lanes of the group to execute. -/
theorem precheck_lanes {i : Instr} {s : State} {p : Pipe} {tm : Team} :
    ∀ r ∈ (s.precheck i p tm).2, r.reader ∈ p.lanes ∧ ∀ l ∈ r.targets, l ∈ p.lanes := by
  intro r hr
  unfold State.precheck at hr
  split at hr
  · exact absurd hr List.not_mem_nil
  · dsimp only at hr
    split at hr
    · exact absurd hr List.not_mem_nil
    · split at hr
      · obtain ⟨l, hl, rfl⟩ := List.mem_map.mp hr
        have hmem : l ∈ p.lanes := List.mem_of_mem_filter (List.mem_of_mem_filter hl)
        exact ⟨hmem, fun m hm => List.mem_singleton.mp hm ▸ hmem⟩
      · split at hr
        · exact absurd hr List.not_mem_nil
        · next x xs hok =>
          have hall : ∀ m ∈ x :: xs, m ∈ p.lanes := fun m hm => List.mem_of_mem_filter (hok ▸ hm)
          split at hr
          · exact absurd hr List.not_mem_nil
          · split at hr
            · exact absurd hr List.not_mem_nil
            · obtain rfl := List.mem_singleton.mp hr
              refine ⟨hall x List.mem_cons_self, fun m hm => ?_⟩
              rcases List.mem_cons.mp hm with rfl | hm
              · exact hall _ List.mem_cons_self
              · exact hall m (List.mem_cons_of_mem _ (List.mem_of_mem_filter hm))

/-- Executions of lanes of the group, whose body never faults and writes its targets alone. -/
theorem SameOutside.runBody {i : Instr} {p : Pipe} {body : Body} (hb : ∀ a th tids, th.id.team = p.team → (∀ l ∈ tids, l ∈ p.lanes) →
      SameOutside p a (body a th tids).1) (hn : ∀ a th tids, (body a th tids).2 = none) (rs : List Run)
    (hr : ∀ r ∈ rs, ∀ l ∈ r.targets, l ∈ p.lanes) (s : State) : SameOutside p s (s.runBody i p body rs) := by
  induction rs generalizing s with
  | nil => exact .of_threads rfl
  | cons r rs ih =>
    have ih' := ih fun x hx => hr x (List.mem_cons_of_mem _ hx)
    cases hth : s.thread (tidOf p r.reader) with
    | none => simpa only [State.runBody, hth] using ih' s
    | some th =>
      have hone := hb s th r.targets (by rw [s.thread_id hth]; rfl) (hr r List.mem_cons_self)
      have hrun : s.runBody i p body (r :: rs) = (body s th r.targets).1.runBody i p body rs := by
        have : body s th r.targets = ((body s th r.targets).1, none) := Prod.ext rfl (hn ..)
        simp only [State.runBody, hth]
        rw [this]
      rw [hrun]
      exact hone.trans (ih' _)

theorem execLanes_sameOutside {i : Instr} {body : Body} {s t : State} {p : Pipe} {tm : Team} (hs : s.site = some (p, tm))
    (hb : ∀ a th tids, th.id.team = p.team → (∀ l ∈ tids, l ∈ p.lanes) → SameOutside p a (body a th tids).1)
    (hn : ∀ a th tids, (body a th tids).2 = none) (h : execLanes i none body s = .next t) : SameOutside p s t := by
  have hlanes : ∀ r ∈ (s.precheck i p.left tm).2, ∀ l ∈ r.targets, l ∈ p.lanes := fun r hr l hl =>
    List.mem_of_mem_filter ((precheck_lanes r hr).2 l hl)
  simp only [execLanes, hs] at h
  cases h
  exact ((precheck_spec s i p.left tm).1.sameOutside p).trans
    ((SameOutside.runBody hb hn _ hlanes _).trans ((past_spec _ p i).1.sameOutside p))

/-- A thread that the lookup of active lanes finds is a lane. -/
theorem mem_activeLanes {s : State} {p : Pipe} {tids : List Nat} {th : Thread} (h : th ∈ s.activeLanes p tids) :
    th.id.team = p.team ∧ th.id.tid ∈ tids := by
  obtain ⟨l, hl, hth⟩ := List.mem_filterMap.mp h
  rw [s.thread_id hth]
  exact ⟨rfl, hl⟩

theorem execGroupAlu_sameOutside {i : Instr} {d : Opnd} {n : Nat} {f : List Thread → Thread → Nat × Word} {s t : State} {p : Pipe}
    {tm : Team} (hs : s.site = some (p, tm)) (h : execGroupAlu i d n f s = .next t) : SameOutside p s t := by
  have hwrite : ∀ (ls xs : List Thread), (∀ th ∈ xs, th.id.team = p.team ∧ th.id.tid ∈ p.lanes) → ∀ a : State, SameOutside p a
      (xs.foldl (fun s th => (s.writeRegs th.id.team [th.id.tid] (d.regList n) fun t => t.setRegN d n (f ls th).1).setFlags th.id.team
        (f ls th).2) a) := by
    intro ls xs
    induction xs with
    | nil => exact fun _ a => .of_threads rfl
    | cons x xs ih =>
      intro hx a
      obtain ⟨hteam, htid⟩ := hx x List.mem_cons_self
      have hone := SameOutside.writeRegs hteam (tids := [x.id.tid]) (fun l hl => List.mem_singleton.mp hl ▸ htid) (d.regList n)
        (f := fun t => t.setRegN d n (f ls x).1) (fun t => by obtain ⟨_, _, e⟩ := t.setRegN_frame d n (f ls x).1; rw [e]) a
      exact (hone.trans (.setFlags _ x.id.team (f ls x).2)).trans (ih (fun y hy => hx y (List.mem_cons_of_mem _ hy)) _)
  simp only [execGroupAlu, execGroup, hs] at h
  cases h
  refine ((precheck_spec s i p tm).1.sameOutside p).trans ((hwrite _ _ (fun th hth => ?_) _).trans ((advance_spec _ p.id _).1.sameOutside p))
  obtain ⟨hteam, hmem⟩ := mem_activeLanes hth
  obtain ⟨r, hr, hrd⟩ := List.mem_map.mp hmem
  exact ⟨hteam, hrd ▸ (precheck_lanes r hr).1⟩

/-- A register instruction writes lanes of its group alone, by its shape. -/
theorem RegisterShape.sameOutside {i : Instr} {s t : State} {p : Pipe} {tm : Team} (hi : RegisterShape i) (hs : s.site = some (p, tm))
    (h : exec i s = .next t) : SameOutside p s t := by
  cases hi with
  | alu d n f he hu hn hf =>
    rw [he] at h
    refine execLanes_sameOutside hs (fun a th tids ht hl => ?_) (fun _ _ _ => rfl) h
    exact (SameOutside.writeRegs ht hl (d.regList n) (fun t => by obtain ⟨_, _, e⟩ := t.setRegN_frame d n (f th).1; rw [e]) a).trans
      (.of_threads rfl)
  | preds f he hg hf =>
    rw [he] at h
    refine execLanes_sameOutside hs (fun a th tids ht hl => ?_) (fun _ _ _ => rfl) h
    exact (SameOutside.writeRegs ht hl [] (fun t => by obtain ⟨_, e, _⟩ := hg th t; rw [e]) a).trans
      (.of_threads (State.repairPreds_beside ..).2.1)
  | group d n f he hu hn hf =>
    rw [he] at h
    exact execGroupAlu_sameOutside hs h
  | nop he =>
    rw [he] at h
    exact execLanes_sameOutside hs (fun a _ _ _ _ => .of_threads rfl) (fun _ _ _ => rfl) h

/-- Settles O9: it holds, by the shape of each register instruction. -/
theorem registerInstructionsKeepEverythingElse : Obligations.RegisterInstructionsKeepEverythingElse := by
  intro i s t hi h
  obtain ⟨hthreads, hteams, hbeside⟩ := (registerShape hi).frame h
  exact ⟨hthreads, hteams, hbeside, fun p tm hs => (registerShape hi).sameOutside hs h⟩

end Sys2Proof.Machine
end

section
/-!
SUPPORT. Words that fault or end their block (02_execution R29 to R31, 22_ref, 23_ref, 25_ref): what a word whose one execution faults does,
what threads that leave their block change, and the obligations about NOP, GETS and SETS, branches, waits, traps and RESUME.
-/
namespace Sys2Proof.Machine

/-! ## Words that fault -/

/-- A word whose body finds, where a group stands, the fault that `cond` names. -/
theorem faultsWhen_of {i : Instr} {body : Body} {cond : Pipe → Team → State → Thread → Option Flt}
    (he : ∀ s, exec i s = execLanes i none body s)
    (hb : ∀ s p tm th tids f, s.site = some (p, tm) → cond p tm s th = some f →
      ∃ s', body s th tids = (s', some f) ∧ s'.reads = s.reads ∧ f.cause ≠ notYet) : FaultsWhen i cond := by
  intro s p tm r th f h hr hth hc
  obtain ⟨s', hs', hreads, hf⟩ := hb s p tm th r.targets f h.1 hc
  rw [he, execLanes_ready body h, hr]
  simp only [State.runBody, hth, hs', if_neg hf, hreads]

/-- The same where finding the fault changes nothing. -/
theorem faultsWhen_of_pure {i : Instr} {body : Body} {cond : Pipe → Team → State → Thread → Option Flt}
    (he : ∀ s, exec i s = execLanes i none body s)
    (hb : ∀ s p tm th tids f, s.site = some (p, tm) → cond p tm s th = some f → body s th tids = (s, some f) ∧ f.cause ≠ notYet) :
    FaultsWhen i cond :=
  faultsWhen_of he fun s p tm th tids f hs hc => ⟨s, (hb s p tm th tids f hs hc).1, rfl, (hb s p tm th tids f hs hc).2⟩

@[simp] theorem fltAt_cause (c : BitVec 8) (a : Addr) : (fltAt c a).cause = c := rfl
@[simp] theorem fltWord_cause (c : BitVec 8) (i : Instr) : (fltWord c i).cause = c := rfl

/-! ## NOP -/

theorem State.runBody_id {i : Instr} {p : Pipe} (rs : List Run) (s : State) : s.runBody i p (fun s _ _ => (s, none)) rs = s := by
  induction rs with
  | nil => rfl
  | cons r rs ih =>
    unfold State.runBody
    split
    · exact ih
    · exact ih

/-- The pipe of a group that has come to word `w`: at the end of its clause it stands in none. -/
def Pipe.atWord (p : Pipe) (w : Nat) : Pipe :=
  { p with
    widx := w,
    clause := if (match p.clause with
        | some c => decide (c.fin ≤ w)
        | none => true) then none else p.clause,
    instr := none, ran := [] }

theorem Pipe.atWord_clause_within {p : Pipe} {w : Nat} {c : Clause} (hc : p.clause = some c) (h : w < c.fin) :
    p.atWord w = { p with widx := w, instr := none, ran := [] } := by
  simp [Pipe.atWord, hc, h]

theorem Pipe.atWord_clause_end {p : Pipe} {w : Nat} {c : Clause} (hc : p.clause = some c) (h : c.fin ≤ w) :
    p.atWord w = { p with widx := w, clause := none, instr := none, ran := [] } := by
  simp [Pipe.atWord, hc, h]

/-- A group that no hold keeps stands at its next word, or waits for its next clause (R29); no thread changes. -/
theorem State.past_free {s : State} {p : Pipe} (i : Instr) (hp : s.pipe p.id = some p) (hs : p.single = false) (hh : p.hold = []) :
    (s.past p i).threads = s.threads ∧ (s.past p i).pipe p.id = some (p.atWord (p.widx + i.words)) ∧
      (s.past p i).focus = if (p.atWord (p.widx + i.words)).clause.isNone then none else some p.id := by
  obtain ⟨done, hd⟩ : ∃ b, b = (match p.clause with
      | some c => decide (c.fin ≤ p.widx + i.words)
      | none => true) := ⟨_, rfl⟩
  obtain ⟨f, hf⟩ : ∃ f : Pipe → Pipe, f = fun q => { q with
      widx := p.widx + i.words, clause := if done then none else q.clause, instr := none, ran := [] } := ⟨_, rfl⟩
  have hfp : f p = p.atWord (p.widx + i.words) := by rw [hf, hd]; rfl
  have hpipe : (s.onPipe p.id f).pipe p.id = some (f p) := by
    rw [State.pipe_onPipe_same _ _ _ (by rw [hf]; exact fun _ h => h), hp]; rfl
  have hadv : s.advance p.id i.words = { s.onPipe p.id f with focus := if (f p).clause.isNone then none else some p.id } := by
    have hsingle : (f p).single = false := by rw [hfp]; exact hs
    have hsettle : s.advance p.id i.words = (s.onPipe p.id f).settle p.id := by
      simp only [State.advance, hp, hh, List.contains_nil, Bool.false_eq_true, if_false, List.isEmpty_nil, if_true]
      subst hd
      subst hf
      rfl
    rw [hsettle]
    simp only [State.settle, hpipe, hsingle, Bool.false_eq_true, if_false]
    split <;> rfl
  have hkeep : (s.past p i).pipe p.id = some (f p) := by
    rw [State.past, hadv, State.keepWord, State.pipe_onPipe_same _ _ _ (fun q h => by split <;> exact h)]
    have hhold : (f p).hold = [] := by rw [hfp]; exact hh
    show Option.map _ ((s.onPipe p.id f).pipe p.id) = _
    rw [hpipe, Option.map_some, hhold]
    rfl
  rw [State.past, hadv] at hkeep ⊢
  rw [← hfp]
  exact ⟨rfl, hkeep, rfl⟩

@[simp] theorem words_nop : Instr.nop.words = 1 := rfl

/-- Settles O10: it holds. NOP's executions change nothing, and the group goes one word on. -/
theorem nopMovesTheGroupOneWordOn : Obligations.NopMovesTheGroupOneWordOn := by
  intro s p tm h hsingle hhold
  obtain ⟨hthreads, hpipe, hfocus⟩ := State.past_free .nop (State.site_eq h.1).2.1 hsingle hhold
  refine ⟨s.past p .nop, (execLanes_ready _ h).trans (by rw [State.runBody_id]), (past_spec s p .nop).2, hthreads, ?within, ?atEnd⟩
  case within =>
    intro c hc hlt
    rw [words_nop, Pipe.atWord_clause_within hc hlt] at hpipe hfocus
    exact ⟨hpipe.trans (by rw [h.2.2.2.2.2.2.2]), by simpa [hc] using hfocus⟩
  case atEnd =>
    intro c hc hle
    rw [words_nop, Pipe.atWord_clause_end hc hle] at hpipe hfocus
    exact ⟨hpipe.trans (by rw [h.2.2.2.2.2.2.2]), by simpa using hfocus⟩

/-! ## Threads that leave their group -/

/-- Threads of a team, each changed once and out of its issue group. -/
def State.leaveAll (s : State) (team : TeamId) (f : Thread → Thread) (tids : List Nat) : State :=
  tids.foldl (fun s tid => (s.onThread { team := team, tid := tid } f).leavePipe { team := team, tid := tid }) s

/-- How leaving for `a` changes a thread (R30). -/
def Thread.drains (a : After) (t : Thread) : Thread := { t with st := .draining, after := a, arrived := false }

theorem State.leaveTo_eq (s : State) (team : TeamId) (tids : List Nat) (a : After) :
    s.leaveTo team tids a = s.leaveAll team (Thread.drains a) tids := rfl

/-- How the fault of one lane changes its thread (R35). -/
def Thread.faulted (p : Pipe) (u : Bool) (f : Flt) (t : Thread) : Thread :=
  { t with
    st := .draining, block := p.block, after := .none, age := 0,
    fault := some { cause := f.cause, block := p.block, widx := p.widx, addr := f.addr, extra := f.extra, u := u } }

theorem State.faultLanes_eq (s : State) (p : Pipe) (u : Bool) (f : Flt) (tids : List Nat) :
    s.faultLanes p u f tids = s.leaveAll p.team (Thread.faulted p u f) tids := rfl

theorem State.leaveAll_thread {f : Thread → Thread} (hf : ∀ t, (f t).id = t.id) (team : TeamId) {tids : List Nat} (hn : tids.Nodup)
    (s : State) (j : ThreadId) :
    (s.leaveAll team f tids).thread j = if j.team = team ∧ j.tid ∈ tids then (s.thread j).map f else s.thread j := by
  rw [← thread_foldl_onThread team f hf tids hn s j]
  have hfold : ∀ a b : State, a.threads = b.threads → (a.leaveAll team f tids).threads =
      (tids.foldl (fun s tid => s.onThread { team := team, tid := tid } f) b).threads := by
    clear hn
    induction tids with
    | nil => exact fun a b h => h
    | cons l ls ih => exact fun a b h => ih _ _ (by simp only [State.leavePipe_threads, State.onThread, h])
  simp only [State.thread, hfold s s rfl]

/-- Lanes are only taken away. -/
theorem State.leavePipe_pipes {s : State} {i : ThreadId} {q : Pipe} (h : q ∈ (s.leavePipe i).pipes) :
    (q.team = i.team → i.tid ∉ q.lanes) ∧ ∃ q' ∈ s.pipes, q'.team = q.team ∧ ∀ l ∈ q.lanes, l ∈ q'.lanes := by
  obtain ⟨q', hq', rfl⟩ := List.mem_map.mp (List.mem_of_mem_filter h)
  split
  · next ht =>
    exact ⟨fun _ hm => by simp at hm, q', hq', rfl, fun l hl => List.mem_of_mem_filter hl⟩
  · next ht => exact ⟨fun hq => absurd hq ht, q', hq', rfl, fun l hl => hl⟩

theorem State.leaveAll_pipes {f : Thread → Thread} {team : TeamId} {tids : List Nat} {s : State} {q : Pipe}
    (h : q ∈ (s.leaveAll team f tids).pipes) :
    (q.team = team → ∀ l ∈ q.lanes, l ∉ tids) ∧ ∃ q' ∈ s.pipes, q'.team = q.team ∧ ∀ l ∈ q.lanes, l ∈ q'.lanes := by
  induction tids generalizing s with
  | nil => exact ⟨fun _ _ _ => List.not_mem_nil, q, h, rfl, fun _ hl => hl⟩
  | cons x xs ih =>
    obtain ⟨hout, q', hq', hteam, hlanes⟩ := ih h
    obtain ⟨hgone, q'', hq'', hteam', hlanes'⟩ := State.leavePipe_pipes hq'
    refine ⟨fun ht l hl hm => ?_, q'', hq'', hteam'.trans hteam, fun l hl => hlanes' l (hlanes l hl)⟩
    rcases List.mem_cons.mp hm with rfl | hm
    · exact hgone (hteam.trans ht) (hlanes l hl)
    · exact hout ht l hl hm

theorem State.leaveAll_besideIssue (s : State) (team : TeamId) (f : Thread → Thread) (tids : List Nat) :
    (s.leaveAll team f tids).besideIssue = s.besideIssue := by
  induction tids generalizing s with
  | nil => rfl
  | cons x xs ih => exact (ih _).trans rfl

/-- Settles O16: it holds. -/
theorem threadsThatEndTheirBlockDrain : Obligations.ThreadsThatEndTheirBlockDrain := by
  intro s team tids a hn
  rw [State.leaveTo_eq]
  refine ⟨fun j th hj => ?_, fun q hq => (State.leaveAll_pipes hq).1, s.leaveAll_besideIssue team _ tids⟩
  rw [State.leaveAll_thread (f := Thread.drains a) (fun _ => rfl) team hn, hj]
  split <;> rfl

/-! ## Traps -/

/-- What follows a word changes only threads that stand in a pipe. -/
theorem State.settle_thread_of_left {s : State} {f : PipeId} {j : ThreadId}
    (hj : ∀ q ∈ s.pipes, q.team = j.team → j.tid ∉ q.lanes) : (s.settle f).thread j = s.thread j := by
  unfold State.settle
  split
  · rfl
  · next q hq =>
    split
    · have hmem : q ∈ s.pipes := List.mem_of_find?_eq_some hq
      obtain ⟨g, hg⟩ : ∃ g : Thread → Thread, g = fun t => { t with st := .draining, after := .step q.block q.widx } := ⟨_, rfl⟩
      have hout : ∀ l ∈ q.lanes, j ≠ tidOf q l := by
        rintro l hl rfl
        exact hj q hmem rfl hl
      have hfold : ∀ (ls : List Nat), (∀ l ∈ ls, j ≠ tidOf q l) → ∀ a : State, (ls.foldl (fun s tid =>
          (s.onThread (tidOf q tid) g).leavePipe (tidOf q tid)) a).thread j = a.thread j := by
        intro ls
        induction ls with
        | nil => exact fun _ _ => rfl
        | cons x xs ih =>
          intro hx a
          rw [List.foldl_cons, ih fun l hl => hx l (List.mem_cons_of_mem _ hl), State.leavePipe_thread,
            State.thread_onThread_other _ _ _ _ (hx x List.mem_cons_self) (by rw [hg]; exact fun _ h => h)]
      rw [← hg]
      exact hfold q.lanes hout s
    · split <;> rfl

theorem State.past_thread_of_left {s : State} {p : Pipe} (i : Instr) {j : ThreadId}
    (hj : ∀ q ∈ s.pipes, q.team = j.team → j.tid ∉ q.lanes) : (s.past p i).thread j = s.thread j := by
  have hstep : ∀ g : Pipe → Pipe, (∀ q, (g q).team = q.team ∧ (g q).lanes = q.lanes) →
      ((s.onPipe p.id g).settle p.id).thread j = s.thread j := by
    intro g hg
    rw [State.settle_thread_of_left]
    · rfl
    · intro q hq ht
      obtain ⟨q', hq', rfl⟩ := List.mem_map.mp hq
      split
      · next he =>
        rw [if_pos he] at ht
        rw [(hg q').2]
        exact hj q' hq' ((hg q').1 ▸ ht)
      · next he =>
        rw [if_neg he] at ht
        exact hj q' hq' ht
  show (s.advance p.id i.words).thread j = s.thread j
  unfold State.advance
  split
  · rfl
  · split
    · rfl
    · dsimp only
      split
      · exact hstep _ fun q => ⟨rfl, rfl⟩
      · rfl

/-- A word that faults every execution faults every lane. -/
theorem State.runBody_faults {i : Instr} {p : Pipe} {f : Flt} (hf : f.cause ≠ notYet) (ls : List Nat) (hn : ls.Nodup) (s : State)
    (hls : ∀ l ∈ ls, (s.thread (tidOf p l)).isSome = true) :
    s.runBody i p (fun s _ _ => (s, some f)) (ls.map fun l => { reader := l, targets := [l] }) = s.faultLanes p i.uni f ls := by
  induction ls generalizing s with
  | nil => rfl
  | cons l ls ih =>
    obtain ⟨th, hth⟩ := Option.isSome_iff_exists.mp (hls l List.mem_cons_self)
    simp only [List.map_cons, State.runBody, hth, if_neg hf]
    refine ih (List.nodup_cons.mp hn).2 _ fun m hm => ?_
    have hml : m ≠ l := fun e => (List.nodup_cons.mp hn).1 (e ▸ hm)
    rw [State.faultLanes_eq, State.leaveAll_thread (f := Thread.faulted p i.uni f) (fun _ => rfl) _ (List.nodup_singleton l), if_neg]
    · exact hls m (List.mem_cons_of_mem _ hm)
    · rintro ⟨-, he⟩
      exact hml (List.mem_singleton.mp he)

/-- A word with U = 0 that faults every execution: every lane drains before the fault is recorded, and nothing else changes. -/
theorem exec_faults {i : Instr} {f : Flt} (he : ∀ s, exec i s = execLanes i none (fun s _ _ => (s, some f)) s) (hu : i.uni = false)
    (hf : f.cause ≠ notYet) {s : State} {p : Pipe} {tm : Team} (h : Ready i s p tm) :
    ∃ t, exec i s = .next t ∧ t.besideIssue = s.besideIssue ∧ ∀ l ∈ p.lanes, ∀ th, s.thread (tidOf p l) = some th →
      t.thread (tidOf p l) = some (th.faulted p i.uni f) := by
  have hruns : runsOf i p = p.lanes.map fun l => { reader := l, targets := [l] } := by simp [runsOf, hu]
  have hrun := State.runBody_faults (i := i) (p := p) hf p.lanes h.2.2.2.1 s fun l hl => (h.2.2.2.2.1 l hl).2
  refine ⟨_, (he s).trans ((execLanes_ready _ h).trans (by rw [hruns, hrun])), ?_, fun l hl th hth => ?_⟩
  · exact (past_spec _ p i).2.trans (State.leaveAll_besideIssue s p.team (Thread.faulted p i.uni f) p.lanes)
  · rw [State.past_thread_of_left, State.faultLanes_eq, State.leaveAll_thread (f := Thread.faulted p i.uni f) (fun _ => rfl) _ h.2.2.2.1, if_pos ⟨rfl, hl⟩, hth]
    · rfl
    · exact fun q hq ht hm => (State.leaveAll_pipes hq).1 ht l hm hl

@[simp] theorem uni_trap (imm : BitVec 16) : (Instr.trap imm).uni = false := flag_packI_u
@[simp] theorem uni_bkpt (imm : BitVec 16) : (Instr.bkpt imm).uni = false := flag_packI_u

/-- Settles O14: it holds. -/
theorem trapAndBreakpointFaultEveryLane : Obligations.TrapAndBreakpointFaultEveryLane :=
  ⟨fun imm _ _ _ h => exec_faults (f := { cause := 0x50, addr := 0, extra := imm.setWidth 32 }) (fun _ => rfl) (uni_trap imm) (show (0x50 : BitVec 8) ≠ notYet by decide) h,
    fun imm _ _ _ h => exec_faults (f := { cause := 0x51, addr := 0, extra := imm.setWidth 32 }) (fun _ => rfl) (uni_bkpt imm) (show (0x51 : BitVec 8) ≠ notYet by decide) h⟩

/-! ## Branches and RESUME -/

/-- A branch whose target passes its checks leaves for it. -/
theorem branchBody_leaves {link : Bool} {target : Pipe → Thread → Addr} {s t : State} {th : Thread} {tids : List Nat}
    (h : LeavesFor link target .enrol s th tids t) : branchBody link target s th tids = (t, none) := by
  obtain ⟨p, tm, hs, u, w, hc, rfl⟩ := h
  simp only [branchBody, hs, hc]

/-- A wait terminator whose next block passes its checks leaves for the wait. -/
theorem waitBody_leaves {k : WaitKind} {s t : State} {th : Thread} {tids : List Nat}
    (h : LeavesFor false (fun p _ => p.block + BitVec.ofNat 64 (4 * p.len)) (.wait k) s th tids t) : waitBody k s th tids = (t, none) := by
  obtain ⟨p, tm, hs, u, w, hc, rfl⟩ := h
  simp only [waitBody, hs, Pipe.nextBlock, hc, Bool.false_eq_true, if_false]

/-- A register or link target that is no multiple of 4 fails before the block is looked at (22_ref R316). -/
theorem branchBody_misaligned {link : Bool} {target : Pipe → Thread → Addr} {s : State} {p : Pipe} {tm : Team} {th : Thread}
    {tids : List Nat} {f : Flt} (hs : s.site = some (p, tm))
    (hf : (if (target p th).toNat % 4 = 0 then none else some (fltAt 0x01 (target p th))) = some f) :
    branchBody link target s th tids = (s, some f) ∧ f.cause ≠ notYet := by
  split at hf
  · exact absurd hf (by simp)
  · next hal =>
    cases hf
    have hc : s.checkTarget tm (target p th) = (s, .error (fltAt 0x01 (target p th))) := if_pos hal
    have hne : (fltAt 0x01 (target p th)).cause ≠ notYet := (show (0x01 : BitVec 8) ≠ notYet by decide)
    simp only [branchBody, hs, hc, State.targetFails, if_neg hne]
    exact ⟨trivial, hne⟩

/-- Settles O12: it holds. -/
theorem branchesLeaveForTheirTargets : Obligations.BranchesLeaveForTheirTargets :=
  ⟨fun _ _ => completes_of (fun _ => rfl) fun _ _ _ _ => branchBody_leaves,
    fun _ _ _ _ => completes_of (fun _ => rfl) fun _ _ _ _ => branchBody_leaves,
    fun _ _ => completes_of (fun _ => rfl) fun _ _ _ _ => branchBody_leaves,
    fun _ _ => completes_of (fun _ => rfl) fun _ _ _ _ => branchBody_leaves,
    fun _ _ => completes_of (fun _ => rfl) fun _ _ _ _ => branchBody_leaves,
    fun _ => completes_of (fun _ => rfl) fun _ _ _ _ => branchBody_leaves,
    fun _ a => faultsWhen_of_pure (fun _ => rfl) fun _ _ _ _ _ _ => branchBody_misaligned (target := fun _ th => th.reg64 a),
    fun _ a => faultsWhen_of_pure (fun _ => rfl) fun _ _ _ _ _ _ => branchBody_misaligned (target := fun _ th => th.reg64 a),
    fun _ => faultsWhen_of_pure (fun _ => rfl) fun _ _ _ _ _ _ => branchBody_misaligned (target := fun _ th => th.reg64 (.k 62))⟩

/-- Settles O15: it holds. -/
theorem resumeNeedsHandlerMode : Obligations.ResumeNeedsHandlerMode := by
  refine ⟨?resume, ?skip, ?resumeOutside, ?skipOutside⟩
  case resume =>
    refine completes_of (fun _ => rfl) ?_
    rintro s th tids t ⟨p, tm, hs, hm, rfl⟩
    simp only [hs, hm, if_true]
  case skip =>
    refine completes_of (fun _ => rfl) ?_
    rintro s th tids t ⟨p, tm, hs, hm, rfl⟩
    simp only [hs, hm, if_true]
  case resumeOutside =>
    refine faultsWhen_of_pure (fun _ => rfl) fun s p tm th tids f hs hf => ?_
    cases hm : th.hm <;> simp only [hm, if_true, Bool.false_eq_true, if_false] at hf <;> cases hf
    simp only [hs, hm, Bool.false_eq_true, if_false]
    exact ⟨trivial, by decide⟩
  case skipOutside =>
    refine faultsWhen_of_pure (fun _ => rfl) fun s p tm th tids f hs hf => ?_
    cases hm : th.hm <;> simp only [hm, if_true, Bool.false_eq_true, if_false] at hf <;> cases hf
    simp only [hs, hm, Bool.false_eq_true, if_false]
    exact ⟨trivial, by decide⟩

/-! ## EXIT and waits -/

/-- The check of a slate's offset passes for a multiple of 16 in the program area. -/
theorem Team.slateCheck_none {tm : Team} {off : Nat} (ha : off % 16 = 0) (hp : tm.progOk off 16 = true) (a : Addr) :
    tm.slateCheck off a = none := by
  simp [Team.slateCheck, ha, hp]

/-- Settles O13: it holds. -/
theorem exitAndWaitsEndTheBlock : Obligations.ExitAndWaitsEndTheBlock := by
  refine ⟨?exit, ?tbar, ?cbar, ?swait, ?pwait, ?swaitFaults⟩
  case exit =>
    refine fun u => completes_of (fun _ => rfl) ?_
    rintro s th tids t ⟨p, tm, -, rfl⟩
    rfl
  case tbar => exact fun u => completes_of (fun _ => rfl) fun _ _ _ _ => waitBody_leaves
  case cbar => exact fun u => completes_of (fun _ => rfl) fun _ _ _ _ => waitBody_leaves
  case swait =>
    refine fun u a v => completes_of (fun _ => rfl) ?_
    rintro s th tids t ⟨⟨p, tm, hs, hal, hprog, hdam, hmagic⟩, hleave⟩
    simp only [hs, Team.slateCheck_none hal hprog, hdam, hmagic, Bool.false_eq_true, if_false, if_true]
    exact waitBody_leaves hleave
  case pwait =>
    refine fun u a => completes_of (fun _ => rfl) ?_
    rintro s th tids t ⟨⟨p, tm, hs, h, href, hst⟩, hleave⟩
    simp only [hs, href, if_pos hst]
    exact waitBody_leaves hleave
  case swaitFaults =>
    refine fun u a v => faultsWhen_of_pure (fun _ => rfl) fun s p tm th tids f hs hf => ?_
    simp only [hs]
    split at hf
    · next hal =>
      cases hf
      simp only [Team.slateCheck, if_pos hal]
      exact ⟨trivial, show (0x01 : BitVec 8) ≠ notYet by decide⟩
    · next hal =>
      split at hf
      · next hprog =>
        cases hf
        simp only [Team.slateCheck, if_neg hal, hprog, Bool.false_eq_true, if_false]
        exact ⟨trivial, show (0x05 : BitVec 8) ≠ notYet by decide⟩
      · next hprog =>
        rw [Team.slateCheck_none (not_not.mp hal) (by simpa using hprog)]
        split at hf
        · next hdam =>
          cases hf
          simp only [if_pos hdam]
          exact ⟨trivial, by decide⟩
        · next hdam =>
          split at hf
          · next hmagic =>
            cases hf
            simp only [if_neg hdam, hmagic, Bool.false_eq_true, if_false]
            exact ⟨trivial, show (0x20 : BitVec 8) ≠ notYet by decide⟩
          · cases hf

end Sys2Proof.Machine
end

section
/-!
SUPPORT. GETS of an unlisted number in a state that lists a pipe's identifier twice (23_ref R370).
-/
namespace Sys2Proof.Machine

/-- GETS of a number that Table 2.8 does not list. -/
def getsUnlisted : Instr := .gets false (.t 0) 0x1FF

/-- An issue group of two lanes at one word. -/
def twoLanePipe : Pipe := { soloPipe 1 (some 0) with lanes := [0, 1] }

/-- A state that lists the pipe of that group twice, the second time without lanes. -/
def twicePiped : State :=
  { State.reset with
    focus := some twoLanePipe.id, teams := [soloTeam],
    threads := [soloThread, { soloThread with id := { team := soloTeam.id, tid := 1 } }],
    pipes := [twoLanePipe, { twoLanePipe with lanes := [] }] }

/-- The state of the second lane's thread after a word. -/
def secondLane : Out → Option TState
  | .next t => (t.thread { team := soloTeam.id, tid := 1 }).map Thread.st
  | .fault _ => none
  | .refused _ => none

theorem twicePiped_ready : Ready getsUnlisted twicePiped twoLanePipe soloTeam := by decide +kernel

/-- The first lane's fault ends the pipe that has no lanes, and with it the focus: the second lane finds no group, and goes on. -/
theorem secondLane_exec : secondLane (exec getsUnlisted twicePiped) = some .issuing := by decide +kernel

theorem secondLane_faultLanes :
    secondLane (.next ((twicePiped.faultLanes twoLanePipe getsUnlisted.uni (fltWord 0x11 getsUnlisted) twoLanePipe.lanes).past
      twoLanePipe getsUnlisted)) = some .draining := by decide +kernel

/-- Refutes O11: the statement says that an unlisted number faults every lane in every state, also in one that lists the identifier of the
group's pipe twice; there (`twicePiped`) the second lane does not fault. -/
theorem not_specialRegisters : ¬ Obligations.SpecialRegisters := by
  rintro ⟨-, -, -, hunlisted, -⟩
  have h := congrArg secondLane (hunlisted false (.t 0) 0x1FF twicePiped twoLanePipe soloTeam (by decide) twicePiped_ready)
  exact absurd (secondLane_exec.symm.trans (h.trans secondLane_faultLanes)) (by decide)

end Sys2Proof.Machine
end

section
/-!
SUPPORT. Words and steps (05_encoding 5.1, 5.6, 5.7, 02_execution 2.1, 2.2): worked words, reserved words, what a step fetches and runs,
the state after reset.
-/
namespace Sys2Proof.Machine

/-! ## Words -/

theorem decode_blockWord {w : Word} (v x : Word) (h : fld w 28 4 = 0xF) : decode w v x = .error .blockWordRow := by
  simp [decode, h]

theorem decode_unknown {w : Word} (v x : Word) (h : opcodeKnown (fld w 24 8) = false) : ∃ e, decode w v x = .error e := by
  unfold decode
  split
  · exact ⟨_, rfl⟩
  · rw [h]
    exact ⟨_, rfl⟩

theorem decode_noFields {w v x : Word} (h : decodeFields w v x = none) : ∃ e, decode w v x = .error e := by
  unfold decode
  rw [h]
  split
  · exact ⟨_, rfl⟩
  · split <;> exact ⟨_, rfl⟩

/-- Bit 23 stands in the 8 bits above the immediate of TRAP and BKPT. -/
theorem fld_16_8_of_flag {w : Word} (h : flag w 23 = true) : (fld w 16 8 == 0) = false := by
  rw [beq_eq_false_iff_ne]
  intro h0
  have hbit : (w.extractLsb' 16 8).getLsbD 7 = false := by rw [show w.extractLsb' 16 8 = 0 from h0]; rfl
  rw [BitVec.getLsbD_extractLsb'] at hbit
  exact absurd (h.symm.trans hbit) (by decide)

/-- Bit 23 stands in the fields below the opcode. -/
theorem fld_0_24_of_flag {w : Word} (h : flag w 23 = true) {k : BitVec 24} (hk : k.getLsbD 23 = false) : (fld w 0 24 == k) = false := by
  rw [beq_eq_false_iff_ne]
  intro h0
  have hbit : (w.extractLsb' 0 24).getLsbD 23 = false := by rw [show w.extractLsb' 0 24 = k from h0, hk]
  rw [BitVec.getLsbD_extractLsb'] at hbit
  exact absurd (h.symm.trans hbit) (by decide)

/-- A word with opcode 0 that is not 0 has a bit set below its opcode. -/
theorem fld_0_24_of_nop {w : Word} (h : fld w 24 8 = 0) (hw : w ≠ 0) : (fld w 0 24 == 0) = false := by
  simp only [fld] at *
  rw [beq_eq_false_iff_ne]
  intro h0
  apply hw
  have hhigh := congrArg BitVec.toNat h
  have hlow := congrArg BitVec.toNat h0
  simp [BitVec.extractLsb'_toNat, Nat.shiftRight_eq_div_pow] at hhigh hlow
  apply BitVec.eq_of_toNat_eq
  simp
  omega

/-- Settles O53: it holds. -/
theorem reservedEncodingsAreRefused : Obligations.ReservedEncodingsAreRefused := by
  refine ⟨fun _ v x h => decode_unknown v x h, fun _ v x h => ⟨_, decode_blockWord v x h⟩, ?nop, ?uSet,
    ⟨.reservedForm, by decide⟩,
    ⟨.reservedForm, by decide⟩, ⟨.reservedForm, by decide⟩, ⟨.reservedForm, by decide⟩, ⟨.reservedForm, by decide⟩⟩
  case nop =>
    intro w v x h hw
    exact decode_noFields ((decodeFields_00 h).trans (by rw [fld_0_24_of_nop h hw]; rfl))
  case uSet =>
    rintro w v x (h | h | h) hu
    · exact decode_noFields ((decodeFields_77 h).trans (by rw [fld_16_8_of_flag hu]; rfl))
    · exact decode_noFields ((decodeFields_78 h).trans (by
        rw [fld_0_24_of_flag hu (k := 0) (by decide), fld_0_24_of_flag hu (k := 1) (by decide)]; rfl))
    · exact decode_noFields ((decodeFields_79 h).trans (by rw [fld_16_8_of_flag hu]; rfl))

/-! ## What a step runs -/

theorem step_agenda {s : State} {e : Instr} {rest : List Instr} (h : s.agenda = e :: rest) :
    step s = exec e { s with agenda := rest } := by
  unfold step
  rw [h]

theorem step_word {s : State} {p : Pipe} {tm : Team} (ha : s.agenda = []) (hs : s.site = some (p, tm)) : step s = s.executeWord p tm := by
  unfold step
  rw [ha]
  simp only [hs]

theorem step_own {s : State} (ha : s.agenda = []) (hs : s.site = none) : step s = s.ownEvent := by
  unfold step
  rw [ha]
  simp only [hs]

section
variable {s u : State} {p : Pipe} {tm : Team}

theorem executeWord_ok {i : Instr} (h : s.fetchInstr p tm = (u, .ok i)) : s.executeWord p tm = exec i u := by
  simp only [State.executeWord, h]

theorem executeWord_stop {f : FetchStop} (h : s.fetchInstr p tm = (u, .error f)) (hf : f.flt.cause ≠ notYet) :
    s.executeWord p tm = .next (u.fetchFault p f) := by
  simp only [State.executeWord, h, if_neg hf]

theorem executeWord_later {f : FetchStop} (h : s.fetchInstr p tm = (u, .error f)) (hf : f.flt.cause = notYet) :
    s.executeWord p tm = .next { u.addHold .fetch with focus := none } := by
  simp only [State.executeWord, h, if_pos hf]

theorem fetchInstr_none (h : p.instr = none) : s.fetchInstr p tm = s.decodeAt p tm := by
  simp only [State.fetchInstr, h]

theorem blockWordAt_ok {k : Nat} {w : Word} (h : s.wordAt tm p.block k = (u, .ok w)) : s.blockWordAt p tm k = (u, .ok w) := by
  simp only [State.blockWordAt, h]

theorem blockWordAt_error {k : Nat} {c : BitVec 8} {x : Word} (h : s.wordAt tm p.block k = (u, .error (c, x))) :
    s.blockWordAt p tm k =
      (u, .error { widx := k, u := false, flt := { cause := c, addr := p.block + BitVec.ofNat 64 (4 * k), extra := x } }) := by
  simp only [State.blockWordAt, h]

theorem restWords_one : s.restWords p tm 1 = (s, .ok (0, 0)) := rfl

theorem restWords_two {v : Word} (h : s.wordAt tm p.block (p.widx + 1) = (u, .ok v)) : s.restWords p tm 2 = (u, .ok (v, 0)) := by
  simp [State.restWords, blockWordAt_ok h]

theorem restWords_three {u' : State} {v x : Word} (hv : s.wordAt tm p.block (p.widx + 1) = (u, .ok v))
    (hx : u.wordAt tm p.block (p.widx + 2) = (u', .ok x)) : s.restWords p tm 3 = (u', .ok (v, x)) := by
  simp [State.restWords, blockWordAt_ok hv, blockWordAt_ok hx]

/-- What stops a group at a word that is no instruction. -/
def Pipe.illegalAt (p : Pipe) (w : Word) : FetchStop :=
  { widx := p.widx, u := flag w 23, flt := { cause := 0x10, addr := 0, extra := w } }

/-- The number of words of the instruction whose first word is `w`. -/
def instrWords (w : Word) : Nat := if opcodeKnown (fld w 24 8) then opcodeWords (fld w 24 8) else 1

theorem instrWords_known {w : Word} (h : opcodeKnown (fld w 24 8) = true) : instrWords w = opcodeWords (fld w 24 8) := if_pos h

theorem instrWords_unknown {w : Word} (h : opcodeKnown (fld w 24 8) = false) : instrWords w = 1 := by
  simp [instrWords, h]

theorem opcodeKnown_of_decode {w v x : Word} {i : Instr} (h : decode w v x = .ok i) : opcodeKnown (fld w 24 8) = true := by
  by_contra hk
  obtain ⟨e, he⟩ := decode_unknown (w := w) v x (by simpa using hk)
  rw [h] at he
  cases he

variable {c : Clause} {w : Word}

theorem decodeAt_pastClause (hc : p.clause = some c) (hw : s.wordAt tm p.block p.widx = (u, .ok w)) (hlt : c.fin < p.widx + instrWords w) :
    s.decodeAt p tm = (u, .error (p.illegalAt w)) := by
  unfold instrWords at hlt
  simp only [State.decodeAt, blockWordAt_ok hw, hc, if_pos hlt]
  rfl

theorem decodeAt_ok {u' : State} {v x : Word} {i : Instr} (hc : p.clause = some c) (hw : s.wordAt tm p.block p.widx = (u, .ok w))
    (hle : p.widx + instrWords w ≤ c.fin) (hrest : u.restWords p tm (instrWords w) = (u', .ok (v, x))) (hd : decode w v x = .ok i) :
    s.decodeAt p tm = (u', .ok i) := by
  unfold instrWords at hle hrest
  simp only [State.decodeAt, blockWordAt_ok hw, hc, if_neg (Nat.not_lt.mpr hle), hrest, hd]

theorem decodeAt_illegal {u' : State} {v x : Word} {e : DecodeError} (hc : p.clause = some c)
    (hw : s.wordAt tm p.block p.widx = (u, .ok w)) (hle : p.widx + instrWords w ≤ c.fin)
    (hrest : u.restWords p tm (instrWords w) = (u', .ok (v, x))) (hd : decode w v x = .error e) :
    s.decodeAt p tm = (u', .error (p.illegalAt w)) := by
  unfold instrWords at hle hrest
  simp only [State.decodeAt, blockWordAt_ok hw, hc, if_neg (Nat.not_lt.mpr hle), hrest, hd]
  rfl

theorem decodeAt_unfetched {k : BitVec 8} {x : Word} (hw : s.wordAt tm p.block p.widx = (u, .error (k, x))) :
    s.decodeAt p tm = (u, .error
      { widx := p.widx, u := false, flt := { cause := k, addr := p.block + BitVec.ofNat 64 (4 * p.widx), extra := x } }) := by
  simp only [State.decodeAt, blockWordAt_error hw]

/-- A step at a word that decodes. -/
theorem step_decoded {i : Instr} (ha : s.agenda = []) (hs : s.site = some (p, tm)) (hi : p.instr = none)
    (h : s.decodeAt p tm = (u, .ok i)) : step s = exec i u :=
  (step_word ha hs).trans (executeWord_ok ((fetchInstr_none hi).trans h))

/-- A step at a word that stops its group where it stands. -/
theorem step_stopped {b : Bool} {f : Flt} (ha : s.agenda = []) (hs : s.site = some (p, tm)) (hi : p.instr = none)
    (h : s.decodeAt p tm = (u, .error { widx := p.widx, u := b, flt := f })) (hf : f.cause ≠ notYet) :
    step s = .next (u.faultLanes p b f p.lanes) :=
  (step_word ha hs).trans (executeWord_stop ((fetchInstr_none hi).trans h) hf)

theorem step_illegal (ha : s.agenda = []) (hs : s.site = some (p, tm)) (hi : p.instr = none)
    (h : s.decodeAt p tm = (u, .error (p.illegalAt w))) :
    step s = .next (u.faultLanes p (flag w 23) { cause := 0x10, addr := 0, extra := w } p.lanes) :=
  step_stopped ha hs hi h (show (0x10 : BitVec 8) ≠ notYet by decide)

end

/-- Settles O55: it holds. -/
theorem aStepRunsTheDecodedInstruction : Obligations.AStepRunsTheDecodedInstruction := by
  refine ⟨?one, ?two, ?three, ?kept⟩
  case one =>
    intro s p tm c u w i ha hs hi hc hw hn hle hd
    have hwords := (instrWords_known (opcodeKnown_of_decode hd)).trans hn
    exact step_decoded ha hs hi (decodeAt_ok hc hw (hwords ▸ hle) (by rw [hwords, restWords_one]) hd)
  case two =>
    intro s p tm c u u' w v i ha hs hi hc hw hn hle hv hd
    have hwords := (instrWords_known (opcodeKnown_of_decode hd)).trans hn
    exact step_decoded ha hs hi (decodeAt_ok hc hw (hwords ▸ hle) (by rw [hwords, restWords_two hv]) hd)
  case three =>
    intro s p tm c u u' u'' w v x i ha hs hi hc hw hn hle hv hx hd
    have hwords := (instrWords_known (opcodeKnown_of_decode hd)).trans hn
    exact step_decoded ha hs hi (decodeAt_ok hc hw (hwords ▸ hle) (by rw [hwords, restWords_three hv hx]) hd)
  case kept =>
    intro s p tm i ha hs hi
    exact (step_word ha hs).trans (executeWord_ok (by simp only [State.fetchInstr, hi]))

/-- Settles O57: it holds. -/
theorem wordsThatCannotExecuteFault : Obligations.WordsThatCannotExecuteFault := by
  refine ⟨?unknown, ?past, ?one, ?two, ?unfetched, ?later⟩
  case unknown =>
    intro s p tm c u w ha hs hi hc hw hk hle
    obtain ⟨e, he⟩ := decode_unknown (w := w) 0 0 hk
    exact step_illegal ha hs hi (decodeAt_illegal hc hw (instrWords_unknown hk ▸ hle) (by rw [instrWords_unknown hk, restWords_one]) he)
  case past =>
    intro s p tm c u w ha hs hi hc hw hk hlt
    exact step_illegal ha hs hi (decodeAt_pastClause hc hw (instrWords_known hk ▸ hlt))
  case one =>
    intro s p tm c u w e ha hs hi hc hw hk hn hle hd
    have hwords := (instrWords_known hk).trans hn
    exact step_illegal ha hs hi (decodeAt_illegal hc hw (hwords ▸ hle) (by rw [hwords, restWords_one]) hd)
  case two =>
    intro s p tm c u u' w v e ha hs hi hc hw hk hn hle hv hd
    have hwords := (instrWords_known hk).trans hn
    exact step_illegal ha hs hi (decodeAt_illegal hc hw (hwords ▸ hle) (by rw [hwords, restWords_two hv]) hd)
  case unfetched =>
    intro s p tm u k x ha hs hi hw hk
    exact step_stopped ha hs hi (decodeAt_unfetched hw) hk
  case later =>
    intro s p tm u x ha hs hi hw
    exact (step_word ha hs).trans (executeWord_later ((fetchInstr_none hi).trans (decodeAt_unfetched hw)) rfl)

/-! ## Events of the part's own -/

theorem mem_candidates_of_inTurn {s : State} {e : Instr} (h : e ∈ s.inTurn) : e ∈ s.candidates := by
  rcases List.mem_append.mp h with h | h
  · exact List.mem_of_mem_drop h
  · exact List.mem_of_mem_take h

theorem State.firstChange_none {s : State} {es : List Instr} (h : ∀ e ∈ es, exec e s = .next s) (n : Nat) : s.firstChange es n = none := by
  induction es generalizing n with
  | nil => rfl
  | cons e es ih =>
    unfold State.firstChange
    rw [h e List.mem_cons_self]
    simp only [if_true]
    exact ih (fun e' he' => h e' (List.mem_cons_of_mem _ he')) (n + 1)

/-- Settles O56: it holds. -/
theorem aStepTakesAnEventElsewhere : Obligations.AStepTakesAnEventElsewhere := by
  refine ⟨fun s e rest h => step_agenda h, ?event, ?still⟩
  case event =>
    intro s t ha hs hstep
    rw [step_own ha hs] at hstep
    unfold State.ownEvent at hstep
    split at hstep
    · next n u hu =>
      cases hstep
      obtain ⟨e, hm, he, hne⟩ := State.firstChange_next hu
      exact .inr ⟨e, mem_candidates_of_inTurn hm, u, _, he, hne, rfl⟩
    · next n o hnot hu =>
      exact absurd hstep (by rintro rfl; exact hnot t rfl)
    · cases hstep
      exact .inl rfl
  case still =>
    intro s ha hs hall
    have hnone := State.firstChange_none (fun e he => hall e (mem_candidates_of_inTurn he)) 1
    rw [step_own ha hs]
    simp only [State.ownEvent, hnone]

/-! ## Reset -/

theorem launchThread_k (i : ThreadId) (args : BitVec 64) (n : BitVec 6) : (launchThread i args).reg (.k n) =
    if n = 0 then args.extractLsb' 0 32 else if n = 1 then args.extractLsb' 32 32 else 0 := by
  by_cases h0 : n = 0
  · subst h0
    exact BitVec.eq_of_toNat_eq (by simp [Thread.reg, launchThread])
  · by_cases h1 : n = 1
    · subst h1
      rfl
    · have hn0 : n.toNat ≠ 0 := fun e => h0 (BitVec.eq_of_toNat_eq e)
      have hn1 : n.toNat ≠ 1 := fun e => h1 (BitVec.eq_of_toNat_eq e)
      rw [if_neg h0, if_neg h1]
      simp [Thread.reg, launchThread, Vector.getElem_set, hn0.symm, hn1.symm]

/-- Settles O58: it holds. -/
theorem resetLeavesNothingResident : Obligations.ResetLeavesNothingResident := by
  refine ⟨⟨rfl, rfl, rfl, rfl, rfl, rfl, rfl, rfl, rfl, rfl, rfl, rfl, rfl⟩, fun _ => ⟨rfl, rfl⟩, fun d => ?die, fun k => ?port,
    launchThread_k, fun _ _ => ⟨rfl, rfl⟩⟩
  case die =>
    have hd : State.reset.die d = dieReset := by simp [State.die, State.reset]
    rw [hd]
    exact ⟨rfl, rfl, fun _ => rfl⟩
  case port =>
    have hp : State.reset.ports[k] = portReset := by simp [State.reset]
    rw [hp]
    exact ⟨rfl, rfl⟩

/-! ## Worked words -/

/-- A register of the reserved kind r is no operand, whatever the k count (R76). -/
theorem operandsOk_iadd_reserved (ks : Nat) : (Instr.iadd false (.k 6) (.k 6) (.r 0) .w32).operandsOk ks = false := by
  simp [Instr.operandsOk, Instr.uses, src, Use.ok]

/-- A constant is no destination (R28). -/
theorem operandsOk_iadd_constant (ks : Nat) : (Instr.iadd false (.c 0) (.k 6) (.t 0) .w32).operandsOk ks = false := by
  simp [Instr.operandsOk, Instr.uses, dstU, Use.ok]

/-- Settles O52: it holds. Each word is decoded. -/
theorem wordsOfTheSpecDecode : Obligations.WordsOfTheSpecDecode :=
  ⟨by decide, by decide, by decide, by decide, by decide, by decide, ⟨_, by decide, operandsOk_iadd_reserved⟩,
    ⟨_, by decide, operandsOk_iadd_constant⟩, by decide, by decide, by decide, by decide, by decide, by decide, by decide, by decide,
    by decide, by decide, by decide, by decide, by decide, by decide, by decide, by decide, by decide, by decide, by decide, by decide,
    by decide⟩

end Sys2Proof.Machine
end

section
/-!
SUPPORT. Memory instructions (24_ref R391 to R396, 25_ref R428, R444, 22_ref R306 to R309, 02_execution R29): what one execution of a load,
a store or an atomic does where its checks pass, which faults it finds first, and what returns.
-/
namespace Sys2Proof.Machine

/-! ## Bodies whose checks pass -/

/-- What a memory instruction needs of its address, at the word that its group stands at. -/
abbrev Resolves (mc : MemCtl) (base : Opnd) (legal : Bool) (needs : Needs) (tm : Team) (th : Thread) (s s' : State) (sp : Spot) : Prop :=
  s.resolve tm th mc.space legal base mc.off mc.size.bytes needs mc.ord mc.scope none = (s', .ok sp)

section
variable {i : Instr} {d base : Opnd} {mc : MemCtl} {s : State} {th : Thread} {tids : List Nat} {t : State}

theorem loadBody_ok {c : Fin 4} {pred : Option (BitVec 3)} (h : AtWord (fun p tm s th tids t => ∃ s' sp,
    Resolves mc base (Sys2Proof.Machine.Space.ordinary mc.space) .rd tm th s s' sp ∧
    t = s'.launch { sp.acc s' i p th tids (.load mc.size) mc.size.bytes mc.ord mc.scope with
      ctr := some c, dst := d.regList mc.size.regs, pred := pred, cp := mc.cp }) s th tids t) :
    loadBody i d base c pred mc s th tids = (t, none) := by
  obtain ⟨p, tm, hs, s', sp, hr, rfl⟩ := h
  simp only [loadBody, hs, hr]

/-- LDNR at a page that is not resident (R396). -/
theorem loadBody_nonresident {c : Fin 4} {q : BitVec 3} (h : AtWord (fun _ tm s th tids t => ∃ s' f,
    s.resolve tm th mc.space (Sys2Proof.Machine.Space.ordinary mc.space) base mc.off mc.size.bytes .rd mc.ord mc.scope none =
      (s', .error f) ∧ f.cause = 0x04 ∧
    t = (s'.writeRegs th.id.team tids (d.regList mc.size.regs) fun x => (x.setRegN d mc.size.regs 0).setPred q true).repairPreds
      th.id.team tids [q]) s th tids t) :
    loadBody i d base c (some q) mc s th tids = (t, none) := by
  obtain ⟨p, tm, hs, s', f, hr, hf, rfl⟩ := h
  simp only [loadBody, hs, hr, hf, beq_self_eq_true]

theorem storeBody_ok (h : AtWord (fun p tm s th tids t => ∃ s' sp,
    Resolves mc base (Sys2Proof.Machine.Space.ordinary mc.space) .wr tm th s s' sp ∧ s'.badUnit sp mc.size.bytes = false ∧
    t = s'.launch { sp.acc s' i p th tids (.store (bytesOfNat mc.size.bytes (th.regN d mc.size.regs))) mc.size.bytes mc.ord mc.scope with
      cp := mc.cp }) s th tids t) : storeBody i d base mc s th tids = (t, none) := by
  obtain ⟨p, tm, hs, s', sp, hr, hb, rfl⟩ := h
  simp only [storeBody, hs, hr, hb, Bool.false_eq_true, if_false]
  rfl

theorem stfBody_ok {fb : Opnd} {fo : BitVec 16} (h : AtWord (fun p tm s th tids t => ∃ s' sp s'' fl off h,
    Resolves mc base (Sys2Proof.Machine.Space.stfOk mc.space) .wr tm th s s' sp ∧
    s'.resolveFlag tm (th.reg64 fb + fo.signExtend 64) = (s'', .ok (fl, off, h)) ∧
    t = s''.launch { sp.acc s'' i p th tids (.stf (bytesOfNat mc.size.bytes (th.regN d mc.size.regs)) fl off) mc.size.bytes mc.ord mc.scope with
      cp := mc.cp, fpar := h.map fun h => (tm.id.core.die, h), fea := some (th.reg64 fb + fo.signExtend 64) }) s th tids t) :
    stfBody i d base mc fb fo s th tids = (t, none) := by
  obtain ⟨p, tm, hs, s', sp, s'', fl, off, h, hr, hf, rfl⟩ := h
  simp only [stfBody, hs, hr, hf]
  rfl

theorem parcelLoadBody_ok {c : Fin 4} {refs : Bool} (h : AtWord (fun p tm s th tids t => ∃ s' sp h,
    s.resolveParcel tm th mc.space base mc.off mc.size.bytes .rd mc.ord mc.scope (fun _ _ => false) = (s', .ok (sp, h)) ∧
    t = s'.launch { sp.acc s' i p th tids (if refs then .loadRef (th.reg64 base) h.size else .load mc.size) mc.size.bytes mc.ord mc.scope with
      ctr := some c, dst := d.regList (if refs then 2 else mc.size.regs), cp := mc.cp, ref := true }) s th tids t) :
    parcelLoadBody i d base c mc refs s th tids = (t, none) := by
  obtain ⟨p, tm, hs, s', sp, h, hr, rfl⟩ := h
  simp only [parcelLoadBody, hs, hr]

theorem parcelStoreBody_ok {bytes : Thread → List Byte} {more : State → Team → Thread → Handle → Addr → Bool}
    (h : AtWord (fun p tm s th tids t => ∃ s' sp h,
      s.resolveParcel tm th mc.space base mc.off mc.size.bytes .wr mc.ord mc.scope (more s tm th) = (s', .ok (sp, h)) ∧
      t = s'.launch { sp.acc s' i p th tids (.store (bytes th)) mc.size.bytes mc.ord mc.scope with cp := mc.cp, ref := true }) s th tids t) :
    parcelStoreBody i base mc bytes more s th tids = (t, none) := by
  obtain ⟨p, tm, hs, s', sp, h, hr, rfl⟩ := h
  simp only [parcelStoreBody, hs, hr]

theorem atomBody_ok {mc : AtomCtl} {op : Option AtomOp} {ctr : Option (Fin 4)} {dst : List Opnd} {mk : Thread → MemOp}
    (h : AtWord (fun p tm s th tids t => ∃ s' sp,
      s.resolve tm th mc.space (Sys2Proof.Machine.Space.ordinary mc.space) base mc.off (4 * mc.ty.regs) .rw mc.ord mc.scope
        (some (op, mc.ty)) = (s', .ok sp) ∧
      t = s'.launch { sp.acc s' i p th tids (mk th) (4 * mc.ty.regs) mc.ord mc.scope with ctr := ctr, dst := dst, cp := mc.cp }) s th tids t) :
    atomBody i base mc op ctr dst mk s th tids = (t, none) := by
  obtain ⟨p, tm, hs, s', sp, hr, rfl⟩ := h
  have hr' : s.resolve tm th mc.space (Sys2Proof.Machine.Space.ordinary mc.space) base mc.off (atomBytes mc.ty) .rw mc.ord mc.scope
      (some (op, mc.ty)) = (s', .ok sp) := hr
  simp only [atomBody, hs, hr']
  rfl

end

/-- Settles O17: it holds. -/
theorem loadsAndStoresIssueAccesses : Obligations.LoadsAndStoresIssueAccesses :=
  ⟨fun _ _ _ _ _ => completesCounted_of (fun _ => rfl) fun _ _ _ _ => loadBody_ok,
    fun _ _ _ _ _ _ => completesCounted_of (fun _ => rfl) fun _ _ _ _ => loadBody_ok,
    fun _ _ _ _ _ _ => completesCounted_of (fun _ => rfl) fun _ _ _ _ => loadBody_nonresident,
    fun _ _ _ _ _ => completesCounted_of (fun _ => rfl) fun _ _ _ _ => parcelLoadBody_ok (refs := false),
    fun _ _ _ _ _ => completesCounted_of (fun _ => rfl) fun _ _ _ _ => parcelLoadBody_ok (refs := true),
    fun _ _ _ _ => completes_of (fun _ => rfl) fun _ _ _ _ => storeBody_ok,
    fun _ _ _ _ _ _ => completes_of (fun _ => rfl) fun _ _ _ _ => stfBody_ok,
    fun _ d _ mc => completes_of (fun _ => rfl) fun _ _ _ _ =>
      parcelStoreBody_ok (bytes := fun th => storeBytes th d mc.size) (more := fun _ _ _ _ _ => false),
    fun _ d _ _ => completes_of (fun _ => rfl) fun _ _ _ _ =>
      parcelStoreBody_ok (bytes := fun th => bytesOfNat 4 (if th.reg64 d = 0 then 0xFFFFFFFF else bitsOf (th.reg64 d).toNat 0 32))
        (more := fun s tm th h b => (s.die tm.id.core.die).escapes h b (th.reg64 d))⟩

/-! ## Atomics -/

/-- Settles O18: it holds. -/
theorem atomicsIssueAccesses : Obligations.AtomicsIssueAccesses := by
  refine ⟨fun _ _ _ _ _ _ _ => completesCounted_of (fun _ => rfl) fun _ _ _ _ => atomBody_ok,
    fun _ _ _ _ _ => completes_of (fun _ => rfl) fun _ _ _ _ => atomBody_ok,
    fun _ _ _ _ _ _ => completesCounted_of (fun _ => rfl) fun _ _ _ _ => atomBody_ok, ?add, fun _ _ => rfl, fun _ _ => rfl,
    fun _ _ => ⟨rfl, rfl, rfl, rfl⟩, ?signed, ?unsigned, fun _ _ _ => ⟨rfl, rfl, rfl, rfl, rfl, rfl⟩, fun _ _ _ _ => rfl,
    fun _ _ _ _ _ => rfl⟩
  case add =>
    intro ty a b hty
    cases ty with
    | f32 => simp at hty
    | f64 => simp at hty
    | _ => rfl
  case signed =>
    intro ty a b hty
    cases ty with
    | i32 => exact ⟨rfl, rfl⟩
    | i64 => exact ⟨rfl, rfl⟩
    | _ => simp at hty
  case unsigned =>
    intro ty a b hty ha hb
    have hle : intOf (32 * ty.regs) false a ≤ intOf (32 * ty.regs) false b ↔ a ≤ b := by
      simp only [intOf, Bool.false_eq_true, if_false, Nat.mod_eq_of_lt ha, Nat.mod_eq_of_lt hb, Nat.cast_le]
    have hmin : (if intOf (32 * ty.regs) false a ≤ intOf (32 * ty.regs) false b then a else b, (0 : Word)) = (if a ≤ b then a else b, 0) :=
      congrArg (fun x => (x, 0)) (if_congr hle rfl rfl)
    have hmax : (if intOf (32 * ty.regs) false a ≤ intOf (32 * ty.regs) false b then b else a, (0 : Word)) = (if a ≤ b then b else a, 0) :=
      congrArg (fun x => (x, 0)) (if_congr hle rfl rfl)
    cases ty with
    | n32 => exact ⟨hmin, hmax⟩
    | n64 => exact ⟨hmin, hmax⟩
    | _ => simp at hty

/-! ## Checks of SPACE and alignment -/

section
variable {s : State} {tm : Team} {th : Thread} {sp : Space} {base : Opnd} {off : BitVec 14} {n : Nat} {needs : Needs} {ord : Order}
  {sc : Scope} {at' : Option (Option AtomOp × AtomType)}

/-- A reserved SPACE is refused before anything else. -/
theorem State.resolve_space : s.resolve tm th sp false base off n needs ord sc at' = (s, .error (fltAt 0x08 (effAddr th sp base off))) := rfl

/-- An address that is no multiple of the size is refused next. -/
theorem State.resolve_misaligned (h : (effAddr th sp base off).toNat % n ≠ 0) :
    s.resolve tm th sp true base off n needs ord sc at' = (s, .error (fltAt 0x01 (effAddr th sp base off))) := by
  simp only [State.resolve, Bool.not_true, Bool.false_eq_true, if_false, if_pos h]

/-- The two checks, as a store's or an atomic's fault states them. -/
theorem State.resolve_first {f : Flt} (hf : (if Sys2Proof.Machine.Space.ordinary sp = false then some (fltAt 0x08 (effAddr th sp base off))
      else if (effAddr th sp base off).toNat % n ≠ 0 then some (fltAt 0x01 (effAddr th sp base off)) else none) = some f) :
    s.resolve tm th sp (Sys2Proof.Machine.Space.ordinary sp) base off n needs ord sc at' = (s, .error f) ∧ f.cause ≠ notYet := by
  split at hf
  · next hsp =>
    cases hf
    rw [hsp]
    exact ⟨State.resolve_space, show (0x08 : BitVec 8) ≠ notYet by decide⟩
  · next hsp =>
    split at hf
    · next hal =>
      cases hf
      rw [show Sys2Proof.Machine.Space.ordinary sp = true by simpa using hsp]
      exact ⟨State.resolve_misaligned hal, show (0x01 : BitVec 8) ≠ notYet by decide⟩
    · cases hf

end

/-- A load of one execution that finds a fault. -/
theorem execLd_faults {u : Bool} {d base : Opnd} {cnt : BitVec 2} {mc : MemCtl} {s : State} {p : Pipe} {tm : Team} {r : Run} {th : Thread}
    {f : Flt} (h : Ready (.ld u d base cnt mc) s p tm) (hc : CounterFree s p cnt) (hr : runsOf (.ld u d base cnt mc) p = [r])
    (hth : s.thread (tidOf p r.reader) = some th)
    (hf : s.resolve tm th mc.space (Sys2Proof.Machine.Space.ordinary mc.space) base mc.off mc.size.bytes .rd mc.ord mc.scope none =
      (s, .error f)) (hne : f.cause ≠ notYet) :
    exec (.ld u d base cnt mc) s =
      .next ((s.faultLanes p (Instr.ld u d base cnt mc).uni f r.targets).past p (.ld u d base cnt mc)) := by
  have hs := h.1
  refine (execLanes_counted _ h hc).trans ?_
  rw [hr]
  simp only [State.runBody, hth, loadBody, hs, hf, if_neg hne]

/-- Settles O19: it holds. -/
theorem accessesCheckSpaceAndAlignmentFirst : Obligations.AccessesCheckSpaceAndAlignmentFirst := by
  refine ⟨?load, ?store, ?atom⟩
  case load =>
    intro u d base cnt mc s p tm r th h hc hr hth
    refine ⟨fun hsp => ?_, fun hsp hal => ?_⟩
    · exact execLd_faults h hc hr hth (by rw [hsp]; exact State.resolve_space) (show (0x08 : BitVec 8) ≠ notYet by decide)
    · exact execLd_faults h hc hr hth (by rw [hsp]; exact State.resolve_misaligned hal) (show (0x01 : BitVec 8) ≠ notYet by decide)
  case store =>
    refine fun u d base mc => faultsWhen_of_pure (fun _ => rfl) fun s p tm th tids f hs hf => ?_
    obtain ⟨hres, hne⟩ := State.resolve_first (s := s) (tm := tm) (needs := .wr) (ord := mc.ord) (sc := mc.scope) (at' := none) hf
    simp only [storeBody, hs, hres]
    exact ⟨trivial, hne⟩
  case atom =>
    refine fun u b base op mc => faultsWhen_of_pure (fun _ => rfl) fun s p tm th tids f hs hf => ?_
    obtain ⟨hres, hne⟩ := State.resolve_first (s := s) (tm := tm) (needs := .rw) (ord := mc.ord) (sc := mc.scope)
      (at' := some (some op, mc.ty)) hf
    have hbytes : atomBytes mc.ty = 4 * mc.ty.regs := rfl
    simp only [atomBody, hs, hbytes, hres]
    exact ⟨trivial, hne⟩

/-! ## The own scratchpad -/

/-- An STF's request is asked for by no other access. -/
theorem State.askStf_of_none {s : State} {id : Nat} (h : s.acc id = none) : s.askStf id = s := by
  simp only [State.askStf, h]

theorem State.askStf_of_load {s : State} {id : Nat} {a : Acc} {size : MemSize} (h : s.acc id = some a) (ho : a.op = .load size) :
    s.askStf id = s := by
  simp only [State.askStf, h, ho]

/-- Bytes written into a team's scratchpad. -/
def Team.withBytes (off : Nat) (bs : List Byte) (u : Team) : Team := { u with spad := u.spad.setN off bs }

/-- A lone plain store to a resident team's scratchpad leaves its bytes there. -/
theorem State.launch_store {s : State} {a : Acc} {t : TeamId} {off : Nat} {bs : List Byte} {tm : Team} (h : s.accs = [])
    (hd : s.damage = []) (hp : a.place = .spad t off) (hph : a.phase = .gated) (ho : a.op = .store bs) (hc : a.ctr = none)
    (ht : s.team t = some tm) :
    s.launch a = ({ s.bump with accs := [] } : State).onTeam t (Team.withBytes off bs) := by
  have hplaced : a.unplaced = false := by simp only [Acc.unplaced, hph]
  have hnew := State.newAcc_store h hd hp hph ho ht
  simp only [State.launch, hc, ho, hplaced, Bool.false_eq_true, if_false, hnew]
  exact State.askStf_of_none rfl

/-- One more access outstanding in a counter of a thread (R29). -/
def Thread.counts (c : Fin 4) (t : Thread) : Thread := { t with ctr := t.ctr.set c (t.ctr[c] + 1) }

/-- One more access outstanding in a counter of each lane (R29). -/
def State.countUp (s : State) (team : TeamId) (lanes : List Nat) (c : Fin 4) : State :=
  lanes.foldl (fun s tid => s.onThread { team := team, tid := tid } (Thread.counts c)) s

theorem State.countUp_thread (s : State) (team : TeamId) {lanes : List Nat} (hn : lanes.Nodup) (c : Fin 4) (j : ThreadId) :
    (s.countUp team lanes c).thread j = if j.team = team ∧ j.tid ∈ lanes then (s.thread j).map (Thread.counts c) else s.thread j :=
  thread_foldl_onThread team (Thread.counts c) (fun _ => rfl) lanes hn s j

theorem State.countUp_besideIssue (s : State) (team : TeamId) (lanes : List Nat) (c : Fin 4) :
    (s.countUp team lanes c).besideIssue = s.besideIssue :=
  (foldl_onThread_beside team _ lanes s).1

/-- A lone plain load of an undamaged scratchpad counts in its counter and has its bytes. -/
theorem State.launch_load {s : State} {a : Acc} {t : TeamId} {off : Nat} {size : MemSize} {tm : Team} {c : Fin 4} (h : s.accs = [])
    (hd : s.damage = []) (hp : a.place = .spad t off) (hph : a.phase = .gated) (ho : a.op = .load size) (hc : a.ctr = some c)
    (hord : a.ord = .plain) (ht : s.team t = some tm) :
    s.launch a = { (s.countUp a.th.team a.lanes c).bump with
      accs := [{ a with id := s.fresh, phase := .done, got := tm.spad.getN off a.size }] } := by
  have hbeside := s.countUp_besideIssue a.th.team a.lanes c
  have haccs : (s.countUp a.th.team a.lanes c).accs = [] := (congrArg State.accs hbeside).trans h
  have hdam : (s.countUp a.th.team a.lanes c).damage = [] := (congrArg State.damage hbeside).trans hd
  have hfresh : (s.countUp a.th.team a.lanes c).fresh = s.fresh := (congrArg State.fresh hbeside :)
  have hteam : (s.countUp a.th.team a.lanes c).team t = some tm := by
    rw [State.team, State.teams_of_besideIssue hbeside]
    exact ht
  have hnew := State.newAcc_load haccs hdam hp hph ho hteam
  rw [hfresh] at hnew
  have hlaunch : s.launch a = ((s.countUp a.th.team a.lanes c).newAcc a).askStf s.fresh := by
    simp only [State.launch, hc, ho, hord, State.countUp]
    rfl
  rw [hlaunch, hnew]
  exact State.askStf_of_load (a := { a with id := s.fresh, phase := .done, got := tm.spad.getN off a.size }) (by simp [State.acc]) ho

/-- The thread of a pipe's lane has that identifier. -/
theorem thread_team {s : State} {p : Pipe} {l : Nat} {th : Thread} (h : s.thread (tidOf p l) = some th) : th.id.team = p.team := by
  rw [State.thread_id s h]
  rfl

/-- Where an access of the own scratchpad goes (07_memory R126). -/
def ownSpot (tm : Team) (ea : Word) : Spot := { place := .spad tm.id ea.toNat, ea := ea.setWidth 64, tag := 0, parcel := none }

/-- Settles O20: it holds. The access performs at once, in the scratchpad of its team. -/
theorem storeChangesOnlyItsBytesOfTheScratchpad : Obligations.StoreChangesOnlyItsBytesOfTheScratchpad := by
  intro u d base mc s p tm r th hsp hord h hr hth haccs hdam hwf hal hown
  obtain ⟨-, -, hteam, htm⟩ := State.site_eq h.1
  obtain ⟨ea, hea⟩ : ∃ ea, ea = th.reg base + mc.off.signExtend 32 := ⟨_, rfl⟩
  obtain ⟨bs, hbs⟩ : ∃ bs, bs = bytesOfNat mc.size.bytes (th.regN d mc.size.regs) := ⟨_, rfl⟩
  have hlen : bs.length = mc.size.bytes := by rw [hbs, bytesOfNat_length]
  have hres := State.resolve_own (s := s) (tm := tm) (th := th) (needs := .wr) (sc := mc.scope) hal hown
  rw [← hea] at hres hown ⊢
  rw [← hbs]
  obtain ⟨t, ht⟩ : ∃ t, t = ({ s.bump with accs := [] } : State).onTeam p.team (Team.withBytes ea.toNat bs) := ⟨_, rfl⟩
  have hexec : exec (.st u d base mc) s = .next (t.past p (.st u d base mc)) := by
    refine loadsAndStoresIssueAccesses.2.2.2.2.2.1 u d base mc s p tm t h ?_
    rw [hr]
    refine ⟨th, t, hth, ⟨p, tm, h.1, s, ownSpot tm ea, ?_, ?_, ?_⟩, rfl⟩
    · rw [hsp, hord]
      exact hres
    · simp [State.badUnit, ownSpot, State.spadDamaged, hdam]
    · rw [← hbs, ht, ← htm]
      exact (State.launch_store haccs hdam rfl rfl rfl rfl (htm ▸ hteam)).symm
  refine ⟨_, { tm with spad := tm.spad.setN ea.toNat bs }, hexec, ?_, ?_, ?_, rfl, ?_, ?_, ?_⟩
  · rw [past_team, ht, State.team_onTeam_same _ _ (Team.withBytes ea.toNat bs) fun _ h => h]
    exact congrArg (Option.map _) hteam
  · rw [← hlen]
    exact Memory.getN_setN_same hwf ea.toNat bs
  · intro a ha
    exact Memory.get_setN_other hwf ea.toNat bs (hlen ▸ ha)
  · intro j x hj
    obtain ⟨y, hy, ht', hk', hp', hctr, hhm, htag⟩ := (past_spec t p (.st u d base mc)).1 j x (ht ▸ hj)
    refine ⟨y, hy, fun o _ => ?_, by rw [hp'], hctr, hhm, htag⟩
    cases o with
    | t n => exact congrArg (fun v => v[n.toFin]) ht'
    | k n => exact congrArg (fun v => v[n.toFin]) hk'
    | c n => rfl
    | r n => rfl
  · intro k hk
    rw [past_team, ht, State.team_onTeam_other _ _ _ (Team.withBytes ea.toNat bs) hk fun _ h => h]
    rfl
  · have hrest : t.besideIssue = ({ s.bump with accs := [], teams := t.teams } : State).besideIssue := by rw [ht]; rfl
    have hall := (past_spec t p (.st u d base mc)).2.trans hrest
    exact ⟨(congrArg State.accs hall :), (congrArg State.pool hall :), (congrArg State.host hall :), (congrArg State.lines hall :),
      (congrArg State.l3 hall :), (congrArg State.cmds hall :), (congrArg State.dies hall :)⟩

/-- Settles O21: it holds. -/
theorem loadReadsItsBytesOfTheScratchpad : Obligations.LoadReadsItsBytesOfTheScratchpad := by
  intro u d base cnt mc s p tm r th hsp hord h hcf hr hth haccs hdam hal hown
  obtain ⟨-, -, hteam, htm⟩ := State.site_eq h.1
  have hres := State.resolve_own (s := s) (tm := tm) (th := th) (needs := .rd) (sc := mc.scope) hal hown
  obtain ⟨ea, hea⟩ : ∃ ea, ea = th.reg base + mc.off.signExtend 32 := ⟨_, rfl⟩
  rw [← hea] at hres hown ⊢
  obtain ⟨a, ha⟩ : ∃ a : Acc, a = { (ownSpot tm ea).acc s (.ld u d base cnt mc) p th r.targets (.load mc.size) mc.size.bytes mc.ord mc.scope with
    ctr := some cnt.toFin, dst := d.regList mc.size.regs, cp := mc.cp } := ⟨_, rfl⟩
  have hteam' : a.th.team = p.team := by rw [ha]; exact thread_team hth
  have hlaunch := State.launch_load (s := s) (a := a) (t := tm.id) (off := ea.toNat) (size := mc.size) (tm := tm) (c := cnt.toFin) haccs hdam
    (by rw [ha]; rfl) (by rw [ha]; rfl) (by rw [ha]; rfl) (by rw [ha]) (by rw [ha]; exact hord) (htm ▸ hteam)
  have hexec : exec (.ld u d base cnt mc) s = .next ((s.launch a).past p (.ld u d base cnt mc)) := by
    refine loadsAndStoresIssueAccesses.1 u d base cnt mc s p tm _ h hcf ?_
    rw [hr]
    refine ⟨th, _, hth, ⟨p, tm, h.1, s, ownSpot tm ea, ?_, ?_⟩, rfl⟩
    · rw [hsp, hord]
      exact hres
    · rw [ha]
  have hlanes : r.targets.Nodup := by
    have hn := runsOf_nodup (i := .ld u d base cnt mc) h.2.2.2.1
    rw [hr] at hn
    simpa using hn
  have hbeside := (past_spec (s.launch a) p (.ld u d base cnt mc)).2
  refine ⟨_, { a with id := s.fresh, phase := .done, got := tm.spad.getN ea.toNat a.size }, hexec, ?_, rfl, by rw [ha]; rfl, by rw [ha]; rfl,
    by rw [ha], by rw [ha], by rw [ha]; rfl, ?_, ?_⟩
  · exact (congrArg State.accs hbeside).trans (by rw [hlaunch]; rfl)
  · rw [State.teams_of_besideIssue hbeside, hlaunch]
    exact (State.teams_of_besideIssue (s.countUp_besideIssue a.th.team a.lanes cnt.toFin) :)
  · intro l hl x hx
    have hl' : (s.launch a).thread (tidOf p l) = some (x.counts cnt.toFin) := by
      rw [hlaunch]
      refine (s.countUp_thread a.th.team (by rw [ha]; exact hlanes) cnt.toFin (tidOf p l)).trans ?_
      rw [if_pos ⟨hteam'.symm, by rw [ha]; exact hl⟩, hx]
      rfl
    obtain ⟨y, hy, ht', hk', hp', hctr, -⟩ := (past_spec (s.launch a) p (.ld u d base cnt mc)).1 _ _ hl'
    exact ⟨y, hy, ht', hk', hp', hctr⟩

end Sys2Proof.Machine
end

section
/-!
SUPPORT. The return of loads, prefetch, maintenance, residency, identifiers and fences (02_execution R29, 07_memory R134, R143, R148,
22_ref R323, 23_ref R356, 24_ref R420, 25_ref R430, R453, R455).
-/
namespace Sys2Proof.Machine

/-! ## The return of a load -/

/-- The registers of a value, lowest first. -/
theorem Thread.foldl_setReg_eq_setRegN (th : Thread) (d : Opnd) {n : Nat} (hn : n = 1 ∨ n = 2 ∨ n = 4) (v : Nat) :
    (List.range n).foldl (fun t j => t.setReg (d.plus j) (BitVec.ofNat 32 (v / 2 ^ (32 * j)))) th = th.setRegN d n v := by
  have hplus : (d.plus 2).plus 1 = d.plus 3 := by
    cases d <;> simp [Opnd.plus, BitVec.add_assoc]
  have hhigh : ∀ x : Nat, (BitVec.ofNat 64 x).extractLsb' 32 32 = BitVec.ofNat 32 (x / 2 ^ 32) := fun x => by
    apply BitVec.eq_of_toNat_eq
    simp [Nat.shiftRight_eq_div_pow]
    omega
  rcases hn with rfl | rfl | rfl
  · simp [List.range_succ, Thread.setRegN, Opnd.plus_zero]
  · simp [List.range_succ, Thread.setRegN, Opnd.plus_zero, Thread.setReg64, hhigh]
  · simp [List.range_succ, Thread.setRegN, Opnd.plus_zero, Thread.setReg64, hhigh, hplus, Nat.div_div_eq_div_mul]

theorem Opnd.regList_length (d : Opnd) (n : Nat) : (d.regList n).length = n := by simp [Opnd.regList]

theorem Opnd.regList_getD (d : Opnd) {n j : Nat} (h : j < n) : (d.regList n).getD j (.t 0) = d.plus j := by
  simp [Opnd.regList, h]

/-- A load counter of each lane, one less (R29). -/
def Thread.returns (c : Fin 4) (t : Thread) : Thread := { t with ctr := t.ctr.set c (t.ctr[c] - 1) }

theorem State.countDown_eq (s : State) {a : Acc} {c : Fin 4} (h : a.ctr = some c) :
    s.countDown a = a.lanes.foldl (fun s tid => s.onThread { team := a.th.team, tid := tid } (Thread.returns c)) s := by
  simp only [State.countDown, h]
  rfl

theorem State.countDown_thread {s : State} {a : Acc} {c : Fin 4} (h : a.ctr = some c) (hn : a.lanes.Nodup) (j : ThreadId) :
    (s.countDown a).thread j = if j.team = a.th.team ∧ j.tid ∈ a.lanes then (s.thread j).map (Thread.returns c) else s.thread j := by
  rw [State.countDown_eq s h]
  exact thread_foldl_onThread a.th.team (Thread.returns c) (fun _ => rfl) a.lanes hn s j

theorem State.countDown_teams {s : State} {a : Acc} {c : Fin 4} (h : a.ctr = some c) : (s.countDown a).teams = s.teams := by
  rw [State.countDown_eq s h]
  exact State.teams_of_besideIssue (foldl_onThread_beside a.th.team _ a.lanes s).1

theorem State.acc_dropAcc (s : State) (id : Nat) : (s.dropAcc id).acc id = none := by
  simp [State.acc, State.dropAcc]

/-- A response that carries all registers of a load ends it. -/
theorem State.returnLoad_whole {s : State} {a : Acc} {d : Opnd} {n : Nat} (v : Nat) (hd : a.dst = d.regList n)
    (hn : n = 1 ∨ n = 2 ∨ n = 4) (hp : a.pred = none) (hw : a.written = 0) :
    s.returnLoad a v 0xF =
      ((s.writeRegs a.th.team a.lanes ((List.range n).map fun j => d.plus j) fun t => t.setRegN d n v).countDown a).dropAcc a.id := by
  have hbit : ∀ j, j < n → (0xF : BitVec 4).getLsbD j = true := by
    intro j hj
    rcases hn with rfl | rfl | rfl <;> interval_cases j <;> rfl
  have hidx : ((List.range a.dst.length).filter fun j => (0xF : BitVec 4).getLsbD j && !a.written.getLsbD j) = List.range n := by
    rw [hd, Opnd.regList_length, List.filter_eq_self]
    intro j hj
    rw [hbit j (List.mem_range.mp hj), hw]
    simp
  have hall : ((List.range a.dst.length).all fun j => (a.written ||| 0xF).getLsbD j) = true := by
    rw [hd, Opnd.regList_length, List.all_eq_true]
    intro j hj
    rw [BitVec.getLsbD_or, hbit j (List.mem_range.mp hj), Bool.or_true]
  have hregs : (List.range n).map (fun j => a.dst.getD j (.t 0)) = (List.range n).map fun j => d.plus j :=
    List.map_congr_left fun j hj => by rw [hd, Opnd.regList_getD d (List.mem_range.mp hj)]
  have hwrite : (fun t : Thread => (List.range n).foldl (fun t j => t.setReg (a.dst.getD j (.t 0)) (BitVec.ofNat 32 (v / 2 ^ (32 * j)))) t) =
      fun t => t.setRegN d n v := by
    funext t
    rw [← Thread.foldl_setReg_eq_setRegN t d hn v]
    exact List.foldl_ext _ _ t fun x j hj => by rw [hd, Opnd.regList_getD d (List.mem_range.mp hj)]
  simp only [State.returnLoad, hidx, hall, if_true, hp, hregs, hwrite]

theorem execLoadReturn_ok {s : State} {id : Nat} {a : Acc} {v : Nat} {c : Fin 4} (h : s.acc id = some a) (hph : a.phase = .done)
    (hc : a.ctr = some c) (hv : a.value = .ok v) (part : BitVec 4) : exec (.loadReturn id part) s = .next (s.returnLoad a v part) := by
  show execLoadReturn id part s = _
  simp only [execLoadReturn, h, Acc.isRead, hc, Option.isSome_some, Bool.not_true, Bool.false_eq_true, if_false, hph, hv]
  rfl

/-- Settles O22: it holds. -/
theorem loadReturnWritesTheDestination : Obligations.LoadReturnWritesTheDestination := by
  refine ⟨?ret, fun _ => rfl, fun _ => rfl, fun _ => ⟨rfl, rfl, rfl, rfl, rfl⟩⟩
  case ret =>
    intro s id a c d n v ha hph hc hp hw hlanes hd hn hok hv
    have hid : a.id = id := by simpa [State.acc] using List.find?_some ha
    have hsetId : ∀ t : Thread, (t.setRegN d n v).id = t.id := fun t => by
      obtain ⟨x, y, e⟩ := t.setRegN_frame d n v
      rw [e]
    obtain ⟨u, hu⟩ : ∃ u, u = s.writeRegs a.th.team a.lanes ((List.range n).map fun j => d.plus j) fun t => t.setRegN d n v := ⟨_, rfl⟩
    have hbeside := s.writeRegs_beside a.th.team a.lanes ((List.range n).map fun j => d.plus j) fun t => t.setRegN d n v
    rw [← hu] at hbeside
    refine ⟨(u.countDown a).dropAcc a.id, (execLoadReturn_ok ha hph hc hv _).trans ?_, ?_, ?_, ?_⟩
    · rw [State.returnLoad_whole v hd hn hp hw, ← hu]
    · rw [← hid]
      exact State.acc_dropAcc _ _
    · exact (State.countDown_teams hc).trans hbeside.2.1
    · intro l hl x hx
      have hthread : ((u.countDown a).dropAcc a.id).thread { team := a.th.team, tid := l } = some ((x.setRegN d n v).returns c) := by
        refine (State.countDown_thread hc hlanes _).trans ?_
        rw [if_pos ⟨rfl, hl⟩, hu, State.thread_writeRegs _ _ _ _ _ hsetId hlanes, if_pos ⟨rfl, hl⟩, hx]
        rfl
      obtain ⟨y, z, hframe⟩ := x.setRegN_frame d n v
      refine ⟨_, hthread, ?_, ?_, fun o ho => ?_, ?_⟩
      · exact (Thread.regN_congr rfl rfl d n).trans (Thread.regN_setRegN_same x _ v hok rfl hn)
      · show (x.setRegN d n v).ctr.set c ((x.setRegN d n v).ctr[c] - 1) = _
        rw [hframe]
      · rw [← Thread.reg_setRegN_other x d o n v hn ho]
        cases o <;> rfl
      · show (x.setRegN d n v).p = _
        rw [hframe]

/-! ## PREF, CMNT and RESQ -/

section
variable {i : Instr} {base : Opnd} {kind : PrefKind} {sp : Space} {off : BitVec 14} {s t : State} {th : Thread} {tids : List Nat}

/-- The check of a prefetch's address (R420), at an address in global or host space. -/
abbrev PrefGoes (base : Opnd) (kind : PrefKind) (sp : Space) (off : BitVec 14) (tm : Team) (th : Thread) (s t : State) (x : Except Flt Spot) :
    Prop :=
  s.resolveVa tm th (sp == Space.host) true (th.reg64 base + off.signExtend 64) (if kind = .own then .wr else .rd) .plain .thread none = (t, x)

theorem prefBody_spad (hsp : sp = .own ∨ sp = .peer) (h : t = s ∧ s.site ≠ none) : prefBody i base kind sp off s th tids = (t, none) := by
  obtain ⟨rfl, hs⟩ := h
  obtain ⟨⟨p, tm⟩, hs⟩ := Option.ne_none_iff_exists'.mp hs
  rcases hsp with rfl | rfl <;> simp only [prefBody, hs]

theorem prefBody_refused (hsp : sp = .global ∨ sp = .host)
    (h : AtWord (fun _ tm s th _ t => ∃ f, PrefGoes base kind sp off tm th s t (.error f) ∧ f.cause ≠ notYet) s th tids t) :
    prefBody i base kind sp off s th tids = (t, none) := by
  obtain ⟨p, tm, hs, f, hr, hf⟩ := h
  rcases hsp with rfl | rfl <;> simp only [prefBody, hs, effAddr, Space.regs, hr, if_neg hf]

theorem prefBody_hostUncached (hsp : sp = .global ∨ sp = .host)
    (h : AtWord (fun _ tm s th _ t => ∃ spot l o, PrefGoes base kind sp off tm th s t (.ok spot) ∧ spot.place = .line l o 0 ∧ l.mem = .host)
      s th tids t) :
    prefBody i base kind sp off s th tids = (t, none) := by
  obtain ⟨p, tm, hs, spot, l, o, hr, hp, hl⟩ := h
  have hhost : (l.mem == Backing.host && (0 : BitVec 2) == 0) = true := by simp [hl]
  rcases hsp with rfl | rfl <;> simp only [prefBody, hs, effAddr, Space.regs, hr, hp, hhost, if_true]

theorem prefBody_line (hsp : sp = .global ∨ sp = .host)
    (h : AtWord (fun p tm s th tids t => ∃ s' spot l o cls, PrefGoes base kind sp off tm th s s' (.ok spot) ∧
      spot.place = .line l o cls ∧ ¬ (l.mem = .host ∧ cls = 0) ∧
      t = s'.launch { spot.acc s' i p th tids (.prefetch (kind == .own && cls != 0)) 1 .plain .thread with
                      lanes := [],
                      cache := if kind = .l2 then s'.l2Of tm.id.core.die l else s'.l1Of th.id.team.core }) s th tids t) :
    prefBody i base kind sp off s th tids = (t, none) := by
  obtain ⟨p, tm, hs, s', spot, l, o, cls, hr, hp, hn, rfl⟩ := h
  have hhost : (l.mem == Backing.host && cls == 0) = false := by simpa using hn
  rcases hsp with rfl | rfl <;> simp only [prefBody, hs, effAddr, Space.regs, hr, hp, hhost] <;> cases kind <;> rfl

theorem prefBody_peer
    (h : AtWord (fun p tm s th tids t => ∃ s' spot imp pa, PrefGoes base kind .global off tm th s s' (.ok spot) ∧ spot.place = .peer imp pa ∧
      t = s'.launch { spot.acc s' i p th tids (.prefetch (kind == .own)) 1 .plain .thread with
                      lanes := [],
                      cache := if kind = .l2 then s'.l2Of tm.id.core.die (lineOf .pool 0) else s'.l1Of th.id.team.core }) s th tids t) :
    prefBody i base kind .global off s th tids = (t, none) := by
  obtain ⟨p, tm, hs, s', spot, imp, pa, hr, hp, rfl⟩ := h
  simp only [prefBody, hs, effAddr, Space.regs, hr, hp]
  cases kind <;> rfl

variable {op : CmntOp} {reach : Reach}

theorem cmntBody_spad (hsp : sp = .own ∨ sp = .peer) (h : t = s ∧ s.site ≠ none) : cmntBody i base op reach sp off s th tids = (t, none) := by
  obtain ⟨rfl, hs⟩ := h
  obtain ⟨⟨p, tm⟩, hs⟩ := Option.ne_none_iff_exists'.mp hs
  rcases hsp with rfl | rfl <;> simp only [cmntBody, hs]

theorem cmntBody_ok (hsp : sp = .global ∨ sp = .host) (h : AtWord (fun p tm s th tids t => ∃ s' spot,
    s.resolveVa tm th (sp == Space.host) false (th.reg64 base + off.signExtend 64) .leaf .plain .thread none = (s', .ok spot) ∧
    t = s'.launch (spot.acc s' i p th tids (.cmnt op reach) 1 .plain .thread)) s th tids t) :
    cmntBody i base op reach sp off s th tids = (t, none) := by
  obtain ⟨p, tm, hs, s', spot, hr, rfl⟩ := h
  rcases hsp with rfl | rfl <;> simp only [cmntBody, hs, effAddr, Space.regs, hr]

theorem cmntBody_away (hsp : sp = .global ∨ sp = .host) (h : AtWord (fun _ tm s th _ t => ∃ f,
    s.resolveVa tm th (sp == Space.host) false (th.reg64 base + off.signExtend 64) .leaf .plain .thread none = (t, .error f) ∧
    (f.cause = 0x04 ∨ f.cause = 0x06)) s th tids t) :
    cmntBody i base op reach sp off s th tids = (t, none) := by
  obtain ⟨p, tm, hs, f, hr, hf⟩ := h
  rcases hsp with rfl | rfl <;> simp only [cmntBody, hs, effAddr, Space.regs, hr, if_pos hf]

variable {b : Opnd} {wr : Bool}

theorem resqBody_spad (hsp : sp = .own ∨ sp = .peer) (h : AtWord (fun _ tm s th _ t => ∃ spot,
    tm.slateCheck (th.reg b).toNat ((th.reg b).setWidth 64) = none ∧
    s.resolveSpad tm (sp == Space.peer) ((th.reg base + off.signExtend 32).setWidth 64) 1 .plain .thread false = .ok spot ∧
    t = s.sendCredit tm.id (th.reg b).toNat 0 1 false []) s th tids t) : resqBody base b wr sp off s th tids = (t, none) := by
  obtain ⟨p, tm, hs, spot, hc, hr, rfl⟩ := h
  rcases hsp with rfl | rfl <;> simp only [resqBody, hs, effAddr, Space.regs, Sys2Proof.Machine.Space.ordinary, hc, hr, Bool.not_true, Bool.false_eq_true, if_false, if_true]

theorem resqBody_resident (hsp : sp = .global ∨ sp = .host) (h : AtWord (fun _ tm s th _ t => ∃ s' tr,
    tm.slateCheck (th.reg b).toNat ((th.reg b).setWidth 64) = none ∧
    s.translate tm.id.core.die (.core tm.id.core.num) tm.asid (sp == Space.host) .leaf (th.reg64 base + off.signExtend 64) = (s', .ok tr) ∧
    t = s'.sendCredit tm.id (th.reg b).toNat 0 1 false []) s th tids t) : resqBody base b wr sp off s th tids = (t, none) := by
  obtain ⟨p, tm, hs, s', tr, hc, hr, rfl⟩ := h
  rcases hsp with rfl | rfl <;> simp only [resqBody, hs, effAddr, Space.regs, Sys2Proof.Machine.Space.ordinary, hc, hr, Bool.not_true, Bool.false_eq_true, if_false, if_true]

theorem resqBody_away (hsp : sp = .global ∨ sp = .host) (h : AtWord (fun _ tm s th _ t => ∃ s' e,
    tm.slateCheck (th.reg b).toNat ((th.reg b).setWidth 64) = none ∧
    s.translate tm.id.core.die (.core tm.id.core.num) tm.asid (sp == Space.host) .leaf (th.reg64 base + off.signExtend 64) =
      (s', .error (0x04, e)) ∧
    t = s'.requestResidency tm th.id.tid wr (th.reg b) (th.reg64 base + off.signExtend 64)) s th tids t) :
    resqBody base b wr sp off s th tids = (t, none) := by
  obtain ⟨p, tm, hs, s', e, hc, hr, rfl⟩ := h
  rcases hsp with rfl | rfl <;> simp only [resqBody, hs, effAddr, Space.regs, Sys2Proof.Machine.Space.ordinary, hc, hr, Bool.not_true, Bool.false_eq_true, if_false, if_true]

end

/-- Settles O23: it holds. -/
theorem prefetchMaintenanceAndResidency : Obligations.PrefetchMaintenanceAndResidency :=
  ⟨fun _ _ _ _ _ hsp => completes_of (fun _ => rfl) fun _ _ _ _ => prefBody_spad hsp,
    fun _ _ _ _ _ hsp => completes_of (fun _ => rfl) fun _ _ _ _ => prefBody_refused hsp,
    fun _ _ _ _ _ hsp => completes_of (fun _ => rfl) fun _ _ _ _ => prefBody_hostUncached hsp,
    fun _ _ _ _ _ hsp => completes_of (fun _ => rfl) fun _ _ _ _ => prefBody_line hsp,
    fun _ _ _ _ => completes_of (fun _ => rfl) fun _ _ _ _ => prefBody_peer,
    fun _ _ _ _ _ _ hsp => completes_of (fun _ => rfl) fun _ _ _ _ => cmntBody_spad hsp,
    fun _ _ _ _ _ _ hsp => completes_of (fun _ => rfl) fun _ _ _ _ => cmntBody_ok hsp,
    fun _ _ _ _ _ _ hsp => completes_of (fun _ => rfl) fun _ _ _ _ => cmntBody_away hsp,
    fun _ _ _ _ _ _ hsp => completes_of (fun _ => rfl) fun _ _ _ _ => resqBody_spad hsp,
    fun _ _ _ _ _ _ hsp => completes_of (fun _ => rfl) fun _ _ _ _ => resqBody_resident hsp,
    fun _ _ _ _ _ _ hsp => completes_of (fun _ => rfl) fun _ _ _ _ => resqBody_away hsp⟩

/-! ## TTAG, TDROP and FENCE -/

/-- The words of TTAG with a value write one identifier to every lane. -/
theorem State.setTag_thread (s : State) (team : TeamId) {tids : List Nat} (hn : tids.Nodup) (id : BitVec 8) (j : ThreadId) :
    (s.setTag team tids id).thread j =
      if j.team = team ∧ j.tid ∈ tids then (s.thread j).map fun t => { t with tag := id } else s.thread j :=
  thread_foldl_onThread team (fun t => { t with tag := id }) (fun _ => rfl) tids hn s j

theorem State.setTag_teams (s : State) (team : TeamId) (tids : List Nat) (id : BitVec 8) : (s.setTag team tids id).teams = s.teams :=
  State.teams_of_besideIssue (foldl_onThread_beside team _ tids s).1

/-- A thread that an update keeps. -/
theorem State.setTag_isSome {s : State} {team : TeamId} {tids : List Nat} (hn : tids.Nodup) {id : BitVec 8} {j : ThreadId}
    (h : (s.thread j).isSome = true) : ((s.setTag team tids id).thread j).isSome = true := by
  rw [State.setTag_thread s team hn id j]
  split
  · rw [Option.isSome_map]
    exact h
  · exact h

/-- The executions of TTAG with an immediate give every target the identifier, and change nothing else of a thread. -/
theorem State.runBody_setTag {i : Instr} {p : Pipe} {id : BitVec 8} (rs : List Run) (hn : ∀ r ∈ rs, r.targets.Nodup) (s : State)
    (hr : ∀ r ∈ rs, (s.thread (tidOf p r.reader)).isSome = true) (j : ThreadId) :
    (s.runBody i p (fun s th tids => (s.setTag th.id.team tids id, none)) rs).thread j =
      (if j.team = p.team ∧ j.tid ∈ rs.flatMap (fun r => r.targets) then (s.thread j).map fun t => { t with tag := id } else s.thread j) ∧
    (s.runBody i p (fun s th tids => (s.setTag th.id.team tids id, none)) rs).teams = s.teams := by
  induction rs generalizing s with
  | nil => exact ⟨by simp [State.runBody], rfl⟩
  | cons r rs ih =>
    obtain ⟨th, hth⟩ := Option.isSome_iff_exists.mp (hr r List.mem_cons_self)
    have hteam : th.id.team = p.team := thread_team hth
    have hfirst := hn r List.mem_cons_self
    simp only [State.runBody, hth]
    obtain ⟨hthread, hteams⟩ := ih (fun r' h' => hn r' (List.mem_cons_of_mem _ h')) (s.setTag th.id.team r.targets id)
      fun r' h' => State.setTag_isSome hfirst (hr r' (List.mem_cons_of_mem _ h'))
    refine ⟨?_, hteams.trans (s.setTag_teams th.id.team r.targets id)⟩
    rw [hthread, s.setTag_thread th.id.team hfirst id j, hteam, List.flatMap_cons]
    by_cases hj : j.team = p.team
    · by_cases h1 : j.tid ∈ r.targets <;> by_cases h2 : j.tid ∈ rs.flatMap (fun r => r.targets) <;>
        simp only [hj, h1, h2, and_true, and_false, if_true, if_false, List.mem_append, or_true, true_or, or_false, or_self, Option.map_map] <;> rfl
    · simp [hj]

theorem mem_writesOf {s : State} {team : TeamId} {tids : List Nat} {k : Nat} : k ∈ s.writesOf team tids ↔
    ∃ a ∈ s.accs, a.id = k ∧ a.th.team = team ∧ a.pending = true ∧ a.op.writes = true ∧ ∃ l ∈ tids, l ∈ a.lanes := by
  simp only [State.writesOf, List.mem_map, List.mem_filter, Bool.and_eq_true, decide_eq_true_eq, List.any_eq_true, List.contains_iff_mem]
  constructor
  · rintro ⟨a, ⟨ha, ⟨⟨ht, hp⟩, hw⟩, hl⟩, hk⟩
    exact ⟨a, ha, hk, ht, hp, hw, hl⟩
  · rintro ⟨a, ha, hk, ht, hp, hw, hl⟩
    exact ⟨a, ⟨ha, ⟨⟨ht, hp⟩, hw⟩, hl⟩, hk⟩

/-- Settles O24: it holds. -/
theorem identifiersAndFences : Obligations.IdentifiersAndFences := by
  refine ⟨?immediate, ?register, ?registerFaults, ?drop, fun _ _ _ _ => mem_writesOf, ?dropFaults, ?fence⟩
  case immediate =>
    intro u id s p tm h
    have hlanes : ∀ l ∈ p.lanes, (s.thread (tidOf p l)).isSome = true := fun l hl => (h.2.2.2.2.1 l hl).2
    have htargets : ∀ r ∈ runsOf (.ttagImmediate u id) p, r.targets.Nodup := fun r hr =>
      (List.nodup_flatMap.mp (runsOf_nodup h.2.2.2.1)).1 r hr
    have hreaders : ∀ r ∈ runsOf (.ttagImmediate u id) p, (s.thread (tidOf p r.reader)).isSome = true := fun r hr =>
      hlanes _ (runsOf_targets (List.mem_flatMap.mpr ⟨r, hr, runsOf_reader r hr⟩))
    have hrun := State.runBody_setTag (i := .ttagImmediate u id) (id := id) _ htargets s hreaders
    obtain ⟨hsame, hbeside⟩ := past_spec
      (s.runBody (.ttagImmediate u id) p (fun s th tids => (s.setTag th.id.team tids id, none)) (runsOf (.ttagImmediate u id) p))
      p (.ttagImmediate u id)
    refine ⟨_, execLanes_ready _ h, (State.teams_of_besideIssue hbeside).trans (hrun (tidOf p 0)).2, fun l hl th hth => ?_⟩
    obtain ⟨r, hr, hlr, -⟩ := runsOf_lane (i := .ttagImmediate u id) hl hth hlanes
    have hthread := (hrun (tidOf p l)).1
    rw [if_pos ⟨rfl, List.mem_flatMap.mpr ⟨r, hr, hlr⟩⟩, hth] at hthread
    obtain ⟨th', hth', ht, hk, hp, hctr, -, htag⟩ := hsame _ _ hthread
    exact ⟨th', hth', htag, ht, hk, hp, hctr⟩
  case register =>
    refine fun u a => completes_of (fun _ => rfl) ?_
    rintro s th tids t ⟨hle, rfl⟩
    exact if_neg (Nat.not_lt.mpr hle)
  case registerFaults =>
    refine fun u a => faultsWhen_of_pure (fun _ => rfl) fun s p tm th tids f _ hf => ?_
    split at hf
    · cases hf
    · next hgt =>
      cases hf
      exact ⟨if_pos (Nat.not_le.mp hgt), show (0x11 : BitVec 8) ≠ notYet by decide⟩
  case drop =>
    refine fun u a pkg => completes_of (fun _ => rfl) ?_
    rintro s th tids t ⟨hne, hle, rfl⟩
    have hok : ¬ (th.reg a = 0 ∨ 255 < (th.reg a).toNat) := not_or.mpr ⟨hne, Nat.not_lt.mpr hle⟩
    refine (if_neg hok).trans ?_
    by_cases hw : (s.writesOf th.id.team tids).isEmpty = true
    · have hnil := List.isEmpty_iff.mp hw
      simp only [hnil, List.foldl_nil]
    · simp only [hw, Bool.false_eq_true, if_false]
  case dropFaults =>
    refine fun u a pkg => faultsWhen_of_pure (fun _ => rfl) fun s p tm th tids f _ hf => ?_
    split at hf
    · cases hf
    · next hbad =>
      cases hf
      refine ⟨if_pos ?_, show (0x11 : BitVec 8) ≠ notYet by decide⟩
      rw [not_and_or, not_not, Nat.not_le] at hbad
      exact hbad
  case fence =>
    refine fun u scope kind => completes_of (fun _ => rfl) ?_
    rintro s th tids t rfl
    rfl

end Sys2Proof.Machine
end

section
/-!
SUPPORT. Slates and guard slots (13_copy R211 to R214, 23_ref R368, R369, R373, 25_ref R427, R436, R439, R443).
-/
namespace Sys2Proof.Machine

/-! ## Credits -/

theorem bitsOf_toNat {w : Nat} (x : BitVec w) (lo len : Nat) : bitsOf x.toNat lo len = (x.extractLsb' lo len).toNat := by
  simp [bitsOf, BitVec.extractLsb'_toNat]

theorem bit_eq_one (b : Bool) : ((BitVec.ofBool b).toNat == 1) = b := by cases b <;> rfl

section
variable {res : BitVec 14} {err ph : Bool} {arra expa arrb expb : Nat}

/-- The fields of a slate (13_copy Table 13.5). -/
theorem slateOf_fields (ha : expa < 2 ^ 16) (hb : expb < 2 ^ 32) (ha' : arra < 2 ^ 16) (hb' : arrb < 2 ^ 32) :
    bitsOf (slateOf res err ph arra expa arrb expb).toNat 0 32 = expb ∧
    bitsOf (slateOf res err ph arra expa arrb expb).toNat 32 32 = arrb ∧
    bitsOf (slateOf res err ph arra expa arrb expb).toNat 64 16 = expa ∧
    bitsOf (slateOf res err ph arra expa arrb expb).toNat 80 16 = arra ∧
    (bitsOf (slateOf res err ph arra expa arrb expb).toNat 96 1 == 1) = ph ∧
    (bitsOf (slateOf res err ph arra expa arrb expb).toNat 97 1 == 1) = err ∧
    BitVec.ofNat 14 (bitsOf (slateOf res err ph arra expa arrb expb).toNat 98 14) = res := by
  simp (disch := omega) only [bitsOf_toNat, slateOf, BitVec.extractLsb'_append_eq_of_le, BitVec.extractLsb'_append_eq_of_add_le]
  simp
  exact ⟨hb, hb', ha, ha'⟩

end

theorem fieldOf_lt {w x fresh : Nat} (h : x < 2 ^ w) : fieldOf w x fresh = x := if_pos h

/-- Settles O26: it holds. -/
theorem creditsFlipThePhaseWhenBothCountsAreReached : Obligations.CreditsFlipThePhaseWhenBothCountsAreReached := by
  refine ⟨?flips, ?stays⟩
  case flips =>
    intro res err ph arra expa arrb expb bytes arrivals e fresh ha hb ha' hb' hle hle' hlt hlt'
    obtain ⟨f1, f2, f3, f4, f5, f6, f7⟩ := slateOf_fields (res := res) (err := err) (ph := ph) ha hb ha' hb'
    simp only [creditSlate, f1, f2, f3, f4, f5, f6, f7, if_pos (And.intro hle hle'), fieldOf_lt hlt, fieldOf_lt hlt']
  case stays =>
    intro res err ph arra expa arrb expb bytes arrivals e fresh ha hb hlt hlt' hno
    obtain ⟨f1, f2, f3, f4, f5, f6, f7⟩ := slateOf_fields (res := res) (err := err) (ph := ph) (arra := arra) (arrb := arrb) ha hb
      (by omega) (by omega)
    simp only [creditSlate, f1, f2, f3, f4, f5, f6, f7, if_neg hno, fieldOf_lt hlt, fieldOf_lt hlt']

/-! ## SINIT, SARV and SEXP -/

/-- The checks of a slate operand in one team's program area (R427), as their faults state them. -/
theorem Team.slateCheck_some {tm : Team} {off : Nat} {a : Addr} {f : Flt} (h : tm.slateCheck off a = some f) :
    (off % 16 ≠ 0 ∧ f = fltAt 0x01 a) ∨ (off % 16 = 0 ∧ tm.progOk off 16 = false ∧ f = fltAt 0x05 a) := by
  unfold Team.slateCheck at h
  split at h
  · next hal => exact .inl ⟨hal, (Option.some.inj h).symm⟩
  · next hal =>
    split at h
    · cases h
    · next hp => exact .inr ⟨not_not.mp hal, by simpa using hp, (Option.some.inj h).symm⟩

theorem Team.slateCheck_misaligned {tm : Team} {off : Nat} (h : off % 16 ≠ 0) (a : Addr) : tm.slateCheck off a = some (fltAt 0x01 a) :=
  if_pos h

theorem Team.slateCheck_outside {tm : Team} {off : Nat} (h : off % 16 = 0) (hp : tm.progOk off 16 = false) (a : Addr) :
    tm.slateCheck off a = some (fltAt 0x05 a) := by
  simp [Team.slateCheck, h, hp]

theorem ne_notYet_01 : (0x01 : BitVec 8) ≠ notYet := by decide
theorem ne_notYet_05 : (0x05 : BitVec 8) ≠ notYet := by decide
theorem ne_notYet_11 : (0x11 : BitVec 8) ≠ notYet := by decide
theorem ne_notYet_20 : (0x20 : BitVec 8) ≠ notYet := by decide
theorem ne_notYet_22 : (0x22 : BitVec 8) ≠ notYet := by decide
theorem ne_notYet_60 : (0x60 : BitVec 8) ≠ notYet := by decide

theorem completes_sinit (u : Bool) (a b c : Opnd) : Completes (.sinit u a b c) (AtWord fun _ tm s th _ t =>
    (th.reg b ≠ 0 ∨ th.reg c ≠ 0) ∧ (th.reg c).toNat ≤ 0xFFFF ∧ (th.reg a).toNat % 16 = 0 ∧ tm.progOk (th.reg a).toNat 16 = true ∧
    t = if slatePh (s.slateVal tm.id (th.reg a).toNat) then
        (s.putSlate tm.id (th.reg a).toNat (slateOf 0 false false 0 (th.reg c).toNat 0 (th.reg b).toNat)).releaseSlate tm.id (th.reg a).toNat
      else s.putSlate tm.id (th.reg a).toNat (slateOf 0 false false 0 (th.reg c).toNat 0 (th.reg b).toNat)) := by
  refine completes_of (fun _ => rfl) ?_
  rintro s th tids t ⟨p, tm, hs, hnz, hle, hal, hprog, rfl⟩
  have hops : ¬ (((th.reg b).toNat = 0 ∧ (th.reg c).toNat = 0) ∨ 0xFFFF < (th.reg c).toNat) := by
    rintro (⟨hb, hc⟩ | hgt)
    · exact hnz.elim (fun h => h (BitVec.eq_of_toNat_eq hb)) fun h => h (BitVec.eq_of_toNat_eq hc)
    · omega
  simp only [hs, if_neg hops, Team.slateCheck_none hal hprog]

theorem faults_sinit (u : Bool) (a b c : Opnd) : FaultsWhen (.sinit u a b c) fun _ tm _ th =>
    if (th.reg b = 0 ∧ th.reg c = 0) ∨ 0xFFFF < (th.reg c).toNat then some (fltWord 0x11 (.sinit u a b c))
    else if (th.reg a).toNat % 16 ≠ 0 then some (fltAt 0x01 ((th.reg a).setWidth 64))
    else if tm.progOk (th.reg a).toNat 16 = false then some (fltAt 0x05 ((th.reg a).setWidth 64)) else none := by
  refine faultsWhen_of_pure (fun _ => rfl) fun s p tm th tids f hs hf => ?_
  have hops : (((th.reg b).toNat = 0 ∧ (th.reg c).toNat = 0) ∨ 0xFFFF < (th.reg c).toNat) ↔
      (th.reg b = 0 ∧ th.reg c = 0) ∨ 0xFFFF < (th.reg c).toNat := by
    simp only [← BitVec.toNat_inj, BitVec.ofNat_eq_ofNat, BitVec.toNat_ofNat, Nat.zero_mod]
  split at hf
  · next hbad =>
    cases hf
    simp only [hs, if_pos (hops.mpr hbad)]
    exact ⟨trivial, ne_notYet_11⟩
  · next hok =>
    simp only [hs, if_neg fun h => hok (hops.mp h)]
    split at hf
    · next hal =>
      cases hf
      simp only [Team.slateCheck_misaligned hal]
      exact ⟨trivial, ne_notYet_01⟩
    · next hal =>
      split at hf
      · next hprog =>
        cases hf
        simp only [Team.slateCheck_outside (not_not.mp hal) hprog]
        exact ⟨trivial, ne_notYet_05⟩
      · cases hf

theorem completes_sarv (u : Bool) (a : Opnd) (ps : Bool) : Completes (.sarv u a ps) (AtWord fun _ tm s th tids t =>
    ∃ o off, s.slateOwner tm ps (th.reg a) = .ok (o, off) ∧ t = s.sendCredit o off 0 1 false (s.pendingOf tm.id tids)) := by
  refine completes_of (fun _ => rfl) ?_
  rintro s th tids t ⟨p, tm, hs, o, off, ho, rfl⟩
  simp only [hs, ho]

theorem faults_sarv (u : Bool) (a : Opnd) (ps : Bool) : FaultsWhen (.sarv u a ps) fun _ tm s th =>
    if (th.reg a).toNat % 16 ≠ 0 then some (fltAt 0x01 ((th.reg a).setWidth 64))
    else match (if ps then s.teamAt tm.cluster ((th.reg a).toNat / 2 ^ 28) else some tm) with
      | none => some (fltAt 0x05 ((th.reg a).setWidth 64))
      | some o => if o.progOk (if ps then (th.reg a).toNat % 2 ^ 28 else (th.reg a).toNat) 16 then none
          else some (fltAt 0x05 ((th.reg a).setWidth 64)) := by
  refine faultsWhen_of_pure (fun _ => rfl) fun s p tm th tids f hs hf => ?_
  have hoff : (if ps = true then (th.reg a).toNat % 2 ^ 28 else (th.reg a).toNat) % 16 = (th.reg a).toNat % 16 := by
    split <;> omega
  split at hf
  · next hal =>
    cases hf
    simp only [hs, State.slateOwner, hoff, if_pos hal]
    exact ⟨trivial, ne_notYet_01⟩
  · next hal =>
    split at hf
    · next hnone =>
      cases hf
      simp only [hs, State.slateOwner, hoff, if_neg hal, hnone]
      exact ⟨trivial, ne_notYet_05⟩
    · next o ho =>
      by_cases hprog : o.progOk (if ps = true then (th.reg a).toNat % 2 ^ 28 else (th.reg a).toNat) 16 = true
      · rw [if_pos hprog] at hf
        cases hf
      · rw [if_neg hprog] at hf
        cases hf
        simp only [hs, State.slateOwner, hoff, if_neg hal, ho,
          Team.slateCheck_outside (hoff.trans (not_not.mp hal)) (by simpa using hprog)]
        exact ⟨trivial, ne_notYet_05⟩

theorem completes_sexp (u : Bool) (bytes slate : Opnd) : Completes (.sexp u bytes slate) (AtWord fun _ tm s th _ t =>
    (th.reg slate).toNat % 16 = 0 ∧ tm.progOk (th.reg slate).toNat 16 = true ∧
    s.spadDamaged tm.id (th.reg slate).toNat 16 = false ∧ slateMagic (s.slateVal tm.id (th.reg slate).toNat) = true ∧
    bitsOf (s.slateVal tm.id (th.reg slate).toNat) 0 32 + (th.reg bytes).toNat ≤ 0xFFFFFFFF ∧
    t = s.putSlate tm.id (th.reg slate).toNat (BitVec.ofNat 128
      (s.slateVal tm.id (th.reg slate).toNat / 2 ^ 32 * 2 ^ 32 +
        (bitsOf (s.slateVal tm.id (th.reg slate).toNat) 0 32 + (th.reg bytes).toNat)))) := by
  refine completes_of (fun _ => rfl) ?_
  rintro s th tids t ⟨p, tm, hs, hal, hprog, hdam, hmagic, hle, rfl⟩
  simp only [hs, Team.slateCheck_none hal hprog, hdam, hmagic, Bool.not_true, Bool.false_eq_true, if_false, if_neg (Nat.not_lt.mpr hle)]

theorem faults_sexp (u : Bool) (bytes slate : Opnd) : FaultsWhen (.sexp u bytes slate) fun _ tm s th =>
    if (th.reg slate).toNat % 16 ≠ 0 then some (fltAt 0x01 ((th.reg slate).setWidth 64))
    else if tm.progOk (th.reg slate).toNat 16 = false then some (fltAt 0x05 ((th.reg slate).setWidth 64))
    else if s.spadDamaged tm.id (th.reg slate).toNat 16 then
      some { cause := 0x60, addr := (th.reg slate).setWidth 64, extra := 5 }
    else if slateMagic (s.slateVal tm.id (th.reg slate).toNat) = false then some (fltAt 0x20 ((th.reg slate).setWidth 64))
    else if 0xFFFFFFFF < bitsOf (s.slateVal tm.id (th.reg slate).toNat) 0 32 + (th.reg bytes).toNat then
      some (fltWord 0x11 (.sexp u bytes slate))
    else none := by
  refine faultsWhen_of_pure (fun _ => rfl) fun s p tm th tids f hs hf => ?_
  split at hf
  · next hal =>
    cases hf
    simp only [hs, Team.slateCheck_misaligned hal]
    exact ⟨trivial, ne_notYet_01⟩
  next hal =>
  split at hf
  · next hprog =>
    cases hf
    simp only [hs, Team.slateCheck_outside (not_not.mp hal) hprog]
    exact ⟨trivial, ne_notYet_05⟩
  next hprog =>
  simp only [hs, Team.slateCheck_none (not_not.mp hal) (by simpa using hprog)]
  split at hf
  · next hdam =>
    cases hf
    simp only [if_pos hdam]
    exact ⟨trivial, ne_notYet_60⟩
  next hdam =>
  simp only [if_neg hdam]
  split at hf
  · next hmagic =>
    cases hf
    simp only [hmagic, Bool.not_false, if_true]
    exact ⟨trivial, ne_notYet_20⟩
  next hmagic =>
  simp only [show slateMagic (s.slateVal tm.id (th.reg slate).toNat) = true by simpa using hmagic, Bool.not_true, Bool.false_eq_true, if_false]
  split at hf
  · next hgt =>
    cases hf
    simp only [if_pos hgt]
    exact ⟨trivial, ne_notYet_11⟩
  · cases hf

/-! ## Guard slots -/

/-- Executions that go as `rel` says of states with a property that each keeps. -/
theorem runBody_of_runs_keeping {i : Instr} {p : Pipe} {body : Body} {rel : State → Thread → List Nat → State → Prop} {P : State → Prop}
    (hb : ∀ s th tids s', P s → th.id.team = p.team → rel s th tids s' → body s th tids = (s', none) ∧ P s') {runs : List Run} {s t : State}
    (hP : P s) (h : Runs rel p s runs t) : s.runBody i p body runs = t := by
  induction runs generalizing s with
  | nil => exact h.symm
  | cons r rs ih =>
    obtain ⟨th, s', hth, hr, h'⟩ := h
    obtain ⟨hbody, hP'⟩ := hb _ _ _ _ hP (thread_team hth) hr
    simp only [State.runBody, hth, hbody]
    exact ih hP' h'

theorem setGuard_team (s : State) (i : ThreadId) (slot : BitVec 4) (g : Guard) (rel : List Nat) (tm : Team) (h : s.team i.team = some tm) :
    ∃ tm', (s.setGuard i slot g rel).team i.team = some tm' ∧ tm'.guards = tm.guards.set slot.toFin g ∧
      tm'.guardRel = tm.guardRel.set slot.toFin rel := by
  refine ⟨_, (State.team_onTeam_same s i.team (fun x => { x with
    guards := x.guards.set slot.toFin g, guardRel := x.guardRel.set slot.toFin rel,
    guardBy := x.guardBy.set slot.toFin (s.focus.map fun f => (max (s.slot i) ((x.guardBy[slot.toFin].map fun y => y.1).getD 0), f)) })
    fun _ h => h).trans (by rw [h]; rfl), rfl, rfl⟩

/-- A team whose guard slot has been marked as come to. -/
def Team.guardNoted (s : State) (p : Pipe) (slot : BitVec 4) (x : Team) : Team :=
  let old := (x.guardBy[slot.toFin].map fun y => y.1).getD 0
  { x with guardBy := x.guardBy.set slot.toFin (some (p.lanes.foldl (fun k l => max k (s.slot (tidOf p l))) old, p.id)) }

theorem noteGuard_eq (s : State) (p : Pipe) (tm : Team) (slot : BitVec 4) :
    s.noteGuard p tm slot = s.onTeam tm.id (Team.guardNoted s p slot) := rfl

/-- Marking a guard slot leaves a word ready. -/
theorem ready_noteGuard {i : Instr} {s : State} {p : Pipe} {tm : Team} (slot : BitVec 4) (h : Ready i s p tm) :
    Ready i (s.noteGuard p tm slot) p (tm.guardNoted s p slot) := by
  obtain ⟨hs, hw, hops, hn, hlanes, hdam, hagree, hran⟩ := h
  obtain ⟨hfocus, hpipe, hteam, htm⟩ := State.site_eq hs
  have hteam' : (s.noteGuard p tm slot).team p.team = some (tm.guardNoted s p slot) := by
    rw [noteGuard_eq, htm, State.team_onTeam_same s p.team (Team.guardNoted s p slot) fun _ h => h, hteam]
    rfl
  refine ⟨?_, hw, hops, hn, hlanes, hdam, hagree, hran⟩
  have hfocus' : (s.noteGuard p tm slot).focus = some p.id := hfocus
  have hpipe' : (s.noteGuard p tm slot).pipe p.id = some p := hpipe
  simp only [State.site, hfocus', hpipe', hteam']

@[simp] theorem uni_gset (u : Bool) (a : Opnd) (slot : BitVec 4) : (Instr.gset u a slot).uni = u := flag_packS_u

theorem execGuard_now {i : Instr} {slot : BitVec 4} {body : Body} {s : State} {p : Pipe} {tm : Team} (hs : s.site = some (p, tm))
    (hl : s.guardLate p tm slot = false) :
    execGuard i slot body s = execLanes i none body (if tm.guards[slot.toFin] = .idle then s.noteGuard p tm slot else s) := by
  simp only [execGuard, hs, hl, Bool.false_eq_true, if_false]

theorem execGuard_late {i : Instr} {slot : BitVec 4} {body : Body} {s : State} {p : Pipe} {tm : Team} (hs : s.site = some (p, tm))
    (hl : s.guardLate p tm slot = true) :
    execGuard i slot body s = .next { (s.addHold (.cycle p.id.core (s.core p.id.core).lcyc)).keepWord p.id i with focus := none } := by
  simp only [execGuard, hs, hl, if_true]

/-- What GSET does to its guard slot. -/
def State.resolveGuard (s : State) (a : Opnd) (slot : BitVec 4) (th : Thread) (tids : List Nat) : State :=
  if th.reg a = 0 then s.setGuard th.id slot .isFalse [] else s.setGuard th.id slot .isTrue (s.pendingOf th.id.team tids)

/-- A slot that is armed stays armed when a thread resolves it. -/
theorem resolveGuard_armed {s : State} {a : Opnd} {slot : BitVec 4} {th : Thread} {tids : List Nat} {x : Team}
    (h : s.team th.id.team = some x) :
    ∃ y, (s.resolveGuard a slot th tids).team th.id.team = some y ∧ y.guards[slot.toFin] ≠ .idle := by
  unfold State.resolveGuard
  split
  · obtain ⟨y, hy, hg, -⟩ := setGuard_team s th.id slot .isFalse [] x h
    exact ⟨y, hy, by rw [hg]; simp⟩
  · obtain ⟨y, hy, hg, -⟩ := setGuard_team s th.id slot .isTrue (s.pendingOf th.id.team tids) x h
    exact ⟨y, hy, by rw [hg]; simp⟩

/-- Settles O25: it holds. -/
theorem slateAndGuardInstructions : Obligations.SlateAndGuardInstructions := by
  refine ⟨completes_sinit, completes_sarv, completes_sexp, faults_sinit, faults_sarv, faults_sexp, ?garm, ?gset, ?gsetIdle,
    fun u slot s p tm hs hl => execGuard_late hs hl, fun u a slot s p tm hs hl => execGuard_late hs hl,
    fun s i slot g rel tm h => setGuard_team s i slot g rel tm h⟩
  case garm =>
    intro u slot s p tm t h hl hr
    refine (execGuard_now h.1 hl).trans ?_
    split at hr
    · next hidle =>
      rw [if_pos hidle, execLanes_ready _ (ready_noteGuard slot h), runBody_of_runs (fun s th tids s' e => by rw [e]) hr]
    · next hidle =>
      rw [if_neg hidle, execLanes_ready _ h, runBody_of_runs (fun s th tids s' e => by rw [e]) hr]
  case gset =>
    intro u a slot s p tm t h hl hidle hr
    obtain ⟨-, -, hteam, -⟩ := State.site_eq h.1
    refine (execGuard_now h.1 hl).trans ?_
    rw [if_neg hidle, execLanes_ready _ h]
    refine congrArg (fun x => Host.Outcome.next (State.past x p (.gset u a slot))) (runBody_of_runs_keeping
      (P := fun s => ∃ x, s.team p.team = some x ∧ x.guards[slot.toFin] ≠ .idle) ?_ ⟨tm, hteam, hidle⟩ hr)
    rintro s th tids s' ⟨x, hx, harmed⟩ hth rfl
    rw [← hth] at hx ⊢
    refine ⟨?_, resolveGuard_armed hx⟩
    have hid : x.id = th.id.team := State.team_id s hx
    simp only [hx, if_neg harmed, hid]
    split <;> rfl
  case gsetIdle =>
    intro u a slot s p tm r th h hl hidle hr hth
    refine (execGuard_now h.1 hl).trans ?_
    obtain ⟨-, -, hteam, -⟩ := State.site_eq (ready_noteGuard slot h).1
    have hth' : (s.noteGuard p tm slot).thread (tidOf p r.reader) = some th := hth
    rw [← thread_team hth] at hteam
    have hidle' : (tm.guardNoted s p slot).guards[slot.toFin] = .idle := hidle
    rw [if_pos hidle, execLanes_ready _ (ready_noteGuard slot h), hr]
    simp only [State.runBody, hth', hteam, if_pos hidle', if_neg ne_notYet_22, uni_gset]

end Sys2Proof.Machine
end

section
/-!
SUPPORT. Commands and parcels (13_copy R205 to R210, 16_parcels R240 to R254, 22_ref R324 to R328, 24_ref R393, R409 to R421, 25_ref R451):
what an issued command leaves, and what the parcel instructions do and refuse.
-/
namespace Sys2Proof.Machine

/-! ## Commands of the copy engine -/

/-- A copy command whose checks pass is issued. -/
theorem engBody_issues {e : EngCtl} {checks : State → Team → Thread → List (Bool × Flt)} {owner : State → Team → Thread → Option Team}
    {op : Team → Thread → CmdOp} {slate : State → Team → Thread → SlateAt} {s t : State} {th : Thread} {tids : List Nat}
    (hslate : ∀ s tm th, slate s tm th = .team (((owner s tm th).map fun o => o.id).getD tm.id) (th.reg e.l).toNat)
    (h : Issues checks (fun s tm th tids => newCmd s tm th tids (op tm th) e.guard e.scope (slate s tm th) (th.reg e.l).toNat (statusOf e th)
      .entering) s th tids t) :
    engBody e checks owner op s th tids = (t, none) := by
  obtain ⟨p, tm, hs, hc, rfl⟩ := h
  have howner : (match owner s tm th with
      | some o => o.id
      | none => tm.id) = ((owner s tm th).map fun o => o.id).getD tm.id := by
    cases owner s tm th <;> rfl
  simp only [engBody, hs, hc, hslate]
  cases owner s tm th <;> rfl

theorem fld_low (w : Word) : (fld w 0 20).toNat = w.toNat % 2 ^ 20 := by simp [fld, BitVec.extractLsb'_toNat]

theorem setWidth_eq_extract (x : BitVec 64) : x.setWidth 32 = x.extractLsb' 0 32 := by
  apply BitVec.eq_of_toNat_eq
  simp

/-- A descriptor load whose checks pass is launched, and holds its group (R209). -/
theorem tdldBody_ok {i : Instr} {a b : Opnd} {s t : State} {th : Thread} {tids : List Nat}
    (h : AtWord (fun p tm s th tids t => ∃ s' sp, (th.reg b).toNat ≤ 15 ∧ (th.reg64 a).toNat % 64 = 0 ∧
      s.resolveVa tm th false true (th.reg64 a) .rd .plain .thread none = (s', .ok sp) ∧
      t = (s'.launch (sp.acc s' i p th tids (.tdesc ((th.reg b).extractLsb' 0 4).toFin) 64 .plain .thread)).addHold
        (.tile s'.fresh i.word0)) s th tids t) :
    tdldBody i a b .global .global s th tids = (t, none) := by
  obtain ⟨p, tm, hs, s', sp, hle, hal, hr, rfl⟩ := h
  have hc : firstFlt [(decide (15 < (th.reg b).toNat), fltWord 0x11 i),
      ((Space.global != Space.global || Space.global != Space.global), fltAt 0x08 (th.reg64 a)),
      ((th.reg64 a).toNat % 64 != 0, fltAt 0x01 (th.reg64 a))] = none := by
    simp [firstFlt, hal, hle]
  simp only [tdldBody, hs, hc, hr]
  rfl

theorem tileLoaded_ok (s : State) (a : Acc) (slot : Fin 16) (w : Word) (hp : a.phase = .done)
    (hok : tileOk (BitVec.ofNat 512 (natOfBytes a.got)) = true) : s.tileLoaded a slot w =
      (s.dropAcc a.id).onTeam a.th.team fun x => { x with tiles := x.tiles.set slot (some (BitVec.ofNat 512 (natOfBytes a.got))) } := by
  simp only [State.tileLoaded, hp, hok, if_true]

/-- A group that waits for one thing more (05_encoding R73). -/
def Pipe.waits (h : Hold) (p : Pipe) : Pipe := { p with hold := p.hold ++ [h] }

theorem State.addHold_focus {s : State} {f : PipeId} (h : s.focus = some f) (x : Hold) : s.addHold x = s.onPipe f (Pipe.waits x) := by
  simp only [State.addHold, h]
  rfl

/-- What an issued command leaves: it stands in the list under the next number, and holds its group. -/
theorem issue_entering (s : State) (c : Cmd) (f : PipeId) (p : Pipe) (hf : s.focus = some f) (hp : s.pipe f = some p)
    (hc : c.phase = .entering) : (s.issue c).cmds = s.cmds ++ [c] ∧ (s.issue c).fresh = s.fresh + 1 ∧
      (s.issue c).pipe f = some { p with hold := p.hold ++ [.enter c.id] } ∧ (s.issue c).threads = s.threads ∧
      (s.issue c).teams = s.teams := by
  have hissue : s.issue c = ({ s.bump with cmds := s.cmds ++ [c] } : State).onPipe f (Pipe.waits (.enter c.id)) :=
    (if_pos hc).trans (State.addHold_focus (s := { s.bump with cmds := s.cmds ++ [c] }) hf _)
  rw [hissue]
  refine ⟨rfl, rfl, ?_, rfl, rfl⟩
  rw [State.pipe_onPipe_same _ _ (Pipe.waits (.enter c.id)) fun _ h => h]
  exact congrArg (Option.map _) hp

/-- Settles O27: it holds. -/
theorem copyEngineCommandsIssue : Obligations.CopyEngineCommandsIssue := by
  refine ⟨?cpy, ?cred, ?cpym, ?cpyt, ?jpost, ?tdld, tileLoaded_ok, issue_entering⟩
  case cpy => exact fun u d a b e => completes_of (fun _ => rfl) fun _ _ _ _ => engBody_issues fun _ _ _ => rfl
  case cred => exact fun u d a b ty e => completes_of (fun _ => rfl) fun _ _ _ _ => engBody_issues fun _ _ _ => rfl
  case cpym =>
    refine fun u d a b e => completes_of (fun _ => rfl) fun s th tids t h => ?_
    refine engBody_issues (slate := fun _ tm th => .team tm.id (th.reg e.l).toNat) (fun _ _ _ => rfl) ?_
    simp only [fld_low]
    exact h
  case cpyt =>
    refine fun u d a b st e => completes_of (fun _ => rfl) fun s th tids t h => ?_
    refine engBody_issues (slate := fun s tm th => if st then .team tm.id (th.reg e.l).toNat
      else slateFor s tm th e e.dsp (engAddr th e.dsp d)) (fun _ _ _ => by cases st <;> rfl) ?_
    simp only [setWidth_eq_extract]
    exact h
  case jpost => exact fun u a b e => completes_of (fun _ => rfl) fun _ _ _ _ => engBody_issues fun _ _ _ => rfl
  case tdld => exact fun u a b => completes_of (fun _ => rfl) fun _ _ _ _ => tdldBody_ok

/-! ## Parcels -/

section
variable {s : State} {tm : Team} {r : Addr} {h : Handle}

theorem parcelRef_current (hc : (s.die tm.id.core.die).current tm.asid r = some h) : s.parcelRef tm r = .ok h := by
  simp only [State.parcelRef, hc]

theorem parcelRef_stale (hc : (s.die tm.id.core.die).current tm.asid r = none) : s.parcelRef tm r = .error (fltAt 0x33 r) := by
  simp only [State.parcelRef, hc]

theorem sealCheck_ok (hr : s.parcelRef tm r = .ok h) (hst : h.st = .open' ∨ h.st = .arrived) : s.sealCheck tm r = .ok h := by
  simp only [State.sealCheck, hr, if_pos hst]

theorem sealCheck_refused (hr : s.parcelRef tm r = .ok h) (hst : ¬ (h.st = .open' ∨ h.st = .arrived)) :
    s.sealCheck tm r = .error (fltAt (if h.st = .transit then 0x30 else 0x32) r) := by
  simp only [State.sealCheck, hr, if_neg hst]

theorem freeCheck_ok (hr : s.parcelRef tm r = .ok h) (ht : h.st ≠ .transit) (hf : h.st ≠ .free) : s.freeCheck tm r = .ok h := by
  simp only [State.freeCheck, hr, if_neg ht, if_neg hf]

theorem freeCheck_transit (hr : s.parcelRef tm r = .ok h) (ht : h.st = .transit) : s.freeCheck tm r = .error (fltAt 0x30 r) := by
  simp only [State.freeCheck, hr, if_pos ht]

theorem freeCheck_free (hr : s.parcelRef tm r = .ok h) (hf : h.st = .free) : s.freeCheck tm r = .error (fltAt 0x32 r) := by
  simp [State.freeCheck, hr, hf]

end

theorem ne_notYet_30 : (0x30 : BitVec 8) ≠ notYet := by decide
theorem ne_notYet_31 : (0x31 : BitVec 8) ≠ notYet := by decide
theorem ne_notYet_32 : (0x32 : BitVec 8) ≠ notYet := by decide
theorem ne_notYet_33 : (0x33 : BitVec 8) ≠ notYet := by decide

theorem toNat_ne_zero {n : Nat} {x : BitVec n} (h : x ≠ 0) : x.toNat ≠ 0 := fun e => h (BitVec.eq_of_toNat_eq (by simp [e]))

/-- The size of a new parcel passes (R415). -/
theorem pnew_size {x : Word} (h0 : x ≠ 0) (hle : x.toNat ≤ 2 ^ 30) : ¬ (x.toNat = 0 ∨ 2 ^ 30 < x.toNat) :=
  not_or.mpr ⟨toNat_ne_zero h0, Nat.not_lt.mpr hle⟩

/-- Whether a lower lane of a PNEW has received the null reference. -/
abbrev poolOut (s : State) (p : Pipe) (th : Thread) (d : Opnd) : Bool :=
  (p.lanes.takeWhile fun l => l != th.id.tid).any fun l => match s.thread (tidOf p l) with
    | some t => t.reg64 d == 0
    | none => false

/-- Settles O28: it holds. -/
theorem parcelInstructions : Obligations.ParcelInstructions := by
  refine ⟨?pnewUni, ?pnew, ?pnewOut, ?pnewFaults, ?padd, ?pqry, ?pqryStale, ?pseal, ?pfree, ?sealHeld, ?freeHeld, ?precv, ?post, ?postBusy⟩
  case pnewUni =>
    refine fun d a => completes_of (fun _ => rfl) ?_
    rintro s th tids t ⟨p, tm, hs, h0, hle, rfl⟩
    simp only [hs, if_neg (pnew_size h0 hle), Bool.not_true, Bool.false_and, Bool.false_eq_true, if_false]
  case pnew =>
    refine fun d a => completes_of (fun _ => rfl) ?_
    rintro s th tids t ⟨p, tm, hs, h0, hle, hall, rfl⟩
    have hout : poolOut s p th d = false := by
      rw [List.any_eq_false]
      intro l hl
      cases hx : s.thread (tidOf p l) with
      | none => simp
      | some x => simpa using hall l hl x hx
    simp only [hs, if_neg (pnew_size h0 hle), Bool.not_false, Bool.true_and]
    change (State.writeRegs (if poolOut s p th d = true then _ else _ : State × Addr).1 _ _ _ fun t =>
      t.setReg64 d (if poolOut s p th d = true then _ else _ : State × Addr).2, none) = _
    simp only [hout, Bool.false_eq_true, if_false]
  case pnewOut =>
    refine fun d a => completes_of (fun _ => rfl) ?_
    rintro s th tids t ⟨p, tm, hs, h0, hle, ⟨l, hl, x, hx, hz⟩, rfl⟩
    have hout : poolOut s p th d = true := by
      rw [List.any_eq_true]
      exact ⟨l, hl, by simp [hx, hz]⟩
    simp only [hs, if_neg (pnew_size h0 hle), Bool.not_false, Bool.true_and]
    change (State.writeRegs (if poolOut s p th d = true then _ else _ : State × Addr).1 _ _ _ fun t =>
      t.setReg64 d (if poolOut s p th d = true then _ else _ : State × Addr).2, none) = _
    simp only [hout, if_true]
  case pnewFaults =>
    refine fun u d a => faultsWhen_of_pure (fun _ => rfl) fun s p tm th tids f hs hf => ?_
    split at hf
    · next hbad =>
      cases hf
      have hsize : (th.reg a).toNat = 0 ∨ 2 ^ 30 < (th.reg a).toNat := hbad.imp_left fun h => by rw [h]; rfl
      simp only [hs, if_pos hsize]
      exact ⟨trivial, ne_notYet_11⟩
    · cases hf
  case padd =>
    refine fun u d a b => completes_of (fun _ => rfl) ?_
    rintro s th tids t ⟨p, tm, hs, h, hr, h0, hle, rfl⟩
    simp only [hs, hr, if_neg (not_or.mpr ⟨Int.not_lt.mpr h0, Int.not_lt.mpr hle⟩)]
  case pqry =>
    refine fun u d a fn => completes_of (fun _ => rfl) ?_
    rintro s th tids t ⟨p, tm, hs, i, h, hi, hc, rfl⟩
    simp only [hs, hi, hc]
    have hfn : fn = 0 ∨ fn = 1 ∨ fn = 2 ∨ fn = 3 := by revert fn; decide
    rcases hfn with rfl | rfl | rfl | rfl <;> rfl
  case pqryStale =>
    refine fun u d a => completes_of (fun _ => rfl) ?_
    rintro s th tids t ⟨p, tm, hs, i, hi, hc, rfl⟩
    simp only [hs, hi, hc, if_true]
    rfl
  case pseal =>
    refine fun u a => completes_of (fun _ => rfl) ?_
    rintro s th tids t ⟨p, tm, hs, h, hr, hst, rfl⟩
    simp only [hs, sealCheck_ok hr hst]
    split <;> rfl
  case pfree =>
    refine fun u a => completes_of (fun _ => rfl) ?_
    rintro s th tids t ⟨p, tm, hs, h, hr, ht, hf, rfl⟩
    simp only [hs, freeCheck_ok hr ht hf]
    split <;> rfl
  case sealHeld =>
    intro s p tm tids r u h hr
    by_cases hst : h.st = .open' ∨ h.st = .arrived
    · simp only [State.parcelEffect, sealCheck_ok hr hst, if_pos hst]
    · simp only [State.parcelEffect, sealCheck_refused hr hst, if_neg hst]
  case freeHeld =>
    intro s p tm tids r u h hr ht
    simp only [State.parcelEffect, freeCheck_transit hr ht]
  case precv =>
    refine fun u a l => completes_of (fun _ => rfl) ?_
    rintro s th tids t ⟨p, tm, hs, h, s', hr, hst, hc, hs', rfl⟩
    have hc' : firstFlt ([(h.st == .transit, fltAt 0x30 (th.reg64 a)), (h.st != .open', fltAt 0x32 (th.reg64 a))]
        ++ slateChecks (some tm) (th.reg l)) = none := by
      rw [hst]
      exact hc
    simp only [hs, ne_eq, not_true_eq_false, or_self, if_false, hr, hc', ← hs']
  case post =>
    refine fun u d a b e => completes_of (fun _ => rfl) ?_
    rintro s th tids t ⟨p, tm, hs, s', hc, hbusy, hs', rfl⟩
    simp only [hs, hc, hbusy, Bool.false_eq_true, if_false, State.acceptPost, ← hs']
  case postBusy =>
    refine fun u d a b e => completes_of (fun _ => rfl) ?_
    rintro s th tids t ⟨p, tm, hs, hc, hbusy, rfl⟩
    simp only [hs, hc, hbusy, if_true]

/-! ## References that are not current -/

/-- Settles O29: it holds. -/
theorem staleReferencesFault : Obligations.StaleReferencesFault := by
  refine ⟨?padd, ?pseal, ?pfree, ?pwait⟩
  case padd =>
    refine fun u d a b => faultsWhen_of_pure (fun _ => rfl) fun s p tm th tids f hs hf => ?_
    split at hf
    · next hc =>
      cases hf
      simp only [hs, parcelRef_stale hc]
      exact ⟨trivial, ne_notYet_33⟩
    · next h hc =>
      split at hf
      · next hout =>
        cases hf
        simp only [hs, parcelRef_current hc, if_pos hout]
        exact ⟨trivial, ne_notYet_31⟩
      · cases hf
  case pseal =>
    refine fun u a => faultsWhen_of_pure (fun _ => rfl) fun s p tm th tids f hs hf => ?_
    split at hf
    · next hc =>
      cases hf
      simp only [hs, State.sealCheck, parcelRef_stale hc]
      exact ⟨trivial, ne_notYet_33⟩
    · next h hc =>
      split at hf
      · next ht =>
        cases hf
        have hno : ¬ (h.st = .open' ∨ h.st = .arrived) := by rw [ht]; decide
        simp only [hs, sealCheck_refused (parcelRef_current hc) hno, if_pos ht]
        exact ⟨trivial, ne_notYet_30⟩
      · next ht =>
        split at hf
        · cases hf
        · next hno =>
          cases hf
          simp only [hs, sealCheck_refused (parcelRef_current hc) hno, if_neg ht]
          exact ⟨trivial, ne_notYet_32⟩
  case pfree =>
    refine fun u a => faultsWhen_of_pure (fun _ => rfl) fun s p tm th tids f hs hf => ?_
    split at hf
    · next hc =>
      cases hf
      simp only [hs, State.freeCheck, parcelRef_stale hc]
      exact ⟨trivial, ne_notYet_33⟩
    · next h hc =>
      split at hf
      · next ht =>
        cases hf
        simp only [hs, freeCheck_transit (parcelRef_current hc) ht]
        exact ⟨trivial, ne_notYet_30⟩
      · next ht =>
        split at hf
        · next hfree =>
          cases hf
          simp only [hs, freeCheck_free (parcelRef_current hc) hfree]
          exact ⟨trivial, ne_notYet_32⟩
        · cases hf
  case pwait =>
    refine fun u a => faultsWhen_of_pure (fun _ => rfl) fun s p tm th tids f hs hf => ?_
    split at hf
    · next hc =>
      cases hf
      simp only [hs, parcelRef_stale hc]
      exact ⟨trivial, ne_notYet_33⟩
    · next h hc =>
      split at hf
      · cases hf
      · next hno =>
        cases hf
        simp only [hs, parcelRef_current hc, if_neg hno]
        exact ⟨trivial, ne_notYet_32⟩

end Sys2Proof.Machine
end

section
/-!
SUPPORT. The matrix unit at issue (14_matrix R219 to R231, 22_ref R301 to R304, 24_ref R389, R397 to R407).
-/
namespace Sys2Proof.Machine

theorem firstFlt_append {a b : List (Bool × Flt)} (ha : firstFlt a = none) (hb : firstFlt b = none) : firstFlt (a ++ b) = none := by
  simp only [firstFlt, Option.map_eq_none_iff, List.find?_eq_none, List.mem_append] at *
  exact fun x hx => hx.elim (ha x) (hb x)

/-- A granule number is unheld. -/
theorem unheld_iff (s : State) (x : Team) (g : Nat) : s.unheld x g = true ↔ (∀ y ∈ x.gran, y.1 ≠ g) ∧
    ∀ c ∈ s.cmds, c.team = x.id → ∀ h n, c.op = .afree h n → g < h ∨ h + n ≤ g := by
  rw [State.unheld, Bool.and_eq_true, Bool.not_eq_true', Bool.not_eq_true', List.any_eq_false, List.any_eq_false]
  refine and_congr (by simp) (forall₂_congr fun c _ => ?_)
  rw [Bool.and_eq_true, decide_eq_true_eq, not_and]
  refine imp_congr_right fun _ => ?_
  split
  · next h n ho =>
    constructor
    · intro hno h' n' ho'
      rw [ho] at ho'
      cases ho'
      simp only [decide_eq_true_eq] at hno
      omega
    · intro hall
      have := hall h n ho
      simp only [decide_eq_true_eq]
      omega
  · next hno => exact ⟨fun _ h n ho => absurd ho (hno h n), fun _ => by simp⟩

section
variable {s : State} {x : Team} {n g : Nat}

/-- The lowest run of unheld numbers. -/
theorem find_unheld (hn : 1 ≤ n) (hg : g + n ≤ 256) (hall : ∀ k, k < n → s.unheld x (g + k) = true)
    (hlow : ∀ g', g' < g → ∃ k, k < n ∧ s.unheld x (g' + k) = false) :
    ((List.range (257 - n)).find? fun g => (List.range n).all fun k => s.unheld x (g + k)) = some g := by
  rw [List.find?_range_eq_some]
  refine ⟨by simpa using hall, List.mem_range.mpr (by omega), fun g' hg' => ?_⟩
  obtain ⟨k, hk, hu⟩ := hlow g' hg'
  simp only [Bool.not_eq_true', List.all_eq_false]
  exact ⟨k, List.mem_range.mpr hk, by simp [hu]⟩

/-- An allocation takes the lowest run, on the lowest free granules. -/
theorem allocGranules_takes (hn : 1 ≤ n) (hg : g + n ≤ 256) (hall : ∀ k, k < n → s.unheld x (g + k) = true)
    (hlow : ∀ g', g' < g → ∃ k, k < n ∧ s.unheld x (g' + k) = false) (hfree : n ≤ (s.freeGranules x.id.core).length) :
    s.allocGranules x n = (((s.freeGranules x.id.core).take n).foldl (fun s k => s.zeroGranule x.id.core k)
      (s.onTeam x.id fun y => { y with gran := y.gran ++ (List.range n).map fun k => (g + k, (s.freeGranules x.id.core).getD k 0) }), some g) := by
  simp only [State.allocGranules, find_unheld hn hg hall hlow, if_pos hfree]

/-- Without a run of unheld numbers an allocation takes nothing. -/
theorem allocGranules_noRun (hno : ∀ g, g + n ≤ 256 → ∃ k, k < n ∧ s.unheld x (g + k) = false) (hn : n ≤ 256) :
    s.allocGranules x n = (s, none) := by
  have hfind : ((List.range (257 - n)).find? fun g => (List.range n).all fun k => s.unheld x (g + k)) = none := by
    rw [List.find?_range_eq_none]
    intro g hg
    obtain ⟨k, hk, hu⟩ := hno g (by omega)
    simp only [Bool.not_eq_true', List.all_eq_false]
    exact ⟨k, List.mem_range.mpr hk, by simp [hu]⟩
  simp only [State.allocGranules, hfind]

/-- Without enough free granules an allocation takes nothing. -/
theorem allocGranules_full (hfree : (s.freeGranules x.id.core).length < n) : s.allocGranules x n = (s, none) := by
  unfold State.allocGranules
  dsimp only
  split
  · exact if_neg (Nat.not_le.mpr hfree)
  · rfl

end

/-- A command of the unit whose checks pass enters it. -/
theorem entersUnit_matrixBody {checks : State → Team → Thread → Option Flt} {op : Team → Thread → CmdOp} {guard : BitVec 4} {scope : Scope}
    {slate : State → Team → Thread → SlateAt} {status : Thread → Option Word} {body : State → Pipe → Team → Thread → List Nat → State × Option Flt}
    (hb : ∀ s p tm th tids, checks s tm th = none →
      body s p tm th tids = (s.enterMatrix tm th tids (op tm th) guard scope (slate s tm th) (status th), none)) {s t : State} {th : Thread}
    {tids : List Nat} (h : EntersUnit checks op guard scope slate status s th tids t) : matrixBody body s th tids = (t, none) := by
  obtain ⟨p, tm, hs, hc, rfl⟩ := h
  simp only [matrixBody, hs, hb s p tm th tids hc]

theorem matrixBody_site {body : State → Pipe → Team → Thread → List Nat → State × Option Flt} {s : State} {p : Pipe} {tm : Team}
    (hs : s.site = some (p, tm)) (th : Thread) (tids : List Nat) : matrixBody body s th tids = body s p tm th tids := by
  simp only [matrixBody, hs]

/-- Settles O30: it holds. -/
theorem matrixInstructions : Obligations.MatrixInstructions := by
  refine ⟨?noRun, ?takes, ?full, unheld_iff, fun s core h => by simp only [State.settleFrees, h, List.foldl_nil], ?afree, ?mzero, ?ores, ?orel,
    ?mfeed, ?mfeedTile, ?mloop, ?mdrain⟩
  case noRun =>
    refine fun d c => completes_of (fun _ => rfl) ?_
    rintro s th tids t ⟨p, tm, hs, u, x, h1, h256, rfl, hx, hno, rfl⟩
    have hsize : ¬ ((th.reg c).toNat < 1 ∨ 256 < (th.reg c).toNat) := by omega
    simp only [matrixBody_site hs, if_neg hsize, hx, Option.getD_some, allocGranules_noRun hno h256]
  case takes =>
    refine fun d c => completes_of (fun _ => rfl) ?_
    rintro s th tids t ⟨p, tm, hs, u, x, g, n, rfl, h1, h256, hg, hu, hx, hall, hlow, hfree, rfl⟩
    have hsize : ¬ ((th.reg c).toNat < 1 ∨ 256 < (th.reg c).toNat) := by omega
    have hid : x.id = tm.id := State.team_id _ hx
    rw [← hid] at hfree
    simp only [matrixBody_site hs, if_neg hsize, ← hu, hx, Option.getD_some, allocGranules_takes h1 hg hall hlow hfree, hid]
  case full =>
    refine fun d c => completes_of (fun _ => rfl) ?_
    rintro s th tids t ⟨p, tm, hs, u, x, g, h1, h256, hu, hx, -, -, hfree, rfl⟩
    have hsize : ¬ ((th.reg c).toNat < 1 ∨ 256 < (th.reg c).toNat) := by omega
    have hid : x.id = tm.id := State.team_id _ hx
    rw [← hid] at hfree
    simp only [matrixBody_site hs, if_neg hsize, ← hu, hx, Option.getD_some, allocGranules_full hfree]
  case afree =>
    exact fun g count => completes_of (fun _ => rfl) fun _ _ _ _ => entersUnit_matrixBody fun s p tm th tids hc => by simp only [hc]
  case mzero =>
    exact fun g count => completes_of (fun _ => rfl) fun _ _ _ _ => entersUnit_matrixBody fun s p tm th tids hc => by simp only [hc]
  case ores =>
    refine fun a b c fmt gl rid rw' hfmt => completes_of (fun _ => rfl) ?_
    rintro s th tids t ⟨p, tm, hs, hr1, hr2, hlen, hend, hresv, htaken, hq, rfl⟩
    have hf1 : fld (th.reg a) 26 6 = 0 := hr1
    have hf2 : fld (th.reg a) 9 7 = 0 := hr2
    have hext : decide ((fld (th.reg a) 16 10).toNat = 0 ∨ 512 < (fld (th.reg a) 0 9).toNat + (fld (th.reg a) 16 10).toNat) = false := by
      rw [decide_eq_false_iff_not]
      omega
    have hc : firstFlt
        [(fld (th.reg a) 26 6 != 0 || fld (th.reg a) 9 7 != 0 ||
            decide ((fld (th.reg a) 16 10).toNat = 0 ∨ 512 < (fld (th.reg a) 0 9).toNat + (fld (th.reg a) 16 10).toNat),
          fltWord 0x11 (.ores a b c fmt gl rid rw')),
         (Sys2Proof.Machine.Fmt.plainInt fmt, fltWord 0x11 (.ores a b c fmt gl rid rw')),
         (tm.resv[rid.toFin].isSome || s.extentTaken tm.id.core (fld (th.reg a) 0 9).toNat (fld (th.reg a) 16 10).toNat,
          fltWord 0x41 (.ores a b c fmt gl rid rw')),
         ((fmt == .q8 || fmt == .q4) && (th.reg b).toNat % 2 != 0, fltAt 0x01 ((th.reg b).setWidth 64)),
         ((fmt == .q8 || fmt == .q4) && !tm.progOk (th.reg b).toNat 1, fltAt 0x05 ((th.reg b).setWidth 64)),
         ((fmt == .q8 || fmt == .q4) && !tm.progOk (th.reg c).toNat 1, fltAt 0x05 ((th.reg c).setWidth 64))] = none := by
      cases hquant : fmt == .q8 || fmt == .q4 with
      | false => simp only [firstFlt, hf1, hf2, hext, hfmt, hresv, htaken]; rfl
      | true =>
        obtain ⟨heven, hs1, hs2⟩ := hq (by simpa using hquant)
        simp only [firstFlt, hf1, hf2, hext, hfmt, hresv, htaken, heven, hs1, hs2]
        rfl
    simp only [matrixBody_site hs, hc]
    cases hquant : fmt == .q8 || fmt == .q4 with
    | false =>
      have hno : ¬ (fmt = .q8 ∨ fmt = .q4) := by simpa [not_or] using hquant
      simp only [if_neg hno]
      rfl
    | true =>
      have hyes : fmt = .q8 ∨ fmt = .q4 := by simpa using hquant
      simp only [if_pos hyes]
      rfl
  case orel =>
    refine fun rid => completes_of (fun _ => rfl) fun _ _ _ _ => entersUnit_matrixBody fun s p tm th tids hc => ?_
    split at hc
    · cases hc
    · next hlive => exact if_neg hlive
  case mfeed =>
    refine fun a b rid e he => completes_of (fun _ => rfl) fun _ _ _ _ => entersUnit_matrixBody fun s p tm th tids hc => ?_
    have htile : (e.ssp == Space.global) = false := by simpa using he
    simp only [hc, htile, Bool.false_eq_true, if_false]
  case mfeedTile =>
    refine fun a b rid e he => completes_of (fun _ => rfl) fun _ _ _ _ => entersUnit_matrixBody fun s p tm th tids hc => ?_
    simp only [hc, he]
    rfl
  case mloop =>
    refine fun a b c lc => completes_of (fun _ => rfl) ?_
    rintro s th tids t ⟨p, tm, hs, ra, rb, hra, hrb, h0, hle, hfit, heven, hholds, hslate, rfl⟩
    have hsteps : decide ((th.reg a).toNat = 0 ∨ 65535 < (th.reg a).toNat) = false := by
      rw [decide_eq_false_iff_not]
      omega
    have hodd : (ra.fmt == .f64 && (th.reg b).toNat % 2 != 0) = false := by
      cases hf : ra.fmt == .f64 with
      | false => rfl
      | true => simp [heven (by simpa using hf)]
    have hc : firstFlt ([(decide ((th.reg a).toNat = 0 ∨ 65535 < (th.reg a).toNat), fltWord 0x11 (.mloop a b c lc)),
        (loopMismatch (th.reg a).toNat lc (some ra) (some rb), fltWord 0x41 (.mloop a b c lc)),
        ((ra.fmt == .f64 && (th.reg b).toNat % 2 != 0) || !tm.holds (th.reg b).toNat (granCount lc.m lc.n (ra.fmt == .f64)),
          fltWord 0x42 (.mloop a b c lc))] ++ (slateChecks (some tm) (th.reg c) ++ guardChecks tm lc.guard)) = none :=
      firstFlt_append (by simp only [firstFlt, hsteps, hfit, hodd, hholds]; rfl) hslate
    simp only [matrixBody_site hs, hra, hrb, List.append_assoc, hc]
  case mdrain =>
    refine fun d a b zero e => completes_of (fun _ => rfl) ?_
    rintro s th tids t ⟨p, tm, hs, r, hal, hprog, hdam, hr, hc, rfl⟩
    have hoff : firstFlt [((th.reg b).toNat % 16 != 0, fltAt 0x01 ((th.reg b).setWidth 64)),
        (!tm.progOk (th.reg b).toNat 32, fltAt 0x05 ((th.reg b).setWidth 64)),
        (s.spadDamaged tm.id (th.reg b).toNat 32, { cause := 0x60, addr := (th.reg b).setWidth 64, extra := 5 })] = none := by
      simp [firstFlt, hal, hprog, hdam]
    simp only [matrixBody_site hs, hoff, hr, hc, slateFor]
    cases s.ownerOf tm e.dsp (engAddr th e.dsp d) <;> rfl

end Sys2Proof.Machine
end

section
/-!
SUPPORT. What system software, firmware and a debugger do through the functions (01_package R8 to R15, 07_memory R135, R140, R144, 16_parcels R237,
18_scheduling R257, R269, 19_faults R278 to R280).
-/
namespace Sys2Proof.Machine

/-! ## Tables -/

/-- The entry of a key that is put stands first. -/
theorem find_put_same {α : Type} {p : α → Bool} {x : α} {xs : List α} (h : p x = true) : (x :: xs).find? p = some x :=
  List.find?_cons_of_pos h

/-- Putting an entry leaves what is looked up by another key. -/
theorem find_put_other {α : Type} {p q : α → Bool} {x : α} {xs : List α} (hx : p x = false) (hq : ∀ y, q y = true → p y = false) :
    (x :: xs.filter fun y => !q y).find? p = xs.find? p := by
  rw [List.find?_cons_of_neg (by simp [hx]), List.find?_filter]
  congr 1
  funext y
  cases hy : q y with
  | true => simp [hq y hy]
  | false => simp

section
variable {κ α : Type} [DecidableEq κ]

theorem find_putEntry_same (k : κ) (v : α) (xs : List (κ × α)) : (putEntry k v xs).find? (fun x => x.1 = k) = some (k, v) :=
  find_put_same (by simp)

theorem find_putEntry_other {k j : κ} (h : j ≠ k) (v : α) (xs : List (κ × α)) :
    (putEntry k v xs).find? (fun x => x.1 = j) = xs.find? fun x => x.1 = j :=
  find_put_other (by simpa using h.symm) fun y hy => by
    have hk : y.1 = k := by simpa using hy
    simpa [hk] using h.symm

theorem lookup_eq_find [BEq κ] [LawfulBEq κ] (j : κ) (xs : List (κ × α)) :
    xs.lookup j = (xs.find? fun x => decide (x.1 = j)).map Prod.snd := by
  induction xs with
  | nil => rfl
  | cons x xs ih =>
    obtain ⟨k, v⟩ := x
    by_cases hk : k = j
    · subst hk
      simp
    · rw [List.lookup_cons, List.find?_cons_of_neg (by simpa using hk), ← ih, beq_false_of_ne (Ne.symm hk)]

end

section
variable {κ α : Type} [DecidableEq κ] [BEq κ] [LawfulBEq κ]

theorem lookup_putEntry_same (k : κ) (v : α) (xs : List (κ × α)) : (putEntry k v xs).lookup k = some v := by
  rw [lookup_eq_find, find_putEntry_same]
  rfl

theorem lookup_putEntry_other {k j : κ} (h : j ≠ k) (v : α) (xs : List (κ × α)) : (putEntry k v xs).lookup j = xs.lookup j := by
  rw [lookup_eq_find, lookup_eq_find, find_putEntry_other h]

end

/-! ## Exports, masks and maps -/

theorem exportAfter_low (old bits : BitVec 128) (gen : Option (BitVec 16)) :
    (exportAfter old bits gen).extractLsb' 0 112 = bits.extractLsb' 0 112 := by
  unfold exportAfter
  rw [BitVec.extractLsb'_append_eq_of_add_le (by omega)]
  simp

theorem exportAfter_gen (old bits : BitVec 128) (gen : Option (BitVec 16)) : (exportAfter old bits gen).extractLsb' 112 16 =
    gen.getD (if old.getLsbD 65 = true ∧ bits.getLsbD 65 = false then old.extractLsb' 112 16 + 1 else old.extractLsb' 112 16) := by
  unfold exportAfter
  rw [BitVec.extractLsb'_append_eq_of_le (by omega)]
  cases gen <;> simp

theorem exportAfter_valid (old bits : BitVec 128) (gen : Option (BitVec 16)) : (exportAfter old bits gen).getLsbD 65 = bits.getLsbD 65 := by
  unfold exportAfter
  rw [BitVec.getLsbD_append, if_pos (by omega), BitVec.getLsbD_extractLsb']
  rfl

/-- Settles O32: it holds. -/
theorem tablesMasksAndMapsReadAsWritten : Obligations.TablesMasksAndMapsReadAsWritten := by
  refine ⟨?imports, ?exports, fun mask s => rfl, ?partitions, ?dies, ?vdies, ?roots⟩
  case imports =>
    refine fun die idx bits s => ⟨_, rfl, ?_, fun j hj => ?_, fun e he => State.die_onDie_other s die e _ he⟩
    · rw [State.die_onDie_same, Die.importAt, find_putEntry_same]
    · rw [State.die_onDie_same, Die.importAt, Die.importAt, find_putEntry_other hj]
  case exports =>
    refine fun die idx bits gen s => ⟨_, rfl, ?_, ?_, ?_, fun j hj => ?_⟩
    · rw [State.die_onDie_same, Die.exportAt, find_putEntry_same]
      exact exportAfter_low _ bits gen
    · rw [State.die_onDie_same, Die.exportAt, find_putEntry_same]
      exact exportAfter_gen _ bits gen
    · rw [State.die_onDie_same, exportAfter_valid]
      by_cases hv : ((s.die die).exportAt idx.val).getLsbD 65 = true ∧ bits.getLsbD 65 = false
      · rw [if_pos hv, hv.1, hv.2]
        rfl
      · rw [if_neg hv, if_neg (by simpa using hv), List.append_nil]
    · rw [State.die_onDie_same]
      simp only [Die.exportAt, find_putEntry_other hj]
  case partitions => exact fun n mask s => ⟨_, rfl, lookup_putEntry_same n mask _, fun m hm => lookup_putEntry_other hm mask _⟩
  case dies =>
    exact fun acc bits s ha => ⟨_, if_neg ha, lookup_putEntry_same acc bits _, fun a h => lookup_putEntry_other h bits _⟩
  case vdies =>
    intro v p s hnone hfree
    have htaken : (p.isSome && (List.finRange 8).any fun w => decide (w ≠ v ∧ s.pkg.vmap[w] = p)) = false := by
      rw [Bool.and_eq_false_imp]
      intro hp
      rw [List.any_eq_false]
      intro w _
      simpa using fun hw => hfree w hw (Option.isSome_iff_ne_none.mp hp)
    have hres : (s.clusters.any fun c => c.die == v) = false := by
      rw [List.any_eq_false]
      exact fun c hc => by simpa using hnone c hc
    refine ⟨_, if_neg (by rw [htaken, hres]; decide), ?_, fun w hw => ?_, ?_, fun c hc => ?_⟩
    · simp [State.phys]
    · have hne : (v : Nat) ≠ w := fun e => hw (Fin.ext e.symm)
      simp [State.phys, hne]
    · rw [State.die_onDie_same]
    · have hno : ((s.cores.filter fun c => !decide (c.1.die = v)).find? fun x => x.1 = c) = none := by
        rw [List.find?_eq_none]
        intro x hx
        obtain ⟨-, hd⟩ := List.mem_filter.mp hx
        have hdie : x.1.die ≠ v := by simpa using hd
        simpa using fun hxc => hdie (by rw [hxc, hc])
      simp only [State.core, State.onDie_cores, hno]
  case roots =>
    refine fun die host asid root s => ⟨_, rfl, ?_, fun a h hne => ?_⟩
    · rw [State.die_onDie_same, Die.root, find_put_same (by simp)]
    · rw [State.die_onDie_same]
      unfold Die.root
      dsimp only
      rw [find_put_other (q := fun r : Root => decide (r.asid = asid ∧ r.host = host))]
      · refine decide_eq_false fun hboth => ?_
        exact hne.elim (fun h1 => h1 hboth.1.symm) fun h2 => h2 hboth.2.symm
      · intro y hy
        obtain ⟨rfl, rfl⟩ : y.asid = asid ∧ y.host = host := by simpa using hy
        refine decide_eq_false fun hboth => ?_
        exact hne.elim (fun h1 => h1 hboth.1.symm) fun h2 => h2 hboth.2.symm

/-! ## Registers and queues -/

theorem Die.queue_onQueue_same (d : Die) (q : Nat) (f : Queue → Queue) : (d.onQueue q f).queue q = f (d.queue q) := by
  rw [Die.queue, Die.onQueue, find_put_same (by simp)]

theorem Die.queue_onQueue_other (d : Die) {q k : Nat} (h : k ≠ q) (f : Queue → Queue) : (d.onQueue q f).queue k = d.queue k := by
  unfold Die.onQueue Die.queue
  dsimp only
  rw [find_put_other (q := fun x : Nat × Queue => decide (x.1 = q)) (by simpa using h.symm)]
  intro y hy
  have hk : y.1 = q := by simpa using hy
  simpa [hk] using h.symm

/-- A queue after a write of its configuration. -/
def Queue.configured (cfg : QueueConfig) (x : Queue) : Queue :=
  if cfg.en ∧ !x.cfg.en then { queueReset with cfg := cfg } else if cfg.en then { x with cfg := cfg } else { x with cfg := cfg, stopped := none }

/-- The die's queues after a write of one queue's configuration. -/
theorem queueConfiguration_dies (die : Fin 8) (q : Fin 64) (cfg : QueueConfig) (s : State) : ∃ t, exec (.queueConfiguration die q cfg) s = .next t ∧
    t.die die = (s.die die).onQueue q.val (Queue.configured cfg) := by
  have hdie : (s.onDie die fun d => d.onQueue q.val (Queue.configured cfg)).die die = (s.die die).onQueue q.val (Queue.configured cfg) :=
    State.die_onDie_same s die _
  show ∃ t, execQueueConfiguration die q cfg s = .next t ∧ _
  unfold execQueueConfiguration
  dsimp only
  split
  · exact ⟨_, rfl, hdie⟩
  · exact ⟨_, rfl, hdie⟩

/-- Settles O33: it holds. -/
theorem configurationRegistersAndQueues : Obligations.ConfigurationRegistersAndQueues := by
  refine ⟨?plain, ?watchdog, ?short, ?enable, ?change, ?doorbell, ?preemption⟩
  case plain =>
    intro fn off val s hfn hoff
    have hwrite : exec (.registerWrite fn off val) s = .next { s with pkg := { s.pkg with
        registers := (fn, off, val) :: s.pkg.registers.filter fun x => !decide (x.1 = fn ∧ x.2.1 = off) } } := by
      show execRegisterWrite fn off val s = _
      unfold execRegisterWrite
      dsimp only
      rw [if_neg fun h => hfn h.1, dif_neg fun h => hfn h.1, if_neg fun h => hoff h.2]
      rfl
    exact ⟨_, hwrite, find_put_same (by simp), rfl⟩
  case watchdog =>
    intro fn off val s hfn hoff hval
    have hwrite : exec (.registerWrite fn off val) s =
        .next (s.onDie (Fin.ofNat 8 fn.val) fun d => { d with watchdog := if val = 0 then 2 ^ 32 else val.toNat }) := by
      show execRegisterWrite fn off val s = _
      unfold execRegisterWrite
      dsimp only
      rw [if_neg fun h => hfn h.1, dif_neg fun h => hfn h.1, if_pos ⟨hfn, hoff⟩, if_pos hval]
      rfl
    refine ⟨_, hwrite, ?_⟩
    rw [State.die_onDie_same]
  case short =>
    intro fn off val s hfn hoff hnz hval
    show execRegisterWrite fn off val s = _
    unfold execRegisterWrite
    dsimp only
    rw [if_neg fun h => hfn h.1, dif_neg fun h => hfn h.1, if_pos ⟨hfn, hoff⟩, if_neg fun h => h.elim (by omega) hnz]
    rfl
  case enable =>
    intro die q cfg s hen hold
    obtain ⟨t, hexec, hdie⟩ := queueConfiguration_dies die q cfg s
    refine ⟨t, hexec, ?_, fun k hk => by rw [hdie, Die.queue_onQueue_other _ hk]⟩
    rw [hdie, Die.queue_onQueue_same, Queue.configured, if_pos ⟨hen, by rw [hold]; rfl⟩]
    rfl
  case change =>
    intro die q cfg s hen hold
    obtain ⟨t, hexec, hdie⟩ := queueConfiguration_dies die q cfg s
    refine ⟨t, hexec, ?_⟩
    rw [hdie, Die.queue_onQueue_same, Queue.configured, if_neg (by simp [hold]), if_pos hen]
  case doorbell =>
    intro die q tail s hen hrun
    have hbell : exec (.queueDoorbell die q tail) s =
        .next (s.onDie die fun d => d.onQueue q.val fun x => { x with tail := tail, stopped := none }) := by
      show execQueueDoorbell die q tail s = _
      simp only [execQueueDoorbell, hen, hrun, Bool.not_true, Bool.false_eq_true, if_false]
      rfl
    refine ⟨_, hbell, ?_, fun k hk => ?_⟩
    · rw [State.die_onDie_same, Die.queue_onQueue_same, ← hrun]
    · rw [State.die_onDie_same, Die.queue_onQueue_other _ hk]
  case preemption =>
    refine fun die q s => ⟨_, rfl, fun k => ?_⟩
    simp only [List.mem_map, List.mem_filter, Bool.and_eq_true, decide_eq_true_eq]
    refine exists_congr fun c => ?_
    rw [and_assoc, and_congr_right_iff]
    intro _
    rw [and_comm (b := c.id = k), and_congr_right_iff]
    intro _
    rw [and_congr_right_iff]
    intro _
    cases hg : s.grid c.grid with
    | none => simp
    | some g =>
      cases hsrc : g.src with
      | queue q' n => simp [hsrc]
      | localQ core n => simp [hsrc]

/-! ## Translation, pools and the report ring -/

/-- Records that the ring has room for are written in their order, each with an interrupt. -/
theorem Die.foldl_report_room (rs : List (BitVec 128)) : ∀ d : Die, d.reports.length + rs.length ≤ Config.reportRing →
    rs.foldl (fun d r => d.report r) d = { d with reports := d.reports ++ rs, interrupts := d.interrupts + rs.length } := by
  induction rs with
  | nil => exact fun d _ => by simp
  | cons r rs ih =>
    intro d hroom
    have hone : d.report r = { d with reports := d.reports ++ [r], interrupts := d.interrupts + 1 } :=
      if_pos (by rw [List.length_cons] at hroom; omega)
    rw [List.foldl_cons, hone, ih _ (by simp only [List.length_append, List.length_cons, List.length_nil] at *; omega)]
    simp only [List.append_assoc, List.singleton_append, List.length_cons, Nat.add_assoc, Nat.add_comm 1]

theorem Tlb.dropped_iff (e : Tlb) (asid : BitVec 16) (base len : Nat) : e.dropped asid base len = true ↔
    e.asid = asid ∧ e.vpn * 2 ^ (if e.big then 29 else 16) < base + len ∧
      base < e.vpn * 2 ^ (if e.big then 29 else 16) + 2 ^ (if e.big then 29 else 16) := by
  simp [Tlb.dropped, meetsRange]

/-- Settles O34: it holds. -/
theorem translationAndPools : Obligations.TranslationAndPools := by
  refine ⟨?shootdown, ?shot, ?revoked, ?doorbell, ?pool, ?space, ?held⟩
  case shootdown =>
    intro die asid base len s
    obtain ⟨x, hexec, hx⟩ : ∃ x : Shoot, exec (.shootdown die asid base len) s = .next (s.bump.onDie die fun d =>
        { d with tlbs := d.tlbs.filter fun e => !e.dropped asid base.toNat len, shoots := d.shoots ++ [x] }) ∧
        x.id = s.fresh ∧ x.asid = asid ∧ x.base = base ∧ x.len = len := ⟨_, rfl, rfl, rfl, rfl, rfl⟩
    refine ⟨_, x, hexec, fun e => ?_, ?_, hx⟩
    · rw [State.die_onDie_same, ← Tlb.dropped_iff, List.mem_filter, Bool.not_eq_true', Bool.not_eq_true]
      rfl
    · rw [State.die_onDie_same]
      rfl
  case shot =>
    intro die x s hx haccs hcmds
    have hdone : s.shootDone x = true := by
      rw [State.shootDone, Bool.and_eq_true, List.all_eq_true, List.all_eq_true]
      exact ⟨fun i hi => by rw [haccs i hi], fun i hi => by rw [hcmds i hi]; rfl⟩
    have hexec : exec (.shootdownCompletion die x.id) s =
        .next (s.onDie die fun d => { d with shoots := d.shoots.filter fun y => !decide (y.id = x.id) }) := by
      show execShootdownCompletion die x.id s = _
      simp only [execShootdownCompletion, hx, hdone, if_true, event]
    refine ⟨_, hexec, fun y hy => ?_⟩
    rw [State.die_onDie_same] at hy
    simpa using (List.mem_filter.mp hy).2
  case revoked =>
    intro die idx e s he hlines hmsgs haccs hasks hcmds
    have hwrites : ∀ handle, (s.cmds.any fun c => s.importWrites die handle c) = false := fun handle => by
      rw [List.any_eq_false]
      intro c hc
      rw [State.importWrites, Bool.not_eq_true, List.any_eq_false]
      intro q hq
      rw [hcmds c hc q hq]
      exact Bool.false_ne_true
    have hexec : exec (.revocationComplete die idx) s = 
        .next (({ s with
          imported := s.imported.filter fun y => !s.names y.2.1 die (e.extractLsb' 112 16 ++ BitVec.ofNat 16 idx.val) } : State).onDie die
            fun d => { d with revoking := d.revoking.filter fun y => !decide (y = (idx.val, e)) }) := by
      show execRevocationComplete die idx s = _
      simp only [execRevocationComplete, he, State.importCopies, State.importGoing, State.importAsked, hlines, hmsgs, haccs, hasks, hwrites]
      rfl
    refine ⟨_, hexec, fun hmem => ?_⟩
    rw [State.die_onDie_same] at hmem
    simpa using (List.mem_filter.mp hmem).2
  case doorbell =>
    intro die seq refused r s hr
    have hexec : exec (.completionDoorbell die seq refused) s =
        .next ((s.onDie die fun d => { d with residency := d.residency.filter fun x => !decide (x.seq = seq.toNat) }).creditAt r.at' 0 1
          refused []) := by
      show execCompletionDoorbell die seq refused s = _
      simp only [execCompletionDoorbell, hr, event]
    refine ⟨_, _, hexec, fun x hx => ?_, rfl, rfl, rfl, rfl, rfl⟩
    have hmem : x ∈ ((s.onDie die fun d => { d with residency := d.residency.filter fun x => !decide (x.seq = seq.toNat) }).die die).residency := hx
    rw [State.die_onDie_same] at hmem
    simpa using (List.mem_filter.mp hmem).2
  case pool =>
    intro die cfg s hok hwait
    have hstay : ∀ (xs : List Thread) (t : State), (∀ u ∈ xs, u.st ≠ .waiting) → xs.foldl (fun s t =>
        match t.st, t.after with
        | .waiting, .wait (.parcel r) _ _ => s.tryWait t.id (.parcel r)
        | _, _ => s) t = t := by
      intro xs
      induction xs with
      | nil => exact fun t _ => rfl
      | cons u us ih =>
        intro t hno
        rw [List.foldl_cons]
        split
        · next hst _ => exact absurd hst (hno u List.mem_cons_self)
        · exact ih t fun v hv => hno v (List.mem_cons_of_mem _ hv)
    have hexec : exec (.poolConfiguration die cfg) s = .next (s.onDie die fun d => { d with pool := some cfg, handles := [] }) := by
      show execPoolConfiguration die cfg s = _
      unfold execPoolConfiguration
      rw [if_neg (by rw [hok]; decide)]
      exact congrArg Host.Outcome.next (hstay _ _ fun u hu => hwait u (List.mem_filter.mp hu).1)
    refine ⟨_, hexec, ?_, ?_, rfl⟩ <;> rw [State.die_onDie_same]
  case space =>
    intro die count s hno
    refine ⟨_, rfl, ?_⟩
    rw [State.die_onDie_same, hno]
    rfl
  case held =>
    intro die count r rest s hheld hroom
    refine ⟨_, rfl, ?_⟩
    rw [State.die_onDie_same, hheld, Die.foldl_report_room _ _ hroom]
    exact ⟨rfl, rfl, rfl⟩

/-! ## Debug actions -/

/-- A thread with its debug mark set or cleared. -/
def Thread.marked (b : Bool) (t : Thread) : Thread := { t with mark := b }

theorem State.thread_marked {s : State} {i : ThreadId} {th : Thread} (h : s.thread i = some th) (b : Bool) :
    (s.onThread i (Thread.marked b)).thread i = some { th with mark := b } := by
  rw [State.thread_onThread_same s i (Thread.marked b) fun _ h => h, h]
  rfl

/-- Settles O35: it holds. -/
theorem debugActions : Obligations.DebugActions := by
  refine ⟨?mark, ?unmark, ?kill, ?killPending, ?unparked, ?continued, ?skipped, fun tm e tid hv ht => if_pos ⟨hv, ht⟩,
    fun tm e tid hno => if_neg fun hb => hno.elim (fun hv => by rw [hb.1] at hv; cases hv) fun ht => ht hb.2⟩
  case mark =>
    intro i th s hth
    have hexec : exec (.mark i) s = .next ((s.onThread i (Thread.marked true)).reply i.team.core.die .done) := by
      show execMark i s = _
      simp only [execMark, hth, event]
      rfl
    exact ⟨_, hexec, State.thread_marked hth true, by rw [State.reply, State.die_onDie_same]⟩
  case unmark =>
    intro i th s hth
    have hexec : exec (.unmark i) s = .next ((s.onThread i (Thread.marked false)).reply i.team.core.die .done) := by
      show execUnmark i s = _
      simp only [execUnmark, hth, event]
      rfl
    exact ⟨_, hexec, State.thread_marked hth false, by rw [State.reply, State.die_onDie_same]⟩
  case kill =>
    intro i th e s hth hst he
    show execKillThread i s = _
    simp only [execKillThread, hth, hst, he, true_or, if_true]
    rfl
  case killPending =>
    intro i th s hth hst he
    show execKillThread i s = _
    simp only [execKillThread, hth, hst, he, or_true, if_true]
    rfl
  case unparked =>
    intro i th s hth hst
    have hid := State.thread_id s hth
    have hrefused : ∀ skip, s.debugResume th skip = (s.acted i).onDie i.team.core.die fun d => { d with debug := some .condition } := by
      intro skip
      unfold State.debugResume
      dsimp only
      split
      · next h _ _ => exact absurd h hst
      · rw [hid]
        rfl
    refine ⟨?_, ?_⟩
    · show execContinueThread i s = _
      simp only [execContinueThread, hth, hrefused, event]
    · show execSkipThread i s = _
      simp only [execSkipThread, hth, hrefused, event]
  case continued =>
    intro i th e tm u b w r s hth hst he htm hgo
    have hid := State.thread_id s hth
    have htid := State.team_id s htm
    subst hid
    show execContinueThread th.id s = _
    simp only [execContinueThread, hth, State.debugResume, hst, he, htm, hgo, htid, Bool.false_and, Bool.false_eq_true, if_false]
    rfl
  case skipped =>
    intro i th e tm u b w r f s hth hst he htm hinfo hcause hgo
    have hid := State.thread_id s hth
    have htid := State.team_id s htm
    subst hid
    have hstep : (f.cause == 0x52) = false := by simpa using hcause
    show execSkipThread th.id s = _
    simp only [execSkipThread, hth, State.debugResume, hst, he, htm, hinfo, hstep, hgo, htid, Bool.and_false, Bool.false_eq_true, if_false]
    rfl

end Sys2Proof.Machine
end

section
/-!
SUPPORT. Firmware (21_outside R290 to R297).
-/
namespace Sys2Proof.Machine

/-- A health update changes the health status word, its event stream and the interrupts of the package. -/
theorem State.updateHealth_eq (s : State) (margin : BitVec 4) (again : Bool) : ∃ w es n,
    s.updateHealth margin again = { s with pkg := { s.pkg with health := w, healthEvents := es, interrupts := n } } := by
  unfold State.updateHealth
  dsimp only
  split
  · exact ⟨s.pkg.health, s.pkg.healthEvents, s.pkg.interrupts, rfl⟩
  · exact ⟨_, _, _, rfl⟩

/-- Setting a rail changes no number, map or list of cores. -/
theorem Package.setRail_keeps (p : Package) (r : RailPlan) : (p.setRail r).accNum = p.accNum ∧ (p.setRail r).vmap = p.vmap ∧
    (p.setRail r).fused = p.fused ∧ (p.setRail r).retiredCores = p.retiredCores := by
  unfold Package.setRail
  split <;> exact ⟨rfl, rfl, rfl, rfl⟩

theorem Package.foldl_setRail_keeps (plan : List RailPlan) : ∀ p : Package, (plan.foldl Package.setRail p).accNum = p.accNum ∧
    (plan.foldl Package.setRail p).vmap = p.vmap ∧ (plan.foldl Package.setRail p).fused = p.fused ∧
    (plan.foldl Package.setRail p).retiredCores = p.retiredCores := by
  induction plan with
  | nil => exact fun p => ⟨rfl, rfl, rfl, rfl⟩
  | cons r rs ih =>
    intro p
    obtain ⟨h1, h2, h3, h4⟩ := ih (p.setRail r)
    obtain ⟨k1, k2, k3, k4⟩ := p.setRail_keeps r
    exact ⟨h1.trans k1, h2.trans k2, h3.trans k3, h4.trans k4⟩

/-- The rails and the retired cores after a re-plan. -/
def State.replanned (s : State) (r : Replan) : State :=
  { s.planRails r.plan with pkg := { (s.planRails r.plan).pkg with
      retiredCores := (s.planRails r.plan).pkg.retiredCores ++
        r.failed.eraseDups.filter fun c => !((s.planRails r.plan).pkg.fused ++ (s.planRails r.plan).pkg.retiredCores).contains c } }

/-- A re-plan of a part without grids ends with the health status word. -/
theorem marginReplan_of_noGrids (margin : BitVec 4) (r : Replan) {s : State} (hg : s.grids = []) :
    exec (.marginReplan margin r) s = .next ((s.replanned r).updateHealth margin false) := by
  obtain ⟨w, es, n, hup⟩ := (s.replanned r).updateHealth_eq margin false
  have hgrids : ((s.replanned r).updateHealth margin false).grids = [] := by
    rw [hup]
    exact hg
  show event (((s.replanned r).updateHealth margin false).grids.foldl (fun s g => s.dropUnplaceable g.id) _) = _
  rw [hgrids]
  rfl

theorem State.replanned_retired (s : State) (r : Replan) (margin : BitVec 4) : ((s.replanned r).updateHealth margin false).pkg.retiredCores =
    s.pkg.retiredCores ++ r.failed.eraseDups.filter fun c => !(s.pkg.fused ++ s.pkg.retiredCores).contains c := by
  obtain ⟨w, es, n, hup⟩ := (s.replanned r).updateHealth_eq margin false
  obtain ⟨-, -, hfused, hret⟩ := Package.foldl_setRail_keeps r.plan s.pkg
  rw [hup]
  simp only [State.replanned, State.planRails, hfused, hret]

theorem State.replanned_coreRails (s : State) (r : Replan) (margin : BitVec 4) : ((s.replanned r).updateHealth margin false).pkg.coreRails =
    (r.plan.foldl Package.setRail s.pkg).coreRails := by
  obtain ⟨w, es, n, hup⟩ := (s.replanned r).updateHealth_eq margin false
  rw [hup]
  rfl

/-- Settles O36: it holds. -/
theorem firmwareEvents : Obligations.FirmwareEvents := by
  refine ⟨?boot, ?unverified, fun s => rfl, fun s => rfl, fun nonce s => rfl, ?raise, ?lower, ?retired, ?rails, ?range, ?port⟩
  case boot =>
    intro r s
    obtain ⟨w, es, n, hup⟩ := State.updateHealth_eq (State.planRails { State.reset with
      agenda := s.agenda, fresh := s.fresh, freed := s.freed, turn := s.turn, pool := s.pool, host := s.host,
      damage := s.damage.filter fun d => match d with
        | .pool _ => true
        | .cached _ _ | .l3 _ | .spad _ _ | .kreg _ _ | .preg _ _ | .acc _ _ => false,
      ports := Vector.ofFn fun p => if Sys2Proof.Machine.BootResult.portUp r p then portReset else { portReset with width := 0 },
      pkg := Sys2Proof.Machine.BootResult.package r s.pkg.accNum } r.plan) r.margin false
    obtain ⟨hacc, hmap, -, -⟩ := Package.foldl_setRail_keeps r.plan (Sys2Proof.Machine.BootResult.package r s.pkg.accNum)
    refine ⟨_, congrArg Host.Outcome.next hup, rfl, rfl, rfl, rfl, rfl, rfl, rfl, rfl, hacc, fun d => ?_⟩
    simp only [State.phys, State.planRails, hmap]
    simp [BootResult.package]
  case unverified =>
    intro r d hbad
    have himage : imageOk r (4 + d.val) = false := by
      cases hm : imageFor r (4 + d.val) with
      | none => simp [imageOk, hm]
      | some m =>
        have hno := hbad m (List.mem_of_find?_eq_some hm) (by simpa using List.find?_some hm)
        simpa [imageOk, hm, imageVerified, and_assoc] using hno
    simp [BootResult.dieOk, himage]
  case raise => exact fun die s => ⟨_, rfl, by simp [stepClock]⟩
  case lower => exact fun die s => ⟨_, rfl, by simp [stepClock]⟩
  case retired =>
    intro margin r s hg
    refine ⟨_, marginReplan_of_noGrids margin r hg, fun c => ?_⟩
    rw [State.replanned_retired]
    simp only [List.mem_append, List.mem_filter, List.mem_eraseDups, Bool.not_eq_true', List.contains_eq_mem, decide_eq_false_iff_not,
      not_or]
    tauto
  case rails =>
    intro margin r d v k s hg hplan
    refine ⟨_, marginReplan_of_noGrids margin r hg, ?_, fun e he => ?_⟩
    · rw [State.replanned_coreRails, hplan]
      simp [Package.setRail]
    · have hne : (d : Nat) ≠ e := fun h => he (Fin.ext h.symm)
      rw [State.replanned_coreRails, hplan]
      simp [Package.setRail, hne]
  case range =>
    intro lo hi x h
    unfold inRange
    omega
  case port =>
    refine fun port s => ⟨_, rfl, fun k => ?_⟩
    have hbit : (~~~ (1#4 <<< port.val)).getLsbD k.val = decide (k ≠ port) := by
      revert port k
      decide
    rw [← hbit]
    exact BitVec.getLsbD_and

end Sys2Proof.Machine
end

section
/-!
SUPPORT. Drains and barriers, the taking of a fault, cycles, clauses and the selector (02_execution R22, R29, R30, 03_selector R42 to R49,
19_faults R271 to R278, 22_ref R321, 25_ref R449).
-/
namespace Sys2Proof.Machine

/-! ## Drains and barriers -/

/-- A thread that enrols at a block, with no resume point. -/
def Thread.enrolledAt (block : Addr) (word : Word) (u : Thread) : Thread :=
  { u with st := .enrolled, block := block, coll := flag word 27, after := .none, arrived := false, age := 0, resume := none,
           t := Vector.replicate 32 0 }

section
variable {s : State} {i j : ThreadId} {block : Addr} {word : Word}

theorem State.thread_enrol_other (h : j ≠ i) (r : Option Resume) : (s.enrol i block word r).thread j = s.thread j :=
  State.thread_onThread_other s i j _ h fun _ h => h

theorem State.thread_enrol_same {u : Thread} (h : s.thread i = some u) : (s.enrol i block word none).thread i =
    some (u.enrolledAt block word) := by
  have hone := State.thread_onThread_same s i (Thread.enrolledAt block word) fun _ h => h
  rw [h] at hone
  exact hone

theorem State.thread_enrolNext_other (h : j ≠ i) (r : Option Resume) : (s.enrolNext i block word r).thread j = s.thread j := by
  unfold State.enrolNext
  split
  · split
    · exact State.thread_onThread_other s i j _ h fun _ h => h
    · exact State.thread_enrol_other h r
  · rfl

/-- Releasing a thread leaves the others as they are. -/
theorem State.thread_release_other (h : j ≠ i) : (s.release i).thread j = s.thread j := by
  unfold State.release
  split
  · split
    · exact State.thread_enrolNext_other h none
    · rfl
  · rfl

/-- A thread that waits and carries no frame-step mark is released into its next block. -/
theorem State.thread_release_same {u : Thread} {k : WaitKind} (hu : s.thread i = some u) (hmark : u.mark = false)
    (ha : u.after = .wait k block word) : (s.release i).thread i = some (u.enrolledAt block word) := by
  have hrel : s.release i = s.enrol i block word none := by
    simp only [State.release, hu, ha, State.enrolNext, hmark, Bool.false_and, Bool.false_eq_true, if_false]
  rw [hrel, State.thread_enrol_same hu]

/-- A thread that waits for nothing is not released. -/
theorem State.release_of_after_none {u : Thread} (hu : s.thread i = some u) (ha : u.after = .none) : s.release i = s := by
  simp only [State.release, hu, ha]

end

/-- A thread that has been released stays so, whoever is released after it. -/
theorem State.thread_foldl_release_done {u : Thread} (ha : u.after = .none) (ms : List Thread) : ∀ s : State, s.thread u.id = some u →
    (ms.foldl (fun s v => s.release v.id) s).thread u.id = some u := by
  induction ms with
  | nil => exact fun s h => h
  | cons v vs ih =>
    intro s hu
    refine ih _ ?_
    show (s.release v.id).thread u.id = some u
    by_cases hv : v.id = u.id
    · rw [hv, State.release_of_after_none hu ha]
      exact hu
    · rw [State.thread_release_other (Ne.symm hv)]
      exact hu

/-- Each of the threads that a barrier releases enrols at the block after its own. -/
theorem State.thread_foldl_release {u : Thread} {k : WaitKind} {next : Addr} {w : Word} (hmark : u.mark = false) (ha : u.after = .wait k next w)
    (ms : List Thread) : ∀ s : State, s.thread u.id = some u → u ∈ ms →
      (ms.foldl (fun s v => s.release v.id) s).thread u.id = some (u.enrolledAt next w) := by
  induction ms with
  | nil => exact fun s _ h => absurd h List.not_mem_nil
  | cons v vs ih =>
    intro s hu hmem
    by_cases hv : v.id = u.id
    · rw [List.foldl_cons, hv]
      exact State.thread_foldl_release_done (u := u.enrolledAt next w) rfl vs _ (State.thread_release_same hu hmark ha)
    · have hvs : u ∈ vs := (List.mem_cons.mp hmem).resolve_left fun h => hv (by rw [h])
      exact ih _ ((State.thread_release_other (Ne.symm hv)).trans hu) hvs

theorem State.exec_drainComplete {s : State} {i : ThreadId} {th : Thread} (hth : s.thread i = some th) (hmay : s.mayMove th = true) :
    exec (.drainComplete i) s = .next (s.afterDrain th) := by
  show execDrainComplete i s = _
  simp only [execDrainComplete, hth, hmay, if_true, event]

/-- A thread with a load outstanding has not drained. -/
theorem State.drained_of_load {s : State} {i : ThreadId} {a : Acc} (ha : a ∈ s.accs) (hteam : a.th.team = i.team) (hlane : i.tid ∈ a.lanes)
    (hctr : a.ctr ≠ none) : s.drained i = false := by
  rw [State.drained, List.all_eq_false]
  refine ⟨a, ha, ?_⟩
  have hsome : a.ctr.isSome = true := Option.isSome_iff_ne_none.mpr hctr
  simp [hteam, hlane, hsome]

/-- Settles O37: it holds. -/
theorem drainsAndBarriers : Obligations.DrainsAndBarriers := by
  refine ⟨?enrols, ?exits, ?waits, ?resumes, ?stays, ?arriveTeam, ?arriveCluster, ?held, ?team, ?cluster⟩
  case enrols =>
    intro i th b w s hth hmay hafter
    rw [State.exec_drainComplete hth hmay, State.afterDrain, hafter, State.thread_id s hth]
  case exits =>
    intro i th s hth hmay hafter
    rw [State.exec_drainComplete hth hmay, State.afterDrain, hafter, State.thread_id s hth]
  case waits =>
    intro i th k b w s hth hmay hafter
    rw [State.exec_drainComplete hth hmay, State.afterDrain, hafter, State.thread_id s hth]
  case resumes =>
    intro i th skip w s hth hmay hafter
    rw [State.exec_drainComplete hth hmay, State.afterDrain, hafter]
  case stays =>
    intro i th a s hth ha hteam hlane hctr
    have hno : s.mayMove th = false := by
      rw [State.mayMove, State.thread_id s hth, State.drained_of_load ha hteam hlane hctr, Bool.and_false, Bool.false_and, Bool.false_and]
    show execDrainComplete i s = _
    simp only [execDrainComplete, hth, hno, Bool.false_eq_true, if_false, event]
  case arriveTeam =>
    intro i th s hth hmay hteam
    show execBarrierArrival i s = _
    simp only [execBarrierArrival, hth, hmay, hteam, if_true, event]
  case arriveCluster =>
    intro i th tm s hth hmay hteam htm
    have htm' : (s.onThread i fun t => { t with arrived := true }).team i.team = some tm := htm
    show execBarrierArrival i s = _
    simp only [execBarrierArrival, hth, hmay, hteam, htm', if_true, Bool.false_eq_true, if_false, event]
  case held =>
    intro s k u hu hteam hst hno
    have hmem : u ∈ (s.threadsOf k).filter fun u => u.st != .exited := by
      simp [State.threadsOf, hu, hteam, hst]
    have hall : (((s.threadsOf k).filter fun u => u.st != .exited).all fun u => u.waitsFor .team && u.arrived) = false := by
      rw [List.all_eq_false]
      exact ⟨u, hmem, by rw [hno]; exact Bool.false_ne_true⟩
    simp only [State.teamBarrier, hall, Bool.and_false, Bool.false_eq_true, if_false]
  case team =>
    intro s k hall u next w hu hteam hst hafter
    have hthreads : u ∈ s.threads := List.mem_of_find?_eq_some hu
    have hmem : u ∈ (s.threadsOf k).filter fun u => u.st != .exited := by
      simp [State.threadsOf, hthreads, hteam, hst]
    have hready : (((s.threadsOf k).filter fun u => u.st != .exited).all fun u => u.waitsFor .team && u.arrived) = true := by
      rw [List.all_eq_true]
      intro v hv
      obtain ⟨hv1, hvst⟩ := List.mem_filter.mp hv
      obtain ⟨hvs, hvt⟩ := List.mem_filter.mp hv1
      obtain ⟨hw, har, -⟩ := hall v hvs (by simpa using hvt) (by simpa using hvst)
      rw [hw, har]
      rfl
    have hne : ((s.threadsOf k).filter fun u => u.st != .exited).isEmpty = false := by
      rw [List.isEmpty_eq_false_iff]
      exact List.ne_nil_of_mem hmem
    have hrel : s.teamBarrier k = ((s.threadsOf k).filter fun u => u.st != .exited).foldl (fun s u => s.release u.id) s := by
      simp only [State.teamBarrier, hready, hne, Bool.not_false, Bool.and_true, if_true]
    rw [hrel]
    exact State.thread_foldl_release (hall u hthreads hteam hst).2.2 hafter _ s hu hmem
  case cluster =>
    intro s k hall u next w hu hteam hst hafter
    have hthreads : u ∈ s.threads := List.mem_of_find?_eq_some hu
    have hof : ∀ v : Thread, ((s.teams.filter fun t => t.cluster = k).any fun t => decide (t.id = v.id.team)) = true ↔
        ∃ t ∈ s.teams, t.cluster = k ∧ t.id = v.id.team := by
      intro v
      simp [List.any_eq_true, List.mem_filter, and_assoc]
    have hmem : u ∈ (s.threads.filter fun u => (s.teams.filter fun t => t.cluster = k).any fun t => t.id = u.id.team).filter
        fun u => u.st != .exited := by
      rw [List.mem_filter, List.mem_filter, hof]
      exact ⟨⟨hthreads, hteam⟩, by simpa using hst⟩
    have hready : (((s.threads.filter fun u => (s.teams.filter fun t => t.cluster = k).any fun t => t.id = u.id.team).filter
        fun u => u.st != .exited).all fun u => u.waitsFor .cluster && u.arrived) = true := by
      rw [List.all_eq_true]
      intro v hv
      rw [List.mem_filter, List.mem_filter, hof] at hv
      obtain ⟨⟨hvs, hvt⟩, hvst⟩ := hv
      obtain ⟨hw, har, -⟩ := hall v hvs hvt (by simpa using hvst)
      rw [hw, har]
      rfl
    have hne : ((s.threads.filter fun u => (s.teams.filter fun t => t.cluster = k).any fun t => t.id = u.id.team).filter
        fun u => u.st != .exited).isEmpty = false := by
      rw [List.isEmpty_eq_false_iff]
      exact List.ne_nil_of_mem hmem
    have hrel : s.clusterBarrier k = ((s.threads.filter fun u => (s.teams.filter fun t => t.cluster = k).any fun t => t.id = u.id.team).filter
        fun u => u.st != .exited).foldl (fun s u => s.release u.id) s := by
      simp only [State.clusterBarrier, hready, hne, Bool.not_false, Bool.and_true, if_true]
    rw [hrel]
    exact State.thread_foldl_release (hall u hthreads hteam hst).2.2 hafter _ s hu hmem

/-! ## Taking a fault -/

/-- Two changes of one thread are one change. -/
theorem State.onThread_onThread (s : State) (i : ThreadId) (f g : Thread → Thread) (hf : ∀ t, (f t).id = t.id) :
    (s.onThread i f).onThread i g = s.onThread i fun t => g (f t) := by
  unfold State.onThread
  simp only [List.map_map]
  congr 1
  refine List.map_congr_left fun t _ => ?_
  by_cases h : t.id = i
  · simp only [Function.comp_apply, if_pos h, hf]
  · simp only [Function.comp_apply, if_neg h]

/-- A thread whose fault has been recorded. -/
def Thread.recorded (t : Thread) : Thread := { t with fault := none, deferred := [], after := .none }

/-- A thread in handler mode, for a blotter entry. -/
def Thread.handles (e : Nat) (off : BitVec 64) (t : Thread) : Thread := { (t.setReg64 (.k 56) off) with hm := true, handEntry := some e }

/-- A parked thread, for a blotter entry. -/
def Thread.parksAt (e : Nat) (f : FaultInfo) (t : Thread) : Thread := { t with st := .parked, parkEntry := some e, parkInfo := some f }

theorem faultEntry_length (seq : BitVec 32) (th : Thread) (f : FaultInfo) : (faultEntry seq th f).length = 256 := by
  have hframe : (th.t.toList.flatMap fun w => bytesOfNat 4 w.toNat).length = 128 := by
    rw [List.length_flatMap]
    simp [bytesOfNat_length]
  rw [faultEntry, List.length_append, List.length_append, bytesOfNat_length, hframe, List.length_replicate]

/-- A fault is recorded once the word of the handler block has been fetched. -/
theorem exec_faultRecord {s u : State} {i : ThreadId} {th : Thread} {w : Word} (hth : s.thread i = some th) (hmay : s.mayRecord th = true)
    (hw : s.handlerWord i.team = (u, some w)) : exec (.faultRecord i) s = .next (u.recordFault i w) := by
  show execFaultRecord i s = _
  simp only [execFaultRecord, hth, hmay, hw, if_true, event]

/-- Settles O38: it holds. -/
theorem faultsEnterTheHandlerOrPark : Obligations.FaultsEnterTheHandlerOrPark := by
  refine ⟨?enters, ?parks, ?pending, ?noHandler, ?fetched, ?later, ?waits, ?slot, fun seq th f => ⟨faultEntry_length seq th f, ?header⟩⟩
  case enters =>
    intro i th tm f e h s u w hth hmay hw hthu htm hf hslot hhand hhm h51 h52
    have hno : (false || decide (f.cause = 0x51 ∨ f.cause = 0x52)) = false := by
      rw [Bool.false_or, decide_eq_false_iff_not, not_or]
      exact ⟨h51, h52⟩
    rw [exec_faultRecord hth hmay hw]
    simp only [State.recordFault, hthu, htm, hf, hslot, hhand, hhm, hno]
    exact congrArg (fun v : State => Host.Outcome.next (((v.repair (.kreg i 56)).repair (.kreg i 57)).enrol i h w none))
      (State.onThread_onThread _ i Thread.recorded (Thread.handles e (BitVec.ofNat 64 (tm.entryAt e))) fun _ => rfl)
  case parks =>
    intro i th tm f e s u w hth hmay hw hthu htm hf hslot hpark
    have hmerge : ∀ v : State, (v.onThread i Thread.recorded).onThread i (Thread.parksAt e f) = v.onThread i fun t => t.recorded.parksAt e f :=
      fun v => State.onThread_onThread v i Thread.recorded (Thread.parksAt e f) fun _ => rfl
    rw [exec_faultRecord hth hmay hw]
    simp only [State.recordFault, hthu, htm, hf, hslot]
    split
    · next h hhand hcond =>
      rw [Bool.or_eq_false_iff, decide_eq_false_iff_not, not_or] at hcond
      obtain ⟨hhm, h51, h52⟩ := hcond
      rcases hpark with hp | hp | hp | hp
      · rw [hhm] at hp
        cases hp
      · exact absurd hp h51
      · exact absurd hp h52
      · rw [hhand] at hp
        cases hp
    · exact congrArg (fun v : State => Host.Outcome.next (v.teamReport i.team f.cause i.tid false (BitVec.ofNat 32 (tm.entryAt e)))) (hmerge _)
  case pending =>
    intro i th tm f s u w hth hmay hw hthu htm hf hslot hst
    rw [exec_faultRecord hth hmay hw]
    simp only [State.recordFault, hthu, htm, hf, hslot, if_neg hst]
  case noHandler =>
    intro s k tm htm hno
    simp only [State.handlerWord, htm, hno]
  case fetched =>
    intro s k tm h u w htm hh hfetch
    simp only [State.handlerWord, htm, hh, hfetch]
  case later =>
    intro s k tm h u x htm hh hfetch
    simp only [State.handlerWord, htm, hh, hfetch, if_true]
  case waits =>
    intro i th s u hth hmay hw
    show execFaultRecord i s = _
    simp only [execFaultRecord, hth, hmay, hw, if_true, event]
  case slot =>
    intro tm e h
    obtain ⟨hfree, hlt, hbelow⟩ := List.find?_range_eq_some.mp h
    exact ⟨List.mem_range.mp hlt, by simpa using hfree, fun d hd => by simpa using hbelow d hd⟩
  case header =>
    unfold faultHeader
    simp (disch := omega) only [BitVec.extractLsb'_append_eq_of_le, BitVec.extractLsb'_append_eq_of_add_le]
    simp only [BitVec.getLsbD_append]
    simp

/-! ## The selector -/

section
variable {α : Type} {before : α → α → Bool}

theorem foldl_best_isSome (xs : List α) : ∀ y, ∃ c, xs.foldl (fun m x => match m with
    | none => some x
    | some y => if before x y then some x else some y) (some y) = some c ∧ (c = y ∨ c ∈ xs) := by
  induction xs with
  | nil => exact fun y => ⟨y, rfl, .inl rfl⟩
  | cons x xs ih =>
    intro y
    rw [List.foldl_cons]
    dsimp only
    split
    · obtain ⟨c, hc, hmem⟩ := ih x
      exact ⟨c, hc, .inr (hmem.elim (fun h => h ▸ List.mem_cons_self) fun h => List.mem_cons_of_mem _ h)⟩
    · obtain ⟨c, hc, hmem⟩ := ih y
      exact ⟨c, hc, hmem.imp id fun h => List.mem_cons_of_mem _ h⟩

/-- A list that is not empty has a best member. -/
theorem best_isSome {xs : List α} (h : xs ≠ []) : ∃ c ∈ xs, best before xs = some c := by
  cases xs with
  | nil => exact absurd rfl h
  | cons x xs =>
    obtain ⟨c, hc, hmem⟩ := foldl_best_isSome (before := before) xs x
    exact ⟨c, List.mem_cons.mpr hmem, hc⟩

theorem best_eq_none {xs : List α} (h : best before xs = none) : xs = [] := by
  by_contra hne
  obtain ⟨c, -, hc⟩ := best_isSome (before := before) hne
  rw [hc] at h
  cases h

theorem foldl_best_least (htrans : ∀ x y z, before y x = false → before z y = false → before z x = false)
    (hasymm : ∀ x y, before x y = true → before y x = false) (xs : List α) : ∀ y c, xs.foldl (fun m x => match m with
    | none => some x
    | some y => if before x y then some x else some y) (some y) = some c → before y c = false ∧ ∀ x ∈ xs, before x c = false := by
  have hirrefl : ∀ x, before x x = false := fun x => by
    cases h : before x x with
    | false => rfl
    | true => exact h ▸ hasymm x x h
  induction xs with
  | nil =>
    intro y c h
    cases h
    exact ⟨hirrefl y, fun _ hx => absurd hx List.not_mem_nil⟩
  | cons x xs ih =>
    intro y c h
    rw [List.foldl_cons] at h
    dsimp only at h
    cases hxy : before x y with
    | true =>
      rw [hxy, if_pos rfl] at h
      obtain ⟨hxc, hrest⟩ := ih x c h
      exact ⟨htrans c x y hxc (hasymm x y hxy), List.forall_mem_cons.mpr ⟨hxc, hrest⟩⟩
    | false =>
      rw [hxy, if_neg Bool.false_ne_true] at h
      obtain ⟨hyc, hrest⟩ := ih y c h
      exact ⟨hyc, List.forall_mem_cons.mpr ⟨htrans c y x hyc hxy, hrest⟩⟩

/-- Nothing is before the best member, in a strict weak order. -/
theorem best_least (htrans : ∀ x y z, before y x = false → before z y = false → before z x = false)
    (hasymm : ∀ x y, before x y = true → before y x = false) {xs : List α} {c : α} (h : best before xs = some c) :
    ∀ x ∈ xs, before x c = false := by
  cases xs with
  | nil => cases h
  | cons x xs => exact List.forall_mem_cons.mpr (foldl_best_least htrans hasymm xs x c h)

end

theorem older_eq_false_iff (a b : Nat × Nat) : older a b = false ↔ a.1 < b.1 ∨ a.1 = b.1 ∧ b.2 ≤ a.2 := by
  simp only [older, Bool.or_eq_false_iff, Bool.and_eq_false_imp, beq_iff_eq, decide_eq_false_iff_not]
  omega

theorem older_trans (a b c : Nat × Nat) (h1 : older b a = false) (h2 : older c b = false) : older c a = false := by
  rw [older_eq_false_iff] at *
  omega

theorem older_asymm (a b : Nat × Nat) (h : older a b = true) : older b a = false := by
  cases hab : older b a with
  | false => rfl
  | true =>
    have hno : ¬ older a b = false := by rw [h]; decide
    have hno' : ¬ older b a = false := by rw [hab]; decide
    rw [older_eq_false_iff] at hno hno'
    omega

/-- The next team in rotation is the first that has a candidate. -/
theorem nextTeam_spec (served : Nat) {cs : List Cand} (hne : cs ≠ []) : ∃ n i, i < 64 ∧ n = (served + 1 + i) % 64 ∧
    nextTeam served cs = some n ∧ (∃ c ∈ cs, c.e.team.val = n) ∧ ∀ j < i, ∀ c ∈ cs, c.e.team.val ≠ (served + 1 + j) % 64 := by
  have hmap : nextTeam served cs = ((List.range 64).find? fun i => cs.any fun c => c.e.team.val == (served + 1 + i) % 64).map
      fun i => (served + 1 + i) % 64 := by
    rw [nextTeam, List.find?_map]
    rfl
  cases hfind : (List.range 64).find? fun i => cs.any fun c => c.e.team.val == (served + 1 + i) % 64 with
  | none =>
    exfalso
    obtain ⟨c, hc⟩ := List.exists_mem_of_ne_nil cs hne
    have hlt := c.e.team.isLt
    rw [List.find?_range_eq_none] at hfind
    have hno := hfind ((c.e.team.val + 63 - served % 64) % 64) (by omega)
    rw [Bool.not_eq_true', List.any_eq_false] at hno
    refine hno c hc ?_
    rw [beq_iff_eq]
    omega
  | some i =>
    obtain ⟨hhas, hi, hbelow⟩ := List.find?_range_eq_some.mp hfind
    obtain ⟨c, hc, hcn⟩ := List.any_eq_true.mp hhas
    refine ⟨(served + 1 + i) % 64, i, List.mem_range.mp hi, rfl, by rw [hmap, hfind]; rfl, ⟨c, hc, by simpa using hcn⟩, fun j hj d hd => ?_⟩
    have hno := hbelow j hj
    rw [Bool.not_eq_true', List.any_eq_false] at hno
    simpa using hno d hd

/-- Settles O40: it holds. -/
theorem theSelectorServesTheOldestThenRotates : Obligations.TheSelectorServesTheOldestThenRotates := by
  refine ⟨?guard, ?rotate, ?none⟩
  case guard =>
    rintro pol core served cs ⟨d, hd, hage⟩
    have hne : (cs.filter fun c => decide (Config.guardAge ≤ c.key.1)) ≠ [] :=
      List.ne_nil_of_mem (List.mem_filter.mpr ⟨hd, by simpa using hage⟩)
    obtain ⟨c, hc, hbest⟩ := best_isSome (before := fun a b : Cand => older a.key b.key) hne
    obtain ⟨hcs, hcage⟩ := List.mem_filter.mp hc
    have hcold : Config.guardAge ≤ c.key.1 := by simpa using hcage
    refine ⟨c, hcs, ?_, fun x hx => ?_⟩
    · simp only [choose, hbest]
    · by_cases hxage : Config.guardAge ≤ x.key.1
      · exact best_least (fun a b c => older_trans a.key b.key c.key) (fun a b => older_asymm a.key b.key) hbest x
          (List.mem_filter.mpr ⟨hx, by simpa using hxage⟩)
      · rw [older_eq_false_iff]
        omega
  case rotate =>
    intro pol core served cs hyoung hne
    have hold : (cs.filter fun c => decide (Config.guardAge ≤ c.key.1)) = [] := by
      rw [List.filter_eq_nil_iff]
      intro c hc
      have := hyoung c hc
      simpa using this
    obtain ⟨n, i, hi, hn, hnext, ⟨b, hb, hbn⟩, hbefore⟩ := nextTeam_spec served hne
    have hteam : (cs.filter fun c => c.e.team.val == n) ≠ [] := List.ne_nil_of_mem (List.mem_filter.mpr ⟨hb, by simpa using hbn⟩)
    obtain ⟨c, hc, hbest⟩ := best_isSome (before := Cand.before (pol { core := core, slot := Fin.ofNat 64 n })) hteam
    obtain ⟨hcs, hcn⟩ := List.mem_filter.mp hc
    have hcteam : c.e.team.val = n := by simpa using hcn
    refine ⟨c, hcs, ?_, fun d hd => ?_⟩
    · simp only [choose, hold, best, List.foldl_nil, hnext]
      simp only [best] at hbest
      rw [hbest]
    · have hd64 := d.e.team.isLt
      have hno : ¬ (d.e.team.val + 63 - served % 64) % 64 < i := fun hlt =>
        hbefore _ hlt d hd (by omega)
      omega
  case none =>
    intro pol core served
    have hnext : nextTeam served [] = none := by simp only [nextTeam, List.any_nil, List.find?_eq_none, Bool.false_eq_true, not_false_eq_true, implies_true]
    simp [choose, best, hnext]

/-! ## Cycles, clauses and dispatch -/

/-- The threads of a core after one more cycle, but for those that enrol in it. -/
def State.ticked (s : State) (core : CoreId) : State :=
  { s with threads := s.threads.map fun (t : Thread) =>
      if t.id.team.core = core ∧ !((s.core core).due.map fun x => x.1).contains t.id then t.tick else t }

/-- With no enrolment due, the end of a cycle leaves nothing due and no exit noted. -/
theorem State.enrolAll_of_noneDue (s : State) (core : CoreId) (f : Core → Core) (hf : (f (s.core core)).due = []) :
    (s.onCore core f).enrolAll core = (s.onCore core f).onCore core fun c => { c with due := [], exits := [] } := by
  rw [State.enrolAll, State.core_onCore_same, hf]
  rfl

/-- Settles O39: it holds. -/
theorem cyclesClausesAndDispatch : Obligations.CyclesClausesAndDispatch := by
  refine ⟨?cycle, ?clause, ?busy, ?picked, ?dispatch⟩
  case cycle =>
    intro core s hdue
    refine ⟨_, rfl, ?_⟩
    have henrol := State.enrolAll_of_noneDue (State.ticked s core) core (Core.tick · (s.matrixHeld core)) hdue
    show ((((State.ticked s core).onCore core (Core.tick · (s.matrixHeld core))).enrolAll core).core core).lcyc = _ ∧
      ((((State.ticked s core).onCore core (Core.tick · (s.matrixHeld core))).enrolAll core).core core).busy = _ ∧
      ((((State.ticked s core).onCore core (Core.tick · (s.matrixHeld core))).enrolAll core).core core).picked = _ ∧
      (((State.ticked s core).onCore core (Core.tick · (s.matrixHeld core))).enrolAll core).threads = _
    rw [henrol, State.core_onCore_same, State.core_onCore_same]
    refine ⟨rfl, rfl, rfl, ?_⟩
    show (s.threads.map fun t => if t.id.team.core = core ∧ (!((s.core core).due.map fun x => x.1).contains t.id) = true then t.tick else t) = _
    rw [hdue]
    simp
  case clause =>
    intro pid p tm u w s hp hhold hcl htm hdef hw hcause hready
    have hstay : s.leaveDeferred p = s := by
      rw [State.leaveDeferred, List.filter_eq_nil_iff.mpr]
      · rfl
      · intro l hl
        cases hth : s.thread (tidOf p l) with
        | none => simp only [hth, Bool.false_eq_true, not_false_eq_true]
        | some th => simp [hth, hdef l hl th hth]
    have hid := State.pipe_id s hp
    show execClauseIssue pid s = _
    simp only [execClauseIssue, hp, hhold, hcl, hstay, htm, State.nextClause, hw, hcause, hready, hid, List.isEmpty_nil, Bool.not_true,
      Option.isSome_none, Bool.false_eq_true, if_false, if_true]
    rfl
  case busy =>
    intro core s hb
    show execSelectorDispatch core s = _
    simp only [execSelectorDispatch, hb, true_or, if_true, event]
  case picked =>
    intro core s hp
    show execSelectorDispatch core s = _
    simp only [execSelectorDispatch, hp, or_true, if_true, event]
  case dispatch =>
    intro core pid c guard s hbusy hpicked hold hfree hchoose
    have hnone : s.spilledThreads core = [] := best_eq_none hold
    have hguard : s.guardSpilled core = none := by
      rw [State.guardSpilled, hnone]
      rfl
    have hidle : ¬ (0 < (s.core core).busy ∨ (s.core core).picked = true) := by simp [hbusy, hpicked]
    show execSelectorDispatch core s = _
    unfold execSelectorDispatch
    simp only [if_neg hidle, hold, hguard, hfree, ite_self, Option.map_none, hchoose, Option.isSome_none, Bool.and_false, Bool.false_eq_true,
      if_false]
    rfl

end Sys2Proof.Machine
end

section
/-!
SUPPORT. The events of the copy engine and of the matrix unit (13_copy R208, R212, R216, 14_matrix R222 to R232).
-/
namespace Sys2Proof.Machine

section
variable {s : State} {id : Nat} {c : Cmd}

/-- A finished command whose credits have gone leaves, with its record where it has one. -/
theorem exec_engineCompletionRecord (hc : s.cmd id = some c) (hphase : c.phase = .finished) (hcred : ∀ x ∈ s.credits, x.cmd ≠ some id)
    (hsaved : s.slateSaved c.slate = false) : exec (.engineCompletionRecord id) s = .next { (match c.status with
      | some off => s.spadWrite c.team off (bytesOfNat 8 c.record.toNat)
      | none => s) with cmds := (match c.status with
      | some off => s.spadWrite c.team off (bytesOfNat 8 c.record.toNat)
      | none => s).cmds.filter fun x => !decide (x.id = id) } := by
  have hany : (s.credits.any fun x => x.cmd = some id) = false := by
    rw [List.any_eq_false]
    exact fun x hx => by simpa using hcred x hx
  show execEngineCompletionRecord id s = _
  simp only [execEngineCompletionRecord, hc, hphase, hany, hsaved, Bool.not_false, and_self, if_true]
  rfl

end

/-- Settles O41: it holds. -/
theorem engineEvents : Obligations.EngineEvents := by
  refine ⟨?credit, ?gone, ?record, ?enter, ?queued, ?start, ?read, ?write⟩
  case credit =>
    intro id c k off s hc hready hat
    have hsaved : s.slateSaved c.at' = false := by rw [hat]; rfl
    show execSlateCredit id s = _
    simp only [execSlateCredit, hc, hready, hsaved, hat, Bool.not_true, Bool.false_eq_true, or_self, if_false]
    rfl
  case gone =>
    intro id c s hc hphase hcred hsaved hstatus
    rw [exec_engineCompletionRecord hc hphase hcred hsaved, hstatus]
  case record =>
    intro id c off s hc hphase hcred hsaved hstatus
    rw [exec_engineCompletionRecord hc hphase hcred hsaved, hstatus]
    rfl
  case enter =>
    intro core c s hc hroom
    show execCommandEnter core s = _
    simp only [execCommandEnter, hc, if_pos hroom]
    rfl
  case queued =>
    intro s c hc
    simp [State.enterNow, hc]
  case start =>
    intro core c s hc
    show execCommandStart core s = _
    simp only [execCommandStart, hc]
    rfl
  case read =>
    intro id c dsp ssp d a n s hc hop
    show execEngineSourceRead id s = _
    simp only [execEngineSourceRead, hc, hop]
    rfl
  case write =>
    intro id c dsp ssp d a n s hc hop hphase
    show execEngineUnitWrite id [] s = _
    simp only [execEngineUnitWrite, hc, hop, hphase, ne_eq, not_true_eq_false, if_false]
    rfl

/-- Settles O42: it holds. -/
theorem matrixEvents : Obligations.MatrixEvents := by
  refine ⟨?feed, ?loop, ?mzero, ?afree, ?orel, fun core s h => if_pos h, fun core s h => if_neg (Nat.not_le.mpr h)⟩
  case feed =>
    intro id c rid ssp a d n tm r s hc hop htm hr hphase hfill hread hwaits
    have hgo : c.phase = .running ∧ r.fill < r.len ∧ (c.bad = true ∨ c.rd = c.units.length) ∧ (!s.feedWaits c rid) = true :=
      ⟨hphase, hfill, hread, by rw [hwaits]; rfl⟩
    show execMfeedLineEnter id s = _
    simp only [execMfeedLineEnter, hc, hop, htm, hr, if_pos hgo]
    rfl
  case loop =>
    intro id c steps g a b m n ak bk tm ra rb s hc hop htm hra hrb hphase
    show execMloopStep id s = _
    simp only [execMloopStep, hc, hop, htm, hra, hrb, hphase, if_true]
    rfl
  case mzero =>
    intro id c g n tm s hc hop htm hwaits
    show execMzeroEffect id s = _
    simp only [execMzeroEffect, hc, hop, htm, hwaits, Bool.false_eq_true, if_false]
    rfl
  case afree =>
    intro id c g n tm s hc hop htm hwaits hcopy
    have hid : c.id = id := by simpa using List.find?_some hc
    show execAfreeEffect id s = _
    simp only [execAfreeEffect, hc, State.afreeStep, State.afreeReady, hop, htm, hwaits, hcopy, hid, Bool.not_false, Bool.and_self, if_true]
    rfl
  case orel =>
    intro id c rid tm s hc hop htm hearlier
    show execOrelEffect id s = _
    simp only [execOrelEffect, hc, hop, htm, hearlier, List.any_nil, Bool.false_eq_true, if_false]
    rfl

end Sys2Proof.Machine
end

section
/-!
SUPPORT. One message at one router: what each event of the coherence trees does (08_coherence R153 to R166, 12_program_atomics R203).
-/
namespace Sys2Proof.Machine

/-- An event acts on its message when no earlier one of its line stands before it on its link. -/
theorem State.onMsg_first {s : State} {id : Nat} {m : Msg} (hm : s.msg id = some m) (hf : s.firstOn m = true) (f : Msg → State) :
    s.onMsg id f = (f m).kick := by
  simp only [State.onMsg, hm, hf, if_true]

section
variable {s : State} {id : Nat} {m : Msg} {e : TreeEntry}

theorem exec_catchableRead (hm : s.msg id = some m) (hf : s.firstOn m = true) (hk : m.kind = .catchable) :
    exec (.catchableRead id) s = .next (s.catchable m).kick := by
  show event (s.onMsg id _) = _
  rw [State.onMsg_first hm hf, if_pos hk]
  rfl

theorem exec_steeredRead (hm : s.msg id = some m) (hf : s.firstOn m = true) (hk : m.kind = .steered) :
    exec (.steeredRead id) s = .next (s.steered m).kick := by
  show event (s.onMsg id _) = _
  rw [State.onMsg_first hm hf, if_pos hk]
  rfl

theorem exec_directRead (hm : s.msg id = some m) (hf : s.firstOn m = true) (hk : m.kind = .direct) :
    exec (.directRead id) s = .next (s.direct m).kick := by
  show event (s.onMsg id _) = _
  rw [State.onMsg_first hm hf, if_pos hk]
  rfl

theorem exec_prune (hm : s.msg id = some m) (hf : s.firstOn m = true) (hk : m.kind = .prune) :
    exec (.prune id) s = .next (s.pruneStep m).kick := by
  show event (s.onMsg id _) = _
  rw [State.onMsg_first hm hf, if_pos hk]
  rfl

theorem exec_ownershipRequest (hm : s.msg id = some m) (hf : s.firstOn m = true) (hk : m.kind = .own) :
    exec (.ownershipRequest id) s = .next (s.ownership m).kick := by
  show event (s.onMsg id _) = _
  rw [State.onMsg_first hm hf, if_pos hk]
  rfl

theorem exec_grant {d : Line} (hm : s.msg id = some m) (hf : s.firstOn m = true) (hk : m.kind = .grant d) :
    exec (.grant id) s = .next (s.grantStep m d).kick := by
  show event (s.onMsg id _) = _
  rw [State.onMsg_first hm hf, hk]
  rfl

theorem exec_cut {discard own : Bool} (hm : s.msg id = some m) (hf : s.firstOn m = true) (hk : m.kind = .cut discard own) :
    exec (.cut id) s = .next (s.cutStep m discard own).kick := by
  show event (s.onMsg id _) = _
  rw [State.onMsg_first hm hf, hk]
  rfl

/-- A prune whose branch does not live again, at an entry that is no root of the line: the link goes, unless it is ROOT, and a stable entry is
tested. -/
theorem State.pruneStep_dead (hkill : (s.dropMsg m.id).treeAt m.at' m.line = some e) (hdead : (s.dropMsg m.id).branchLives m.at' m.line m.port = false)
    (hroot : e.root ≠ .self) {u : State}
    (hu : (if e.root = m.port then s.dropMsg m.id else (s.dropMsg m.id).onTree m.at' m.line fun e => e.clearLink m.port) = u) :
    s.pruneStep m = if e.st = true then u else u.pruneTest m.at' m.line := by
  simp only [State.pruneStep, hkill, hdead, Bool.false_eq_true, if_false, hu]

/-- A cut-pending entry at the message's router. -/
theorem State.cutPending_of_treeAt (h : s.treeAt m.at' m.line = some e) : s.cutPending m.at' m.line = e.st := by
  simp only [State.cutPending, h]

theorem State.cutPending_of_noTree (h : s.treeAt m.at' m.line = none) : s.cutPending m.at' m.line = false := by
  simp only [State.cutPending, h]

end

/-- What a home needs from its gate leaves the trees as they are. -/
theorem State.treeAt_want (s : State) (l k : LineId) (st : FolioState) (r : RouterId) : (s.want l st).treeAt r k = s.treeAt r k := by
  unfold State.want
  dsimp only
  split <;> rfl

/-- Settles O43: it holds. -/
theorem treeReads : Obligations.TreeReads := by
  refine ⟨?caught, ?held, ?passes, ?atHome, ?steeredHeld, ?served, ?steers, ?turns, ?direct, ?directHeld, ?directHome⟩
  case caught =>
    intro id m e s hm hf hk he hst
    rw [exec_catchableRead hm hf hk]
    simp only [State.catchable, he, hst, Bool.false_eq_true, if_false]
  case held =>
    intro id m e s hm hf hk he hst
    rw [exec_catchableRead hm hf hk]
    simp only [State.catchable, he, hst, if_true]
  case passes =>
    intro id m p s hm hf hk he hp
    rw [exec_catchableRead hm hf hk]
    simp only [State.catchable, he, hp]
  case atHome =>
    intro id m s hm hf hk he hp
    rw [exec_catchableRead hm hf hk]
    simp only [State.catchable, he, hp]
  case steeredHeld =>
    intro id m e s hm hf hk he hst
    rw [exec_steeredRead hm hf hk]
    simp only [State.steered, he, hst, if_true]
  case served =>
    intro id m e x s hm hf hk he hst hx hbusy
    rw [exec_steeredRead hm hf hk]
    simp only [State.steered, he, hst, hx, hbusy, Option.isSome_none, Bool.false_eq_true, if_false]
  case steers =>
    intro id m e p s hm hf hk he hst hx hp
    rw [exec_steeredRead hm hf hk]
    simp only [State.steered, he, hst, hx, hp, Bool.false_eq_true, if_false]
  case turns =>
    intro id m s hm hf hk he
    rw [exec_steeredRead hm hf hk]
    simp only [State.steered, he]
  case direct =>
    intro id m p s hm hf hk hp hcut
    rw [exec_directRead hm hf hk]
    simp only [State.direct, hp, hcut, Bool.false_eq_true, if_false]
  case directHeld =>
    intro id m p s hm hf hk hp hcut
    rw [exec_directRead hm hf hk]
    simp only [State.direct, hp, hcut, if_true]
  case directHome =>
    intro id m s hm hf hk hp he
    rw [exec_directRead hm hf hk]
    simp only [State.direct, hp, he]

/-- Settles O44: it holds. -/
theorem treeRepliesGrantsAndPrunes : Obligations.TreeRepliesGrantsAndPrunes := by
  refine ⟨?reply, ?splices, ?dead, ?waits, ?lives, ?pending, ?tested, ?root⟩
  case reply =>
    intro id m d flagged excl hops holder s hm hf hk
    show event (s.onMsg id _) = _
    rw [State.onMsg_first hm hf, hk]
    rfl
  case splices =>
    intro id m d u s hm hf hk hgot
    rw [exec_grant hm hf hk]
    simp only [State.grantStep, hgot]
  case dead =>
    intro id m d s hm hf hk hdead
    rw [exec_grant hm hf hk]
    simp only [State.grantStep, hdead]
  case waits =>
    intro id m d u s hm hf hk hwait
    rw [exec_grant hm hf hk]
    simp only [State.grantStep, hwait]
  case lives =>
    intro id m e s hm hf hk he hlive
    rw [exec_prune hm hf hk]
    simp only [State.pruneStep, he, hlive, if_true]
  case pending =>
    intro id m e s hm hf hk he hdead hst hself hport
    rw [exec_prune hm hf hk, State.pruneStep_dead he hdead hself (if_neg hport), if_pos hst]
  case tested =>
    intro id m e s hm hf hk he hdead hst hself hport
    rw [exec_prune hm hf hk, State.pruneStep_dead he hdead hself (if_neg hport), if_neg (by rw [hst]; exact Bool.false_ne_true)]
  case root =>
    intro id m e s hm hf hk he hdead hst hself hport
    rw [exec_prune hm hf hk, State.pruneStep_dead he hdead hself (if_pos hport), if_neg (by rw [hst]; exact Bool.false_ne_true)]

/-- Settles O45: it holds. -/
theorem treeOwnershipAndCuts : Obligations.TreeOwnershipAndCuts := by
  refine ⟨?passes, ?cutPending, ?busy, ?granted, ?waits, ?entry, ?noEntry, ?otherPort, ?cuts, ?kept, ?acknowledged⟩
  case passes =>
    intro id m p s hm hf hk hp hcut
    rw [exec_ownershipRequest hm hf hk]
    simp only [State.ownership, hp, hcut, Bool.false_eq_true, if_false]
  case cutPending =>
    intro id m s hm hf hk hcut
    rw [exec_ownershipRequest hm hf hk]
    cases hp : nextPort (homeOf m.line) m.at' with
    | none => simp only [State.ownership, hp, hcut, Bool.or_true, if_true]
    | some p => simp only [State.ownership, hp, hcut, if_true]
  case busy =>
    intro id m s hm hf hk hp hbusy
    rw [exec_ownershipRequest hm hf hk]
    simp only [State.ownership, hp, hbusy, Bool.true_or, if_true]
  case granted =>
    intro id m s hm hf hk hp hbusy he hmem hopen
    rw [exec_ownershipRequest hm hf hk]
    simp only [State.ownership, hp, hbusy, State.cutPending_of_noTree he, hmem, hopen, Bool.or_self, Bool.not_true, Bool.and_false,
      Bool.false_eq_true, if_false]
  case waits =>
    intro id m s hm hf hk hp hbusy he hmem hopen
    rw [exec_ownershipRequest hm hf hk]
    simp only [State.ownership, hp, hbusy, State.cutPending_of_noTree he, hmem, hopen, State.treeAt_want, he, Option.isNone_none, Bool.or_self,
      Bool.not_false, Bool.and_self, Bool.false_eq_true, if_false, if_true]
  case entry =>
    intro id m e s hm hf hk hp hbusy he hst hmem
    rw [exec_ownershipRequest hm hf hk]
    simp only [State.ownership, hp, hbusy, State.cutPending_of_treeAt he, hst, hmem, State.treeAt_want, he, Option.isNone_some, Bool.or_self,
      Bool.false_and, Bool.false_eq_true, if_false]
  case noEntry =>
    intro id m discard own s hm hf hk he
    rw [exec_cut hm hf hk]
    simp only [State.cutStep, he]
  case otherPort =>
    intro id m discard own e s hm hf hk he hport
    rw [exec_cut hm hf hk]
    simp only [State.cutStep, he, if_pos hport]
  case cuts =>
    intro id m discard e s hm hf hk he hst hport hfree
    have hnone : ((s.localsAt m.at' m.line).any fun x => x.busy.isSome) = false := by
      rw [List.any_eq_false]
      intro x hx
      rw [hfree x hx]
      exact Bool.false_ne_true
    rw [exec_cut hm hf hk]
    simp only [State.cutStep, he, hst, if_neg (not_not.mpr hport), hnone, Bool.false_eq_true, if_false]
  case kept =>
    intro id m discard own e x s hm hf hk he hport hx hbusy
    have hsome : ((s.localsAt m.at' m.line).any fun x => x.busy.isSome) = true :=
      List.any_eq_true.mpr ⟨x, hx, Option.isSome_iff_ne_none.mpr hbusy⟩
    rw [exec_cut hm hf hk]
    simp only [State.cutStep, he, if_neg (not_not.mpr hport), hsome, if_true]
  case acknowledged =>
    intro id m d s hm hf hk
    show event (s.onMsg id _) = _
    rw [State.onMsg_first hm hf, hk]
    rfl

/-- Settles O46: it holds. -/
theorem treeEvictionsAndDelays : Obligations.TreeEvictionsAndDelays := by
  refine ⟨?clean, ?dirty, ?acknowledged, ?resend, ?delayed, ?bounce, ?far⟩
  case clean =>
    intro c l x s hx hbusy hst hdam
    have hnc : x.st ≠ .nc := by rcases hst with h | h <;> rw [h] <;> decide
    have hmo : ¬ (x.st = .m ∨ x.st = .o) := by rcases hst with h | h <;> rw [h] <;> decide
    have hev : s.evict c l = (s.dropCopy c l).leaveTree c l := by
      simp only [State.evict, hx, hbusy, if_neg hnc, if_neg hmo, hdam, Option.isSome_none, Bool.false_eq_true, if_false]
    show event (s.evict c l).kick = _
    rw [hev]
    rfl
  case dirty =>
    intro c l x s hx hbusy hst hmsgs hdam
    have hnc : x.st ≠ .nc := by rcases hst with h | h <;> rw [h] <;> decide
    have hidle : s.writingBack c l = false := by rw [State.writingBack, hmsgs]; rfl
    show event (s.evict c l).kick = _
    simp only [State.evict, hx, hbusy, if_neg hnc, if_pos hst, hdam, hidle, Option.isSome_none, Bool.false_eq_true, if_false]
    rfl
  case acknowledged =>
    intro id m d x s hm hf hk hcaught hx hst
    have hstep : s.writebackStep m d = (((s.dropMsg m.id).homeData m.line (some { data := x.data, tag := x.tag })).dropCopy m.req
        m.line).leaveTree m.req m.line := by
      simp only [State.writebackStep, hcaught, hx, if_pos hst]
    show event (s.onMsg id _) = _
    rw [State.onMsg_first hm hf, hk]
    exact congrArg (fun u : State => Host.Outcome.next u.kick) hstep
  case resend =>
    intro id m s hm
    show execBackoffResend id s = _
    simp only [execBackoffResend, hm]
    rfl
  case delayed =>
    intro id m s hm
    show execOwnershipDelayExpiry id s = _
    simp only [execOwnershipDelayExpiry, hm]
    rfl
  case bounce =>
    intro die core line b v t s hb hv ht hinM hage
    show execBounceEntryClear die core line s = _
    simp only [execBounceEntryClear, hb, hv, ht, hinM, Option.getD_some, if_pos (And.intro trivial hage), true_and, if_pos hage]
    rfl
  case far =>
    intro id a l off s ha hplace hphase hfree hatom hmem hopen
    show execFarAtomic id s = _
    simp only [execFarAtomic, ha, hplace, hphase, hfree, hatom, hmem, hopen]
    rfl

end Sys2Proof.Machine
end

section
/-!
SUPPORT. Folios at the gates, hosts and pool ports (08_coherence R171 to R175, 21_outside R284 to R288).
-/
namespace Sys2Proof.Machine

/-- Noting the class of a line leaves host memory as it is. -/
theorem State.noteClass_host (s : State) (l : LineId) (cls : BitVec 2) : (s.noteClass l cls).host = s.host := by
  unfold State.noteClass
  split <;> split <;> rfl

/-- Settles O47: it holds. -/
theorem folioAndHostEvents : Obligations.FolioAndHostEvents := by
  refine ⟨?request, ?grant, ?cut, ?lineAck, fun line s => rfl, fun line s => rfl, ?clean, ?dirty, fun line s => rfl, ?served, ?dead, ?hostWrite,
    ?poolWrite, fun line off len s => rfl⟩
  case request =>
    intro n s hwant hdiff he hasked hcut hroom
    have hask : ¬ ((s.folio n).want = .i ∨ (s.folio n).want = (s.folio n).st ∨ (s.folio n).st = .e ∨ (s.folio n).asked ≠ .i ∨
        (s.folio n).cut.isSome = true) := by
      rw [hcut]
      simp [hwant, hdiff, he, hasked]
    have hfree : ¬ ((s.folio n).st = .i ∧ Config.gateEntries ≤ (s.gateHolds (s.gateOf n)).length) :=
      fun h => hroom.elim (fun h1 => h1 h.1) fun h2 => absurd h.2 (Nat.not_le.mpr h2)
    show execFolioRequest n s = _
    unfold execFolioRequest
    dsimp only
    rw [if_neg hask, if_neg hfree]
    rfl
  case grant =>
    intro n r s hr hcut
    show execFolioGrant n s = _
    simp only [execFolioGrant, hr, hcut]
    rfl
  case cut =>
    intro n toShared s hst hcut
    have hgo : ¬ ((s.folio n).st = .i ∨ (s.folio n).cut.isSome = true) := by simp [hst, hcut]
    show execFolioCut n toShared s = _
    unfold execFolioCut
    dsimp only
    rw [if_neg hgo]
    rfl
  case lineAck =>
    intro id j toShared k b s hcut hk hjobs hline hjcut hop
    have hfind : ∀ p : HomeJob → Bool, p j = true → s.jobs.find? p = some j := fun p hp => by
      rw [hjobs]
      exact List.find?_cons_of_pos hp
    show execFolioLineAck id s = _
    unfold execFolioLineAck
    dsimp only
    rw [hcut, hfind _ (by simp [hline, hjcut, hop])]
    dsimp only
    rw [if_neg (Nat.not_le.mpr hk)]
    rfl
  case clean =>
    intro s j hostOk hop hcut hno
    simp only [State.advanceJob, hop, hcut, hno, Bool.not_true, Bool.false_eq_true, if_false]
  case dirty =>
    intro s j hostOk x hop hcut hmem hx
    simp only [State.advanceJob, hop, hcut, hx, State.homeData, hmem, Bool.not_true, Bool.false_eq_true, if_false]
  case served =>
    intro id m s hm hbusy he hup
    show execCxlCacheResponse id s = _
    simp only [execCxlCacheResponse, hm, hbusy, he, hup, Option.isSome_none, Bool.or_self, Bool.not_true, Bool.false_eq_true, if_false]
    rfl
  case dead =>
    intro id m s hm hbusy he hup
    show execCxlCacheResponse id s = _
    simp only [execCxlCacheResponse, hm, hbusy, he, hup, Option.isSome_none, Bool.or_self, Bool.not_false, Bool.false_eq_true, if_false, if_true]
    rfl
  case hostWrite =>
    intro n off data s hlen
    show execInboundWrite { mem := .host, num := n } 0 off data s = _
    unfold execInboundWrite
    rw [if_neg (Nat.not_lt.mpr hlen)]
    dsimp only
    rw [State.noteClass_host]
    rfl
  case poolWrite =>
    intro n off data s hlen
    exact if_neg (Nat.not_lt.mpr hlen)

/-- Settles O48: it holds. -/
theorem poolPortEvents : Obligations.PoolPortEvents := by
  refine ⟨?four, ?two, ?one, ?none, ?retrained, ?reset, ?answered, ?line, ?write, ?stored, ?read, ?timeout, ?stf, ?flag⟩
  case four =>
    intro port s hw
    show execLaneFailure port s = _
    unfold execLaneFailure
    dsimp only
    rw [hw]
    rfl
  case two =>
    intro port s hw
    show execLaneFailure port s = _
    unfold execLaneFailure
    dsimp only
    rw [hw]
    rfl
  case one =>
    intro port s hw
    show execLaneFailure port s = _
    unfold execLaneFailure
    dsimp only
    rw [hw]
    rfl
  case none => exact fun port s hw => if_pos hw
  case retrained => exact fun port s hw => if_pos hw
  case reset => exact fun port s hw => if_pos hw
  case answered =>
    intro id r s hr hline hwrite hans
    show execPoolResponse id s = _
    simp only [execPoolResponse, hr, hans, if_true]
    cases hwhat : r.what with
    | line n => exact absurd hwhat (hline n)
    | write n new mask => exact absurd hwhat (hwrite n new mask)
    | folio _ | stf _ | flag _ | parcel _ => rfl
  case line =>
    intro id r n s hr hwhat hfirst
    show execPoolResponse id s = _
    simp only [execPoolResponse, hr, hwhat, hfirst, Bool.false_eq_true, if_false]
    rfl
  case write =>
    intro id r n new mask s hr hwhat hfirst
    show execPoolResponse id s = _
    simp only [execPoolResponse, hr, hwhat, hfirst, Bool.false_eq_true, if_false]
    rfl
  case stored =>
    intro s n new
    have hrepair : ∀ (t : State) (d : Damage), (t.repair d).pool = t.pool := fun _ _ => rfl
    simp only [State.storePool, eq_self, if_true, hrepair]
  case read =>
    intro s n hopen hnone hsound
    simp only [State.lineRead, hopen, hnone, hsound, Option.isNone_none, Bool.not_false, Bool.and_self, if_true]
  case timeout =>
    intro id r s hr
    show execPoolRequestTimeout id s = _
    simp only [execPoolRequestTimeout, hr]
    rfl
  case stf =>
    intro id a l off cls bs flag fo s ha hplace hop hpend hfree hmem
    show execStfDataAcknowledgement id s = _
    simp only [execStfDataAcknowledgement, ha, hplace, hop, hpend, hfree, hmem, decide_true, Bool.true_or, Bool.not_false, Bool.and_self,
      if_true]
    rfl
  case flag =>
    intro id a r bs flag fo s ha hr hop hcut hst hfirst
    show execFlagIncrement id s = _
    simp only [execFlagIncrement, ha, hr, hop, hcut, hst, hfirst, Option.isSome_none, Bool.or_self, Bool.false_eq_true, if_false, if_true]
    rfl

end Sys2Proof.Machine
end

section
/-!
SUPPORT. Peer windows, parcels on their way, jobs and contexts (01_package R10 to R14, 16_parcels R251 to R253, 18_scheduling R258 to R270,
21_outside R289 to R291).
-/
namespace Sys2Proof.Machine

theorem State.acc_id (s : State) {i : Nat} {a : Acc} (h : s.acc i = some a) : a.id = i := by
  simpa using List.find?_some h

/-- Settles O49: it holds. -/
theorem peerWindowEvents : Obligations.PeerWindowEvents := by
  refine ⟨?accepted, ?refused, ?lost, ?loadRefused, ?noAnswer, ?placed⟩
  case accepted =>
    intro id a e off t u s ha hphase hplace hacc hphys hcheck
    have hsome : (s.phys (importVdie e)).isNone = false := by simpa using hphys
    show execPeerWindowRequest id s = _
    simp only [execPeerWindowRequest, ha, hphase, hplace, hacc, hsome, hcheck, ne_eq, not_true_eq_false, Bool.false_eq_true, if_false]
    rfl
  case refused =>
    intro id a e off c u s ha hphase hplace hacc hphys hcheck hyet
    have hsome : (s.phys (importVdie e)).isNone = false := by simpa using hphys
    show execPeerWindowRequest id s = _
    simp only [execPeerWindowRequest, ha, hphase, hplace, hacc, hsome, hcheck, if_neg hyet, ne_eq, not_true_eq_false, Bool.false_eq_true, if_false]
    rfl
  case lost =>
    intro id a e off s ha hphase hplace hacc hphys
    show execPeerWindowRequest id s = _
    simp only [execPeerWindowRequest, ha, hphase, hplace, hacc, hphys, ne_eq, not_true_eq_false, Option.isNone_none, if_false, if_true]
    rfl
  case loadRefused =>
    intro id a e off c x size s ha hphase hplace hfirst hop hpred
    have hid := State.acc_id s ha
    have hnever : ¬ ((none : Option (BitVec 3)).isSome = true ∧ c = 0x04) := fun h => Bool.false_ne_true h.1
    show execPeerWindowResponse id x s = _
    simp only [execPeerWindowResponse, ha, hplace, hphase, hfirst, State.refuseAcc, hop, hpred, if_neg hnever, hid, Bool.not_true,
      Bool.false_eq_true, if_false]
    rfl
  case noAnswer =>
    intro id a e off x s ha hphase hplace hfirst
    show execPeerWindowResponse id x s = _
    simp only [execPeerWindowResponse, ha, hplace, hphase, hfirst, Bool.not_true, Bool.false_eq_true, if_false]
    rfl
  case placed =>
    intro id a e off pa cls x size d k s ha hphase hplace hfirst hop _
    have hid := State.acc_id s ha
    show execPeerWindowResponse id x s = _
    simp only [execPeerWindowResponse, ha, hplace, hphase, hfirst, State.placeAcc, hop, hid, Bool.not_true, Bool.false_eq_true, if_false]
    rfl

/-- Settles O50: it holds. -/
theorem parcelEvents : Obligations.ParcelEvents := by
  refine ⟨?claim, ?fits, ?none, ?arrival, ?packet, ?acknowledged, ?again, ?ports, ?timeout⟩
  case claim =>
    intro id c h sr w die b s hc hpost hphase hbad hway hphys
    have hgo : ¬ (c.phase ≠ .running ∨ c.bad = true) := by simp [hphase, hbad]
    have hsome : (s.phys die).isNone = false := by simpa using hphys
    show execParcelClaim id b none s = _
    simp only [execParcelClaim, hc, hpost, if_neg hgo, hway, hsome, Bool.false_eq_true, if_false]
    rfl
  case fits =>
    intro c die sr k s hk
    simp only [State.claimSlot, hk]
  case none =>
    intro c die sr s hnone
    simp only [State.claimSlot, hnone]
  case arrival =>
    intro id c a b w s hc hop hphase hbad herr hway
    show execParcelArrival id s = _
    simp only [execParcelArrival, hc, hop, hphase, hbad, herr, hway]
    rfl
  case packet =>
    intro id c a b w n packet s hc hop hn hlt hplaced hphase hbad hopen hread
    have hfresh : n.placed.contains packet = false := by simpa using hplaced
    have hpost : (CmdOp.post a b w).posted.isSome = true := rfl
    have hgo : ¬ (n.packets ≤ packet ∨ n.placed.contains packet = true ∨ c.phase ≠ .running ∨ (!c.bad) = true ∨
        (!s.portOpen n packet (CmdOp.post a b w).posted.isSome) = true) := by
      rw [hfresh, hphase, hbad, hpost, hopen]
      simpa using hlt
    show execPacketArrival id packet [] s = _
    simp only [execPacketArrival, hc, hn, if_neg hgo, hop, if_pos hread]
    rfl
  case acknowledged =>
    intro id n packet s hnets hcmd hplaced hacked
    have hboth : (n.placed.contains packet && !n.acked.contains packet) = true := by simp [hplaced, hacked]
    show event (s.onNet id _) = _
    simp only [State.onNet, hnets, List.map_cons, List.map_nil, if_pos hcmd, if_pos hboth]
    rfl
  case again =>
    intro id n c a b w packet p s hnets hcmd hc hop hport hlt hacked hagain
    have hgo : packet < n.packets ∧ (!n.acked.contains packet) = true ∧ 0 < Config.retransmits := by
      refine ⟨hlt, by simpa using hacked, by decide⟩
    have hposted : ((s.cmd id).bind fun c => c.op.posted) = some (bitsOf a.toNat 52 12, b, w) := by
      rw [hc, Option.bind_some, hop]
      rfl
    show execPacketRetransmit id packet s = _
    simp only [execPacketRetransmit, State.onNet, hnets, hposted, List.map_cons, List.map_nil, if_pos hcmd, hagain, List.find?_nil, if_pos hgo,
      hport, Nat.zero_add, List.filter_nil]
    rfl
  case ports =>
    intro s w p
    rw [State.permitted, List.mem_filter, BitVec.getLsbD_and, Bool.and_eq_true]
    exact and_iff_right (List.mem_finRange p)
  case timeout =>
    intro id c a b w s hc hop hway hphase hnets
    show execNetworkTmoExpiry id s = _
    simp only [execNetworkTmoExpiry, hc, hop, hway, hphase, hnets, List.find?_nil]
    rfl

theorem oneByOne_iff (v : BitVec 512) : oneByOne v = true ↔ cardCw v = 1 ∧ cardCh v = 1 := by
  simp [oneByOne]

/-- The teams of a grid's clusters. -/
theorem mem_gridTeams (s : State) (k : Nat) (i : TeamId) :
    i ∈ (s.teams.filter fun t => ((s.clusters.filter fun c => c.grid = k).map fun c => c.id).contains t.cluster).map (fun t => t.id) ↔
      ∃ t ∈ s.teams, t.id = i ∧ ∃ c ∈ s.clusters, c.grid = k ∧ c.id = t.cluster := by
  simp only [List.mem_map, List.mem_filter, List.contains_eq_mem, decide_eq_true_eq]
  refine exists_congr fun t => ?_
  constructor
  · rintro ⟨⟨ht, c, ⟨hc, hk⟩, hid⟩, hi⟩
    exact ⟨ht, hi, c, hc, hk, hid⟩
  · rintro ⟨ht, hi, c, hc, hk, hid⟩
    exact ⟨⟨ht, c, ⟨hc, hk⟩, hid⟩, hi⟩

/-- Settles O51: it holds. -/
theorem jobEvents : Obligations.JobEvents := by
  refine ⟨?take, ?localGrid, ?localRefused, ?localWaits, ?pop, ?place, ?retire, ?record, ?notStuck, ?ended, ?saved, ?saveWaits, ?resumed⟩
  case take =>
    intro die u cs c s hlocal hnext hbest
    have hnone : ((List.finRange 64).any fun n => s.localWaits { die := die, num := n }) = false := by
      rw [List.any_eq_false]
      exact fun n _ => by rw [hlocal n]; exact Bool.false_ne_true
    show execCardTake die s = _
    simp only [execCardTake, hnone, hnext, hbest, Bool.false_eq_true, if_false]
    rfl
  case localGrid =>
    intro core q asid v rest u u' w s hcards hwait hcheck hw hh hrect
    have hone : oneByOne v = true := (oneByOne_iff v).mpr ⟨hw, hh⟩
    show execLocalCardTake core s = _
    simp only [execLocalCardTake, hcards, hwait, hcheck, hone, hrect, if_true]
    rfl
  case localRefused =>
    intro core q asid v rest u u' w s hcards hwait hcheck hbad hslate
    have hnone : (if oneByOne v = true then w else none) = none := by
      split
      · next hone =>
        obtain ⟨hw, hh⟩ := (oneByOne_iff v).mp hone
        exact hbad.elim id fun h => h.elim (fun h1 => absurd hw h1) fun h2 => absurd hh h2
      · rfl
    show execLocalCardTake core s = _
    simp only [execLocalCardTake, hcards, hwait, hcheck, hnone, State.refuseCard, if_pos hslate]
    rfl
  case localWaits =>
    intro core q asid v rest u s hcards hwait
    show execLocalCardTake core s = _
    simp only [execLocalCardTake, hcards, hwait]
    rfl
  case pop =>
    intro s core
    rw [State.popCard, State.core_onCore_same]
    exact ⟨rfl, rfl⟩
  case place =>
    intro die g x y u s hnext hready
    show execClusterPlacement die s = _
    simp only [execClusterPlacement, hnext, hready]
    rfl
  case retire =>
    intro k c s hc hmay
    show execClusterRetire k s = _
    simp only [execClusterRetire, hc, hmay, Bool.not_true, Bool.false_eq_true, if_false]
    rfl
  case record => exact fun die q s hen hrun => if_pos ⟨hen, hrun⟩
  case notStuck =>
    intro k g s hg _ _ hstuck
    have hstop : g.ended = true ∨ g.complete = true ∨ (!s.gridStuck k) = true := .inr (.inr (by rw [hstuck]; rfl))
    show execEndGrid k s = _
    simp only [execEndGrid, hg, if_pos hstop]
    rfl
  case ended =>
    intro k g s hg hended hcomplete hstuck hcontexts
    have hpart : ([] : List Context).partition (fun x => s.contextBusy x) = ([], []) := rfl
    refine ⟨_, mem_gridTeams s k, ?_⟩
    show execEndGrid k s = _
    simp only [execEndGrid, hg, hended, hcomplete, hstuck, hcontexts, List.filter_nil, hpart, List.map_nil, List.append_nil,
      List.length_nil, Bool.not_true, Bool.false_eq_true, or_self, if_false, event]
  case saved =>
    intro k c u s hc hstop hgrid hrest hsave
    have hgo : ¬ ((!c.stopping) = true ∨ s.gridEnded c.grid = true ∨ (!s.atRest k) = true) := by simp [hstop, hgrid, hrest]
    have hexec : ∃ t, exec (.contextSave k) s = .next t ∧ t.contexts = (u.removeTeams k).contexts ++ [u.contextOf c] ∧
        t.teams = (u.removeTeams k).teams := by
      show ∃ t, execContextSave k s = .next t ∧ _
      simp only [execContextSave, hc, if_neg hgo, hsave, Bool.not_true, Bool.false_eq_true, if_false]
      exact ⟨_, rfl, rfl, rfl⟩
    obtain ⟨t, ht, hcontexts, hteams⟩ := hexec
    exact ⟨t, _, ht, rfl, hcontexts, hteams⟩
  case saveWaits =>
    intro k c u s hc hstop hgrid hrest hsave
    have hgo : ¬ ((!c.stopping) = true ∨ s.gridEnded c.grid = true ∨ (!s.atRest k) = true) := by simp [hstop, hgrid, hrest]
    show execContextSave k s = _
    simp only [execContextSave, hc, if_neg hgo, hsave, Bool.not_false, if_true]
    rfl
  case resumed =>
    intro k x o u s hx hrect hready
    show execContextResume k s = _
    simp only [execContextResume, hx, hrect, hready]
    rfl

end Sys2Proof.Machine
end

section
/-!
SUPPORT. The single rounding of 06_arithmetic R102 to R105: of an exact magnitude, into a format, and of sums, products, quotients and roots.
-/
namespace Sys2Proof.Machine

/-! ## Rounding to a multiple of a larger unit -/

/-- Whether a magnitude of `n` units and the part `r` of a further one (two halves), and more where `st`, is rounded to `n + 1` units. -/
def roundsUp (rnd : Rnd) (neg : Bool) (n r half : Nat) (st : Bool) : Bool :=
  match rnd with
  | .rn => decide (half < r) || (r == half && (st || n % 2 == 1))
  | .rz => false
  | .ru => (r != 0 || st) && !neg
  | .rd => (r != 0 || st) && neg

section
variable {rnd : Rnd} {neg st : Bool} {m n r half : Nat} {e q : Int}

theorem roundAt_below (h : e < q) : roundAt rnd neg m e st q =
    (if roundsUp rnd neg (m / 2 ^ (q - e).toNat) (m % 2 ^ (q - e).toNat) (2 ^ ((q - e).toNat - 1)) st then m / 2 ^ (q - e).toNat + 1
      else m / 2 ^ (q - e).toNat, m % 2 ^ (q - e).toNat != 0 || st) := by
  unfold roundAt
  rw [if_neg (Int.not_le.mpr h)]
  dsimp only
  rw [Nat.shiftRight_eq_div_pow]
  cases rnd <;> rfl

theorem roundAt_above (h : q ≤ e) : roundAt rnd neg m e st q = (m * 2 ^ (e - q).toNat, st) := by
  unfold roundAt
  rw [if_pos h, Nat.shiftLeft_eq]

theorem roundsUp_rn : roundsUp .rn neg n r half st = true ↔ half < r ∨ r = half ∧ (st = true ∨ n % 2 = 1) := by
  simp [roundsUp]

/-- The modes that round a magnitude down. -/
theorem roundsUp_down (h : rnd = .rz ∨ (rnd = .ru ∧ neg = true) ∨ (rnd = .rd ∧ neg = false)) : roundsUp rnd neg n r half st = false := by
  rcases h with rfl | ⟨rfl, rfl⟩ | ⟨rfl, rfl⟩ <;> simp [roundsUp]

/-- The modes that round a magnitude up. -/
theorem roundsUp_up (h : (rnd = .ru ∧ neg = false) ∨ (rnd = .rd ∧ neg = true)) : roundsUp rnd neg n r half st = true ↔ r ≠ 0 ∨ st = true := by
  rcases h with ⟨rfl, rfl⟩ | ⟨rfl, rfl⟩ <;> simp [roundsUp]

/-- What is exact is not rounded up. -/
theorem roundsUp_exact (hhalf : 0 < half) : roundsUp rnd neg n 0 half false = false := by
  cases rnd
  case rn =>
    rw [Bool.eq_false_iff, Ne, roundsUp_rn]
    omega
  all_goals simp [roundsUp]

end

/-- A unit is two halves of it. -/
theorem unit_eq_two_halves {d : Nat} (h : 0 < d) : 2 ^ d = 2 * 2 ^ (d - 1) := by
  rw [← Nat.pow_succ', Nat.succ_eq_add_one, Nat.sub_add_cancel h]

section
variable {rnd : Rnd} {neg st : Bool} {m : Nat} {e q : Int}

/-- The parts of a magnitude that is rounded: units, a part of a further one, and the unit's halves. -/
theorem roundAt_parts (h : e < q) : ∃ n r half P : Nat, P = 2 ^ (q - e).toNat ∧ m = n * P + r ∧ r < P ∧ P = 2 * half ∧ 0 < half ∧
    r = m % 2 ^ (q - e).toNat ∧
    roundAt rnd neg m e st q = (if roundsUp rnd neg n r half st then n + 1 else n, r != 0 || st) := by
  have hd : 0 < (q - e).toNat := by omega
  refine ⟨m / 2 ^ (q - e).toNat, m % 2 ^ (q - e).toNat, 2 ^ ((q - e).toNat - 1), _, rfl, ?_, Nat.mod_lt _ (by positivity), unit_eq_two_halves hd,
    by positivity, rfl, roundAt_below h⟩
  rw [Nat.mul_comm]
  exact (Nat.div_add_mod m _).symm

/-- Rounding goes to the neighbour below or above. -/
theorem roundAt_neighbour (h : e < q) : (roundAt rnd neg m e st q).1 = m / 2 ^ (q - e).toNat ∨
    (roundAt rnd neg m e st q).1 = m / 2 ^ (q - e).toNat + 1 := by
  rw [roundAt_below h]
  dsimp only
  split
  · exact .inr rfl
  · exact .inl rfl

/-- A magnitude below 2^c rounds to at most as many units as 2^c has. -/
theorem roundAt_le_pow {b c : Nat} (hm : m < 2 ^ c) (hc : (c : Int) + e ≤ b + q) : (roundAt rnd neg m e st q).1 ≤ 2 ^ b := by
  by_cases h : q ≤ e
  · rw [roundAt_above h]
    calc m * 2 ^ (e - q).toNat ≤ 2 ^ c * 2 ^ (e - q).toNat := Nat.mul_le_mul_right _ hm.le
      _ = 2 ^ (c + (e - q).toNat) := (Nat.pow_add 2 _ _).symm
      _ ≤ 2 ^ b := Nat.pow_le_pow_right (by omega) (by omega)
  · have hlt : m / 2 ^ (q - e).toNat < 2 ^ b := by
      rw [Nat.div_lt_iff_lt_mul (by positivity), ← Nat.pow_add]
      exact hm.trans_le (Nat.pow_le_pow_right (by omega) (by omega))
    rcases roundAt_neighbour (rnd := rnd) (neg := neg) (st := st) (m := m) (Int.not_le.mp h) with hk | hk <;> omega

/-- A magnitude of at least 2^c rounds to at least as many units as 2^c has. -/
theorem pow_le_roundAt {b c : Nat} (hm : 2 ^ c ≤ m) (hc : (b : Int) + q ≤ c + e) : 2 ^ b ≤ (roundAt rnd neg m e st q).1 := by
  by_cases h : q ≤ e
  · rw [roundAt_above h]
    calc 2 ^ b ≤ 2 ^ (c + (e - q).toNat) := Nat.pow_le_pow_right (by omega) (by omega)
      _ = 2 ^ c * 2 ^ (e - q).toNat := Nat.pow_add 2 _ _
      _ ≤ m * 2 ^ (e - q).toNat := Nat.mul_le_mul_right _ hm
  · have hle : 2 ^ b ≤ m / 2 ^ (q - e).toNat := by
      rw [Nat.le_div_iff_mul_le (by positivity), ← Nat.pow_add]
      exact (Nat.pow_le_pow_right (by omega) (by omega)).trans hm
    rcases roundAt_neighbour (rnd := rnd) (neg := neg) (st := st) (m := m) (Int.not_le.mp h) with hk | hk <;> omega

/-- Rounding to nearest, the even one at a tie. -/
theorem roundAt_nearest (h : e < q) :
    (2 * (((roundAt .rn neg m e false q).1 * 2 ^ (q - e).toNat : Nat) : Int) - 2 * m).natAbs ≤ 2 ^ (q - e).toNat ∧
    ((2 * (((roundAt .rn neg m e false q).1 * 2 ^ (q - e).toNat : Nat) : Int) - 2 * m).natAbs = 2 ^ (q - e).toNat →
      (roundAt .rn neg m e false q).1 % 2 = 0) := by
  obtain ⟨n, r, half, P, hP, hm, hr, hhalf, hpos, -, hround⟩ := roundAt_parts (rnd := .rn) (neg := neg) (st := false) (m := m) h
  rw [hround, ← hP]
  dsimp only
  cases hup : roundsUp .rn neg n r half false with
  | true =>
    rw [roundsUp_rn] at hup
    simp only [Bool.false_eq_true, false_or] at hup
    rw [if_pos rfl, Nat.succ_mul]
    constructor <;> omega
  | false =>
    rw [Bool.eq_false_iff, Ne, roundsUp_rn] at hup
    rw [if_neg Bool.false_ne_true]
    constructor <;> omega

theorem roundAt_down (h : e < q) (hdown : rnd = .rz ∨ (rnd = .ru ∧ neg = true) ∨ (rnd = .rd ∧ neg = false)) :
    (roundAt rnd neg m e false q).1 * 2 ^ (q - e).toNat ≤ m ∧ m < ((roundAt rnd neg m e false q).1 + 1) * 2 ^ (q - e).toNat := by
  obtain ⟨n, r, half, P, hP, hm, hr, -, -, -, hround⟩ := roundAt_parts (rnd := rnd) (neg := neg) (st := false) (m := m) h
  rw [hround, ← hP, roundsUp_down hdown]
  simp only [Bool.false_eq_true, if_false, Nat.succ_mul]
  omega

theorem roundAt_up (h : e < q) (hup : (rnd = .ru ∧ neg = false) ∨ (rnd = .rd ∧ neg = true)) :
    m ≤ (roundAt rnd neg m e false q).1 * 2 ^ (q - e).toNat ∧ (roundAt rnd neg m e false q).1 * 2 ^ (q - e).toNat < m + 2 ^ (q - e).toNat := by
  obtain ⟨n, r, half, P, hP, hm, hr, -, -, -, hround⟩ := roundAt_parts (rnd := rnd) (neg := neg) (st := false) (m := m) h
  rw [hround, ← hP]
  dsimp only
  split
  · next hyes =>
    rw [roundsUp_up hup] at hyes
    simp only [Bool.false_eq_true, or_false] at hyes
    rw [Nat.succ_mul]
    omega
  · next hno =>
    rw [roundsUp_up hup] at hno
    simp only [Bool.false_eq_true, or_false] at hno
    omega

theorem roundAt_inexact (h : e < q) : (roundAt rnd neg m e false q).2 = true ↔ m % 2 ^ (q - e).toNat ≠ 0 := by
  rw [roundAt_below h]
  simp

end

/-! ## Rounding of a value of which more bits follow -/

section
variable {rnd : Rnd} {neg st : Bool} {n r half P : Nat} {x : Rat}

/-- The units of a value: whole ones, a part of a further one in whole steps, and the rest below one step, which `st` says is there. -/
def Splits (n r half P : Nat) (st : Bool) (x : Rat) : Prop :=
  r < P ∧ P = 2 * half ∧ 0 < half ∧ ∃ y : Rat, x = n * P + r + y ∧ 0 ≤ y ∧ y < 1 ∧ (st = true ↔ y ≠ 0)

/-- The value rounded up or down. -/
theorem splits_rounded (b : Bool) : (((if b = true then n + 1 else n : Nat) : Rat)) * P = n * P + if b = true then (P : Rat) else 0 := by
  cases b <;> simp [add_mul]

theorem Splits.nearest (h : Splits n r half P st x) {k : Nat} (hk : k = if roundsUp .rn neg n r half st = true then n + 1 else n) :
    2 * |(k : Rat) * P - x| ≤ P ∧ (2 * |(k : Rat) * P - x| = P → k % 2 = 0) := by
  obtain ⟨hr, hP, hhalf, y, rfl, hy0, hy1, hst⟩ := h
  have hPq : (P : Rat) = 2 * half := by exact_mod_cast hP
  rw [hk, splits_rounded]
  cases hup : roundsUp .rn neg n r half st with
  | true =>
    have hrP : (r : Rat) + 1 ≤ P := by exact_mod_cast hr
    have habs : |(n : Rat) * P + (if true = true then (P : Rat) else 0) - (n * P + r + y)| = P - r - y := by
      rw [if_pos rfl, abs_of_nonneg (by linarith)]
      ring
    rw [habs]
    rcases roundsUp_rn.mp hup with hlt | ⟨rfl, hmore⟩
    · have hlt' : (half : Rat) + 1 ≤ r := by exact_mod_cast hlt
      exact ⟨by linarith, fun heq => by linarith⟩
    · refine ⟨by linarith, fun heq => ?_⟩
      have hzero : y = 0 := by linarith
      have hodd : n % 2 = 1 := hmore.resolve_left fun h => hst.mp h hzero
      simp only [if_true]
      omega
  | false =>
    have habs : |(n : Rat) * P + (if false = true then (P : Rat) else 0) - (n * P + r + y)| = r + y := by
      rw [if_neg Bool.false_ne_true, abs_of_nonpos (by linarith [Nat.cast_nonneg (α := Rat) r])]
      ring
    rw [habs]
    have hno : ¬ (half < r ∨ r = half ∧ (st = true ∨ n % 2 = 1)) := fun h => by
      rw [roundsUp_rn.mpr h] at hup
      cases hup
    rcases lt_trichotomy r half with hlt | heq | hgt
    · have hlt' : (r : Rat) + 1 ≤ half := by exact_mod_cast hlt
      exact ⟨by linarith, fun h => by linarith⟩
    · have hfalse : ¬ st = true := fun h => hno (.inr ⟨heq, .inl h⟩)
      have hzero : y = 0 := by
        by_contra hne
        exact hfalse (hst.mpr hne)
      have heq' : (r : Rat) = half := by exact_mod_cast heq
      refine ⟨by linarith, fun _ => ?_⟩
      have heven : ¬ n % 2 = 1 := fun h => hno (.inr ⟨heq, .inr h⟩)
      simp only [Bool.false_eq_true, if_false]
      omega
    · exact absurd (.inl hgt) hno

theorem Splits.down (h : Splits n r half P st x) (hdown : rnd = .rz ∨ (rnd = .ru ∧ neg = true) ∨ (rnd = .rd ∧ neg = false)) {k : Nat}
    (hk : k = if roundsUp rnd neg n r half st = true then n + 1 else n) : (k : Rat) * P ≤ x ∧ x < ((k : Rat) + 1) * P := by
  obtain ⟨hr, -, -, y, rfl, hy0, hy1, -⟩ := h
  have hrP : (r : Rat) + 1 ≤ P := by exact_mod_cast hr
  have hr0 : (0 : Rat) ≤ r := Nat.cast_nonneg r
  rw [hk, roundsUp_down hdown, if_neg Bool.false_ne_true, add_mul, one_mul]
  constructor <;> linarith

theorem Splits.up (h : Splits n r half P st x) (hup : (rnd = .ru ∧ neg = false) ∨ (rnd = .rd ∧ neg = true)) {k : Nat}
    (hk : k = if roundsUp rnd neg n r half st = true then n + 1 else n) : x ≤ (k : Rat) * P ∧ (k : Rat) * P < x + P := by
  obtain ⟨hr, -, -, y, rfl, hy0, hy1, hst⟩ := h
  have hrP : (r : Rat) + 1 ≤ P := by exact_mod_cast hr
  have hr0 : (0 : Rat) ≤ r := Nat.cast_nonneg r
  rw [hk, splits_rounded]
  split
  · next hyes =>
    have hpos : (0 : Rat) < r + y := by
      rcases (roundsUp_up hup).mp hyes with hne | hmore
      · have : (1 : Rat) ≤ r := by exact_mod_cast Nat.one_le_iff_ne_zero.mpr hne
        linarith
      · have := lt_of_le_of_ne hy0 (Ne.symm (hst.mp hmore))
        linarith
    constructor <;> linarith
  · next hno =>
    rw [roundsUp_up hup, not_or, not_not] at hno
    obtain ⟨rfl, hmore⟩ := hno
    have hzero : y = 0 := by
      by_contra hne
      exact hmore (hst.mpr hne)
    rw [hzero, Nat.cast_zero]
    constructor <;> linarith

theorem Splits.inexact (h : Splits n r half P st x) {k : Nat} (hk : k = if roundsUp rnd neg n r half st = true then n + 1 else n) :
    (r != 0 || st) = true ↔ x ≠ (k : Rat) * P := by
  obtain ⟨hr, -, hhalf, y, rfl, hy0, hy1, hst⟩ := h
  have hrP : (r : Rat) + 1 ≤ P := by exact_mod_cast hr
  have hr0 : (0 : Rat) ≤ r := Nat.cast_nonneg r
  rw [hk, splits_rounded, Bool.or_eq_true, bne_iff_ne]
  by_cases hex : r = 0 ∧ st = false
  · obtain ⟨rfl, rfl⟩ := hex
    have hzero : y = 0 := by
      by_contra hne
      exact Bool.false_ne_true (hst.mpr hne)
    rw [roundsUp_exact hhalf, hzero]
    simp
  · have hpos : (0 : Rat) < r + y := by
      by_cases hr1 : r = 0
      · have htrue : st = true := by
          cases hst' : st with
          | true => rfl
          | false => exact absurd ⟨hr1, hst'⟩ hex
        have := lt_of_le_of_ne hy0 (Ne.symm (hst.mp htrue))
        linarith
      · have : (1 : Rat) ≤ r := by exact_mod_cast Nat.one_le_iff_ne_zero.mpr hr1
        linarith
    constructor
    · intro _
      split
      · intro heq
        linarith
      · intro heq
        linarith
    · intro _
      by_cases hr1 : r = 0
      · refine .inr ?_
        cases hst' : st with
        | true => rfl
        | false => exact absurd ⟨hr1, hst'⟩ hex
      · exact .inl hr1

end

/-- A value between a magnitude and the next one splits as the magnitude does. -/
theorem splits_of_between {m : Nat} {e q : Int} {st : Bool} {x : Rat} (h : e < q) (hle : (m : Rat) ≤ x) (hlt : x < m + 1)
    (hst : st = true ↔ x ≠ m) : Splits (m / 2 ^ (q - e).toNat) (m % 2 ^ (q - e).toNat) (2 ^ ((q - e).toNat - 1)) (2 ^ (q - e).toNat) st x := by
  have hm : ((m / 2 ^ (q - e).toNat : Nat) : Rat) * ((2 ^ (q - e).toNat : Nat) : Rat) + ((m % 2 ^ (q - e).toNat : Nat) : Rat) = m := by
    exact_mod_cast Nat.div_add_mod' m (2 ^ (q - e).toNat)
  refine ⟨Nat.mod_lt _ (by positivity), unit_eq_two_halves (by omega), by positivity, x - m, ?_, by linarith, by linarith, ?_⟩
  · rw [hm]
    ring
  · rw [hst, Ne, Ne, sub_eq_zero]

end Sys2Proof.Machine
end

section
/-!
SUPPORT. Rounding into a format (06_arithmetic R97 to R103).
-/
namespace Sys2Proof.Machine

/-! ## Patterns -/

/-- Whether an exponent and a fraction field are those of a finite number. -/
def FFmt.finite (f : FFmt) (x m : Nat) : Prop := x < 2 ^ f.eb ∧ m < 2 ^ f.fb ∧ if f.e4 = true then ¬ (x = 15 ∧ m = 7) else x ≠ f.emax

section
variable {f : FFmt} {neg : Bool} {x m : Nat}

theorem FFmt.fraction_pattern (hm : m < 2 ^ f.fb) : bitsOf (f.signBit neg + (x * 2 ^ f.fb + m)) 0 f.fb = m := by
  have hdvd : f.signBit neg % 2 ^ f.fb = 0 := by
    unfold FFmt.signBit
    split
    · rw [Nat.pow_add, Nat.mul_mod_left]
    · exact Nat.zero_mod _
  rw [bitsOf, Nat.shiftRight_zero, Nat.add_mod, hdvd, Nat.zero_add, Nat.mod_mod, Nat.mul_comm, Nat.mul_add_mod, Nat.mod_eq_of_lt hm]

theorem FFmt.pattern_div (hm : m < 2 ^ f.fb) : (f.signBit neg + (x * 2 ^ f.fb + m)) / 2 ^ f.fb = (if neg then 2 ^ f.eb else 0) + x := by
  have hsign : f.signBit neg = (if neg then 2 ^ f.eb else 0) * 2 ^ f.fb := by
    unfold FFmt.signBit
    split
    · rw [Nat.pow_add]
    · rw [Nat.zero_mul]
  rw [hsign, ← Nat.add_assoc, ← Nat.add_mul, Nat.add_comm, Nat.add_mul_div_right _ _ (by positivity), Nat.div_eq_of_lt hm, Nat.zero_add]

theorem FFmt.exponent_pattern (hx : x < 2 ^ f.eb) (hm : m < 2 ^ f.fb) : bitsOf (f.signBit neg + (x * 2 ^ f.fb + m)) f.fb f.eb = x := by
  rw [bitsOf, Nat.shiftRight_eq_div_pow, FFmt.pattern_div hm]
  cases neg with
  | true => rw [if_pos rfl, Nat.add_mod_left, Nat.mod_eq_of_lt hx]
  | false => rw [if_neg Bool.false_ne_true, Nat.zero_add, Nat.mod_eq_of_lt hx]

theorem FFmt.sign_pattern (hx : x < 2 ^ f.eb) (hm : m < 2 ^ f.fb) :
    bitsOf (f.signBit neg + (x * 2 ^ f.fb + m)) (f.eb + f.fb) 1 = if neg then 1 else 0 := by
  rw [bitsOf, Nat.shiftRight_eq_div_pow, Nat.add_comm f.eb, Nat.pow_add, ← Nat.div_div_eq_div_mul, FFmt.pattern_div hm]
  cases neg with
  | true => rw [if_pos rfl, if_pos rfl, Nat.add_div_left _ (by positivity), Nat.div_eq_of_lt hx, Nat.zero_add,
      Nat.pow_one]
  | false => rw [if_neg Bool.false_ne_true, if_neg Bool.false_ne_true, Nat.zero_add, Nat.div_eq_of_lt hx, Nat.zero_mod]

/-- The value of a pattern with finite fields. -/
theorem FFmt.read_pattern (h : f.finite x m) : f.read (f.signBit neg + (x * 2 ^ f.fb + m)) =
    if x = 0 then .fin neg m f.unit else .fin neg (m + 2 ^ f.fb) (f.unit + ((x : Int) - 1)) := by
  obtain ⟨hx, hm, hfin⟩ := h
  have hneg : decide ((if neg = true then 1 else 0) = 1) = neg := by cases neg <;> rfl
  unfold FFmt.read
  dsimp only
  rw [FFmt.fraction_pattern hm, FFmt.exponent_pattern hx hm, FFmt.sign_pattern hx hm, hneg]
  cases he4 : f.e4 with
  | true =>
    rw [he4, if_pos rfl] at hfin
    rw [if_pos rfl, if_neg hfin]
  | false =>
    rw [he4, if_neg Bool.false_ne_true] at hfin
    rw [if_neg Bool.false_ne_true, if_neg hfin]

end

theorem two_zpow_add_nat (a : Int) (n : Nat) : (2 : Rat) ^ (a + n) = 2 ^ a * 2 ^ n := by
  rw [zpow_add₀ two_ne_zero, zpow_natCast]

/-- A number of units of 2^(unit + t) is the value of its pattern: without a carry into the exponent, with one, or below the normal numbers. -/
theorem FFmt.read_units {f : FFmt} {t k : Nat} (neg : Bool) (hk : t = 0 ∧ k < 2 ^ f.fb ∨ 2 ^ f.fb ≤ k ∧ k ≤ 2 ^ (f.fb + 1))
    (hfin : f.finite ((t * 2 ^ f.fb + k) / 2 ^ f.fb) ((t * 2 ^ f.fb + k) % 2 ^ f.fb)) :
    ∃ m' e', f.read (f.signBit neg + (t * 2 ^ f.fb + k)) = .fin neg m' e' ∧ (m' : Rat) * 2 ^ e' = k * 2 ^ (f.unit + t) := by
  have hread := FFmt.read_pattern (neg := neg) hfin
  rw [Nat.div_add_mod'] at hread
  have hpos : 0 < 2 ^ f.fb := by positivity
  rcases hk with ⟨rfl, hk⟩ | ⟨hlow, hhigh⟩
  · rw [Nat.zero_mul, Nat.zero_add, Nat.div_eq_of_lt hk, Nat.mod_eq_of_lt hk, if_pos rfl] at hread
    refine ⟨k, f.unit, by rw [Nat.zero_mul, Nat.zero_add]; exact hread, ?_⟩
    rw [Nat.cast_zero, add_zero]
  · rw [Nat.add_comm (t * 2 ^ f.fb) k, Nat.add_mul_div_right _ _ hpos, Nat.add_mul_mod_self_right] at hread
    rw [Nat.add_comm (t * 2 ^ f.fb) k]
    rcases Nat.lt_or_ge k (2 ^ (f.fb + 1)) with hlt | hge
    · have hdiv : k / 2 ^ f.fb = 1 := Nat.div_eq_of_lt_le (by omega) (by rw [Nat.pow_succ] at hlt; omega)
      have hmod : k % 2 ^ f.fb + 2 ^ f.fb = k := by
        have := Nat.div_add_mod' k (2 ^ f.fb)
        rw [hdiv] at this
        omega
      rw [hdiv, hmod, if_neg (by omega)] at hread
      refine ⟨k, _, hread, ?_⟩
      congr 2
      push_cast
      ring
    · have hkeq : k = 2 ^ (f.fb + 1) := le_antisymm hhigh hge
      have hdiv : k / 2 ^ f.fb = 2 := by rw [hkeq, Nat.pow_succ, Nat.mul_div_cancel_left _ hpos]
      have hmod : k % 2 ^ f.fb = 0 := by rw [hkeq, Nat.pow_succ, Nat.mul_mod_right]
      rw [hdiv, hmod, if_neg (by omega), Nat.zero_add] at hread
      refine ⟨2 ^ f.fb, _, hread, ?_⟩
      have hexp : f.unit + (((2 + t : Nat) : Int) - 1) = (f.unit + t) + (1 : Nat) := by
        push_cast
        ring
      rw [hexp, two_zpow_add_nat, hkeq]
      push_cast
      ring

/-! ## The largest finite number -/

/-- The exponent of the largest finite number. -/
def FFmt.topExp (f : FFmt) : Int := if f.e4 then (f.emax : Int) - f.bias else f.bias

/-- Its significand. -/
def FFmt.topMan (f : FFmt) : Nat := if f.e4 then 14 else 2 ^ (f.fb + 1) - 1

/-- The formats' facts that rounding needs. -/
structure FFmt.Standard (f : FFmt) : Prop where
  man_low : 2 ^ f.fb ≤ f.topMan
  man_high : f.topMan < 2 ^ (f.fb + 1)
  exp : f.emin < f.topExp
  width : f.emax < 2 ^ f.eb
  fields : f.topExp - f.emin + 1 = if f.e4 then (f.emax : Int) else f.emax - 1
  e4 : f.e4 = true → f.fb = 3 ∧ f.topMan = 14 ∧ f.emax = 15
  top : f.read f.maxBits = .fin false f.topMan (f.topExp - f.fb)

theorem FFmt.standard_of_mem {f : FFmt} (h : f ∈ [fp64, fp32, bf16, fp16, e4m3, e5m2]) : f.Standard := by
  simp only [List.mem_cons, List.not_mem_nil, or_false] at h
  rcases h with rfl | rfl | rfl | rfl | rfl | rfl <;> constructor <;> decide

end Sys2Proof.Machine
end

section
/-!
SUPPORT. The single rounding into a format (06_arithmetic R102, R103).
-/
namespace Sys2Proof.Machine

/-! ## Significand and exponent of a rounded result -/

/-- The units of the leading bits' last place, rounded. -/
def FFmt.lead (f : FFmt) (rnd : Rnd) (neg : Bool) (m : Nat) (e : Int) (st : Bool) : Nat :=
  (roundAt rnd neg m e st (e + (Nat.log2 m : Int) - f.fb)).1

/-- The significand, after a carry out of it. -/
def FFmt.carried (f : FFmt) (n : Nat) : Nat := if 2 ^ (f.fb + 1) ≤ n then n / 2 else n

/-- The exponent, after a carry out of the significand. -/
def FFmt.carriedExp (f : FFmt) (top : Int) (n : Nat) : Int := if 2 ^ (f.fb + 1) ≤ n then top + 1 else top

/-- Whether a significand and an exponent lie beyond those of the largest finite number. -/
def FFmt.tooLarge (f : FFmt) (ex : Int) (man : Nat) : Prop := f.topExp < ex ∨ (ex = f.topExp ∧ f.topMan < man)

/-- The flags of a result that does not overflow. -/
def FFmt.roundFlags (f : FFmt) (ex : Int) (inexact : Bool) : Word :=
  if inexact then (if ex < f.emin then flUF ||| flNX else flNX) else 0

theorem FFmt.roundFlags_nx (f : FFmt) (ex : Int) (inexact : Bool) : f.roundFlags ex inexact &&& flNX ≠ 0 ↔ inexact = true := by
  unfold FFmt.roundFlags
  cases inexact with
  | false => simp
  | true =>
    rw [if_pos rfl]
    split <;> decide

section
variable {f : FFmt} {rnd : Rnd} {sat neg st : Bool} {m : Nat} {e q : Int}

theorem FFmt.round_overflow (h : f.tooLarge (f.carriedExp (e + (Nat.log2 m : Int)) (f.lead rnd neg m e st)) (f.carried (f.lead rnd neg m e st))) :
    f.round rnd sat neg m e st = f.overflow rnd sat neg := by
  unfold FFmt.round
  simp only [decide_eq_true_eq]
  exact if_pos h

theorem FFmt.round_finite (hq : q = max (e + (Nat.log2 m : Int) - f.fb) f.unit)
    (h : ¬ f.tooLarge (f.carriedExp (e + (Nat.log2 m : Int)) (f.lead rnd neg m e st)) (f.carried (f.lead rnd neg m e st))) :
    f.round rnd sat neg m e st = (f.signBit neg + ((q - f.unit).toNat * 2 ^ f.fb + (roundAt rnd neg m e st q).1),
      f.roundFlags (f.carriedExp (e + (Nat.log2 m : Int)) (f.lead rnd neg m e st)) (roundAt rnd neg m e st q).2) := by
  unfold FFmt.round
  simp only [decide_eq_true_eq]
  refine (if_neg h).trans ?_
  rw [← hq]
  unfold FFmt.roundFlags FFmt.carriedExp FFmt.lead
  congr

theorem FFmt.lead_bounds (hm : m ≠ 0) : 2 ^ f.fb ≤ f.lead rnd neg m e st ∧ f.lead rnd neg m e st ≤ 2 ^ (f.fb + 1) :=
  ⟨pow_le_roundAt (Nat.log2_self_le hm) (by omega), roundAt_le_pow Nat.lt_log2_self (by push_cast; omega)⟩

end

section
variable {f : FFmt} {n : Nat} {top : Int}

theorem FFmt.carried_bounds (hlow : 2 ^ f.fb ≤ n) (hhigh : n ≤ 2 ^ (f.fb + 1)) : 2 ^ f.fb ≤ f.carried n ∧ f.carried n < 2 ^ (f.fb + 1) := by
  have hpow : 2 ^ (f.fb + 1) = 2 * 2 ^ f.fb := Nat.pow_succ'
  have hpos : 0 < 2 ^ f.fb := by positivity
  unfold FFmt.carried
  split <;> omega

/-- A carry changes no value. -/
theorem FFmt.carried_value (hhigh : n ≤ 2 ^ (f.fb + 1)) : (n : Rat) * 2 ^ (top - f.fb) = f.carried n * 2 ^ (f.carriedExp top n - f.fb) := by
  unfold FFmt.carried FFmt.carriedExp
  split
  · next hge =>
    have hn : n = 2 ^ (f.fb + 1) := le_antisymm hhigh hge
    have hexp : top + 1 - (f.fb : Int) = (top - f.fb) + (1 : Nat) := by
      push_cast
      ring
    rw [hexp, two_zpow_add_nat, hn, Nat.pow_succ, Nat.mul_div_cancel _ (by decide)]
    push_cast
    ring
  · rfl

theorem FFmt.carriedExp_cases (f : FFmt) (top : Int) (n : Nat) : f.carriedExp top n = top ∨ f.carriedExp top n = top + 1 := by
  unfold FFmt.carriedExp
  split
  · exact .inr rfl
  · exact .inl rfl

end

/-- What lies beyond the largest finite number, by value. -/
theorem FFmt.Standard.tooLarge_iff {f : FFmt} (hf : f.Standard) {ex : Int} {man : Nat} (hlow : 2 ^ f.fb ≤ man) (hhigh : man < 2 ^ (f.fb + 1)) :
    f.tooLarge ex man ↔ (f.topMan : Rat) * 2 ^ (f.topExp - f.fb) < man * 2 ^ (ex - f.fb) := by
  have hpow : ((2 : Nat) ^ (f.fb + 1) : Rat) = 2 * ((2 : Nat) ^ f.fb : Rat) := by rw [pow_succ']; norm_num
  have hman1 : ((2 : Nat) ^ f.fb : Rat) ≤ man := by exact_mod_cast hlow
  have hman2 : (man : Rat) < (2 : Nat) ^ (f.fb + 1) := by exact_mod_cast hhigh
  have htop1 : ((2 : Nat) ^ f.fb : Rat) ≤ f.topMan := by exact_mod_cast hf.man_low
  have htop2 : (f.topMan : Rat) < (2 : Nat) ^ (f.fb + 1) := by exact_mod_cast hf.man_high
  have hdouble : ∀ a : Int, (2 : Rat) ^ (a + 1) = 2 * 2 ^ a := fun a => by
    rw [zpow_add₀ two_ne_zero, zpow_one, mul_comm]
  unfold FFmt.tooLarge
  rcases lt_trichotomy ex f.topExp with hlt | rfl | hgt
  · have hpos : (0 : Rat) < 2 ^ (ex - f.fb) := by positivity
    have hstep : 2 * (2 : Rat) ^ (ex - f.fb) ≤ 2 ^ (f.topExp - f.fb) := by
      rw [← hdouble]
      exact zpow_le_zpow_right₀ one_le_two (by omega)
    refine iff_of_false (by omega) (not_lt.mpr ?_)
    calc (man : Rat) * 2 ^ (ex - f.fb) ≤ (2 * (2 : Nat) ^ f.fb) * 2 ^ (ex - f.fb) := by gcongr; linarith
      _ = (2 : Nat) ^ f.fb * (2 * 2 ^ (ex - f.fb)) := by ring
      _ ≤ f.topMan * 2 ^ (f.topExp - f.fb) := by gcongr
  · have hpos : (0 : Rat) < 2 ^ (f.topExp - f.fb) := by positivity
    rw [mul_lt_mul_iff_left₀ hpos, Nat.cast_lt]
    omega
  · have hstep : 2 * (2 : Rat) ^ (f.topExp - f.fb) ≤ 2 ^ (ex - f.fb) := by
      rw [← hdouble]
      exact zpow_le_zpow_right₀ one_le_two (by omega)
    have hpos : (0 : Rat) < 2 ^ (f.topExp - f.fb) := by positivity
    refine iff_of_true (.inl hgt) ?_
    calc (f.topMan : Rat) * 2 ^ (f.topExp - f.fb) < (2 * (2 : Nat) ^ f.fb) * 2 ^ (f.topExp - f.fb) := by gcongr; linarith
      _ = (2 : Nat) ^ f.fb * (2 * 2 ^ (f.topExp - f.fb)) := by ring
      _ ≤ man * 2 ^ (ex - f.fb) := by gcongr

/-! ## The pattern of a rounded result -/

section
variable {f : FFmt} {t k : Nat}

/-- The fields of a normal pattern: its exponent, with a carry, and its significand without the leading bit. -/
theorem FFmt.normal_fields (hlow : 2 ^ f.fb ≤ k) (hhigh : k ≤ 2 ^ (f.fb + 1)) :
    (((t * 2 ^ f.fb + k) / 2 ^ f.fb : Nat) : Int) = f.carriedExp (t : Int) k + 1 ∧ (t * 2 ^ f.fb + k) % 2 ^ f.fb + 2 ^ f.fb = f.carried k := by
  have hpos : 0 < 2 ^ f.fb := by positivity
  have hpow : 2 ^ (f.fb + 1) = 2 * 2 ^ f.fb := Nat.pow_succ'
  rw [Nat.add_comm (t * 2 ^ f.fb) k, Nat.add_mul_div_right _ _ hpos, Nat.add_mul_mod_self_right]
  unfold FFmt.carriedExp FFmt.carried
  have hdm := Nat.div_add_mod' k (2 ^ f.fb)
  split
  · next hge =>
    have hk : k = 2 * 2 ^ f.fb := by omega
    rw [hk, Nat.mul_div_cancel _ hpos, Nat.mul_mod_left, Nat.mul_div_cancel_left _ (by decide), Nat.zero_add]
    exact ⟨by push_cast; ring, rfl⟩
  · next hlt =>
    have hdiv : k / 2 ^ f.fb = 1 := Nat.div_eq_of_lt_le (by omega) (by omega)
    rw [hdiv] at hdm ⊢
    exact ⟨by push_cast; ring, by omega⟩

/-- A normal pattern that is not too large is one of a finite number. -/
theorem FFmt.Standard.finite_normal (hf : f.Standard) (hlow : 2 ^ f.fb ≤ k) (hhigh : k ≤ 2 ^ (f.fb + 1))
    (h : ¬ f.tooLarge (f.carriedExp (t : Int) k + f.emin) (f.carried k)) :
    f.finite ((t * 2 ^ f.fb + k) / 2 ^ f.fb) ((t * 2 ^ f.fb + k) % 2 ^ f.fb) := by
  obtain ⟨hx, hm⟩ := FFmt.normal_fields (t := t) hlow hhigh
  have hwidth := hf.width
  have hfields := hf.fields
  rw [FFmt.tooLarge, not_or] at h
  obtain ⟨hexp, hman⟩ := h
  refine ⟨?_, Nat.mod_lt _ (by positivity), ?_⟩
  · split at hfields <;> omega
  · split
    · next he4 =>
      obtain ⟨hfb, htop, hemax⟩ := hf.e4 he4
      rw [if_pos he4, hemax] at hfields
      rintro ⟨h15, h7⟩
      rw [htop] at hman
      rw [h7, hfb] at hm
      exact hman ⟨by omega, by omega⟩
    · next hne4 =>
      rw [if_neg hne4] at hfields
      omega

/-- A pattern of at most the least normal number is one of a finite number. -/
theorem FFmt.Standard.finite_subnormal (hf : f.Standard) (hhigh : k ≤ 2 ^ f.fb) :
    f.finite ((0 * 2 ^ f.fb + k) / 2 ^ f.fb) ((0 * 2 ^ f.fb + k) % 2 ^ f.fb) := by
  have hone : (0 * 2 ^ f.fb + k) / 2 ^ f.fb ≤ 1 := by
    rw [Nat.zero_mul, Nat.zero_add]
    exact Nat.div_le_of_le_mul (by omega)
  have hwidth := hf.width
  have hfields := hf.fields
  have hexp := hf.exp
  refine ⟨?_, Nat.mod_lt _ (by positivity), ?_⟩
  · split at hfields <;> omega
  · split
    · omega
    · next hne4 =>
      rw [if_neg hne4] at hfields
      omega

end

section
variable {f : FFmt} {rnd : Rnd} {sat neg st : Bool} {m : Nat} {e q : Int}

/-- What holds of the units of a result: the pattern and whether they lie beyond the largest finite number. -/
theorem FFmt.Standard.units_spec (hf : f.Standard) (hm : m ≠ 0) (hq : q = max (e + (Nat.log2 m : Int) - f.fb) f.unit) :
    (f.tooLarge (f.carriedExp (e + (Nat.log2 m : Int)) (f.lead rnd neg m e st)) (f.carried (f.lead rnd neg m e st)) ↔
      (f.topMan : Rat) * 2 ^ (f.topExp - f.fb) < (roundAt rnd neg m e st q).1 * 2 ^ q) ∧
    (¬ f.tooLarge (f.carriedExp (e + (Nat.log2 m : Int)) (f.lead rnd neg m e st)) (f.carried (f.lead rnd neg m e st)) →
      ∃ m' e', f.read (f.signBit neg + ((q - f.unit).toNat * 2 ^ f.fb + (roundAt rnd neg m e st q).1)) = .fin neg m' e' ∧
        (m' : Rat) * 2 ^ e' = (roundAt rnd neg m e st q).1 * 2 ^ q) := by
  obtain ⟨hlow, hhigh⟩ := FFmt.lead_bounds (f := f) (rnd := rnd) (neg := neg) (st := st) (e := e) hm
  obtain ⟨hman1, hman2⟩ := FFmt.carried_bounds hlow hhigh
  have hunit : f.unit = f.emin - f.fb := rfl
  have hback : f.unit + ((q - f.unit).toNat : Int) = q := by omega
  by_cases hnormal : f.unit ≤ e + (Nat.log2 m : Int) - f.fb
  · have hqtop : q = e + (Nat.log2 m : Int) - f.fb := by omega
    have hlead : (roundAt rnd neg m e st q).1 = f.lead rnd neg m e st := by rw [hqtop]; rfl
    refine ⟨?_, fun hno => ?_⟩
    · rw [hf.tooLarge_iff hman1 hman2, hlead, hqtop, FFmt.carried_value hhigh]
    · rw [hlead]
      have hshift : f.carriedExp ((q - f.unit).toNat : Int) (f.lead rnd neg m e st) + f.emin =
          f.carriedExp (e + (Nat.log2 m : Int)) (f.lead rnd neg m e st) := by
        unfold FFmt.carriedExp
        split <;> omega
      obtain ⟨m', e', hread, hval⟩ := FFmt.read_units neg (.inr ⟨hlow, hhigh⟩) (hf.finite_normal (t := (q - f.unit).toNat) hlow hhigh (by rwa [hshift]))
      exact ⟨m', e', hread, by rw [hval, hback]⟩
  · have hqunit : q = f.unit := by omega
    have hsmall : (roundAt rnd neg m e st q).1 ≤ 2 ^ f.fb := roundAt_le_pow Nat.lt_log2_self (by push_cast; omega)
    have hexp := hf.exp
    refine ⟨iff_of_false ?_ (not_lt.mpr ?_), fun _ => ?_⟩
    · rw [FFmt.tooLarge]
      have := f.carriedExp_cases (e + (Nat.log2 m : Int)) (f.lead rnd neg m e st)
      omega
    · have hman : ((roundAt rnd neg m e st q).1 : Rat) ≤ f.topMan := by exact_mod_cast hsmall.trans hf.man_low
      have hpow : (2 : Rat) ^ q ≤ 2 ^ (f.topExp - f.fb) := zpow_le_zpow_right₀ one_le_two (by omega)
      gcongr
    · have hzero : (q - f.unit).toNat = 0 := by omega
      have hunits : (0 : Nat) = 0 ∧ (roundAt rnd neg m e st q).1 < 2 ^ f.fb ∨
          2 ^ f.fb ≤ (roundAt rnd neg m e st q).1 ∧ (roundAt rnd neg m e st q).1 ≤ 2 ^ (f.fb + 1) := by
        have hpow : 2 ^ (f.fb + 1) = 2 * 2 ^ f.fb := Nat.pow_succ'
        omega
      obtain ⟨m', e', hread, hval⟩ := FFmt.read_units neg hunits (hf.finite_subnormal hsmall)
      refine ⟨m', e', by rw [hzero]; exact hread, ?_⟩
      rw [hval, Nat.cast_zero, add_zero, hqunit]

end

/-! ## Exact sums -/

/-- The exponent of a sum is the least of its terms' and 0. -/
theorem foldl_min_le (ts : List (Bool × Nat × Int)) : ∀ a : Int, ts.foldl (fun m t => min m t.2.2) a ≤ a ∧
    ∀ t ∈ ts, ts.foldl (fun m t => min m t.2.2) a ≤ t.2.2 := by
  induction ts with
  | nil => exact fun a => ⟨le_refl a, fun _ h => absurd h List.not_mem_nil⟩
  | cons t ts ih =>
    intro a
    obtain ⟨h1, h2⟩ := ih (min a t.2.2)
    refine ⟨h1.trans (min_le_left _ _), fun u hu => ?_⟩
    rcases List.mem_cons.mp hu with rfl | hu
    · exact h1.trans (min_le_right _ _)
    · exact h2 u hu

/-- The value of a term. -/
def termValue (t : Bool × Nat × Int) : Rat := (if t.1 then -1 else 1) * (t.2.1 : Rat) * 2 ^ t.2.2

/-- One more term in units of 2^e. -/
def addTerm (e : Int) (a : Int) (t : Bool × Nat × Int) : Int :=
  if t.1 then a - ((t.2.1 <<< (t.2.2 - e).toNat : Nat) : Int) else a + ((t.2.1 <<< (t.2.2 - e).toNat : Nat) : Int)

theorem addTerm_value {e : Int} {t : Bool × Nat × Int} (h : e ≤ t.2.2) (a : Int) :
    ((addTerm e a t : Int) : Rat) * 2 ^ e = a * 2 ^ e + termValue t := by
  have hunits : (((t.2.1 <<< (t.2.2 - e).toNat : Nat) : Int) : Rat) * 2 ^ e = t.2.1 * 2 ^ t.2.2 := by
    have hexp : t.2.2 = e + ((t.2.2 - e).toNat : Int) := by omega
    rw [Nat.shiftLeft_eq]
    nth_rewrite 2 [hexp]
    rw [two_zpow_add_nat]
    push_cast
    ring
  unfold addTerm termValue
  split
  · rw [Int.cast_sub, sub_mul, hunits]
    ring
  · rw [Int.cast_add, add_mul, hunits]
    ring

theorem foldl_addTerm_value {e : Int} (ts : List (Bool × Nat × Int)) (h : ∀ t ∈ ts, e ≤ t.2.2) : ∀ a : Int,
    ((ts.foldl (addTerm e) a : Int) : Rat) * 2 ^ e = a * 2 ^ e + (ts.map termValue).sum := by
  induction ts with
  | nil => exact fun a => by simp
  | cons t ts ih =>
    intro a
    rw [List.foldl_cons, ih (fun u hu => h u (List.mem_cons_of_mem _ hu)), addTerm_value (h t List.mem_cons_self), List.map_cons,
      List.sum_cons, add_assoc]

/-- The exact sum is the sum of its terms. -/
theorem exactSum_value (ts : List (Bool × Nat × Int)) : ((exactSum ts).1 : Rat) * 2 ^ (exactSum ts).2 = (ts.map termValue).sum := by
  have h := foldl_addTerm_value ts (foldl_min_le ts 0).2 0
  rw [Int.cast_zero, zero_mul, zero_add] at h
  exact h

/-! ## Integer square roots -/

/-- The bits below `k` make the root of what lies below (r + 2^k)². -/
theorem isqrtGo_spec (k : Nat) : ∀ x r, r * r ≤ x → x < (r + 2 ^ k) * (r + 2 ^ k) →
    isqrtGo k x r * isqrtGo k x r ≤ x ∧ x < (isqrtGo k x r + 1) * (isqrtGo k x r + 1) := by
  induction k with
  | zero => exact fun x r h1 h2 => ⟨h1, h2⟩
  | succ k ih =>
    intro x r h1 h2
    have hhalves : r + 2 ^ (k + 1) = r + 2 ^ k + 2 ^ k := by rw [Nat.pow_succ]; omega
    rw [isqrtGo]
    split
    · next hle => exact ih x (r + 2 ^ k) hle (by rwa [hhalves] at h2)
    · next hgt => exact ih x r h1 (Nat.not_le.mp hgt)

theorem isqrt_spec (x : Nat) : isqrt x * isqrt x ≤ x ∧ x < (isqrt x + 1) * (isqrt x + 1) := by
  refine isqrtGo_spec _ x 0 (Nat.zero_le _) ?_
  rw [Nat.zero_add, ← Nat.pow_add]
  exact Nat.lt_log2_self.trans_le (Nat.pow_le_pow_right (by decide) (by omega))

end Sys2Proof.Machine
end

section
/-!
SUPPORT. Each operation as the single rounding of an exact value (06_arithmetic R102 to R107), and O7.
-/
namespace Sys2Proof.Machine

/-! ## A value between a magnitude and the next one, rounded -/

section
variable {rnd : Rnd} {neg st : Bool} {m : Nat} {e q : Int} {x : Rat}

/-- A value between a magnitude and the next one is rounded as one that follows the magnitude. -/
theorem roundAt_between (h : e < q) (hle : (m : Rat) ≤ x) (hlt : x < m + 1) (hst : st = true ↔ x ≠ m) {d k : Nat}
    (hd : d = (q - e).toNat) (hk : k = (roundAt rnd neg m e st q).1) :
    (rnd = .rn → 2 * |(k : Rat) * 2 ^ d - x| ≤ 2 ^ d ∧ (2 * |(k : Rat) * 2 ^ d - x| = 2 ^ d → k % 2 = 0)) ∧
    ((rnd = .rz ∨ (rnd = .ru ∧ neg = true) ∨ (rnd = .rd ∧ neg = false)) → (k : Rat) * 2 ^ d ≤ x ∧ x < ((k : Rat) + 1) * 2 ^ d) ∧
    (((rnd = .ru ∧ neg = false) ∨ (rnd = .rd ∧ neg = true)) → x ≤ (k : Rat) * 2 ^ d ∧ (k : Rat) * 2 ^ d < x + 2 ^ d) ∧
    ((roundAt rnd neg m e st q).2 = true ↔ x ≠ (k : Rat) * 2 ^ d) := by
  have hs := splits_of_between (st := st) h hle hlt hst
  have hround := roundAt_below (rnd := rnd) (neg := neg) (st := st) (m := m) h
  rw [hround] at hk ⊢
  rw [← hd] at hs hk ⊢
  have hunit : (2 : Rat) ^ d = ((2 ^ d : Nat) : Rat) := by push_cast; rfl
  rw [hunit]
  refine ⟨fun hrn => ?_, fun hdown => hs.down hdown hk, fun hup => hs.up hup hk, hs.inexact hk⟩
  rw [hrn] at hk
  exact hs.nearest hk

end

/-! ## Into a format -/

section
variable {f : FFmt} {rnd : Rnd} {sat neg st : Bool} {m M : Nat} {e q E : Int}

theorem FFmt.Standard.round_spec (hf : f.Standard) (hm : m ≠ 0) (hq : q = max (e + (Nat.log2 m : Int) - f.fb) f.unit)
    (hmax : f.read f.maxBits = .fin false M E) :
    (((roundAt rnd neg m e st q).1 : Rat) * 2 ^ q ≤ M * 2 ^ E →
      (∃ m' e', f.read (f.round rnd sat neg m e st).1 = .fin neg m' e' ∧
        (m' : Rat) * 2 ^ e' = (roundAt rnd neg m e st q).1 * 2 ^ q) ∧
      ((f.round rnd sat neg m e st).2 &&& flNX ≠ 0 ↔ (roundAt rnd neg m e st q).2 = true)) ∧
    ((M : Rat) * 2 ^ E < (roundAt rnd neg m e st q).1 * 2 ^ q → f.round rnd sat neg m e st = f.overflow rnd sat neg) := by
  rw [hf.top, FVal.fin.injEq] at hmax
  obtain ⟨-, rfl, rfl⟩ := hmax
  obtain ⟨hlarge, hread⟩ := hf.units_spec (rnd := rnd) (neg := neg) (st := st) hm hq
  refine ⟨fun hle => ?_, fun hlt => FFmt.round_overflow (hlarge.mpr hlt)⟩
  have hno := fun h => not_lt.mpr hle (hlarge.mp h)
  rw [FFmt.round_finite hq hno]
  exact ⟨hread hno, f.roundFlags_nx _ _⟩

end

/-! ## Sums and products -/

section
variable (f : FFmt) (rnd : Rnd) (n : Bool) (m : Nat) (e : Int) (n' : Bool) (m' : Nat) (e' : Int) (n'' : Bool) (m'' : Nat) (e'' : Int)

theorem FFmt.add_fin : f.add rnd (.fin n m e) (.fin n' m' e') = f.roundSum rnd [(n, m, e), (n', m', e')] := by
  simp [FFmt.add, FFmt.nanOf, FFmt.sum, finTerms, FVal.isNan]

theorem FFmt.fma_fin : f.fma rnd (.fin n m e) (.fin n' m' e') (.fin n'' m'' e'') =
    f.roundSum rnd [(n != n', m * m', e + e'), (n'', m'', e'')] := by
  simp [FFmt.fma, FFmt.nanOf, FFmt.sum, finTerms, exactMul, FVal.isNan]

variable {m m'}

theorem FFmt.roundZ_of_ne_zero (sat zneg neg st : Bool) (h : m ≠ 0) : f.roundZ rnd sat zneg neg m e st = f.round rnd sat neg m e st :=
  if_neg h

theorem FFmt.mul_fin (h : m ≠ 0) (h' : m' ≠ 0) : f.mul rnd (.fin n m e) (.fin n' m' e') = f.round rnd false (n != n') (m * m') (e + e') false := by
  rw [← f.roundZ_of_ne_zero rnd _ _ (n != n') _ _ (Nat.mul_ne_zero h h')]
  simp [FFmt.mul, FFmt.nanOf, FFmt.put, exactMul, FVal.isNan]

end

theorem FFmt.roundSum_eq (f : FFmt) (rnd : Rnd) {ts : List (Bool × Nat × Int)} {v e : Int} (h : exactSum ts = (v, e)) : f.roundSum rnd ts =
    if v = 0 then (f.zero ((ts.all fun t => t.1 && t.2.1 == 0) || rnd == .rd), 0)
    else f.round rnd false (decide (v < 0)) v.natAbs e false := by
  unfold FFmt.roundSum
  rw [h]
  dsimp only
  unfold FFmt.roundZ
  simp only [Int.natAbs_eq_zero]

/-! ## Quotients and roots -/

section
variable (f : FFmt) (rnd : Rnd) {m m' : Nat}

/-- The bits of a quotient that rounding looks at. -/
theorem FFmt.div_fin (n n' : Bool) (e e' : Int) (h : m ≠ 0) (h' : m' ≠ 0) : ∃ k r : Nat, r * m' ≤ m * 2 ^ k ∧ m * 2 ^ k < (r + 1) * m' ∧
    2 ^ (f.fb + 3) ≤ r ∧
    f.div rnd (.fin n m e) (.fin n' m' e') = f.round rnd false (n != n') r (e - e' - (k : Int)) (decide (r * m' ≠ m * 2 ^ k)) := by
  have hpos : 0 < m' := Nat.pos_of_ne_zero h'
  have hdm := Nat.div_add_mod' (m * 2 ^ (f.fb + 4 + Nat.log2 m')) m'
  have hmod := Nat.mod_lt (m * 2 ^ (f.fb + 4 + Nat.log2 m')) hpos
  refine ⟨f.fb + 4 + Nat.log2 m', m * 2 ^ (f.fb + 4 + Nat.log2 m') / m', by omega, by rw [Nat.succ_mul]; omega, ?_, ?_⟩
  · rw [Nat.le_div_iff_mul_le hpos]
    calc 2 ^ (f.fb + 3) * m' ≤ 2 ^ (f.fb + 3) * 2 ^ (Nat.log2 m' + 1) := Nat.mul_le_mul_left _ Nat.lt_log2_self.le
      _ = 1 * 2 ^ (f.fb + 4 + Nat.log2 m') := by rw [← Nat.pow_add, Nat.one_mul]; congr 1; omega
      _ ≤ m * 2 ^ (f.fb + 4 + Nat.log2 m') := Nat.mul_le_mul_right _ (Nat.one_le_iff_ne_zero.mpr h)
  · have hrest : (m * 2 ^ (f.fb + 4 + Nat.log2 m') % m' != 0) =
        decide (m * 2 ^ (f.fb + 4 + Nat.log2 m') / m' * m' ≠ m * 2 ^ (f.fb + 4 + Nat.log2 m')) := by
      rw [Bool.eq_iff_iff, bne_iff_ne, decide_eq_true_eq]
      omega
    rw [← hrest]
    simp [FFmt.div, FFmt.nanOf, FFmt.quot, FVal.isNan, h, h', Nat.shiftLeft_eq]

/-- The bits of a root that rounding looks at. -/
theorem FFmt.root_eq (e : Int) (h : m ≠ 0) : ∃ k r : Nat, (e - (k : Int)) % 2 = 0 ∧ r * r ≤ m * 2 ^ k ∧ m * 2 ^ k < (r + 1) * (r + 1) ∧
    2 ^ (f.fb + 3) ≤ r ∧ f.root rnd m e = f.round rnd false false r ((e - (k : Int)) / 2) (decide (r * r ≠ m * 2 ^ k)) := by
  obtain ⟨k, hk⟩ : ∃ k, k = if (e - ((2 * f.fb + 8 : Nat) : Int)) % 2 = 0 then 2 * f.fb + 8 else 2 * f.fb + 8 + 1 := ⟨_, rfl⟩
  obtain ⟨hlow, hhigh⟩ := isqrt_spec (m * 2 ^ k)
  have hbits : 2 * f.fb + 8 ≤ k := by
    rw [hk]
    split <;> omega
  refine ⟨k, isqrt (m * 2 ^ k), ?_, hlow, hhigh, ?_, ?_⟩
  · rw [hk]
    split <;> push_cast at * <;> omega
  · by_contra hlt
    have hle : isqrt (m * 2 ^ k) + 1 ≤ 2 ^ (f.fb + 3) := Nat.not_le.mp hlt
    have hsq : m * 2 ^ k < 2 ^ (2 * f.fb + 8) := calc
      m * 2 ^ k < 2 ^ (f.fb + 3) * 2 ^ (f.fb + 3) := hhigh.trans_le (Nat.mul_le_mul hle hle)
      _ = 2 ^ (f.fb + 3 + (f.fb + 3)) := (Nat.pow_add 2 _ _).symm
      _ ≤ 2 ^ (2 * f.fb + 8) := Nat.pow_le_pow_right (by decide) (by omega)
    have hge : 2 ^ (2 * f.fb + 8) ≤ m * 2 ^ k :=
      (Nat.pow_le_pow_right (by decide) hbits).trans (Nat.le_mul_of_pos_left _ (Nat.pos_of_ne_zero h))
    omega
  · have hrest : (isqrt (m * 2 ^ k) * isqrt (m * 2 ^ k) != m * 2 ^ k) = decide (isqrt (m * 2 ^ k) * isqrt (m * 2 ^ k) ≠ m * 2 ^ k) := by
      rw [Bool.eq_iff_iff, bne_iff_ne, decide_eq_true_eq]
    rw [← hrest]
    unfold FFmt.root
    dsimp only
    rw [Nat.shiftLeft_eq, ← hk]

theorem FFmt.sqrt_fin (e : Int) (h : m ≠ 0) : f.sqrt rnd (.fin false m e) = f.root rnd m e := by
  simp [FFmt.sqrt, FFmt.nanOf, FVal.isNan, h]

end

/-! ## Conversions -/

section
variable {df sf : Fmt} {l l' : FFmt} (rnd : Rnd) (sat : Bool) {x : Nat} {n : Bool} {m : Nat} {e : Int}

theorem convert_float_float (hdf : fmtLayout df = some l) (hsf : fmtLayout sf = some l') (hx : l'.read x = .fin n m e) (hm : m ≠ 0) :
    convert df sf rnd sat x = l.round rnd sat n m e false := by
  rw [← l.roundZ_of_ne_zero rnd e sat n n false hm]
  simp [convert, hdf, hsf, hx, convFF]

theorem convert_int_float (hdf : fmtLayout df = some l) (hsf : fmtLayout sf = none) {v : Int} (hv : v = intOf (fmtInt sf).1 (fmtInt sf).2 x)
    (h0 : v ≠ 0) : convert df sf rnd sat x = l.round rnd sat (decide (v < 0)) v.natAbs 0 false := by
  rw [← l.roundZ_of_ne_zero rnd 0 sat false (decide (v < 0)) false (Int.natAbs_ne_zero.mpr h0)]
  simp [convert, hdf, hsf, hv, convIF]

theorem convert_float_int (hdf : fmtLayout df = none) (hsf : fmtLayout sf = some l') (hx : l'.read x = .fin n m e) {v : Int}
    (hv : v = if n then -((roundAt rnd n m e false 0).1 : Int) else (roundAt rnd n m e false 0).1)
    (hlow : (intBounds (fmtInt df).1 (fmtInt df).2).1 ≤ v) (hhigh : v ≤ (intBounds (fmtInt df).1 (fmtInt df).2).2) :
    convert df sf rnd sat x = (wrapInt (fmtInt df).1 v, if (roundAt rnd n m e false 0).2 then flNX else 0) := by
  rw [hv] at hlow hhigh ⊢
  simp only [convert, hdf, hsf, hx, convFI]
  exact if_pos ⟨hlow, hhigh⟩

end

/-! ## Infinities and NaNs -/

section
variable (f : FFmt) (rnd : Rnd) (n s : Bool) (p : Nat)

theorem FFmt.add_opposite_infinities : f.add rnd (.inf false) (.inf true) = (f.qnan 3, flNV) := by
  simp [FFmt.add, FFmt.nanOf, FFmt.sum, FVal.isNan, FFmt.invalid]

theorem FFmt.add_nan_left (b : FVal) : f.add rnd (.nan n s p) b = (f.nanBits n p, if s || b.isSnan then flNV else 0) := by
  have hfind : [FVal.nan n s p, b].find? FVal.isNan = some (.nan n s p) := rfl
  have hany : [FVal.nan n s p, b].any FVal.isSnan = (s || b.isSnan) := by simp [FVal.isSnan]
  rw [FFmt.add, FFmt.nanOf, hfind, hany, Option.getD_some]

theorem FFmt.add_nan_right {a : FVal} (ha : a.isNan = false) : f.add rnd a (.nan n s p) = (f.nanBits n p, if s then flNV else 0) := by
  cases a with
  | nan _ _ _ => cases ha
  | inf _ => simp [FFmt.add, FFmt.nanOf, FVal.isNan, FVal.isSnan]
  | fin _ _ _ => simp [FFmt.add, FFmt.nanOf, FVal.isNan, FVal.isSnan]

end

/-- Settles O7: it holds. The units below a result's unit decide its rounding; they split a value as the magnitude before it does. -/
theorem floatingPointRounding : Obligations.FloatingPointRounding := by
  unfold Obligations.FloatingPointRounding
  refine ⟨?_, ?_, ?_, ?_, ?_, ?_, FFmt.add_fin, FFmt.fma_fin, exactSum_value, ?_, ?_, ?_, ?_, ?_, ?_, ?_, FFmt.add_opposite_infinities,
    FFmt.add_nan_left, ?_⟩
  case refine_1 => rintro neg m e q h _ rfl; exact roundAt_nearest h
  case refine_2 => rintro rnd neg m e q h hdown _ rfl; exact roundAt_down h hdown
  case refine_3 => rintro rnd neg m e q h hup _ rfl; exact roundAt_up h hup
  case refine_4 => exact fun rnd neg m e q h => roundAt_inexact h
  case refine_5 => exact fun rnd neg m e q st x h hle hlt hst d k hd hk => roundAt_between h hle hlt hst hd hk
  case refine_6 => exact fun f hf rnd sat neg m e st q M E hm hq hmax => (FFmt.standard_of_mem hf).round_spec hm hq hmax
  case refine_7 => exact fun f rnd ts v e h => f.roundSum_eq rnd h
  case refine_8 => exact fun f rnd n m e n' m' e' h h' => f.mul_fin rnd n e n' e' h h'
  case refine_9 => exact fun f rnd n m e n' m' e' h h' => f.div_fin rnd n n' e e' h h'
  case refine_10 =>
    intro f rnd m e h
    rw [f.sqrt_fin rnd e h]
    exact f.root_eq rnd e h
  case refine_11 => exact fun df sf l l' rnd sat x n m e hdf hsf hx hm => convert_float_float rnd sat hdf hsf hx hm
  case refine_12 => exact fun df sf l rnd sat x v hdf hsf hv h0 => convert_int_float rnd sat hdf hsf hv h0
  case refine_13 => exact fun df sf l' rnd sat x n m e v hdf hsf hx hv hlow hhigh => convert_float_int rnd sat hdf hsf hx hv hlow hhigh
  case refine_14 => exact fun f rnd a n s p ha => f.add_nan_right rnd n s p ha

end Sys2Proof.Machine
end
